-- ==== Sys2Proof/Word.lean ====
section
/-! DEFINITION. The word types of the Tuiser T9600 and the plain data that arguments of the part's own steps
carry: a network frame, the end of a die-to-die link, and what a hart of the control processor chiplet asks
of memory. -/

namespace Sys2Proof

/-- A scalar register, an address while it is computed, a control register (R13). -/
abbrev Word := BitVec 64

/-- The smallest unit memory is addressed in. -/
abbrev Byte := BitVec 8

/-- A 32-bit word (R4). -/
abbrev Word32 := BitVec 32

/-- A vector register: 16 lanes of 32 bits, lane i at bits [32i+31:32i] (R13). -/
abbrev VReg := BitVec 512

/-- A predicate register (R13). -/
abbrev PReg := BitVec 16

/-- One accumulator element (R13, R114). -/
abbrev AccElem := BitVec 96

/-- A scalar or vector register number. -/
abbrev Reg := BitVec 5

/-- A context id (R10): g*64 + c*4 + k. -/
abbrev Cid := BitVec 12

/-- A TSN frame as the ingress stages read it (R346): the port it arrives on, its addresses and VLAN, the
R-TAG sequence number if it has one, its payload, and the device time of its start of frame. -/
structure Frame where
  port    : BitVec 3
  dst     : BitVec 48
  src     : BitVec 48
  vid     : BitVec 12
  rtag    : Option (BitVec 16)
  payload : List Byte
  sof     : Nat
deriving DecidableEq, Repr

/-- One end of a die-to-die link (R397, R399): dies 0 to 3 are the compute dies, 4 is the I/O die. -/
structure LinkEnd where
  die : BitVec 3
  u   : BitVec 3
deriving DecidableEq, Repr

/-- What a hart of the control processor chiplet does to memory (R280). -/
inductive HartOp where
  | load | store
  | amoSwap | amoAdd | amoAnd | amoOr | amoXor | amoMin | amoMax | amoMinu | amoMaxu
  | lr | sc
  | fence
deriving DecidableEq, Repr

end Sys2Proof
end

