-- ==== Sys2Proof/Syntax.lean ====
section
/-! DEFINITION. The instruction set of the Tuiser T9600 as syntax: one constructor for each row of
spec/opcode_table.json. The first 293 rows are words of the Voant instruction set; their arguments are the
bit fields the table gives the row, under the table's names (R46 to R76); the groups a REP may govern stand first (R55), then those that
trap ILLEGAL on a kernel core. The last
135 rows are the part's own steps (spec/95_what_each_step_holds.md): they have no word; their arguments name
the unit, register, queue entry or outside input the step is about. -/

namespace Sys2Proof

/-- One step of the part: an instruction word a context issues, or one of the part's own steps. -/
inductive Instr where
  /-- ADD (R125): Writes a + b modulo 2^64 to sd. -/
  | add (d : BitVec 5) (a : BitVec 5) (b : BitVec 5)
  /-- SUB (R125): Writes a - b modulo 2^64 to sd. -/
  | sub (d : BitVec 5) (a : BitVec 5) (b : BitVec 5)
  /-- AND (R125): Writes the bitwise AND of a and b to sd. -/
  | and (d : BitVec 5) (a : BitVec 5) (b : BitVec 5)
  /-- OR (R125): Writes the bitwise OR of a and b to sd. -/
  | or (d : BitVec 5) (a : BitVec 5) (b : BitVec 5)
  /-- XOR (R125): Writes the bitwise XOR of a and b to sd. -/
  | xor (d : BitVec 5) (a : BitVec 5) (b : BitVec 5)
  /-- ANDN (R125): Writes a AND NOT b to sd. -/
  | andn (d : BitVec 5) (a : BitVec 5) (b : BitVec 5)
  /-- ORN (R125): Writes a OR NOT b to sd. -/
  | orn (d : BitVec 5) (a : BitVec 5) (b : BitVec 5)
  /-- XNOR (R125): Writes NOT (a XOR b) to sd. -/
  | xnor (d : BitVec 5) (a : BitVec 5) (b : BitVec 5)
  /-- SLL (R125): Shifts a left by b[5:0] into sd. -/
  | sll (d : BitVec 5) (a : BitVec 5) (b : BitVec 5)
  /-- SRL (R125): Shifts a right with zeros by b[5:0] into sd. -/
  | srl (d : BitVec 5) (a : BitVec 5) (b : BitVec 5)
  /-- SRA (R125): Shifts a right with sign copies by b[5:0] into sd. -/
  | sra (d : BitVec 5) (a : BitVec 5) (b : BitVec 5)
  /-- ROL (R125): Rotates a left by b[5:0] into sd. -/
  | rol (d : BitVec 5) (a : BitVec 5) (b : BitVec 5)
  /-- ROR (R125): Rotates a right by b[5:0] into sd. -/
  | ror (d : BitVec 5) (a : BitVec 5) (b : BitVec 5)
  /-- ADDW (R125): Writes the sign-extended 32-bit sum of a and b. -/
  | addw (d : BitVec 5) (a : BitVec 5) (b : BitVec 5)
  /-- SUBW (R125): Writes the sign-extended 32-bit difference of a and b. -/
  | subw (d : BitVec 5) (a : BitVec 5) (b : BitVec 5)
  /-- SLLW (R125): Shifts a[31:0] left by b[4:0] and sign-extends. -/
  | sllw (d : BitVec 5) (a : BitVec 5) (b : BitVec 5)
  /-- SRLW (R125): Shifts a[31:0] right with zeros and sign-extends from bit 31. -/
  | srlw (d : BitVec 5) (a : BitVec 5) (b : BitVec 5)
  /-- SRAW (R125): Shifts a[31:0] right arithmetically and sign-extends. -/
  | sraw (d : BitVec 5) (a : BitVec 5) (b : BitVec 5)
  /-- MIN (R125): Writes the signed minimum of a and b. -/
  | min (d : BitVec 5) (a : BitVec 5) (b : BitVec 5)
  /-- MAX (R125): Writes the signed maximum of a and b. -/
  | max (d : BitVec 5) (a : BitVec 5) (b : BitVec 5)
  /-- MINU (R125): Writes the unsigned minimum of a and b. -/
  | minu (d : BitVec 5) (a : BitVec 5) (b : BitVec 5)
  /-- MAXU (R125): Writes the unsigned maximum of a and b. -/
  | maxu (d : BitVec 5) (a : BitVec 5) (b : BitVec 5)
  /-- ADDSAT (R125): Writes the signed sum of a and b clamped to 64 bits. -/
  | addsat (d : BitVec 5) (a : BitVec 5) (b : BitVec 5)
  /-- SUBSAT (R125): Writes the signed difference of a and b clamped to 64 bits. -/
  | subsat (d : BitVec 5) (a : BitVec 5) (b : BitVec 5)
  /-- SEQ (R126): Writes 1 when a = b, else 0. -/
  | seq (d : BitVec 5) (a : BitVec 5) (b : BitVec 5)
  /-- SNE (R126): Writes 1 when a differs from b, else 0. -/
  | sne (d : BitVec 5) (a : BitVec 5) (b : BitVec 5)
  /-- SLT (R126): Writes 1 when SInt(a) < SInt(b). -/
  | slt (d : BitVec 5) (a : BitVec 5) (b : BitVec 5)
  /-- SLTU (R126): Writes 1 when UInt(a) < UInt(b). -/
  | sltu (d : BitVec 5) (a : BitVec 5) (b : BitVec 5)
  /-- SGE (R126): Writes 1 when SInt(a) >= SInt(b). -/
  | sge (d : BitVec 5) (a : BitVec 5) (b : BitVec 5)
  /-- SGEU (R126): Writes 1 when UInt(a) >= UInt(b). -/
  | sgeu (d : BitVec 5) (a : BitVec 5) (b : BitVec 5)
  /-- CMOVZ (R126): Writes a to sd when b = 0, else leaves sd. -/
  | cmovz (d : BitVec 5) (a : BitVec 5) (b : BitVec 5)
  /-- CMOVNZ (R126): Writes a to sd when b is not 0. -/
  | cmovnz (d : BitVec 5) (a : BitVec 5) (b : BitVec 5)
  /-- CLZ (R127): Writes the count of leading zero bits of a. -/
  | clz (d : BitVec 5) (a : BitVec 5)
  /-- CTZ (R127): Writes the count of trailing zero bits of a. -/
  | ctz (d : BitVec 5) (a : BitVec 5)
  /-- POPC (R127): Writes the count of one bits of a. -/
  | popc (d : BitVec 5) (a : BitVec 5)
  /-- BREV (R127): Reverses the 64 bits of a. -/
  | brev (d : BitVec 5) (a : BitVec 5)
  /-- BSWAP (R127): Reverses the eight bytes of a. -/
  | bswap (d : BitVec 5) (a : BitVec 5)
  /-- EXTR (R127): Extracts a zero-extended bit field of a described by b. -/
  | extr (d : BitVec 5) (a : BitVec 5) (b : BitVec 5)
  /-- EXTRS (R127): Extracts a sign-extended bit field of a described by b. -/
  | extrs (d : BitVec 5) (a : BitVec 5) (b : BitVec 5)
  /-- INSR (R127): Inserts the low bits of a into a field of sd described by b. -/
  | insr (d : BitVec 5) (a : BitVec 5) (b : BitVec 5)
  /-- MUL (R128): Writes the low 64 bits of the product. -/
  | mul (d : BitVec 5) (a : BitVec 5) (b : BitVec 5)
  /-- MULH (R128): Writes the high 64 bits of the signed product. -/
  | mulh (d : BitVec 5) (a : BitVec 5) (b : BitVec 5)
  /-- MULHU (R128): Writes the high 64 bits of the unsigned product. -/
  | mulhu (d : BitVec 5) (a : BitVec 5) (b : BitVec 5)
  /-- MULHM (R128): Writes the high 64 bits of SInt(a) times UInt(b). -/
  | mulhm (d : BitVec 5) (a : BitVec 5) (b : BitVec 5)
  /-- MULW (R128): Writes the sign-extended low 32 bits of the 32-bit product. -/
  | mulw (d : BitVec 5) (a : BitVec 5) (b : BitVec 5)
  /-- DIV (R128): Signed division truncating toward zero, with fixed corner results. -/
  | div (d : BitVec 5) (a : BitVec 5) (b : BitVec 5)
  /-- DIVU (R128): Unsigned division with fixed divide-by-zero result. -/
  | divu (d : BitVec 5) (a : BitVec 5) (b : BitVec 5)
  /-- REM (R128): Signed remainder taking the sign of the dividend. -/
  | rem (d : BitVec 5) (a : BitVec 5) (b : BitVec 5)
  /-- REMU (R128): Unsigned remainder. -/
  | remu (d : BitVec 5) (a : BitVec 5) (b : BitVec 5)
  /-- DIVW (R128): Signed 32-bit division, sign-extended. -/
  | divw (d : BitVec 5) (a : BitVec 5) (b : BitVec 5)
  /-- DIVUW (R128): Unsigned 32-bit division, sign-extended. -/
  | divuw (d : BitVec 5) (a : BitVec 5) (b : BitVec 5)
  /-- REMW (R128): Signed 32-bit remainder, sign-extended. -/
  | remw (d : BitVec 5) (a : BitVec 5) (b : BitVec 5)
  /-- REMUW (R128): Unsigned 32-bit remainder, sign-extended. -/
  | remuw (d : BitVec 5) (a : BitVec 5) (b : BitVec 5)
  /-- FADD (R132): Floating-point add rounded once. -/
  | fadd (d : BitVec 5) (a : BitVec 5) (b : BitVec 5) (r : BitVec 3) (p : BitVec 2)
  /-- FSUB (R132): Floating-point subtract rounded once. -/
  | fsub (d : BitVec 5) (a : BitVec 5) (b : BitVec 5) (r : BitVec 3) (p : BitVec 2)
  /-- FMUL (R132): Floating-point multiply rounded once. -/
  | fmul (d : BitVec 5) (a : BitVec 5) (b : BitVec 5) (r : BitVec 3) (p : BitVec 2)
  /-- FDIV (R132): Floating-point divide rounded once. -/
  | fdiv (d : BitVec 5) (a : BitVec 5) (b : BitVec 5) (r : BitVec 3) (p : BitVec 2)
  /-- FSQRT (R132): Floating-point square root rounded once. -/
  | fsqrt (d : BitVec 5) (a : BitVec 5) (r : BitVec 3) (p : BitVec 2)
  /-- FMIN (R133): Floating-point minimum with -0 below +0 and NaN rules. -/
  | fmin (d : BitVec 5) (a : BitVec 5) (b : BitVec 5) (p : BitVec 2)
  /-- FMAX (R133): Floating-point maximum with -0 below +0 and NaN rules. -/
  | fmax (d : BitVec 5) (a : BitVec 5) (b : BitVec 5) (p : BitVec 2)
  /-- FMAC (R132): Fused multiply-add a*b + sd with one rounding. -/
  | fmac (d : BitVec 5) (a : BitVec 5) (b : BitVec 5) (r : BitVec 3) (p : BitVec 2)
  /-- FNMAC (R132): Fused sd - a*b with one rounding. -/
  | fnmac (d : BitVec 5) (a : BitVec 5) (b : BitVec 5) (r : BitVec 3) (p : BitVec 2)
  /-- FCPYS (R133): Copies a with the sign of b. -/
  | fcpys (d : BitVec 5) (a : BitVec 5) (b : BitVec 5) (p : BitVec 2)
  /-- FCPYSN (R133): Copies a with the inverted sign of b. -/
  | fcpysn (d : BitVec 5) (a : BitVec 5) (b : BitVec 5) (p : BitVec 2)
  /-- FCPYSX (R133): Copies a with the XOR of both signs. -/
  | fcpysx (d : BitVec 5) (a : BitVec 5) (b : BitVec 5) (p : BitVec 2)
  /-- FEQ (R133): Writes 1 when a equals b as floating-point values. -/
  | feq (d : BitVec 5) (a : BitVec 5) (b : BitVec 5) (p : BitVec 2)
  /-- FLT (R133): Writes 1 when a < b as floating-point values. -/
  | flt (d : BitVec 5) (a : BitVec 5) (b : BitVec 5) (p : BitVec 2)
  /-- FLE (R133): Writes 1 when a <= b as floating-point values. -/
  | fle (d : BitVec 5) (a : BitVec 5) (b : BitVec 5) (p : BitVec 2)
  /-- FKIND (R133): Writes the class code 0 to 9 of a. -/
  | fkind (d : BitVec 5) (a : BitVec 5) (p : BitVec 2)
  /-- FCVTL (R134): Converts a to int64. -/
  | fcvtl (d : BitVec 5) (a : BitVec 5) (r : BitVec 3) (p : BitVec 2)
  /-- FCVTLU (R134): Converts a to uint64. -/
  | fcvtlu (d : BitVec 5) (a : BitVec 5) (r : BitVec 3) (p : BitVec 2)
  /-- FCVTFL (R134): Converts SInt(a) to floating point. -/
  | fcvtfl (d : BitVec 5) (a : BitVec 5) (r : BitVec 3) (p : BitVec 2)
  /-- FCVTFLU (R134): Converts UInt(a) to floating point. -/
  | fcvtflu (d : BitVec 5) (a : BitVec 5) (r : BitVec 3) (p : BitVec 2)
  /-- FCVTF (R134): Converts between floating-point precisions, source precision in the b field. -/
  | fcvtf (d : BitVec 5) (a : BitVec 5) (c : BitVec 5) (r : BitVec 3) (p : BitVec 2)
  /-- ADDI (R129): Writes a plus the sign-extended immediate. -/
  | addi (d : BitVec 5) (a : BitVec 5) (i : BitVec 16)
  /-- ANDI (R129): Writes a AND the sign-extended immediate. -/
  | andi (d : BitVec 5) (a : BitVec 5) (i : BitVec 16)
  /-- ORI (R129): Writes a OR the zero-extended immediate. -/
  | ori (d : BitVec 5) (a : BitVec 5) (i : BitVec 16)
  /-- XORI (R129): Writes a XOR the zero-extended immediate. -/
  | xori (d : BitVec 5) (a : BitVec 5) (i : BitVec 16)
  /-- SLLI (R129): Shifts a left by an immediate count. -/
  | slli (d : BitVec 5) (a : BitVec 5) (n : BitVec 6)
  /-- SRLI (R129): Shifts a right with zeros by an immediate count. -/
  | srli (d : BitVec 5) (a : BitVec 5) (n : BitVec 6)
  /-- SRAI (R129): Shifts a right arithmetically by an immediate count. -/
  | srai (d : BitVec 5) (a : BitVec 5) (n : BitVec 6)
  /-- RORI (R129): Rotates a right by an immediate count. -/
  | rori (d : BitVec 5) (a : BitVec 5) (n : BitVec 6)
  /-- SLLIW (R129): Shifts a[31:0] left by an immediate and sign-extends. -/
  | slliw (d : BitVec 5) (a : BitVec 5) (n : BitVec 5)
  /-- SRLIW (R129): Shifts a[31:0] right with zeros by an immediate and sign-extends. -/
  | srliw (d : BitVec 5) (a : BitVec 5) (n : BitVec 5)
  /-- SRAIW (R129): Shifts a[31:0] right arithmetically by an immediate and sign-extends. -/
  | sraiw (d : BitVec 5) (a : BitVec 5) (n : BitVec 5)
  /-- SLTI (R129): Writes 1 when SInt(a) is below the sign-extended immediate. -/
  | slti (d : BitVec 5) (a : BitVec 5) (i : BitVec 15)
  /-- SLTIU (R129): Writes 1 when UInt(a) is below the sign-extended immediate. -/
  | sltiu (d : BitVec 5) (a : BitVec 5) (i : BitVec 15)
  /-- LUI (R61): Writes the sign-extended imm21 shifted left by 16. -/
  | lui (d : BitVec 5) (i : BitVec 21)
  /-- ADDPC (R61): Writes PC plus imm21 shifted left by 16. -/
  | addpc (d : BitVec 5) (i : BitVec 21)
  /-- LB (R157): Loads a sign-extended byte. -/
  | lb (t : BitVec 5) (a : BitVec 5) (o : BitVec 13)
  /-- LH (R157): Loads a sign-extended halfword. -/
  | lh (t : BitVec 5) (a : BitVec 5) (o : BitVec 13)
  /-- LW (R157): Loads a sign-extended word. -/
  | lw (t : BitVec 5) (a : BitVec 5) (o : BitVec 13)
  /-- LD (R157): Loads a doubleword. -/
  | ld (t : BitVec 5) (a : BitVec 5) (o : BitVec 13)
  /-- LBU (R157): Loads a zero-extended byte. -/
  | lbu (t : BitVec 5) (a : BitVec 5) (o : BitVec 13)
  /-- LHU (R157): Loads a zero-extended halfword. -/
  | lhu (t : BitVec 5) (a : BitVec 5) (o : BitVec 13)
  /-- LWU (R157): Loads a zero-extended word. -/
  | lwu (t : BitVec 5) (a : BitVec 5) (o : BitVec 13)
  /-- LB.ACQ (R157): Acquire load of a byte at a scope. -/
  | lbAcq (t : BitVec 5) (a : BitVec 5) (s : BitVec 3)
  /-- LH.ACQ (R157): Acquire load of a halfword at a scope. -/
  | lhAcq (t : BitVec 5) (a : BitVec 5) (s : BitVec 3)
  /-- LW.ACQ (R157): Acquire load of a word at a scope. -/
  | lwAcq (t : BitVec 5) (a : BitVec 5) (s : BitVec 3)
  /-- LD.ACQ (R157): Acquire load of a doubleword at a scope. -/
  | ldAcq (t : BitVec 5) (a : BitVec 5) (s : BitVec 3)
  /-- PREF (R160): Prefetches a line by hint without faulting or waiting. -/
  | pref (h : BitVec 5) (a : BitVec 5)
  /-- SB (R157): Stores a byte. -/
  | sb (t : BitVec 5) (a : BitVec 5) (o : BitVec 13)
  /-- SH (R157): Stores a halfword. -/
  | sh (t : BitVec 5) (a : BitVec 5) (o : BitVec 13)
  /-- SW (R157): Stores a word. -/
  | sw (t : BitVec 5) (a : BitVec 5) (o : BitVec 13)
  /-- SD (R157): Stores a doubleword. -/
  | sd (t : BitVec 5) (a : BitVec 5) (o : BitVec 13)
  /-- SB.REL (R157): Release store of a byte at a scope. -/
  | sbRel (t : BitVec 5) (a : BitVec 5) (s : BitVec 3)
  /-- SH.REL (R157): Release store of a halfword at a scope. -/
  | shRel (t : BitVec 5) (a : BitVec 5) (s : BitVec 3)
  /-- SW.REL (R157): Release store of a word at a scope. -/
  | swRel (t : BitVec 5) (a : BitVec 5) (s : BitVec 3)
  /-- SD.REL (R157): Release store of a doubleword at a scope. -/
  | sdRel (t : BitVec 5) (a : BitVec 5) (s : BitVec 3)
  /-- VADD (R213): Vector integer add per active element. -/
  | vadd (d : BitVec 5) (a : BitVec 5) (b : BitVec 5) (p : BitVec 3) (e : BitVec 2) (z : BitVec 1)
  /-- VSUB (R213): Vector integer subtract. -/
  | vsub (d : BitVec 5) (a : BitVec 5) (b : BitVec 5) (p : BitVec 3) (e : BitVec 2) (z : BitVec 1)
  /-- VMUL (R213): Vector integer multiply, low bits. -/
  | vmul (d : BitVec 5) (a : BitVec 5) (b : BitVec 5) (p : BitVec 3) (e : BitVec 2) (z : BitVec 1)
  /-- VMULH (R213): Vector signed multiply, high bits. -/
  | vmulh (d : BitVec 5) (a : BitVec 5) (b : BitVec 5) (p : BitVec 3) (e : BitVec 2) (z : BitVec 1)
  /-- VMULHU (R213): Vector unsigned multiply, high bits. -/
  | vmulhu (d : BitVec 5) (a : BitVec 5) (b : BitVec 5) (p : BitVec 3) (e : BitVec 2) (z : BitVec 1)
  /-- VMIN (R213): Vector signed minimum. -/
  | vmin (d : BitVec 5) (a : BitVec 5) (b : BitVec 5) (p : BitVec 3) (e : BitVec 2) (z : BitVec 1)
  /-- VMAX (R213): Vector signed maximum. -/
  | vmax (d : BitVec 5) (a : BitVec 5) (b : BitVec 5) (p : BitVec 3) (e : BitVec 2) (z : BitVec 1)
  /-- VMINU (R213): Vector unsigned minimum. -/
  | vminu (d : BitVec 5) (a : BitVec 5) (b : BitVec 5) (p : BitVec 3) (e : BitVec 2) (z : BitVec 1)
  /-- VMAXU (R213): Vector unsigned maximum. -/
  | vmaxu (d : BitVec 5) (a : BitVec 5) (b : BitVec 5) (p : BitVec 3) (e : BitVec 2) (z : BitVec 1)
  /-- VAND (R213): Vector bitwise AND. -/
  | vand (d : BitVec 5) (a : BitVec 5) (b : BitVec 5) (p : BitVec 3) (e : BitVec 2) (z : BitVec 1)
  /-- VOR (R213): Vector bitwise OR. -/
  | vor (d : BitVec 5) (a : BitVec 5) (b : BitVec 5) (p : BitVec 3) (e : BitVec 2) (z : BitVec 1)
  /-- VXOR (R213): Vector bitwise XOR. -/
  | vxor (d : BitVec 5) (a : BitVec 5) (b : BitVec 5) (p : BitVec 3) (e : BitVec 2) (z : BitVec 1)
  /-- VSLL (R213): Vector shift left. -/
  | vsll (d : BitVec 5) (a : BitVec 5) (b : BitVec 5) (p : BitVec 3) (e : BitVec 2) (z : BitVec 1)
  /-- VSRL (R213): Vector logical shift right. -/
  | vsrl (d : BitVec 5) (a : BitVec 5) (b : BitVec 5) (p : BitVec 3) (e : BitVec 2) (z : BitVec 1)
  /-- VSRA (R213): Vector arithmetic shift right. -/
  | vsra (d : BitVec 5) (a : BitVec 5) (b : BitVec 5) (p : BitVec 3) (e : BitVec 2) (z : BitVec 1)
  /-- VADDS (R213): Vector signed saturating add. -/
  | vadds (d : BitVec 5) (a : BitVec 5) (b : BitVec 5) (p : BitVec 3) (e : BitVec 2) (z : BitVec 1)
  /-- VADDSU (R213): Vector unsigned saturating add. -/
  | vaddsu (d : BitVec 5) (a : BitVec 5) (b : BitVec 5) (p : BitVec 3) (e : BitVec 2) (z : BitVec 1)
  /-- VSUBS (R213): Vector signed saturating subtract. -/
  | vsubs (d : BitVec 5) (a : BitVec 5) (b : BitVec 5) (p : BitVec 3) (e : BitVec 2) (z : BitVec 1)
  /-- VSUBSU (R213): Vector unsigned saturating subtract. -/
  | vsubsu (d : BitVec 5) (a : BitVec 5) (b : BitVec 5) (p : BitVec 3) (e : BitVec 2) (z : BitVec 1)
  /-- VABS (R213): Vector integer absolute value. -/
  | vabs (d : BitVec 5) (a : BitVec 5) (p : BitVec 3) (e : BitVec 2) (z : BitVec 1)
  /-- VMAC (R213): Vector integer multiply-accumulate into vd. -/
  | vmac (d : BitVec 5) (a : BitVec 5) (b : BitVec 5) (p : BitVec 3) (e : BitVec 2) (z : BitVec 1)
  /-- VDOT4 (R213): Four-way signed byte dot product accumulated into 32-bit lanes. -/
  | vdot4 (d : BitVec 5) (a : BitVec 5) (b : BitVec 5) (p : BitVec 3) (z : BitVec 1)
  /-- VREDADD (R214): Pairwise-tree integer sum of active elements into element 0. -/
  | vredadd (d : BitVec 5) (a : BitVec 5) (p : BitVec 3) (e : BitVec 2)
  /-- VREDMIN (R214): Pairwise-tree signed minimum reduction. -/
  | vredmin (d : BitVec 5) (a : BitVec 5) (p : BitVec 3) (e : BitVec 2)
  /-- VREDMAX (R214): Pairwise-tree signed maximum reduction. -/
  | vredmax (d : BitVec 5) (a : BitVec 5) (p : BitVec 3) (e : BitVec 2)
  /-- VREDMINU (R214): Pairwise-tree unsigned minimum reduction. -/
  | vredminu (d : BitVec 5) (a : BitVec 5) (p : BitVec 3) (e : BitVec 2)
  /-- VREDMAXU (R214): Pairwise-tree unsigned maximum reduction. -/
  | vredmaxu (d : BitVec 5) (a : BitVec 5) (p : BitVec 3) (e : BitVec 2)
  /-- VBCAST (R213): Broadcasts a scalar register into every element. -/
  | vbcast (d : BitVec 5) (a : BitVec 5) (e : BitVec 2)
  /-- VFADD (R215): Vector floating-point add. -/
  | vfadd (d : BitVec 5) (a : BitVec 5) (b : BitVec 5) (p : BitVec 3) (e : BitVec 1) (z : BitVec 1) (f : BitVec 1)
  /-- VFSUB (R215): Vector floating-point subtract. -/
  | vfsub (d : BitVec 5) (a : BitVec 5) (b : BitVec 5) (p : BitVec 3) (e : BitVec 1) (z : BitVec 1) (f : BitVec 1)
  /-- VFMUL (R215): Vector floating-point multiply. -/
  | vfmul (d : BitVec 5) (a : BitVec 5) (b : BitVec 5) (p : BitVec 3) (e : BitVec 1) (z : BitVec 1) (f : BitVec 1)
  /-- VFMA (R215): Vector fused x*y + d. -/
  | vfma (d : BitVec 5) (a : BitVec 5) (b : BitVec 5) (p : BitVec 3) (e : BitVec 1) (z : BitVec 1) (f : BitVec 1)
  /-- VFMS (R215): Vector fused d - x*y. -/
  | vfms (d : BitVec 5) (a : BitVec 5) (b : BitVec 5) (p : BitVec 3) (e : BitVec 1) (z : BitVec 1) (f : BitVec 1)
  /-- VFMIN (R215): Vector floating-point minimum. -/
  | vfmin (d : BitVec 5) (a : BitVec 5) (b : BitVec 5) (p : BitVec 3) (e : BitVec 1) (z : BitVec 1) (f : BitVec 1)
  /-- VFMAX (R215): Vector floating-point maximum. -/
  | vfmax (d : BitVec 5) (a : BitVec 5) (b : BitVec 5) (p : BitVec 3) (e : BitVec 1) (z : BitVec 1) (f : BitVec 1)
  /-- VFABS (R215): Clears the sign bit of each element. -/
  | vfabs (d : BitVec 5) (a : BitVec 5) (p : BitVec 3) (e : BitVec 1) (z : BitVec 1) (f : BitVec 1)
  /-- VFNEG (R215): Inverts the sign bit of each element. -/
  | vfneg (d : BitVec 5) (a : BitVec 5) (p : BitVec 3) (e : BitVec 1) (z : BitVec 1) (f : BitVec 1)
  /-- VFREDADD (R214): Pairwise-tree floating-point sum of active elements. -/
  | vfredadd (d : BitVec 5) (a : BitVec 5) (p : BitVec 3) (e : BitVec 1) (f : BitVec 1)
  /-- VFREDMAX (R214): Pairwise-tree floating-point maximum reduction. -/
  | vfredmax (d : BitVec 5) (a : BitVec 5) (p : BitVec 3) (e : BitVec 1) (f : BitVec 1)
  /-- VFREDMIN (R214): Pairwise-tree floating-point minimum reduction. -/
  | vfredmin (d : BitVec 5) (a : BitVec 5) (p : BitVec 3) (e : BitVec 1) (f : BitVec 1)
  /-- VFDOT2 (R215): Two-way FP16 or BF16 dot product accumulated exactly into FP32. -/
  | vfdot2 (d : BitVec 5) (a : BitVec 5) (b : BitVec 5) (p : BitVec 3) (z : BitVec 1) (f : BitVec 1)
  /-- VCEQ (R216): Writes a predicate of integer equality. -/
  | vceq (d : BitVec 3) (a : BitVec 5) (b : BitVec 5) (p : BitVec 3) (e : BitVec 2) (z : BitVec 1)
  /-- VCNE (R216): Writes a predicate of integer inequality. -/
  | vcne (d : BitVec 3) (a : BitVec 5) (b : BitVec 5) (p : BitVec 3) (e : BitVec 2) (z : BitVec 1)
  /-- VCLT (R216): Writes a predicate of signed less-than. -/
  | vclt (d : BitVec 3) (a : BitVec 5) (b : BitVec 5) (p : BitVec 3) (e : BitVec 2) (z : BitVec 1)
  /-- VCLE (R216): Writes a predicate of signed less-or-equal. -/
  | vcle (d : BitVec 3) (a : BitVec 5) (b : BitVec 5) (p : BitVec 3) (e : BitVec 2) (z : BitVec 1)
  /-- VCLTU (R216): Writes a predicate of unsigned less-than. -/
  | vcltu (d : BitVec 3) (a : BitVec 5) (b : BitVec 5) (p : BitVec 3) (e : BitVec 2) (z : BitVec 1)
  /-- VCLEU (R216): Writes a predicate of unsigned less-or-equal. -/
  | vcleu (d : BitVec 3) (a : BitVec 5) (b : BitVec 5) (p : BitVec 3) (e : BitVec 2) (z : BitVec 1)
  /-- VFCEQ (R216): Writes a predicate of floating-point equality. -/
  | vfceq (d : BitVec 3) (a : BitVec 5) (b : BitVec 5) (p : BitVec 3) (e : BitVec 1) (z : BitVec 1)
  /-- VFCLT (R216): Writes a predicate of floating-point less-than. -/
  | vfclt (d : BitVec 3) (a : BitVec 5) (b : BitVec 5) (p : BitVec 3) (e : BitVec 1) (z : BitVec 1)
  /-- VFCLE (R216): Writes a predicate of floating-point less-or-equal. -/
  | vfcle (d : BitVec 3) (a : BitVec 5) (b : BitVec 5) (p : BitVec 3) (e : BitVec 1) (z : BitVec 1)
  /-- VFCUN (R216): Writes a predicate of unordered operands. -/
  | vfcun (d : BitVec 3) (a : BitVec 5) (b : BitVec 5) (p : BitVec 3) (e : BitVec 1) (z : BitVec 1)
  /-- VFCEQ.BF (R216): BF16 floating-point equality compare. -/
  | vfceqBf (d : BitVec 3) (a : BitVec 5) (b : BitVec 5) (p : BitVec 3) (z : BitVec 1)
  /-- VFCLT.BF (R216): BF16 floating-point less-than compare. -/
  | vfcltBf (d : BitVec 3) (a : BitVec 5) (b : BitVec 5) (p : BitVec 3) (z : BitVec 1)
  /-- VFCLE.BF (R216): BF16 floating-point less-or-equal compare. -/
  | vfcleBf (d : BitVec 3) (a : BitVec 5) (b : BitVec 5) (p : BitVec 3) (z : BitVec 1)
  /-- VFCUN.BF (R216): BF16 unordered compare. -/
  | vfcunBf (d : BitVec 3) (a : BitVec 5) (b : BitVec 5) (p : BitVec 3) (z : BitVec 1)
  /-- VPERM (R218): Permutes elements of va by indices in vb. -/
  | vperm (d : BitVec 5) (a : BitVec 5) (b : BitVec 5) (p : BitVec 3) (e : BitVec 2) (z : BitVec 1)
  /-- VSLDUP (R218): Slides elements up by a scalar count. -/
  | vsldup (d : BitVec 5) (a : BitVec 5) (b : BitVec 5) (p : BitVec 3) (e : BitVec 2) (z : BitVec 1)
  /-- VSLDDN (R218): Slides elements down by a scalar count. -/
  | vslddn (d : BitVec 5) (a : BitVec 5) (b : BitVec 5) (p : BitVec 3) (e : BitVec 2) (z : BitVec 1)
  /-- VZIPLO (R218): Interleaves the low halves of va and vb. -/
  | vziplo (d : BitVec 5) (a : BitVec 5) (b : BitVec 5) (p : BitVec 3) (e : BitVec 2) (z : BitVec 1)
  /-- VZIPHI (R218): Interleaves the high halves of va and vb. -/
  | vziphi (d : BitVec 5) (a : BitVec 5) (b : BitVec 5) (p : BitVec 3) (e : BitVec 2) (z : BitVec 1)
  /-- VUZPE (R218): Collects the even elements of va and vb. -/
  | vuzpe (d : BitVec 5) (a : BitVec 5) (b : BitVec 5) (p : BitVec 3) (e : BitVec 2) (z : BitVec 1)
  /-- VUZPO (R218): Collects the odd elements of va and vb. -/
  | vuzpo (d : BitVec 5) (a : BitVec 5) (b : BitVec 5) (p : BitVec 3) (e : BitVec 2) (z : BitVec 1)
  /-- VCOMPR (R218): Packs the predicate-selected elements to the low end. -/
  | vcompr (d : BitVec 5) (a : BitVec 5) (p : BitVec 3) (e : BitVec 2)
  /-- VEXPND (R218): Spreads low elements into the active positions. -/
  | vexpnd (d : BitVec 5) (a : BitVec 5) (p : BitVec 3) (e : BitVec 2) (z : BitVec 1)
  /-- VINS (R218): Inserts a scalar into one element. -/
  | vins (d : BitVec 5) (a : BitVec 5) (b : BitVec 5) (e : BitVec 2)
  /-- VEXT (R218): Extracts one element into a scalar register. -/
  | vext (d : BitVec 5) (a : BitVec 5) (k : BitVec 4) (e : BitVec 2)
  /-- VCVTFI (R219): Converts FP32 or FP16 elements to integers. -/
  | vcvtfi (d : BitVec 5) (a : BitVec 5) (p : BitVec 3) (e : BitVec 1) (z : BitVec 1)
  /-- VCVTIF (R219): Converts int32 or int16 elements to floating point. -/
  | vcvtif (d : BitVec 5) (a : BitVec 5) (p : BitVec 3) (e : BitVec 1) (z : BitVec 1)
  /-- VCVTWH (R219): Widens a half of FP16 elements to FP32. -/
  | vcvtwh (d : BitVec 5) (a : BitVec 5) (h : BitVec 1) (p : BitVec 3) (z : BitVec 1)
  /-- VCVTWB (R219): Widens a half of BF16 elements to FP32. -/
  | vcvtwb (d : BitVec 5) (a : BitVec 5) (h : BitVec 1) (p : BitVec 3) (z : BitVec 1)
  /-- VCVTNH (R219): Narrows FP32 lanes into a half of FP16 elements. -/
  | vcvtnh (d : BitVec 5) (a : BitVec 5) (h : BitVec 1) (p : BitVec 3) (z : BitVec 1)
  /-- VCVTNB (R219): Narrows FP32 lanes into a half of BF16 elements. -/
  | vcvtnb (d : BitVec 5) (a : BitVec 5) (h : BitVec 1) (p : BitVec 3) (z : BitVec 1)
  /-- VCVTW8E4 (R219): Widens a quarter of E4M3 bytes to FP32. -/
  | vcvtw8e4 (d : BitVec 5) (a : BitVec 5) (q : BitVec 2) (p : BitVec 3) (z : BitVec 1)
  /-- VCVTW8E5 (R219): Widens a quarter of E5M2 bytes to FP32. -/
  | vcvtw8e5 (d : BitVec 5) (a : BitVec 5) (q : BitVec 2) (p : BitVec 3) (z : BitVec 1)
  /-- VCVTN8E4 (R219): Narrows FP32 lanes into a quarter of E4M3 bytes. -/
  | vcvtn8e4 (d : BitVec 5) (a : BitVec 5) (q : BitVec 2) (p : BitVec 3) (z : BitVec 1)
  /-- VCVTN8E5 (R219): Narrows FP32 lanes into a quarter of E5M2 bytes. -/
  | vcvtn8e5 (d : BitVec 5) (a : BitVec 5) (q : BitVec 2) (p : BitVec 3) (z : BitVec 1)
  /-- VQBLK (R220): Quantises one 64-element group into VBF planes and a scale record. -/
  | vqblk (d : BitVec 5) (a : BitVec 5) (r : BitVec 5)
  /-- VQMX (R221): Quantises one 32-element block to an MX format. -/
  | vqmx (d : BitVec 5) (a : BitVec 5) (t : BitVec 2)
  /-- VLD (R222): Contiguous vector load. -/
  | vld (d : BitVec 5) (a : BitVec 5) (p : BitVec 3) (e : BitVec 2) (z : BitVec 1)
  /-- VST (R222): Contiguous vector store. -/
  | vst (d : BitVec 5) (a : BitVec 5) (p : BitVec 3) (e : BitVec 2)
  /-- VLDX (R222): Indexed vector gather load. -/
  | vldx (d : BitVec 5) (a : BitVec 5) (b : BitVec 5) (p : BitVec 3) (e : BitVec 2) (z : BitVec 1)
  /-- VSTX (R222): Indexed vector scatter store. -/
  | vstx (d : BitVec 5) (a : BitVec 5) (b : BitVec 5) (p : BitVec 3) (e : BitVec 2)
  /-- VLDB (R222): Loads one element and broadcasts it. -/
  | vldb (d : BitVec 5) (a : BitVec 5) (p : BitVec 3) (e : BitVec 2) (z : BitVec 1)
  /-- VLDS (R222): Strided chunked vector load. -/
  | vlds (d : BitVec 5) (a : BitVec 5) (b : BitVec 5) (p : BitVec 3) (e : BitVec 2) (z : BitVec 1)
  /-- VSTS (R222): Strided chunked vector store. -/
  | vsts (d : BitVec 5) (a : BitVec 5) (b : BitVec 5) (p : BitVec 3) (e : BitVec 2)
  /-- VRCP (R228): SFU reciprocal, correctly rounded. -/
  | vrcp (d : BitVec 5) (a : BitVec 5) (p : BitVec 3) (z : BitVec 1)
  /-- VRSQRT (R228): SFU reciprocal square root. -/
  | vrsqrt (d : BitVec 5) (a : BitVec 5) (p : BitVec 3) (z : BitVec 1)
  /-- VSQRT (R228): SFU square root. -/
  | vsqrt (d : BitVec 5) (a : BitVec 5) (p : BitVec 3) (z : BitVec 1)
  /-- VEXP2 (R228): SFU base-2 exponential. -/
  | vexp2 (d : BitVec 5) (a : BitVec 5) (p : BitVec 3) (z : BitVec 1)
  /-- VLOG2 (R228): SFU base-2 logarithm. -/
  | vlog2 (d : BitVec 5) (a : BitVec 5) (p : BitVec 3) (z : BitVec 1)
  /-- VSIN (R228): SFU sine. -/
  | vsin (d : BitVec 5) (a : BitVec 5) (p : BitVec 3) (z : BitVec 1)
  /-- VCOS (R228): SFU cosine. -/
  | vcos (d : BitVec 5) (a : BitVec 5) (p : BitVec 3) (z : BitVec 1)
  /-- VTANH (R228): SFU hyperbolic tangent. -/
  | vtanh (d : BitVec 5) (a : BitVec 5) (p : BitVec 3) (z : BitVec 1)
  /-- PAND (R217): Predicate AND. -/
  | pand (d : BitVec 3) (a : BitVec 3) (b : BitVec 3)
  /-- POR (R217): Predicate OR. -/
  | por (d : BitVec 3) (a : BitVec 3) (b : BitVec 3)
  /-- PXOR (R217): Predicate XOR. -/
  | pxor (d : BitVec 3) (a : BitVec 3) (b : BitVec 3)
  /-- PANDN (R217): Predicate pa AND NOT pb. -/
  | pandn (d : BitVec 3) (a : BitVec 3) (b : BitVec 3)
  /-- PNOT (R217): Predicate NOT. -/
  | pnot (d : BitVec 3) (a : BitVec 3)
  /-- PFIRST (R217): Keeps only the lowest set predicate bit. -/
  | pfirst (d : BitVec 3) (a : BitVec 3)
  /-- PCNT (R217): Counts set predicate bits into a scalar. -/
  | pcnt (d : BitVec 5) (a : BitVec 3)
  /-- PSET (R217): Sets a predicate from a scalar's low 16 bits. -/
  | pset (d : BitVec 3) (a : BitVec 5)
  /-- PGET (R217): Copies a predicate into a scalar. -/
  | pget (d : BitVec 5) (a : BitVec 3)
  /-- ATTACH (R137): Starts the stream or enters JOINING at this join point. -/
  | attach (d : BitVec 5) (t : BitVec 13)
  /-- JOIN (R137): Enters JOINING at this join point, or completes ABSENT. -/
  | join (d : BitVec 5) (t : BitVec 13)
  /-- DONATE (R140): Appends a work range to the gathering's rejoin queue. -/
  | donate (d : BitVec 5) (a : BitVec 5)
  /-- TAKEW (R141): Removes the oldest rejoin-queue entry with the given tag and graph. -/
  | takew (d : BitVec 5) (a : BitVec 5)
  /-- GANG (R143): Writes the stream's attachment, straggler and leader state. -/
  | gang (d : BitVec 5)
  /-- MAP (R161): Binds stash pages to a global address range and writes a status. -/
  | map (d : BitVec 5) (a : BitVec 5) (b : BitVec 5)
  /-- UNMAP (R163): Ends a stash mapping after writing back dirty lines. -/
  | unmap (d : BitVec 5) (a : BitVec 5)
  /-- SFLUSH (R164): Writes back the dirty lines of a stash mapping at a scope. -/
  | sflush (a : BitVec 5) (s : BitVec 3)
  /-- MXQ (R231): Patches, checks and queues a matrix command record. -/
  | mxq (s : BitVec 5) (w : BitVec 2) (m : BitVec 1) (i : BitVec 15)
  /-- TRQ (R231): Patches, checks and queues a sum-tree command record. -/
  | trq (s : BitVec 5) (w : BitVec 2) (m : BitVec 1) (i : BitVec 15)
  /-- HSET (R197): Makes a handler-table entry WRITING with an entry PC. -/
  | hset (a : BitVec 5) (h : BitVec 6)
  /-- HCLR (R197): Makes a handler-table entry EMPTY. -/
  | hclr (h : BitVec 6)
  /-- HEND (R197): Makes a WRITING handler-table entry VALID. -/
  | hend (h : BitVec 6)
  /-- SPAWN (R203): Pushes a task record onto the core's deque unless deterministic or full. -/
  | spawn (d : BitVec 5) (a : BitVec 5)
  /-- REDSRV (R206): Turns the context into a reduction server. -/
  | redsrv (a : BitVec 5)
  /-- REP (R56): Repeats the next word with stepped register fields. -/
  | rep (c : BitVec 6) (m : BitVec 3) (s : BitVec 3)
  /-- BEQ (R135): Branches when s(a) = s(b). -/
  | beq (a : BitVec 5) (b : BitVec 5) (o : BitVec 13)
  /-- BNE (R135): Branches when s(a) differs from s(b). -/
  | bne (a : BitVec 5) (b : BitVec 5) (o : BitVec 13)
  /-- BLT (R135): Branches when s(a) < s(b) signed. -/
  | blt (a : BitVec 5) (b : BitVec 5) (o : BitVec 13)
  /-- BGE (R135): Branches when s(a) >= s(b) signed. -/
  | bge (a : BitVec 5) (b : BitVec 5) (o : BitVec 13)
  /-- BLTU (R135): Branches when s(a) < s(b) unsigned. -/
  | bltu (a : BitVec 5) (b : BitVec 5) (o : BitVec 13)
  /-- BGEU (R135): Branches when s(a) >= s(b) unsigned. -/
  | bgeu (a : BitVec 5) (b : BitVec 5) (o : BitVec 13)
  /-- BEQZ (R135): Branches when s(a) = 0. -/
  | beqz (a : BitVec 5) (o : BitVec 18)
  /-- BNEZ (R135): Branches when s(a) is not 0. -/
  | bnez (a : BitVec 5) (o : BitVec 18)
  /-- BLTZ (R135): Branches when s(a) < 0. -/
  | bltz (a : BitVec 5) (o : BitVec 18)
  /-- BGEZ (R135): Branches when s(a) >= 0. -/
  | bgez (a : BitVec 5) (o : BitVec 18)
  /-- BGTZ (R135): Branches when s(a) > 0. -/
  | bgtz (a : BitVec 5) (o : BitVec 18)
  /-- BLEZ (R135): Branches when s(a) <= 0. -/
  | blez (a : BitVec 5) (o : BitVec 18)
  /-- JAL (R135): Jumps PC-relative and writes PC + 4 to s31. -/
  | jal (o : BitVec 26)
  /-- JALR (R135): Jumps to s(a) plus immediate and writes PC + 4 to sd. -/
  | jalr (d : BitVec 5) (a : BitVec 5) (i : BitVec 16)
  /-- LDV.EXACT (R175): Versioned load of exactly the named version, parking until it is sealed. -/
  | ldvExact (d : BitVec 5) (a : BitVec 5) (b : BitVec 5) (p : BitVec 3) (z : BitVec 2)
  /-- LDV.LE (R175): Versioned load of the newest sealed version not later than the given one. -/
  | ldvLe (d : BitVec 5) (a : BitVec 5) (b : BitVec 5) (p : BitVec 3) (z : BitVec 2)
  /-- LDV.AGE (R175): Versioned load of the newest sealed version within an age in cycles. -/
  | ldvAge (d : BitVec 5) (a : BitVec 5) (b : BitVec 5) (p : BitVec 3) (z : BitVec 2)
  /-- STV (R172): Writes into an open version, opening it in a slot if allowed. -/
  | stv (t : BitVec 5) (a : BitVec 5) (b : BitVec 5) (z : BitVec 2)
  /-- SEALV (R173): Seals an open version and re-resolves parked loads. -/
  | sealv (a : BitVec 5) (b : BitVec 5)
  /-- RECLV (R174): Frees sealed versions not later than the given one, except the newest. -/
  | reclv (a : BitVec 5) (b : BitVec 5)
  /-- HANDOVER (R167): Passes a region's writer capability to another context by message. -/
  | handover (a : BitVec 5) (b : BitVec 5)
  /-- CAPQ (R169): Writes a description of the region containing an address. -/
  | capq (d : BitVec 5) (a : BitVec 5)
  /-- AMOSWAP (R178): Atomic swap at the home slice, returning the old value. -/
  | amoswap (d : BitVec 5) (a : BitVec 5) (b : BitVec 5) (q : BitVec 1) (z : BitVec 1) (s : BitVec 3)
  /-- AMOADD (R178): Atomic add at the home slice. -/
  | amoadd (d : BitVec 5) (a : BitVec 5) (b : BitVec 5) (q : BitVec 1) (z : BitVec 1) (s : BitVec 3)
  /-- AMOAND (R178): Atomic AND at the home slice. -/
  | amoand (d : BitVec 5) (a : BitVec 5) (b : BitVec 5) (q : BitVec 1) (z : BitVec 1) (s : BitVec 3)
  /-- AMOOR (R178): Atomic OR at the home slice. -/
  | amoor (d : BitVec 5) (a : BitVec 5) (b : BitVec 5) (q : BitVec 1) (z : BitVec 1) (s : BitVec 3)
  /-- AMOXOR (R178): Atomic XOR at the home slice. -/
  | amoxor (d : BitVec 5) (a : BitVec 5) (b : BitVec 5) (q : BitVec 1) (z : BitVec 1) (s : BitVec 3)
  /-- AMOMIN (R178): Atomic signed minimum. -/
  | amomin (d : BitVec 5) (a : BitVec 5) (b : BitVec 5) (q : BitVec 1) (z : BitVec 1) (s : BitVec 3)
  /-- AMOMAX (R178): Atomic signed maximum. -/
  | amomax (d : BitVec 5) (a : BitVec 5) (b : BitVec 5) (q : BitVec 1) (z : BitVec 1) (s : BitVec 3)
  /-- AMOMINU (R178): Atomic unsigned minimum. -/
  | amominu (d : BitVec 5) (a : BitVec 5) (b : BitVec 5) (q : BitVec 1) (z : BitVec 1) (s : BitVec 3)
  /-- AMOMAXU (R178): Atomic unsigned maximum. -/
  | amomaxu (d : BitVec 5) (a : BitVec 5) (b : BitVec 5) (q : BitVec 1) (z : BitVec 1) (s : BitVec 3)
  /-- AMOCAS (R178): Atomic compare-and-swap against the expected value in sd. -/
  | amocas (d : BitVec 5) (a : BitVec 5) (b : BitVec 5) (q : BitVec 1) (z : BitVec 1) (s : BitVec 3)
  /-- AMOFADD (R178): Atomic FP32 add rounded to nearest even. -/
  | amofadd (d : BitVec 5) (a : BitVec 5) (b : BitVec 5) (q : BitVec 1) (s : BitVec 3)
  /-- FENCE.FULL (R183): Orders every earlier access before every later one at a scope. -/
  | fenceFull (s : BitVec 3)
  /-- FENCE.ACQ (R183): Orders earlier loads and dequeues before later accesses at a scope. -/
  | fenceAcq (s : BitVec 3)
  /-- FENCE.REL (R183): Orders earlier accesses before later stores, pushes and sends at a scope. -/
  | fenceRel (s : BitVec 3)
  /-- WAITV (R184): Parks until a word differs from a value or a deadline passes. -/
  | waitv (d : BitVec 5) (a : BitVec 5) (b : BitVec 5) (z : BitVec 1) (s : BitVec 3)
  /-- CPQ (R231): Patches, checks and queues a copy-channel command record. -/
  | cpq (c : BitVec 2) (s : BitVec 5) (w : BitVec 2) (m : BitVec 1) (i : BitVec 15)
  /-- WAITC (R238): Parks until a wait counter reaches a target, trapping on pending failures. -/
  | waitc (d : BitVec 5) (a : BitVec 5) (k : BitVec 2)
  /-- ENGST (R239): Returns a snapshot of one engine's queue, busy state and FAILW. -/
  | engst (d : BitVec 5) (e : BitVec 2)
  /-- RNGINIT (R240): Sets the context's random stream id and position. -/
  | rnginit (a : BitVec 5) (b : BitVec 5)
  /-- RNGNEXT (R240): Returns the next 64 Philox bits and advances the position. -/
  | rngnext (d : BitVec 5)
  /-- SEND (R189): Sends a DATA message and waits for acceptance or refusal. -/
  | send (d : BitVec 5) (a : BitVec 5) (b : BitVec 5)
  /-- SENDA (R189): Sends an ACTIVE message to a core's handler context. -/
  | senda (d : BitVec 5) (a : BitVec 5) (b : BitVec 5) (h : BitVec 6)
  /-- RECV (R191): Dequeues the oldest receivable inbox entry, parking while none. -/
  | recv (d : BitVec 5) (b : BitVec 5)
  /-- RECVP (R191): Dequeues the oldest receivable entry if any, without waiting. -/
  | recvp (d : BitVec 5) (b : BitVec 5)
  /-- RECVF (R191): Dequeues the oldest entry from a named sender, parking while none. -/
  | recvf (d : BitVec 5) (a : BitVec 5) (b : BitVec 5)
  /-- REPLY (R189): Sends a DATA message to the reply target. -/
  | reply (d : BitVec 5) (b : BitVec 5)
  /-- ARRIVE (R201): Arrives on a barrier channel. -/
  | arrive (c : BitVec 5)
  /-- WAITB (R201): Waits for the barrier generation to complete. -/
  | waitb (c : BitVec 5)
  /-- VOTE.AND (R201): Arrives with a bit and returns the AND over the generation. -/
  | voteAnd (d : BitVec 5) (a : BitVec 5) (c : BitVec 5)
  /-- VOTE.OR (R201): Arrives with a bit and returns the OR over the generation. -/
  | voteOr (d : BitVec 5) (a : BitVec 5) (c : BitVec 5)
  /-- CTLR (R146): Reads a control register into sd. -/
  | ctlr (d : BitVec 5) (a : BitVec 12)
  /-- CTLW (R147): Writes a scalar register to a control register. -/
  | ctlw (s : BitVec 5) (a : BitVec 12)
  /-- TRAP (R148): Raises TRAPI with the immediate. -/
  | trap (i : BitVec 16)
  /-- BREAK (R148): Raises BREAK with the immediate. -/
  | brk (i : BitVec 16)
  /-- ILLEGAL (R45): The all-zero word, like every word with major opcode 0, traps ILLEGAL. -/
  | illegal
  /-- DETACH (R136): Moves an attached context to PRIVATE and sets its straggler bit. -/
  | detach
  /-- SSTEP (R202): Arrives and waits on channel 0, forming a superstep boundary. -/
  | sstep
  /-- YIELD (R39): Ends the task's run for this cycle, keeping the task. -/
  | yield
  /-- FINISH (R204): Waits for the context's engine commands and ends the task or handler. -/
  | finish
  /-- STEALOFF (R204): Makes the core refuse steal requests until the task ends. -/
  | stealoff
  /-- NOP (R145): Advances the PC only. -/
  | nop
  /-- TRET (R153): Returns from a U-class trap handler. -/
  | tret
  /-- IDLE (R149): Waits for an inbox entry, counter increment or cycle change. -/
  | idle
  /-- HALT (R150): Ends the task, or stops a kernel-core context until reset. -/
  | halt
  /-- MXOVF_READ (R18): Reading MXOVF returns the saturation count and clears it. -/
  | mxovfRead (d : BitVec 5)
  /-- WP_READ (R255): Reading WP0 or WP1 acquires the bytes the channel has delivered. -/
  | wpRead (d : BitVec 5) (ch : BitVec 1)
  /-- PRIO_WRITE (R21): Writing PRIO sets the class, clamped to FLOOR and detaching an attached context. -/
  | prioWrite (a : BitVec 5)
  /-- HTAB_WRITE (R197): Writing HTAB changes the handler slot and enable, emptying entries on a change of tenant. -/
  | htabWrite (a : BitVec 5)
  /-- MXIDLE_WRITE (R252): Writing MXIDLE sets the gating delay and restarts the idle count. -/
  | mxidleWrite (a : BitVec 5)
  /-- MX_ZERO (R251): Zeroes an accumulator tile. -/
  | mxZero (g : BitVec 6) (c : BitVec 4)
  /-- MX_MUL (R248): Adds exact block-integer contributions of A and B into a tile. -/
  | mxMul (g : BitVec 6) (c : BitVec 4)
  /-- MX_SPMUL (R249): Multiplies with an N-of-M compressed B operand. -/
  | mxSpmul (g : BitVec 6) (c : BitVec 4)
  /-- MX_EPI (R250): Converts a tile to an output format in the stash, counting saturations. -/
  | mxEpi (g : BitVec 6) (c : BitVec 4)
  /-- MX_BASE (R251): Rescales every tile element to a new base exponent. -/
  | mxBase (g : BitVec 6) (c : BitVec 4)
  /-- CP_COPY (R254): Copies a run of words in increasing address order. -/
  | cpCopy (g : BitVec 6) (c : BitVec 4) (ch : BitVec 1)
  /-- CP_COPY2D (R254): Copies rows with source and destination strides. -/
  | cpCopy2d (g : BitVec 6) (c : BitVec 4) (ch : BitVec 1)
  /-- CP_GATHER (R254): Gathers indexed elements to a contiguous destination. -/
  | cpGather (g : BitVec 6) (c : BitVec 4) (ch : BitVec 1)
  /-- CP_SCATTER (R254): Scatters contiguous elements to indexed destinations. -/
  | cpScatter (g : BitVec 6) (c : BitVec 4) (ch : BitVec 1)
  /-- CP_PLANE (R254): Writes integer elements as VBF bit planes in the stash. -/
  | cpPlane (g : BitVec 6) (c : BitVec 4) (ch : BitVec 1)
  /-- CP_DECODE (R122): Decodes CBF group records into 12-plane VBF groups and scale records. -/
  | cpDecode (g : BitVec 6) (c : BitVec 4) (ch : BitVec 1)
  /-- CP_FILL (R254): Fills a destination with a word pattern. -/
  | cpFill (g : BitVec 6) (c : BitVec 4) (ch : BitVec 1)
  /-- CP_TOTIER (R307): Runs down-moves or up-moves of the named granules. -/
  | cpTotier (g : BitVec 6) (c : BitVec 4) (ch : BitVec 1)
  /-- TR_CFG (R260): Configures a sum-tree or changes only its BETA. -/
  | trCfg (n : Nat)
  /-- TR_INS (R260): Inserts a priority at the tree's cursor slot. -/
  | trIns (n : Nat)
  /-- TR_DRAW (R261): Draws k stratified leaves with their weights. -/
  | trDraw (n : Nat)
  /-- TR_UPD (R260): Applies priority updates, discarding stale generations. -/
  | trUpd (n : Nat)
  /-- TR_QRY (R260): Writes the tree's registers or one leaf record. -/
  | trQry (n : Nat)
  /-- ENGINE_COMPLETION (R234): When a command's writes are performed, increments its counter and posts its COMPLETE message. -/
  | engineCompletion (g : BitVec 6) (c : BitVec 4) (e : BitVec 2) (n : Nat)
  /-- STREAM_DELIVER (R23): A spine stream delivers its next position once every attached context has accepted position n - 32. -/
  | streamDeliver (g : BitVec 6) (k : BitVec 2)
  /-- JOINING_ATTACHED (R137): A JOINING context attaches when its stream delivers its join point in a matching class. -/
  | joiningAttached (cid : BitVec 12)
  /-- JOIN_TIMEOUT (R137): A JOINING context whose JOINTO expires returns to PRIVATE with status TIMEOUT. -/
  | joinTimeout (cid : BitVec 12)
  /-- STREAM_HOLD_TIMEOUT (R138): A stream held at a join point proceeds when JOINTO clocks pass. -/
  | streamHoldTimeout (g : BitVec 6) (k : BitVec 2)
  /-- BUDGET_EXHAUSTED (R335): BUDGET reaching 0 lowers the class or freezes the context by the overrun rule. -/
  | budgetExhausted (cid : BitVec 12)
  /-- CYCLE_START (R342): Device time reaching T(n) advances CYCLE, refills budgets and resumes yielded and frozen contexts. -/
  | cycleStart (d : BitVec 3)
  /-- LATCH (R345): At the latch instant the input version is sealed and the next opened. -/
  | latch (d : BitVec 3)
  /-- SLOT_INSTANT (R353): A launch-table slot instant launches its packet or counts an overrun or miss. -/
  | slotInstant (d : BitVec 3) (x : BitVec 8)
  /-- DEFERRED_LAUNCH (R354): A deferred instance launches with a full budget when the previous one completes. -/
  | deferredLaunch (d : BitVec 3) (x : BitVec 8)
  /-- EGRESS (R356): At the egress instant output frames are built from the resolved version and compared with the partner. -/
  | egress (d : BitVec 3)
  /-- GCL_INTERVAL (R357): A port's gate control list moves to its next interval, opening or closing class gates. -/
  | gclInterval (p : BitVec 3)
  /-- FRAME_INGRESS (R346): A TSN frame is identified, filtered, metered, gated and placed in the image or a bulk ring. -/
  | frameIngress (f : Frame)
  /-- PTP_SYNC (R340): A gPTP Sync message adjusts device time, setting it once at first lock. -/
  | ptpSync (t : BitVec 64)
  /-- HOLDOVER (R340): Three Sync intervals without Sync enter holdover. -/
  | holdover
  /-- DOMAIN_ENABLE (R343): Writing CDCTL.EN = 1 checks and enables a cycle domain, opening version CBASE. -/
  | domainEnable (d : BitVec 3)
  /-- DOMAIN_DISABLE (R343): Writing CDCTL.EN = 0 stops the domain at the next cycle start. -/
  | domainDisable (d : BitVec 3)
  /-- SLOT_WRITE (R352): Writing a slot with VALID checks it and arms a deterministic packet. -/
  | slotWrite (d : BitVec 3) (x : BitVec 8) (v : BitVec 64)
  /-- FILTER_WRITE (R346): Writing a stream filter with VALID takes effect only when its fields are in range. -/
  | filterWrite (f : BitVec 10) (v : BitVec 64)
  /-- EGRESS_STREAM_ENABLE (R357): Writing EGCFG.EN = 1 enables an egress stream only when its fields are in range. -/
  | egressStreamEnable (e : BitVec 14) (v : BitVec 64)
  /-- VWOPEN (R359): Writing VWOPEN releases the pin and resolves a version for the window. -/
  | vwopen (w : BitVec 6)
  /-- VW_DEADLINE (R359): A window's deadline passing unresolved gives FALLBACK or STALE. -/
  | vwDeadline (w : BitVec 6)
  /-- PAIR_DIGEST (R362): The partner's digest of an output version arrives. -/
  | pairDigest (d : BitVec 3) (u : BitVec 32) (h : BitVec 256)
  /-- PAIR_LOSS (R365): LOSSTO with nothing from the partner makes the package ALONE. -/
  | pairLoss
  /-- RESYNC (R364): Writing RESYNC starts the copy of PAIRSET regions and a common restart cycle. -/
  | resync
  /-- PAIRST_READ (R361): Reading PAIRST clears DIVCNT and UNVER. -/
  | pairstRead
  /-- SLOTST_READ (R351): Reading SLOTST clears OVR and MISS. -/
  | slotstRead (d : BitVec 3) (x : BitVec 8)
  /-- SFCNT_READ (R346): Reading SFCNT clears the filter's counters. -/
  | sfcntRead (f : BitVec 10)
  /-- EGCNT_READ (R357): Reading EGCNT clears the egress counters. -/
  | egcntRead (e : BitVec 14)
  /-- QUEUE_ENABLE (R379): Writing LQCFG.EN enables a launch queue, or clears STOP after a disable. -/
  | queueEnable (q : BitVec 10) (v : BitVec 64)
  /-- LQST_READ (R379): Reading LQST clears its counts. -/
  | lqstRead (q : BitVec 10)
  /-- VDBELL (R405): A doorbell makes the launch unit examine a queue within 2 us. -/
  | vdbell (fn : BitVec 8) (q : BitVec 10)
  /-- QUEUE_POLL (R380): The launch unit examines an enabled queue, taking entries or flagging a queue error. -/
  | queuePoll (q : BitVec 10)
  /-- TASK_START (R330): A FREE context takes a task and loads its record. -/
  | taskStart (cid : BitVec 12)
  /-- STEAL_REQUEST (R331): A victim core answers a steal request with its oldest entry or a refusal. -/
  | stealRequest (g : BitVec 6) (c : BitVec 4)
  /-- STEAL_ROUND_WAIT (R331): 256 clocks after a round without work a new steal round starts. -/
  | stealRoundWait (g : BitVec 6) (c : BitVec 4)
  /-- LOAD_AVERAGE (R333): Every LAVG us kernel cores exchange deque counts and move entries. -/
  | loadAverage (g : BitVec 6)
  /-- LAUNCH_COMPLETE (R332): On launch completion mappings end, grants return and the completion record is written. -/
  | launchComplete (n : Nat)
  /-- HANDLER_DISPATCH (R198): An ACTIVE entry is dispatched on the handler context at an instruction boundary. -/
  | handlerDispatch (g : BitVec 6) (c : BitVec 4)
  /-- MESSAGE_ARRIVAL (R188): A message at its destination is accepted or refused. -/
  | messageArrival (n : Nat)
  /-- SEND_ANSWER (R189): The acceptance or refusal of a send reaches the sender and completes it. -/
  | sendAnswer (n : Nat)
  /-- RESEND (R190): After back-off, hardware resends a message or AMO refused FULL or RETRY. -/
  | resend (n : Nat)
  /-- MEMORY_INBOX_DRAIN (R194): Messages held for a resumed tenant pass into freed inbox entries in order. -/
  | memoryInboxDrain (cid : BitVec 12)
  /-- WAIT_FOR_EDGE (R195): A RECVF parked 1 us records a wait-for edge. -/
  | waitForEdge (cid : BitVec 12)
  /-- DEADLOCK (R195): A closed wait-for cycle suspends its lowest context with DEADLOCK. -/
  | deadlock (cid : BitVec 12)
  /-- AMO_ARRIVAL (R181): An AMO arriving at its home slice is applied, held or refused RETRY. -/
  | amoArrival (cid : BitVec 12)
  /-- SFU_START (R229): The SFU starts its oldest request. -/
  | sfuStart (g : BitVec 6) (u : BitVec 1)
  /-- SFU_RETURN (R229): The SFU return writes vd and flags and wakes the context. -/
  | sfuReturn (cid : BitVec 12)
  /-- STASH_FILL (R162): A stash line fill completes and the waiting access proceeds. -/
  | stashFill (cid : BitVec 12)
  /-- LDV_DEADLINE (R176): A parked LDV's deadline passes, delivering the fallback record or trapping. -/
  | ldvDeadline (cid : BitVec 12)
  /-- WAITV_DEADLINE (R184): A parked WAITV's deadline passes and it returns the unchanged value. -/
  | waitvDeadline (cid : BitVec 12)
  /-- WALK (R311): A TLB miss starts a page-table walk. -/
  | walk (n : Nat)
  /-- WALK_END (R312): A walk ends and resumes or faults every requester waiting on it. -/
  | walkEnd (n : Nat)
  /-- DOWN_MOVE (R303): A granule is moved from local memory to its tier slot. -/
  | downMove (n : BitVec 26)
  /-- UP_MOVE (R303): A granule is moved back from its tier slot to a local frame. -/
  | upMove (n : BitVec 26)
  /-- TENANT_SWITCH (R306): At a superstep boundary with nothing in flight the tenant is switched and its working set brought in. -/
  | tenantSwitch (p : BitVec 6)
  /-- SLICE_EXPIRY (R337): A tenant's TSLICE expiry makes the service request a switch. -/
  | sliceExpiry (p : BitVec 6)
  /-- SWITCH_REQUEST (R320): Writing PREQ with SW requests a tenant switch. -/
  | switchRequest (p : BitVec 6) (v : BitVec 64)
  /-- RESIZE_REQUEST (R338): Writing PREQ with RSZ requests a partition resize. -/
  | resizeRequest (p : BitVec 6) (v : BitVec 64)
  /-- PARTITION_RESIZE (R338): At a superstep boundary the partition is resized, aborting or re-queueing displaced work. -/
  | partitionResize (p : BitVec 6)
  /-- PCFG_WRITE (R320): Writing PCFG defines a partition, ignored while a tenant runs in it. -/
  | pcfgWrite (p : BitVec 6) (v : BitVec 64)
  /-- SLOTMAP_WRITE (R336): Reassigning a slot saves and restores live context state. -/
  | slotmapWrite (g : BitVec 6) (c : BitVec 3) (v : BitVec 64)
  /-- PULL_RESPONSE (R315): A post-copy page returns and its valid leaf is written. -/
  | pullResponse (n : Nat) (page : List (BitVec 8))
  /-- BACKGROUND_PULL (R315): The tier engine pulls remaining REMOTE pages in table order. -/
  | backgroundPull (t : BitVec 8)
  /-- PULL_TIMEOUT (R316): An unanswered pull after 2 ms fails. -/
  | pullTimeout (n : Nat)
  /-- SCRUB (R298): A channel scrubs its lines within each SCRUB period. -/
  | scrub (ch : BitVec 5)
  /-- MATRIX_POWER_GATE (R252): MXIDLE clocks of idleness power-gate the matrix sub-arrays. -/
  | matrixPowerGate (g : BitVec 6) (c : BitVec 4)
  /-- XINV (R314): Writing XINV starts dropping matching TLB entries device-wide. -/
  | xinv (v : BitVec 64)
  /-- XINV_DONE (R314): TLB invalidation completes and BUSY clears. -/
  | xinvDone
  /-- GINV (R386): Writing GINV starts dropping matching cached gate entries. -/
  | ginv (die : BitVec 2) (v : BitVec 64)
  /-- GINV_DONE (R386): Gate invalidation completes and BUSY clears. -/
  | ginvDone (die : BitVec 2)
  /-- MECNT_READ (R301): Reading MECNT clears the channel's error counts. -/
  | mecntRead (ch : BitVec 5)
  /-- MELAST_CLEAR (R301): Writing 1 to MELAST.VALID clears it. -/
  | melastClear (ch : BitVec 5)
  /-- KRESUME_RETRY (R370): Resumes a suspended context at its faulting instruction. -/
  | kresumeRetry (cid : BitVec 12)
  /-- KRESUME_ABORT (R370): Terminates the suspended context's graph. -/
  | kresumeAbort (cid : BitVec 12)
  /-- KRESUME_KILL (R370): Terminates the suspended context's tenant. -/
  | kresumeKill (cid : BitVec 12)
  /-- KERNEL_CORE_RESET (R377): Writing KCRST resets a kernel core and restarts the micro-kernel. -/
  | kernelCoreReset (g : BitVec 6)
  /-- PAUSE (R398): UCCMD PAUSE moves an ACTIVE link to PAUSING or is refused. -/
  | pause (m : LinkEnd)
  /-- RETRAIN (R398): UCCMD RETRAIN starts training of a link. -/
  | retrain (m : LinkEnd)
  /-- RESUME (R398): UCCMD RESUME makes a PAUSED link ACTIVE. -/
  | resume (m : LinkEnd)
  /-- PAUSE_DONE (R398): Every sent flit acknowledged moves PAUSING to PAUSED. -/
  | pauseDone (m : LinkEnd)
  /-- PAUSE_TIMEOUT (R398): 2 us with a flit unacknowledged moves PAUSING to DOWN. -/
  | pauseTimeout (m : LinkEnd)
  /-- TRAINING_END (R398): Training ends trained at WID or failed to DOWN. -/
  | trainingEnd (m : LinkEnd) (ok : Bool)
  /-- FLIT_RETRY (R400): A flit is retried and counted, raising ALERT at ALTHR. -/
  | flitRetry (m : LinkEnd)
  /-- RETRY_INTERVAL (R400): A 1 ms retry-counting interval ends. -/
  | retryInterval (m : LinkEnd)
  /-- LINK_DOWN (R398): A flit failing after 16 retries takes the link DOWN. -/
  | linkDown (m : LinkEnd)
  /-- UCEVT_CLEAR (R399): Writing ones to UCEVT clears link event bits. -/
  | ucevtClear (m : LinkEnd) (v : BitVec 64)
  /-- UCRETRY_READ (R399): Reading UCRETRY clears the retry count. -/
  | ucretryRead (m : LinkEnd)
  /-- UCLERR_READ (R399): Reading UCLERR clears the lane error counts. -/
  | uclerrRead (m : LinkEnd) (j : BitVec 4)
  /-- ENRYN_LANE_LOSS (R407): An Enryn port losing lanes degrades to x4 or goes down, rerouting traffic. -/
  | enrynLaneLoss (p : BitVec 2) (lanes : BitVec 4)
  /-- ENPCNT_READ (R408): Reading ENPCNT clears the port's counts. -/
  | enpcntRead (p : BitVec 2)
  /-- HOST_ACCESS (R404): A host BAR2 access is translated and gate-checked for the bound tenant. -/
  | hostAccess (fn : BitVec 8) (off : BitVec 36) (sz : BitVec 2) (wr : Option (BitVec 64))
  /-- VINT_CLEAR (R403): Writing ones to VINT clears the function's interrupt causes. -/
  | vintClear (fn : BitVec 8) (v : BitVec 64)
  /-- FUNCTION_LEVEL_RESET (R390): FLR of a virtual function terminates its launches and unbinds it. -/
  | functionLevelReset (fn : BitVec 8)
  /-- POWER_ON_RESET (R412): After reset the boot ROM trains links, verifies the image and starts the firmware. -/
  | powerOnReset
  /-- RCVGO (R413): Writing RCVGO in recovery wait verifies the host-supplied image. -/
  | rcvgo (len : BitVec 24)
  /-- PARTNER_IMAGE (R413): A partner's recovery image arrives and is verified. -/
  | partnerImage (img : List (BitVec 8))
  /-- PWRENV_WRITE (R414): Writing PWRENV selects a power envelope. -/
  | pwrenvWrite (v : BitVec 64)
  /-- ENVELOPE_CHANGE (R414): The envelope change takes effect at the next domain-0 cycle start or within 100 us. -/
  | envelopeChange
  /-- THERMAL_THROTTLE (R414): The junction reaching 105 C moves to the next lower envelope. -/
  | thermalThrottle
  /-- FOLIO_LOAD (R97): The loader checks, relocates and maps a folio for a tenant. -/
  | folioLoad (t : BitVec 8) (folio : List (BitVec 8))
  /-- IMAGE_UNMAP (R98): An image is unmapped once no graph from it is queued or running. -/
  | imageUnmap (n : Nat)
  /-- REGISTER_WRITE (R452): A write to a control-window register without behaviour of its own stores its fields. -/
  | registerWrite (pa : BitVec 52) (wide : Bool) (v : BitVec 64)
  /-- RESERVED_ENCODING (R58): Issuing a word with an unassigned major opcode, fn, op or reserved code traps ILLEGAL with TVAL = the word. -/
  | reservedEncoding (w : BitVec 32)
  /-- PULL_REQUEST (R315): A post-copy pull for a page arrives at the migration source's tier engine, which reads the page at device scope and returns it or reports it gone. -/
  | pullRequest (dev : BitVec 8) (pa : BitVec 52) (sz : BitVec 2)
  /-- RESYNC_COPY_END (R364): The copy of the PAIRSET regions ends, fixing the restart cycle c from which both packages launch. -/
  | resyncCopyEnd
  /-- RECOVERY_IMAGE_REQUEST (R413): A partner's boot ROM asks this running package over Enryn for its image, and this package sends its own running image. -/
  | recoveryImageRequest (p : BitVec 2)
  /-- ENRYN_PORT_UP (R408): An Enryn port finishes training and comes up, setting STATE, lanes and PEERDEV and becoming usable for routes and recovery requests. -/
  | enrynPortUp (p : BitVec 2) (lanes : BitVec 4) (peer : BitVec 8)
  /-- ENRYN_PORT_ENABLE (R408): Writing ENPCTL.EN enables or disables an Enryn port and starts its training, with DEG choosing whether it may run at x4. -/
  | enrynPortEnable (p : BitVec 2) (v : BitVec 64)
  /-- ENRYN_FLIT_RETRY (R408): An Enryn flit is retried or an FEC codeword corrected, and the port's ENPCNT counts rise. -/
  | enrynFlitRetry (p : BitVec 2) (fec : Bool)
  /-- PAIRCTL_EN_WRITE (R363): Writing PAIRCTL.EN starts or stops pair operation, and EN := 0 clears EGSTOP. -/
  | pairctlEnWrite (v : BitVec 64)
  /-- HART_ACCESS (R280): A CPC hart load, store, AMO, LR/SC or version-window aperture read reaches T9600 memory under the mapping of R280, raising an interrupt on a poisoned read. -/
  | hartAccess (h : BitVec 4) (op : HartOp) (pa : BitVec 52) (sz : BitVec 2) (v : BitVec 64)
deriving DecidableEq, Repr

end Sys2Proof
end

