-- ==== Sys2Proof/WellFormed.lean ====
section
/-! DEFINITION. The operand limits that decode enforces beyond the fixed bits of a word (R49 to R76, R213 to
R222): a word outside them traps ILLEGAL (R75, R76). Limits of the running machine (a kernel core, the governed
word of a REP, a control-register address) are not of the word and stand with the meanings. -/

namespace Sys2Proof

/-- R52: a scope code 0 to 5. -/
def scopeOk (s : BitVec 3) : Bool := decide (s.toNat ≤ 5)

/-- R53: a rounding field 0 to 4. -/
def roundOk (r : BitVec 3) : Bool := decide (r.toNat ≤ 4)

/-- R60: a precision field other than 3. -/
def precOk (p : BitVec 2) : Bool := p != 3

/-- R69: the BF16 bit goes with et 01 only. -/
def bf16Ok (e f : BitVec 1) : Bool := f == 0 || e == 1

/-- R63: DONATE and TAKEW name the registers a, a + 1, a + 2 with a from 1 to 29. -/
def tripleOk (a : BitVec 5) : Bool := decide (1 ≤ a.toNat) && decide (a.toNat ≤ 29)

/-- R67: with O = 1 the sequence number is in register b + 1. -/
def orderedOk (q : BitVec 1) (b : BitVec 5) : Bool := q == 0 || decide (b.toNat ≤ 30)

/-- R222: the indexed vector accesses take et 00 or 11. -/
def indexedOk (e : BitVec 2) : Bool := e == 0 || e == 3

/-- R218: a lane index below the element count and below 16. -/
def laneOk (e : BitVec 2) (k : BitVec 4) : Bool := e != 3 || decide (k.toNat < 8)

/-- The operand limits of an instruction. Constructors that are not named have none beyond the width of their fields. -/
def Instr.wellFormed : Instr → Bool
  | .fadd _ _ _ r p | .fsub _ _ _ r p | .fmul _ _ _ r p | .fdiv _ _ _ r p | .fmac _ _ _ r p | .fnmac _ _ _ r p => roundOk r && precOk p
  | .fsqrt _ _ r p | .fcvtl _ _ r p | .fcvtlu _ _ r p | .fcvtfl _ _ r p | .fcvtflu _ _ r p => roundOk r && precOk p
  | .fmin _ _ _ p | .fmax _ _ _ p | .fcpys _ _ _ p | .fcpysn _ _ _ p | .fcpysx _ _ _ p | .feq _ _ _ p | .flt _ _ _ p | .fle _ _ _ p => precOk p
  | .fkind _ _ p => precOk p
  | .fcvtf _ _ c r _ => roundOk r && decide (c.toNat ≤ 3)
  | .donate _ a | .takew _ a => tripleOk a
  | .lbAcq _ _ s | .lhAcq _ _ s | .lwAcq _ _ s | .ldAcq _ _ s | .sbRel _ _ s | .shRel _ _ s | .swRel _ _ s | .sdRel _ _ s => scopeOk s
  | .pref h _ => decide (h.toNat ≤ 3)
  | .sflush _ s | .fenceFull s | .fenceAcq s | .fenceRel s | .waitv _ _ _ _ s => scopeOk s
  | .amoswap _ _ b q _ s | .amoadd _ _ b q _ s | .amoand _ _ b q _ s | .amoor _ _ b q _ s | .amoxor _ _ b q _ s | .amomin _ _ b q _ s
  | .amomax _ _ b q _ s | .amominu _ _ b q _ s | .amomaxu _ _ b q _ s | .amocas _ _ b q _ s => scopeOk s && orderedOk q b
  | .amofadd _ _ b q s => scopeOk s && orderedOk q b
  | .vfadd _ _ _ _ e _ f | .vfsub _ _ _ _ e _ f | .vfmul _ _ _ _ e _ f | .vfma _ _ _ _ e _ f | .vfms _ _ _ _ e _ f
  | .vfmin _ _ _ _ e _ f | .vfmax _ _ _ _ e _ f => bf16Ok e f
  | .vfabs _ _ _ e _ f | .vfneg _ _ _ e _ f => bf16Ok e f
  | .vfredadd _ _ _ e f | .vfredmax _ _ _ e f | .vfredmin _ _ _ e f => bf16Ok e f
  | .vext _ _ k e => laneOk e k
  | .vqblk d a _ => decide (d.toNat ≤ 29) && decide (a.toNat ≤ 28)
  | .vqmx _ a t => decide (a.toNat ≤ 30) && decide (t.toNat ≤ 2)
  | .vldx _ _ _ _ e _ => indexedOk e
  | .vstx _ _ _ _ e => indexedOk e
  | .cpq c _ _ _ _ => c == 1 || c == 2
  | _ => true

end Sys2Proof
end

