-- ==== Sys2Proof/Decode.lean ====
section
/-! DEFINITION. Decoding and encoding of the 32-bit instruction words (R41 to R76). decode is total: it reads the major
opcode and the sub-opcode bits of the group, takes the fields where the word formats place them (R46), and rejects by
name a word that no row assigns (R58), one with a required zero or fixed bit otherwise (R48), and one outside an operand
limit (R75, R76). encode writes the words from the same tables. Lean's runtime holds at most 245 constructors with fields in one
type, and Instr has more: what builds one of the later constructors is marked noncomputable, and the kernel evaluates it. -/

namespace Sys2Proof

/-- Why a word is no instruction; each traps ILLEGAL (R44, R58). -/
inductive DecodeError where
  /-- No row of the tables has this major opcode and sub-opcode (R58). -/
  | unassigned
  /-- A bit the row fixes, or a field the row does not use, holds something else (R48). -/
  | fixedBits
  /-- A field is outside its operand limit or holds a reserved code (R75, R76). -/
  | operandLimit
deriving DecidableEq, Repr

/-- What decoding a word answers. -/
inductive Decoded where
  | instr (i : Instr)
  | rejected (e : DecodeError)
deriving DecidableEq, Repr

/-! ### Fields by group -/

/-- MAJ 0x01, INT (R59). -/
def select01 (w : BitVec 32) : Option Instr :=
  if w.extractLsb' 0 6 = 0#6 then some (.add (w.extractLsb' 21 5) (w.extractLsb' 16 5) (w.extractLsb' 11 5))
  else if w.extractLsb' 0 6 = 1#6 then some (.sub (w.extractLsb' 21 5) (w.extractLsb' 16 5) (w.extractLsb' 11 5))
  else if w.extractLsb' 0 6 = 2#6 then some (.and (w.extractLsb' 21 5) (w.extractLsb' 16 5) (w.extractLsb' 11 5))
  else if w.extractLsb' 0 6 = 3#6 then some (.or (w.extractLsb' 21 5) (w.extractLsb' 16 5) (w.extractLsb' 11 5))
  else if w.extractLsb' 0 6 = 4#6 then some (.xor (w.extractLsb' 21 5) (w.extractLsb' 16 5) (w.extractLsb' 11 5))
  else if w.extractLsb' 0 6 = 5#6 then some (.andn (w.extractLsb' 21 5) (w.extractLsb' 16 5) (w.extractLsb' 11 5))
  else if w.extractLsb' 0 6 = 6#6 then some (.orn (w.extractLsb' 21 5) (w.extractLsb' 16 5) (w.extractLsb' 11 5))
  else if w.extractLsb' 0 6 = 7#6 then some (.xnor (w.extractLsb' 21 5) (w.extractLsb' 16 5) (w.extractLsb' 11 5))
  else if w.extractLsb' 0 6 = 8#6 then some (.sll (w.extractLsb' 21 5) (w.extractLsb' 16 5) (w.extractLsb' 11 5))
  else if w.extractLsb' 0 6 = 9#6 then some (.srl (w.extractLsb' 21 5) (w.extractLsb' 16 5) (w.extractLsb' 11 5))
  else if w.extractLsb' 0 6 = 10#6 then some (.sra (w.extractLsb' 21 5) (w.extractLsb' 16 5) (w.extractLsb' 11 5))
  else if w.extractLsb' 0 6 = 11#6 then some (.rol (w.extractLsb' 21 5) (w.extractLsb' 16 5) (w.extractLsb' 11 5))
  else if w.extractLsb' 0 6 = 12#6 then some (.ror (w.extractLsb' 21 5) (w.extractLsb' 16 5) (w.extractLsb' 11 5))
  else if w.extractLsb' 0 6 = 16#6 then some (.addw (w.extractLsb' 21 5) (w.extractLsb' 16 5) (w.extractLsb' 11 5))
  else if w.extractLsb' 0 6 = 17#6 then some (.subw (w.extractLsb' 21 5) (w.extractLsb' 16 5) (w.extractLsb' 11 5))
  else if w.extractLsb' 0 6 = 24#6 then some (.sllw (w.extractLsb' 21 5) (w.extractLsb' 16 5) (w.extractLsb' 11 5))
  else if w.extractLsb' 0 6 = 25#6 then some (.srlw (w.extractLsb' 21 5) (w.extractLsb' 16 5) (w.extractLsb' 11 5))
  else if w.extractLsb' 0 6 = 26#6 then some (.sraw (w.extractLsb' 21 5) (w.extractLsb' 16 5) (w.extractLsb' 11 5))
  else if w.extractLsb' 0 6 = 32#6 then some (.min (w.extractLsb' 21 5) (w.extractLsb' 16 5) (w.extractLsb' 11 5))
  else if w.extractLsb' 0 6 = 33#6 then some (.max (w.extractLsb' 21 5) (w.extractLsb' 16 5) (w.extractLsb' 11 5))
  else if w.extractLsb' 0 6 = 34#6 then some (.minu (w.extractLsb' 21 5) (w.extractLsb' 16 5) (w.extractLsb' 11 5))
  else if w.extractLsb' 0 6 = 35#6 then some (.maxu (w.extractLsb' 21 5) (w.extractLsb' 16 5) (w.extractLsb' 11 5))
  else if w.extractLsb' 0 6 = 40#6 then some (.addsat (w.extractLsb' 21 5) (w.extractLsb' 16 5) (w.extractLsb' 11 5))
  else if w.extractLsb' 0 6 = 41#6 then some (.subsat (w.extractLsb' 21 5) (w.extractLsb' 16 5) (w.extractLsb' 11 5))
  else none

/-- MAJ 0x02, CMP/SEL (R59). -/
def select02 (w : BitVec 32) : Option Instr :=
  if w.extractLsb' 0 4 = 0#4 then some (.seq (w.extractLsb' 21 5) (w.extractLsb' 16 5) (w.extractLsb' 11 5))
  else if w.extractLsb' 0 4 = 1#4 then some (.sne (w.extractLsb' 21 5) (w.extractLsb' 16 5) (w.extractLsb' 11 5))
  else if w.extractLsb' 0 4 = 2#4 then some (.slt (w.extractLsb' 21 5) (w.extractLsb' 16 5) (w.extractLsb' 11 5))
  else if w.extractLsb' 0 4 = 3#4 then some (.sltu (w.extractLsb' 21 5) (w.extractLsb' 16 5) (w.extractLsb' 11 5))
  else if w.extractLsb' 0 4 = 4#4 then some (.sge (w.extractLsb' 21 5) (w.extractLsb' 16 5) (w.extractLsb' 11 5))
  else if w.extractLsb' 0 4 = 5#4 then some (.sgeu (w.extractLsb' 21 5) (w.extractLsb' 16 5) (w.extractLsb' 11 5))
  else if w.extractLsb' 0 4 = 8#4 then some (.cmovz (w.extractLsb' 21 5) (w.extractLsb' 16 5) (w.extractLsb' 11 5))
  else if w.extractLsb' 0 4 = 9#4 then some (.cmovnz (w.extractLsb' 21 5) (w.extractLsb' 16 5) (w.extractLsb' 11 5))
  else none

/-- MAJ 0x03, BITS (R59). -/
def select03 (w : BitVec 32) : Option Instr :=
  if w.extractLsb' 0 4 = 0#4 then some (.clz (w.extractLsb' 21 5) (w.extractLsb' 16 5))
  else if w.extractLsb' 0 4 = 1#4 then some (.ctz (w.extractLsb' 21 5) (w.extractLsb' 16 5))
  else if w.extractLsb' 0 4 = 2#4 then some (.popc (w.extractLsb' 21 5) (w.extractLsb' 16 5))
  else if w.extractLsb' 0 4 = 3#4 then some (.brev (w.extractLsb' 21 5) (w.extractLsb' 16 5))
  else if w.extractLsb' 0 4 = 4#4 then some (.bswap (w.extractLsb' 21 5) (w.extractLsb' 16 5))
  else if w.extractLsb' 0 4 = 8#4 then some (.extr (w.extractLsb' 21 5) (w.extractLsb' 16 5) (w.extractLsb' 11 5))
  else if w.extractLsb' 0 4 = 9#4 then some (.extrs (w.extractLsb' 21 5) (w.extractLsb' 16 5) (w.extractLsb' 11 5))
  else if w.extractLsb' 0 4 = 10#4 then some (.insr (w.extractLsb' 21 5) (w.extractLsb' 16 5) (w.extractLsb' 11 5))
  else none

/-- MAJ 0x04, MULDIV (R59). -/
def select04 (w : BitVec 32) : Option Instr :=
  if w.extractLsb' 0 4 = 0#4 then some (.mul (w.extractLsb' 21 5) (w.extractLsb' 16 5) (w.extractLsb' 11 5))
  else if w.extractLsb' 0 4 = 1#4 then some (.mulh (w.extractLsb' 21 5) (w.extractLsb' 16 5) (w.extractLsb' 11 5))
  else if w.extractLsb' 0 4 = 2#4 then some (.mulhu (w.extractLsb' 21 5) (w.extractLsb' 16 5) (w.extractLsb' 11 5))
  else if w.extractLsb' 0 4 = 3#4 then some (.mulhm (w.extractLsb' 21 5) (w.extractLsb' 16 5) (w.extractLsb' 11 5))
  else if w.extractLsb' 0 4 = 4#4 then some (.mulw (w.extractLsb' 21 5) (w.extractLsb' 16 5) (w.extractLsb' 11 5))
  else if w.extractLsb' 0 4 = 8#4 then some (.div (w.extractLsb' 21 5) (w.extractLsb' 16 5) (w.extractLsb' 11 5))
  else if w.extractLsb' 0 4 = 9#4 then some (.divu (w.extractLsb' 21 5) (w.extractLsb' 16 5) (w.extractLsb' 11 5))
  else if w.extractLsb' 0 4 = 10#4 then some (.rem (w.extractLsb' 21 5) (w.extractLsb' 16 5) (w.extractLsb' 11 5))
  else if w.extractLsb' 0 4 = 11#4 then some (.remu (w.extractLsb' 21 5) (w.extractLsb' 16 5) (w.extractLsb' 11 5))
  else if w.extractLsb' 0 4 = 12#4 then some (.divw (w.extractLsb' 21 5) (w.extractLsb' 16 5) (w.extractLsb' 11 5))
  else if w.extractLsb' 0 4 = 13#4 then some (.divuw (w.extractLsb' 21 5) (w.extractLsb' 16 5) (w.extractLsb' 11 5))
  else if w.extractLsb' 0 4 = 14#4 then some (.remw (w.extractLsb' 21 5) (w.extractLsb' 16 5) (w.extractLsb' 11 5))
  else if w.extractLsb' 0 4 = 15#4 then some (.remuw (w.extractLsb' 21 5) (w.extractLsb' 16 5) (w.extractLsb' 11 5))
  else none

/-- MAJ 0x05, FPS (R60). -/
def select05 (w : BitVec 32) : Option Instr :=
  if w.extractLsb' 0 5 = 0#5 then some (.fadd (w.extractLsb' 21 5) (w.extractLsb' 16 5) (w.extractLsb' 11 5) (w.extractLsb' 8 3) (w.extractLsb' 6 2))
  else if w.extractLsb' 0 5 = 1#5 then some (.fsub (w.extractLsb' 21 5) (w.extractLsb' 16 5) (w.extractLsb' 11 5) (w.extractLsb' 8 3) (w.extractLsb' 6 2))
  else if w.extractLsb' 0 5 = 2#5 then some (.fmul (w.extractLsb' 21 5) (w.extractLsb' 16 5) (w.extractLsb' 11 5) (w.extractLsb' 8 3) (w.extractLsb' 6 2))
  else if w.extractLsb' 0 5 = 3#5 then some (.fdiv (w.extractLsb' 21 5) (w.extractLsb' 16 5) (w.extractLsb' 11 5) (w.extractLsb' 8 3) (w.extractLsb' 6 2))
  else if w.extractLsb' 0 5 = 4#5 then some (.fsqrt (w.extractLsb' 21 5) (w.extractLsb' 16 5) (w.extractLsb' 8 3) (w.extractLsb' 6 2))
  else if w.extractLsb' 0 5 = 5#5 then some (.fmin (w.extractLsb' 21 5) (w.extractLsb' 16 5) (w.extractLsb' 11 5) (w.extractLsb' 6 2))
  else if w.extractLsb' 0 5 = 6#5 then some (.fmax (w.extractLsb' 21 5) (w.extractLsb' 16 5) (w.extractLsb' 11 5) (w.extractLsb' 6 2))
  else if w.extractLsb' 0 5 = 7#5 then some (.fmac (w.extractLsb' 21 5) (w.extractLsb' 16 5) (w.extractLsb' 11 5) (w.extractLsb' 8 3) (w.extractLsb' 6 2))
  else if w.extractLsb' 0 5 = 8#5 then some (.fnmac (w.extractLsb' 21 5) (w.extractLsb' 16 5) (w.extractLsb' 11 5) (w.extractLsb' 8 3) (w.extractLsb' 6 2))
  else if w.extractLsb' 0 5 = 9#5 then some (.fcpys (w.extractLsb' 21 5) (w.extractLsb' 16 5) (w.extractLsb' 11 5) (w.extractLsb' 6 2))
  else if w.extractLsb' 0 5 = 10#5 then some (.fcpysn (w.extractLsb' 21 5) (w.extractLsb' 16 5) (w.extractLsb' 11 5) (w.extractLsb' 6 2))
  else if w.extractLsb' 0 5 = 11#5 then some (.fcpysx (w.extractLsb' 21 5) (w.extractLsb' 16 5) (w.extractLsb' 11 5) (w.extractLsb' 6 2))
  else if w.extractLsb' 0 5 = 12#5 then some (.feq (w.extractLsb' 21 5) (w.extractLsb' 16 5) (w.extractLsb' 11 5) (w.extractLsb' 6 2))
  else if w.extractLsb' 0 5 = 13#5 then some (.flt (w.extractLsb' 21 5) (w.extractLsb' 16 5) (w.extractLsb' 11 5) (w.extractLsb' 6 2))
  else if w.extractLsb' 0 5 = 14#5 then some (.fle (w.extractLsb' 21 5) (w.extractLsb' 16 5) (w.extractLsb' 11 5) (w.extractLsb' 6 2))
  else if w.extractLsb' 0 5 = 15#5 then some (.fkind (w.extractLsb' 21 5) (w.extractLsb' 16 5) (w.extractLsb' 6 2))
  else if w.extractLsb' 0 5 = 16#5 then some (.fcvtl (w.extractLsb' 21 5) (w.extractLsb' 16 5) (w.extractLsb' 8 3) (w.extractLsb' 6 2))
  else if w.extractLsb' 0 5 = 17#5 then some (.fcvtlu (w.extractLsb' 21 5) (w.extractLsb' 16 5) (w.extractLsb' 8 3) (w.extractLsb' 6 2))
  else if w.extractLsb' 0 5 = 18#5 then some (.fcvtfl (w.extractLsb' 21 5) (w.extractLsb' 16 5) (w.extractLsb' 8 3) (w.extractLsb' 6 2))
  else if w.extractLsb' 0 5 = 19#5 then some (.fcvtflu (w.extractLsb' 21 5) (w.extractLsb' 16 5) (w.extractLsb' 8 3) (w.extractLsb' 6 2))
  else if w.extractLsb' 0 5 = 20#5 then some (.fcvtf (w.extractLsb' 21 5) (w.extractLsb' 16 5) (w.extractLsb' 11 5) (w.extractLsb' 8 3) (w.extractLsb' 6 2))
  else none

/-- MAJ 0x0C, shift-immediate (R61). -/
def select0C (w : BitVec 32) : Option Instr :=
  if w.extractLsb' 13 3 = 0#3 then some (.slli (w.extractLsb' 21 5) (w.extractLsb' 16 5) (w.extractLsb' 0 6))
  else if w.extractLsb' 13 3 = 1#3 then some (.srli (w.extractLsb' 21 5) (w.extractLsb' 16 5) (w.extractLsb' 0 6))
  else if w.extractLsb' 13 3 = 2#3 then some (.srai (w.extractLsb' 21 5) (w.extractLsb' 16 5) (w.extractLsb' 0 6))
  else if w.extractLsb' 13 3 = 3#3 then some (.rori (w.extractLsb' 21 5) (w.extractLsb' 16 5) (w.extractLsb' 0 6))
  else if w.extractLsb' 13 3 = 4#3 then some (.slliw (w.extractLsb' 21 5) (w.extractLsb' 16 5) (w.extractLsb' 0 5))
  else if w.extractLsb' 13 3 = 5#3 then some (.srliw (w.extractLsb' 21 5) (w.extractLsb' 16 5) (w.extractLsb' 0 5))
  else if w.extractLsb' 13 3 = 6#3 then some (.sraiw (w.extractLsb' 21 5) (w.extractLsb' 16 5) (w.extractLsb' 0 5))
  else none

/-- MAJ 0x0D, set-less-than-immediate (R61). -/
def select0D (w : BitVec 32) : Option Instr :=
  if w.extractLsb' 15 1 = 0#1 then some (.slti (w.extractLsb' 21 5) (w.extractLsb' 16 5) (w.extractLsb' 0 15))
  else if w.extractLsb' 15 1 = 1#1 then some (.sltiu (w.extractLsb' 21 5) (w.extractLsb' 16 5) (w.extractLsb' 0 15))
  else none

/-- MAJ 0x10, BR (R62). -/
def select10 (w : BitVec 32) : Option Instr :=
  if w.extractLsb' 13 3 = 0#3 then some (.beq (w.extractLsb' 21 5) (w.extractLsb' 16 5) (w.extractLsb' 0 13))
  else if w.extractLsb' 13 3 = 1#3 then some (.bne (w.extractLsb' 21 5) (w.extractLsb' 16 5) (w.extractLsb' 0 13))
  else if w.extractLsb' 13 3 = 2#3 then some (.blt (w.extractLsb' 21 5) (w.extractLsb' 16 5) (w.extractLsb' 0 13))
  else if w.extractLsb' 13 3 = 3#3 then some (.bge (w.extractLsb' 21 5) (w.extractLsb' 16 5) (w.extractLsb' 0 13))
  else if w.extractLsb' 13 3 = 4#3 then some (.bltu (w.extractLsb' 21 5) (w.extractLsb' 16 5) (w.extractLsb' 0 13))
  else if w.extractLsb' 13 3 = 5#3 then some (.bgeu (w.extractLsb' 21 5) (w.extractLsb' 16 5) (w.extractLsb' 0 13))
  else none

/-- MAJ 0x11, BRZ (R62). -/
def select11 (w : BitVec 32) : Option Instr :=
  if w.extractLsb' 18 3 = 0#3 then some (.beqz (w.extractLsb' 21 5) (w.extractLsb' 0 18))
  else if w.extractLsb' 18 3 = 1#3 then some (.bnez (w.extractLsb' 21 5) (w.extractLsb' 0 18))
  else if w.extractLsb' 18 3 = 2#3 then some (.bltz (w.extractLsb' 21 5) (w.extractLsb' 0 18))
  else if w.extractLsb' 18 3 = 3#3 then some (.bgez (w.extractLsb' 21 5) (w.extractLsb' 0 18))
  else if w.extractLsb' 18 3 = 4#3 then some (.bgtz (w.extractLsb' 21 5) (w.extractLsb' 0 18))
  else if w.extractLsb' 18 3 = 5#3 then some (.blez (w.extractLsb' 21 5) (w.extractLsb' 0 18))
  else none

/-- MAJ 0x14, GANG (R63). -/
def select14 (w : BitVec 32) : Option Instr :=
  if w.extractLsb' 13 3 = 0#3 then some (.detach)
  else if w.extractLsb' 13 3 = 1#3 then some (.attach (w.extractLsb' 21 5) (w.extractLsb' 0 13))
  else if w.extractLsb' 13 3 = 2#3 then some (.join (w.extractLsb' 21 5) (w.extractLsb' 0 13))
  else if w.extractLsb' 13 3 = 3#3 then some (.donate (w.extractLsb' 21 5) (w.extractLsb' 16 5))
  else if w.extractLsb' 13 3 = 4#3 then some (.takew (w.extractLsb' 21 5) (w.extractLsb' 16 5))
  else if w.extractLsb' 13 3 = 5#3 then some (.gang (w.extractLsb' 21 5))
  else none

/-- MAJ 0x18, LOAD (R64). -/
def select18 (w : BitVec 32) : Option Instr :=
  if w.extractLsb' 13 3 = 0#3 then some (.lb (w.extractLsb' 21 5) (w.extractLsb' 16 5) (w.extractLsb' 0 13))
  else if w.extractLsb' 13 3 = 1#3 then some (.lh (w.extractLsb' 21 5) (w.extractLsb' 16 5) (w.extractLsb' 0 13))
  else if w.extractLsb' 13 3 = 2#3 then some (.lw (w.extractLsb' 21 5) (w.extractLsb' 16 5) (w.extractLsb' 0 13))
  else if w.extractLsb' 13 3 = 3#3 then some (.ld (w.extractLsb' 21 5) (w.extractLsb' 16 5) (w.extractLsb' 0 13))
  else if w.extractLsb' 13 3 = 4#3 then some (.lbu (w.extractLsb' 21 5) (w.extractLsb' 16 5) (w.extractLsb' 0 13))
  else if w.extractLsb' 13 3 = 5#3 then some (.lhu (w.extractLsb' 21 5) (w.extractLsb' 16 5) (w.extractLsb' 0 13))
  else if w.extractLsb' 13 3 = 6#3 then some (.lwu (w.extractLsb' 21 5) (w.extractLsb' 16 5) (w.extractLsb' 0 13))
  else if w.extractLsb' 13 3 = 7#3 then
    (if w.extractLsb' 10 3 = 0#3 then some (.lbAcq (w.extractLsb' 21 5) (w.extractLsb' 16 5) (w.extractLsb' 7 3))
     else if w.extractLsb' 10 3 = 1#3 then some (.pref (w.extractLsb' 21 5) (w.extractLsb' 16 5))
     else if w.extractLsb' 10 3 = 2#3 then some (.lhAcq (w.extractLsb' 21 5) (w.extractLsb' 16 5) (w.extractLsb' 7 3))
     else if w.extractLsb' 10 3 = 4#3 then some (.lwAcq (w.extractLsb' 21 5) (w.extractLsb' 16 5) (w.extractLsb' 7 3))
     else if w.extractLsb' 10 3 = 6#3 then some (.ldAcq (w.extractLsb' 21 5) (w.extractLsb' 16 5) (w.extractLsb' 7 3))
     else none)
  else none

/-- MAJ 0x19, STORE (R64). -/
def select19 (w : BitVec 32) : Option Instr :=
  if w.extractLsb' 13 3 = 0#3 then some (.sb (w.extractLsb' 21 5) (w.extractLsb' 16 5) (w.extractLsb' 0 13))
  else if w.extractLsb' 13 3 = 1#3 then some (.sh (w.extractLsb' 21 5) (w.extractLsb' 16 5) (w.extractLsb' 0 13))
  else if w.extractLsb' 13 3 = 2#3 then some (.sw (w.extractLsb' 21 5) (w.extractLsb' 16 5) (w.extractLsb' 0 13))
  else if w.extractLsb' 13 3 = 3#3 then some (.sd (w.extractLsb' 21 5) (w.extractLsb' 16 5) (w.extractLsb' 0 13))
  else if w.extractLsb' 13 3 = 7#3 then
    (if w.extractLsb' 11 2 = 0#2 then some (.sbRel (w.extractLsb' 21 5) (w.extractLsb' 16 5) (w.extractLsb' 7 3))
     else if w.extractLsb' 11 2 = 1#2 then some (.shRel (w.extractLsb' 21 5) (w.extractLsb' 16 5) (w.extractLsb' 7 3))
     else if w.extractLsb' 11 2 = 2#2 then some (.swRel (w.extractLsb' 21 5) (w.extractLsb' 16 5) (w.extractLsb' 7 3))
     else if w.extractLsb' 11 2 = 3#2 then some (.sdRel (w.extractLsb' 21 5) (w.extractLsb' 16 5) (w.extractLsb' 7 3))
     else none)
  else none

/-- MAJ 0x1A, versioned (R65). -/
noncomputable def select1A (w : BitVec 32) : Option Instr :=
  if w.extractLsb' 8 3 = 0#3 then
    (if w.extractLsb' 0 2 = 0#2 then some (.ldvExact (w.extractLsb' 21 5) (w.extractLsb' 16 5) (w.extractLsb' 11 5) (w.extractLsb' 5 3) (w.extractLsb' 2 2))
     else if w.extractLsb' 0 2 = 1#2 then some (.ldvLe (w.extractLsb' 21 5) (w.extractLsb' 16 5) (w.extractLsb' 11 5) (w.extractLsb' 5 3) (w.extractLsb' 2 2))
     else if w.extractLsb' 0 2 = 2#2 then some (.ldvAge (w.extractLsb' 21 5) (w.extractLsb' 16 5) (w.extractLsb' 11 5) (w.extractLsb' 5 3) (w.extractLsb' 2 2))
     else none)
  else if w.extractLsb' 8 3 = 1#3 then some (.stv (w.extractLsb' 21 5) (w.extractLsb' 16 5) (w.extractLsb' 11 5) (w.extractLsb' 2 2))
  else if w.extractLsb' 8 3 = 2#3 then some (.sealv (w.extractLsb' 16 5) (w.extractLsb' 11 5))
  else if w.extractLsb' 8 3 = 3#3 then some (.reclv (w.extractLsb' 16 5) (w.extractLsb' 11 5))
  else none

/-- MAJ 0x1B, REGION (R66). -/
noncomputable def select1B (w : BitVec 32) : Option Instr :=
  if w.extractLsb' 8 3 = 0#3 then some (.map (w.extractLsb' 21 5) (w.extractLsb' 16 5) (w.extractLsb' 11 5))
  else if w.extractLsb' 8 3 = 1#3 then some (.unmap (w.extractLsb' 21 5) (w.extractLsb' 16 5))
  else if w.extractLsb' 8 3 = 2#3 then some (.sflush (w.extractLsb' 16 5) (w.extractLsb' 0 3))
  else if w.extractLsb' 8 3 = 3#3 then some (.handover (w.extractLsb' 16 5) (w.extractLsb' 11 5))
  else if w.extractLsb' 8 3 = 4#3 then some (.capq (w.extractLsb' 21 5) (w.extractLsb' 16 5))
  else none

/-- MAJ 0x1C, AMO (R67). -/
noncomputable def select1C (w : BitVec 32) : Option Instr :=
  if w.extractLsb' 4 4 = 0#4 then some (.amoswap (w.extractLsb' 21 5) (w.extractLsb' 16 5) (w.extractLsb' 11 5) (w.extractLsb' 10 1) (w.extractLsb' 8 1) (w.extractLsb' 1 3))
  else if w.extractLsb' 4 4 = 1#4 then some (.amoadd (w.extractLsb' 21 5) (w.extractLsb' 16 5) (w.extractLsb' 11 5) (w.extractLsb' 10 1) (w.extractLsb' 8 1) (w.extractLsb' 1 3))
  else if w.extractLsb' 4 4 = 2#4 then some (.amoand (w.extractLsb' 21 5) (w.extractLsb' 16 5) (w.extractLsb' 11 5) (w.extractLsb' 10 1) (w.extractLsb' 8 1) (w.extractLsb' 1 3))
  else if w.extractLsb' 4 4 = 3#4 then some (.amoor (w.extractLsb' 21 5) (w.extractLsb' 16 5) (w.extractLsb' 11 5) (w.extractLsb' 10 1) (w.extractLsb' 8 1) (w.extractLsb' 1 3))
  else if w.extractLsb' 4 4 = 4#4 then some (.amoxor (w.extractLsb' 21 5) (w.extractLsb' 16 5) (w.extractLsb' 11 5) (w.extractLsb' 10 1) (w.extractLsb' 8 1) (w.extractLsb' 1 3))
  else if w.extractLsb' 4 4 = 5#4 then some (.amomin (w.extractLsb' 21 5) (w.extractLsb' 16 5) (w.extractLsb' 11 5) (w.extractLsb' 10 1) (w.extractLsb' 8 1) (w.extractLsb' 1 3))
  else if w.extractLsb' 4 4 = 6#4 then some (.amomax (w.extractLsb' 21 5) (w.extractLsb' 16 5) (w.extractLsb' 11 5) (w.extractLsb' 10 1) (w.extractLsb' 8 1) (w.extractLsb' 1 3))
  else if w.extractLsb' 4 4 = 7#4 then some (.amominu (w.extractLsb' 21 5) (w.extractLsb' 16 5) (w.extractLsb' 11 5) (w.extractLsb' 10 1) (w.extractLsb' 8 1) (w.extractLsb' 1 3))
  else if w.extractLsb' 4 4 = 8#4 then some (.amomaxu (w.extractLsb' 21 5) (w.extractLsb' 16 5) (w.extractLsb' 11 5) (w.extractLsb' 10 1) (w.extractLsb' 8 1) (w.extractLsb' 1 3))
  else if w.extractLsb' 4 4 = 9#4 then some (.amocas (w.extractLsb' 21 5) (w.extractLsb' 16 5) (w.extractLsb' 11 5) (w.extractLsb' 10 1) (w.extractLsb' 8 1) (w.extractLsb' 1 3))
  else if w.extractLsb' 4 4 = 10#4 then some (.amofadd (w.extractLsb' 21 5) (w.extractLsb' 16 5) (w.extractLsb' 11 5) (w.extractLsb' 10 1) (w.extractLsb' 1 3))
  else none

/-- MAJ 0x1D, SYNC (R68). -/
noncomputable def select1D (w : BitVec 32) : Option Instr :=
  if w.extractLsb' 4 5 = 0#5 then
    (if w.extractLsb' 3 1 = 0#1 then some (.fenceFull (w.extractLsb' 0 3))
     else if w.extractLsb' 3 1 = 1#1 then some (.fenceAcq (w.extractLsb' 0 3))
     else none)
  else if w.extractLsb' 4 5 = 1#5 then some (.fenceRel (w.extractLsb' 0 3))
  else if w.extractLsb' 4 5 = 17#5 then some (.waitv (w.extractLsb' 21 5) (w.extractLsb' 16 5) (w.extractLsb' 11 5) (w.extractLsb' 3 1) (w.extractLsb' 0 3))
  else none

/-- MAJ 0x20, VINT (R69). -/
def select20 (w : BitVec 32) : Option Instr :=
  if w.extractLsb' 0 5 = 0#5 then some (.vadd (w.extractLsb' 21 5) (w.extractLsb' 16 5) (w.extractLsb' 11 5) (w.extractLsb' 8 3) (w.extractLsb' 6 2) (w.extractLsb' 5 1))
  else if w.extractLsb' 0 5 = 1#5 then some (.vsub (w.extractLsb' 21 5) (w.extractLsb' 16 5) (w.extractLsb' 11 5) (w.extractLsb' 8 3) (w.extractLsb' 6 2) (w.extractLsb' 5 1))
  else if w.extractLsb' 0 5 = 2#5 then some (.vmul (w.extractLsb' 21 5) (w.extractLsb' 16 5) (w.extractLsb' 11 5) (w.extractLsb' 8 3) (w.extractLsb' 6 2) (w.extractLsb' 5 1))
  else if w.extractLsb' 0 5 = 3#5 then some (.vmulh (w.extractLsb' 21 5) (w.extractLsb' 16 5) (w.extractLsb' 11 5) (w.extractLsb' 8 3) (w.extractLsb' 6 2) (w.extractLsb' 5 1))
  else if w.extractLsb' 0 5 = 4#5 then some (.vmulhu (w.extractLsb' 21 5) (w.extractLsb' 16 5) (w.extractLsb' 11 5) (w.extractLsb' 8 3) (w.extractLsb' 6 2) (w.extractLsb' 5 1))
  else if w.extractLsb' 0 5 = 5#5 then some (.vmin (w.extractLsb' 21 5) (w.extractLsb' 16 5) (w.extractLsb' 11 5) (w.extractLsb' 8 3) (w.extractLsb' 6 2) (w.extractLsb' 5 1))
  else if w.extractLsb' 0 5 = 6#5 then some (.vmax (w.extractLsb' 21 5) (w.extractLsb' 16 5) (w.extractLsb' 11 5) (w.extractLsb' 8 3) (w.extractLsb' 6 2) (w.extractLsb' 5 1))
  else if w.extractLsb' 0 5 = 7#5 then some (.vminu (w.extractLsb' 21 5) (w.extractLsb' 16 5) (w.extractLsb' 11 5) (w.extractLsb' 8 3) (w.extractLsb' 6 2) (w.extractLsb' 5 1))
  else if w.extractLsb' 0 5 = 8#5 then some (.vmaxu (w.extractLsb' 21 5) (w.extractLsb' 16 5) (w.extractLsb' 11 5) (w.extractLsb' 8 3) (w.extractLsb' 6 2) (w.extractLsb' 5 1))
  else if w.extractLsb' 0 5 = 9#5 then some (.vand (w.extractLsb' 21 5) (w.extractLsb' 16 5) (w.extractLsb' 11 5) (w.extractLsb' 8 3) (w.extractLsb' 6 2) (w.extractLsb' 5 1))
  else if w.extractLsb' 0 5 = 10#5 then some (.vor (w.extractLsb' 21 5) (w.extractLsb' 16 5) (w.extractLsb' 11 5) (w.extractLsb' 8 3) (w.extractLsb' 6 2) (w.extractLsb' 5 1))
  else if w.extractLsb' 0 5 = 11#5 then some (.vxor (w.extractLsb' 21 5) (w.extractLsb' 16 5) (w.extractLsb' 11 5) (w.extractLsb' 8 3) (w.extractLsb' 6 2) (w.extractLsb' 5 1))
  else if w.extractLsb' 0 5 = 12#5 then some (.vsll (w.extractLsb' 21 5) (w.extractLsb' 16 5) (w.extractLsb' 11 5) (w.extractLsb' 8 3) (w.extractLsb' 6 2) (w.extractLsb' 5 1))
  else if w.extractLsb' 0 5 = 13#5 then some (.vsrl (w.extractLsb' 21 5) (w.extractLsb' 16 5) (w.extractLsb' 11 5) (w.extractLsb' 8 3) (w.extractLsb' 6 2) (w.extractLsb' 5 1))
  else if w.extractLsb' 0 5 = 14#5 then some (.vsra (w.extractLsb' 21 5) (w.extractLsb' 16 5) (w.extractLsb' 11 5) (w.extractLsb' 8 3) (w.extractLsb' 6 2) (w.extractLsb' 5 1))
  else if w.extractLsb' 0 5 = 15#5 then some (.vadds (w.extractLsb' 21 5) (w.extractLsb' 16 5) (w.extractLsb' 11 5) (w.extractLsb' 8 3) (w.extractLsb' 6 2) (w.extractLsb' 5 1))
  else if w.extractLsb' 0 5 = 16#5 then some (.vaddsu (w.extractLsb' 21 5) (w.extractLsb' 16 5) (w.extractLsb' 11 5) (w.extractLsb' 8 3) (w.extractLsb' 6 2) (w.extractLsb' 5 1))
  else if w.extractLsb' 0 5 = 17#5 then some (.vsubs (w.extractLsb' 21 5) (w.extractLsb' 16 5) (w.extractLsb' 11 5) (w.extractLsb' 8 3) (w.extractLsb' 6 2) (w.extractLsb' 5 1))
  else if w.extractLsb' 0 5 = 18#5 then some (.vsubsu (w.extractLsb' 21 5) (w.extractLsb' 16 5) (w.extractLsb' 11 5) (w.extractLsb' 8 3) (w.extractLsb' 6 2) (w.extractLsb' 5 1))
  else if w.extractLsb' 0 5 = 19#5 then some (.vabs (w.extractLsb' 21 5) (w.extractLsb' 16 5) (w.extractLsb' 8 3) (w.extractLsb' 6 2) (w.extractLsb' 5 1))
  else if w.extractLsb' 0 5 = 20#5 then some (.vmac (w.extractLsb' 21 5) (w.extractLsb' 16 5) (w.extractLsb' 11 5) (w.extractLsb' 8 3) (w.extractLsb' 6 2) (w.extractLsb' 5 1))
  else if w.extractLsb' 0 5 = 21#5 then some (.vdot4 (w.extractLsb' 21 5) (w.extractLsb' 16 5) (w.extractLsb' 11 5) (w.extractLsb' 8 3) (w.extractLsb' 5 1))
  else if w.extractLsb' 0 5 = 22#5 then some (.vredadd (w.extractLsb' 21 5) (w.extractLsb' 16 5) (w.extractLsb' 8 3) (w.extractLsb' 6 2))
  else if w.extractLsb' 0 5 = 23#5 then some (.vredmin (w.extractLsb' 21 5) (w.extractLsb' 16 5) (w.extractLsb' 8 3) (w.extractLsb' 6 2))
  else if w.extractLsb' 0 5 = 24#5 then some (.vredmax (w.extractLsb' 21 5) (w.extractLsb' 16 5) (w.extractLsb' 8 3) (w.extractLsb' 6 2))
  else if w.extractLsb' 0 5 = 25#5 then some (.vredminu (w.extractLsb' 21 5) (w.extractLsb' 16 5) (w.extractLsb' 8 3) (w.extractLsb' 6 2))
  else if w.extractLsb' 0 5 = 26#5 then some (.vredmaxu (w.extractLsb' 21 5) (w.extractLsb' 16 5) (w.extractLsb' 8 3) (w.extractLsb' 6 2))
  else if w.extractLsb' 0 5 = 27#5 then some (.vbcast (w.extractLsb' 21 5) (w.extractLsb' 16 5) (w.extractLsb' 6 2))
  else none

/-- MAJ 0x21, VFP (R69). -/
def select21 (w : BitVec 32) : Option Instr :=
  if w.extractLsb' 0 4 = 0#4 then some (.vfadd (w.extractLsb' 21 5) (w.extractLsb' 16 5) (w.extractLsb' 11 5) (w.extractLsb' 8 3) (w.extractLsb' 6 1) (w.extractLsb' 5 1) (w.extractLsb' 4 1))
  else if w.extractLsb' 0 4 = 1#4 then some (.vfsub (w.extractLsb' 21 5) (w.extractLsb' 16 5) (w.extractLsb' 11 5) (w.extractLsb' 8 3) (w.extractLsb' 6 1) (w.extractLsb' 5 1) (w.extractLsb' 4 1))
  else if w.extractLsb' 0 4 = 2#4 then some (.vfmul (w.extractLsb' 21 5) (w.extractLsb' 16 5) (w.extractLsb' 11 5) (w.extractLsb' 8 3) (w.extractLsb' 6 1) (w.extractLsb' 5 1) (w.extractLsb' 4 1))
  else if w.extractLsb' 0 4 = 3#4 then some (.vfma (w.extractLsb' 21 5) (w.extractLsb' 16 5) (w.extractLsb' 11 5) (w.extractLsb' 8 3) (w.extractLsb' 6 1) (w.extractLsb' 5 1) (w.extractLsb' 4 1))
  else if w.extractLsb' 0 4 = 4#4 then some (.vfms (w.extractLsb' 21 5) (w.extractLsb' 16 5) (w.extractLsb' 11 5) (w.extractLsb' 8 3) (w.extractLsb' 6 1) (w.extractLsb' 5 1) (w.extractLsb' 4 1))
  else if w.extractLsb' 0 4 = 5#4 then some (.vfmin (w.extractLsb' 21 5) (w.extractLsb' 16 5) (w.extractLsb' 11 5) (w.extractLsb' 8 3) (w.extractLsb' 6 1) (w.extractLsb' 5 1) (w.extractLsb' 4 1))
  else if w.extractLsb' 0 4 = 6#4 then some (.vfmax (w.extractLsb' 21 5) (w.extractLsb' 16 5) (w.extractLsb' 11 5) (w.extractLsb' 8 3) (w.extractLsb' 6 1) (w.extractLsb' 5 1) (w.extractLsb' 4 1))
  else if w.extractLsb' 0 4 = 7#4 then some (.vfabs (w.extractLsb' 21 5) (w.extractLsb' 16 5) (w.extractLsb' 8 3) (w.extractLsb' 6 1) (w.extractLsb' 5 1) (w.extractLsb' 4 1))
  else if w.extractLsb' 0 4 = 8#4 then some (.vfneg (w.extractLsb' 21 5) (w.extractLsb' 16 5) (w.extractLsb' 8 3) (w.extractLsb' 6 1) (w.extractLsb' 5 1) (w.extractLsb' 4 1))
  else if w.extractLsb' 0 4 = 9#4 then some (.vfredadd (w.extractLsb' 21 5) (w.extractLsb' 16 5) (w.extractLsb' 8 3) (w.extractLsb' 6 1) (w.extractLsb' 4 1))
  else if w.extractLsb' 0 4 = 10#4 then some (.vfredmax (w.extractLsb' 21 5) (w.extractLsb' 16 5) (w.extractLsb' 8 3) (w.extractLsb' 6 1) (w.extractLsb' 4 1))
  else if w.extractLsb' 0 4 = 11#4 then some (.vfredmin (w.extractLsb' 21 5) (w.extractLsb' 16 5) (w.extractLsb' 8 3) (w.extractLsb' 6 1) (w.extractLsb' 4 1))
  else if w.extractLsb' 0 4 = 12#4 then some (.vfdot2 (w.extractLsb' 21 5) (w.extractLsb' 16 5) (w.extractLsb' 11 5) (w.extractLsb' 8 3) (w.extractLsb' 5 1) (w.extractLsb' 4 1))
  else none

/-- MAJ 0x22, VCMP (R69). -/
def select22 (w : BitVec 32) : Option Instr :=
  if w.extractLsb' 0 5 = 0#5 then some (.vceq (w.extractLsb' 21 3) (w.extractLsb' 16 5) (w.extractLsb' 11 5) (w.extractLsb' 8 3) (w.extractLsb' 6 2) (w.extractLsb' 5 1))
  else if w.extractLsb' 0 5 = 1#5 then some (.vcne (w.extractLsb' 21 3) (w.extractLsb' 16 5) (w.extractLsb' 11 5) (w.extractLsb' 8 3) (w.extractLsb' 6 2) (w.extractLsb' 5 1))
  else if w.extractLsb' 0 5 = 2#5 then some (.vclt (w.extractLsb' 21 3) (w.extractLsb' 16 5) (w.extractLsb' 11 5) (w.extractLsb' 8 3) (w.extractLsb' 6 2) (w.extractLsb' 5 1))
  else if w.extractLsb' 0 5 = 3#5 then some (.vcle (w.extractLsb' 21 3) (w.extractLsb' 16 5) (w.extractLsb' 11 5) (w.extractLsb' 8 3) (w.extractLsb' 6 2) (w.extractLsb' 5 1))
  else if w.extractLsb' 0 5 = 4#5 then some (.vcltu (w.extractLsb' 21 3) (w.extractLsb' 16 5) (w.extractLsb' 11 5) (w.extractLsb' 8 3) (w.extractLsb' 6 2) (w.extractLsb' 5 1))
  else if w.extractLsb' 0 5 = 5#5 then some (.vcleu (w.extractLsb' 21 3) (w.extractLsb' 16 5) (w.extractLsb' 11 5) (w.extractLsb' 8 3) (w.extractLsb' 6 2) (w.extractLsb' 5 1))
  else if w.extractLsb' 0 5 = 8#5 then some (.vfceq (w.extractLsb' 21 3) (w.extractLsb' 16 5) (w.extractLsb' 11 5) (w.extractLsb' 8 3) (w.extractLsb' 6 1) (w.extractLsb' 5 1))
  else if w.extractLsb' 0 5 = 9#5 then some (.vfclt (w.extractLsb' 21 3) (w.extractLsb' 16 5) (w.extractLsb' 11 5) (w.extractLsb' 8 3) (w.extractLsb' 6 1) (w.extractLsb' 5 1))
  else if w.extractLsb' 0 5 = 10#5 then some (.vfcle (w.extractLsb' 21 3) (w.extractLsb' 16 5) (w.extractLsb' 11 5) (w.extractLsb' 8 3) (w.extractLsb' 6 1) (w.extractLsb' 5 1))
  else if w.extractLsb' 0 5 = 11#5 then some (.vfcun (w.extractLsb' 21 3) (w.extractLsb' 16 5) (w.extractLsb' 11 5) (w.extractLsb' 8 3) (w.extractLsb' 6 1) (w.extractLsb' 5 1))
  else if w.extractLsb' 0 5 = 16#5 then some (.vfceqBf (w.extractLsb' 21 3) (w.extractLsb' 16 5) (w.extractLsb' 11 5) (w.extractLsb' 8 3) (w.extractLsb' 5 1))
  else if w.extractLsb' 0 5 = 17#5 then some (.vfcltBf (w.extractLsb' 21 3) (w.extractLsb' 16 5) (w.extractLsb' 11 5) (w.extractLsb' 8 3) (w.extractLsb' 5 1))
  else if w.extractLsb' 0 5 = 18#5 then some (.vfcleBf (w.extractLsb' 21 3) (w.extractLsb' 16 5) (w.extractLsb' 11 5) (w.extractLsb' 8 3) (w.extractLsb' 5 1))
  else if w.extractLsb' 0 5 = 19#5 then some (.vfcunBf (w.extractLsb' 21 3) (w.extractLsb' 16 5) (w.extractLsb' 11 5) (w.extractLsb' 8 3) (w.extractLsb' 5 1))
  else none

/-- MAJ 0x23, VPERM (R69). -/
def select23 (w : BitVec 32) : Option Instr :=
  if w.extractLsb' 0 4 = 0#4 then some (.vperm (w.extractLsb' 21 5) (w.extractLsb' 16 5) (w.extractLsb' 11 5) (w.extractLsb' 8 3) (w.extractLsb' 6 2) (w.extractLsb' 5 1))
  else if w.extractLsb' 0 4 = 1#4 then some (.vsldup (w.extractLsb' 21 5) (w.extractLsb' 16 5) (w.extractLsb' 11 5) (w.extractLsb' 8 3) (w.extractLsb' 6 2) (w.extractLsb' 5 1))
  else if w.extractLsb' 0 4 = 2#4 then some (.vslddn (w.extractLsb' 21 5) (w.extractLsb' 16 5) (w.extractLsb' 11 5) (w.extractLsb' 8 3) (w.extractLsb' 6 2) (w.extractLsb' 5 1))
  else if w.extractLsb' 0 4 = 3#4 then some (.vziplo (w.extractLsb' 21 5) (w.extractLsb' 16 5) (w.extractLsb' 11 5) (w.extractLsb' 8 3) (w.extractLsb' 6 2) (w.extractLsb' 5 1))
  else if w.extractLsb' 0 4 = 4#4 then some (.vziphi (w.extractLsb' 21 5) (w.extractLsb' 16 5) (w.extractLsb' 11 5) (w.extractLsb' 8 3) (w.extractLsb' 6 2) (w.extractLsb' 5 1))
  else if w.extractLsb' 0 4 = 5#4 then some (.vuzpe (w.extractLsb' 21 5) (w.extractLsb' 16 5) (w.extractLsb' 11 5) (w.extractLsb' 8 3) (w.extractLsb' 6 2) (w.extractLsb' 5 1))
  else if w.extractLsb' 0 4 = 6#4 then some (.vuzpo (w.extractLsb' 21 5) (w.extractLsb' 16 5) (w.extractLsb' 11 5) (w.extractLsb' 8 3) (w.extractLsb' 6 2) (w.extractLsb' 5 1))
  else if w.extractLsb' 0 4 = 7#4 then some (.vcompr (w.extractLsb' 21 5) (w.extractLsb' 16 5) (w.extractLsb' 8 3) (w.extractLsb' 6 2))
  else if w.extractLsb' 0 4 = 8#4 then some (.vexpnd (w.extractLsb' 21 5) (w.extractLsb' 16 5) (w.extractLsb' 8 3) (w.extractLsb' 6 2) (w.extractLsb' 5 1))
  else if w.extractLsb' 0 4 = 9#4 then some (.vins (w.extractLsb' 21 5) (w.extractLsb' 16 5) (w.extractLsb' 11 5) (w.extractLsb' 6 2))
  else if w.extractLsb' 0 4 = 10#4 then some (.vext (w.extractLsb' 21 5) (w.extractLsb' 16 5) (w.extractLsb' 11 4) (w.extractLsb' 6 2))
  else none

/-- MAJ 0x24, VCVT (R69). -/
def select24 (w : BitVec 32) : Option Instr :=
  if w.extractLsb' 0 4 = 0#4 then some (.vcvtfi (w.extractLsb' 21 5) (w.extractLsb' 16 5) (w.extractLsb' 8 3) (w.extractLsb' 6 1) (w.extractLsb' 5 1))
  else if w.extractLsb' 0 4 = 1#4 then some (.vcvtif (w.extractLsb' 21 5) (w.extractLsb' 16 5) (w.extractLsb' 8 3) (w.extractLsb' 6 1) (w.extractLsb' 5 1))
  else if w.extractLsb' 0 4 = 2#4 then some (.vcvtwh (w.extractLsb' 21 5) (w.extractLsb' 16 5) (w.extractLsb' 11 1) (w.extractLsb' 8 3) (w.extractLsb' 5 1))
  else if w.extractLsb' 0 4 = 3#4 then some (.vcvtwb (w.extractLsb' 21 5) (w.extractLsb' 16 5) (w.extractLsb' 11 1) (w.extractLsb' 8 3) (w.extractLsb' 5 1))
  else if w.extractLsb' 0 4 = 4#4 then some (.vcvtnh (w.extractLsb' 21 5) (w.extractLsb' 16 5) (w.extractLsb' 11 1) (w.extractLsb' 8 3) (w.extractLsb' 5 1))
  else if w.extractLsb' 0 4 = 5#4 then some (.vcvtnb (w.extractLsb' 21 5) (w.extractLsb' 16 5) (w.extractLsb' 11 1) (w.extractLsb' 8 3) (w.extractLsb' 5 1))
  else if w.extractLsb' 0 4 = 6#4 then some (.vcvtw8e4 (w.extractLsb' 21 5) (w.extractLsb' 16 5) (w.extractLsb' 11 2) (w.extractLsb' 8 3) (w.extractLsb' 5 1))
  else if w.extractLsb' 0 4 = 7#4 then some (.vcvtw8e5 (w.extractLsb' 21 5) (w.extractLsb' 16 5) (w.extractLsb' 11 2) (w.extractLsb' 8 3) (w.extractLsb' 5 1))
  else if w.extractLsb' 0 4 = 8#4 then some (.vcvtn8e4 (w.extractLsb' 21 5) (w.extractLsb' 16 5) (w.extractLsb' 11 2) (w.extractLsb' 8 3) (w.extractLsb' 5 1))
  else if w.extractLsb' 0 4 = 9#4 then some (.vcvtn8e5 (w.extractLsb' 21 5) (w.extractLsb' 16 5) (w.extractLsb' 11 2) (w.extractLsb' 8 3) (w.extractLsb' 5 1))
  else if w.extractLsb' 0 4 = 10#4 then some (.vqblk (w.extractLsb' 21 5) (w.extractLsb' 16 5) (w.extractLsb' 11 5))
  else if w.extractLsb' 0 4 = 11#4 then some (.vqmx (w.extractLsb' 21 5) (w.extractLsb' 16 5) (w.extractLsb' 11 2))
  else none

/-- MAJ 0x25, VMEM (R69). -/
def select25 (w : BitVec 32) : Option Instr :=
  if w.extractLsb' 0 3 = 0#3 then some (.vld (w.extractLsb' 21 5) (w.extractLsb' 16 5) (w.extractLsb' 8 3) (w.extractLsb' 6 2) (w.extractLsb' 5 1))
  else if w.extractLsb' 0 3 = 1#3 then some (.vst (w.extractLsb' 21 5) (w.extractLsb' 16 5) (w.extractLsb' 8 3) (w.extractLsb' 6 2))
  else if w.extractLsb' 0 3 = 2#3 then some (.vldx (w.extractLsb' 21 5) (w.extractLsb' 16 5) (w.extractLsb' 11 5) (w.extractLsb' 8 3) (w.extractLsb' 6 2) (w.extractLsb' 5 1))
  else if w.extractLsb' 0 3 = 3#3 then some (.vstx (w.extractLsb' 21 5) (w.extractLsb' 16 5) (w.extractLsb' 11 5) (w.extractLsb' 8 3) (w.extractLsb' 6 2))
  else if w.extractLsb' 0 3 = 4#3 then some (.vldb (w.extractLsb' 21 5) (w.extractLsb' 16 5) (w.extractLsb' 8 3) (w.extractLsb' 6 2) (w.extractLsb' 5 1))
  else if w.extractLsb' 0 3 = 5#3 then some (.vlds (w.extractLsb' 21 5) (w.extractLsb' 16 5) (w.extractLsb' 11 5) (w.extractLsb' 8 3) (w.extractLsb' 6 2) (w.extractLsb' 5 1))
  else if w.extractLsb' 0 3 = 6#3 then some (.vsts (w.extractLsb' 21 5) (w.extractLsb' 16 5) (w.extractLsb' 11 5) (w.extractLsb' 8 3) (w.extractLsb' 6 2))
  else none

/-- MAJ 0x26, VSFU (R69). -/
def select26 (w : BitVec 32) : Option Instr :=
  if w.extractLsb' 0 3 = 0#3 then some (.vrcp (w.extractLsb' 21 5) (w.extractLsb' 16 5) (w.extractLsb' 8 3) (w.extractLsb' 5 1))
  else if w.extractLsb' 0 3 = 1#3 then some (.vrsqrt (w.extractLsb' 21 5) (w.extractLsb' 16 5) (w.extractLsb' 8 3) (w.extractLsb' 5 1))
  else if w.extractLsb' 0 3 = 2#3 then some (.vsqrt (w.extractLsb' 21 5) (w.extractLsb' 16 5) (w.extractLsb' 8 3) (w.extractLsb' 5 1))
  else if w.extractLsb' 0 3 = 3#3 then some (.vexp2 (w.extractLsb' 21 5) (w.extractLsb' 16 5) (w.extractLsb' 8 3) (w.extractLsb' 5 1))
  else if w.extractLsb' 0 3 = 4#3 then some (.vlog2 (w.extractLsb' 21 5) (w.extractLsb' 16 5) (w.extractLsb' 8 3) (w.extractLsb' 5 1))
  else if w.extractLsb' 0 3 = 5#3 then some (.vsin (w.extractLsb' 21 5) (w.extractLsb' 16 5) (w.extractLsb' 8 3) (w.extractLsb' 5 1))
  else if w.extractLsb' 0 3 = 6#3 then some (.vcos (w.extractLsb' 21 5) (w.extractLsb' 16 5) (w.extractLsb' 8 3) (w.extractLsb' 5 1))
  else if w.extractLsb' 0 3 = 7#3 then some (.vtanh (w.extractLsb' 21 5) (w.extractLsb' 16 5) (w.extractLsb' 8 3) (w.extractLsb' 5 1))
  else none

/-- MAJ 0x27, PRED (R69). -/
def select27 (w : BitVec 32) : Option Instr :=
  if w.extractLsb' 0 4 = 0#4 then some (.pand (w.extractLsb' 21 3) (w.extractLsb' 16 3) (w.extractLsb' 11 3))
  else if w.extractLsb' 0 4 = 1#4 then some (.por (w.extractLsb' 21 3) (w.extractLsb' 16 3) (w.extractLsb' 11 3))
  else if w.extractLsb' 0 4 = 2#4 then some (.pxor (w.extractLsb' 21 3) (w.extractLsb' 16 3) (w.extractLsb' 11 3))
  else if w.extractLsb' 0 4 = 3#4 then some (.pandn (w.extractLsb' 21 3) (w.extractLsb' 16 3) (w.extractLsb' 11 3))
  else if w.extractLsb' 0 4 = 4#4 then some (.pnot (w.extractLsb' 21 3) (w.extractLsb' 16 3))
  else if w.extractLsb' 0 4 = 5#4 then some (.pfirst (w.extractLsb' 21 3) (w.extractLsb' 16 3))
  else if w.extractLsb' 0 4 = 6#4 then some (.pcnt (w.extractLsb' 21 5) (w.extractLsb' 16 3))
  else if w.extractLsb' 0 4 = 7#4 then some (.pset (w.extractLsb' 21 3) (w.extractLsb' 16 5))
  else if w.extractLsb' 0 4 = 8#4 then some (.pget (w.extractLsb' 21 5) (w.extractLsb' 16 3))
  else none

/-- MAJ 0x2B, ENG (R73). -/
noncomputable def select2B (w : BitVec 32) : Option Instr :=
  if w.extractLsb' 8 2 = 0#2 then some (.waitc (w.extractLsb' 21 5) (w.extractLsb' 16 5) (w.extractLsb' 0 2))
  else if w.extractLsb' 8 2 = 1#2 then some (.engst (w.extractLsb' 21 5) (w.extractLsb' 0 2))
  else if w.extractLsb' 8 2 = 2#2 then some (.rnginit (w.extractLsb' 16 5) (w.extractLsb' 11 5))
  else if w.extractLsb' 8 2 = 3#2 then some (.rngnext (w.extractLsb' 21 5))
  else none

/-- MAJ 0x2C, MSG (R73). -/
noncomputable def select2C (w : BitVec 32) : Option Instr :=
  if w.extractLsb' 8 3 = 0#3 then some (.send (w.extractLsb' 21 5) (w.extractLsb' 16 5) (w.extractLsb' 11 5))
  else if w.extractLsb' 8 3 = 1#3 then some (.senda (w.extractLsb' 21 5) (w.extractLsb' 16 5) (w.extractLsb' 11 5) (w.extractLsb' 0 6))
  else if w.extractLsb' 8 3 = 2#3 then some (.recv (w.extractLsb' 21 5) (w.extractLsb' 11 5))
  else if w.extractLsb' 8 3 = 3#3 then some (.recvp (w.extractLsb' 21 5) (w.extractLsb' 11 5))
  else if w.extractLsb' 8 3 = 4#3 then some (.recvf (w.extractLsb' 21 5) (w.extractLsb' 16 5) (w.extractLsb' 11 5))
  else if w.extractLsb' 8 3 = 5#3 then some (.reply (w.extractLsb' 21 5) (w.extractLsb' 11 5))
  else none

/-- MAJ 0x2D, HTAB (R73). -/
def select2D (w : BitVec 32) : Option Instr :=
  if w.extractLsb' 8 2 = 0#2 then some (.hset (w.extractLsb' 16 5) (w.extractLsb' 0 6))
  else if w.extractLsb' 8 2 = 1#2 then some (.hclr (w.extractLsb' 0 6))
  else if w.extractLsb' 8 2 = 2#2 then some (.hend (w.extractLsb' 0 6))
  else none

/-- MAJ 0x2E, BAR (R73). -/
noncomputable def select2E (w : BitVec 32) : Option Instr :=
  if w.extractLsb' 8 3 = 0#3 then some (.arrive (w.extractLsb' 0 5))
  else if w.extractLsb' 8 3 = 1#3 then some (.waitb (w.extractLsb' 0 5))
  else if w.extractLsb' 8 3 = 2#3 then some (.voteAnd (w.extractLsb' 21 5) (w.extractLsb' 16 5) (w.extractLsb' 0 5))
  else if w.extractLsb' 8 3 = 3#3 then some (.voteOr (w.extractLsb' 21 5) (w.extractLsb' 16 5) (w.extractLsb' 0 5))
  else if w.extractLsb' 8 3 = 4#3 then some (.sstep)
  else none

/-- MAJ 0x2F, TASK (R73). -/
def select2F (w : BitVec 32) : Option Instr :=
  if w.extractLsb' 8 3 = 0#3 then some (.spawn (w.extractLsb' 21 5) (w.extractLsb' 16 5))
  else if w.extractLsb' 8 3 = 1#3 then some (.yield)
  else if w.extractLsb' 8 3 = 2#3 then some (.finish)
  else if w.extractLsb' 8 3 = 3#3 then some (.redsrv (w.extractLsb' 16 5))
  else if w.extractLsb' 8 3 = 4#3 then some (.stealoff)
  else none

/-- MAJ 0x3F, SYS (R74). -/
noncomputable def select3F (w : BitVec 32) : Option Instr :=
  if w.extractLsb' 16 3 = 0#3 then some (.nop)
  else if w.extractLsb' 16 3 = 1#3 then some (.ctlr (w.extractLsb' 21 5) (w.extractLsb' 0 12))
  else if w.extractLsb' 16 3 = 2#3 then some (.ctlw (w.extractLsb' 21 5) (w.extractLsb' 0 12))
  else if w.extractLsb' 16 3 = 3#3 then some (.trap (w.extractLsb' 0 16))
  else if w.extractLsb' 16 3 = 4#3 then some (.tret)
  else if w.extractLsb' 16 3 = 5#3 then some (.brk (w.extractLsb' 0 16))
  else if w.extractLsb' 16 3 = 6#3 then some (.idle)
  else if w.extractLsb' 16 3 = 7#3 then some (.halt)
  else none

/-- The row of a word of a group that REP may govern, by its major opcode (R55, R58). -/
def selectData (w : BitVec 32) : Option Instr :=
  let m := w.extractLsb' 26 6
  if m = 0x01#6 then select01 w
  else if m = 0x02#6 then select02 w
  else if m = 0x03#6 then select03 w
  else if m = 0x04#6 then select04 w
  else if m = 0x05#6 then select05 w
  else if m = 0x08#6 then some (.addi (w.extractLsb' 21 5) (w.extractLsb' 16 5) (w.extractLsb' 0 16))
  else if m = 0x09#6 then some (.andi (w.extractLsb' 21 5) (w.extractLsb' 16 5) (w.extractLsb' 0 16))
  else if m = 0x0A#6 then some (.ori (w.extractLsb' 21 5) (w.extractLsb' 16 5) (w.extractLsb' 0 16))
  else if m = 0x0B#6 then some (.xori (w.extractLsb' 21 5) (w.extractLsb' 16 5) (w.extractLsb' 0 16))
  else if m = 0x0C#6 then select0C w
  else if m = 0x0D#6 then select0D w
  else if m = 0x0E#6 then some (.lui (w.extractLsb' 21 5) (w.extractLsb' 0 21))
  else if m = 0x0F#6 then some (.addpc (w.extractLsb' 21 5) (w.extractLsb' 0 21))
  else if m = 0x18#6 then select18 w
  else if m = 0x19#6 then select19 w
  else if m = 0x20#6 then select20 w
  else if m = 0x21#6 then select21 w
  else if m = 0x22#6 then select22 w
  else if m = 0x23#6 then select23 w
  else if m = 0x24#6 then select24 w
  else if m = 0x25#6 then select25 w
  else if m = 0x26#6 then select26 w
  else if m = 0x27#6 then select27 w
  else none

/-- The row a word belongs to by its major opcode and sub-opcode, with its fields (R46, R58). -/
noncomputable def select (w : BitVec 32) : Option Instr :=
  let m := w.extractLsb' 26 6
  if m = 0x00#6 then some (.illegal)
  else if m = 0x10#6 then select10 w
  else if m = 0x11#6 then select11 w
  else if m = 0x12#6 then some (.jal (w.extractLsb' 0 26))
  else if m = 0x13#6 then some (.jalr (w.extractLsb' 21 5) (w.extractLsb' 16 5) (w.extractLsb' 0 16))
  else if m = 0x14#6 then select14 w
  else if m = 0x1A#6 then select1A w
  else if m = 0x1B#6 then select1B w
  else if m = 0x1C#6 then select1C w
  else if m = 0x1D#6 then select1D w
  else if m = 0x28#6 then some (.mxq (w.extractLsb' 18 5) (w.extractLsb' 16 2) (w.extractLsb' 15 1) (w.extractLsb' 0 15))
  else if m = 0x29#6 then some (.cpq (w.extractLsb' 23 2) (w.extractLsb' 18 5) (w.extractLsb' 16 2) (w.extractLsb' 15 1) (w.extractLsb' 0 15))
  else if m = 0x2A#6 then some (.trq (w.extractLsb' 18 5) (w.extractLsb' 16 2) (w.extractLsb' 15 1) (w.extractLsb' 0 15))
  else if m = 0x2B#6 then select2B w
  else if m = 0x2C#6 then select2C w
  else if m = 0x2D#6 then select2D w
  else if m = 0x2E#6 then select2E w
  else if m = 0x2F#6 then select2F w
  else if m = 0x3E#6 then some (.rep (w.extractLsb' 20 6) (w.extractLsb' 17 3) (w.extractLsb' 14 3))
  else if m = 0x3F#6 then select3F w
  else selectData w

/-- The word of an instruction (R46 to R74); a step that has no word gets the all-zero one. -/
def encode : Instr → BitVec 32
  | .illegal => 0#32
  | .add d a b => 1#6 ++ d ++ a ++ b ++ 0#11
  | .sub d a b => 1#6 ++ d ++ a ++ b ++ 1#11
  | .and d a b => 1#6 ++ d ++ a ++ b ++ 2#11
  | .or d a b => 1#6 ++ d ++ a ++ b ++ 3#11
  | .xor d a b => 1#6 ++ d ++ a ++ b ++ 4#11
  | .andn d a b => 1#6 ++ d ++ a ++ b ++ 5#11
  | .orn d a b => 1#6 ++ d ++ a ++ b ++ 6#11
  | .xnor d a b => 1#6 ++ d ++ a ++ b ++ 7#11
  | .sll d a b => 1#6 ++ d ++ a ++ b ++ 8#11
  | .srl d a b => 1#6 ++ d ++ a ++ b ++ 9#11
  | .sra d a b => 1#6 ++ d ++ a ++ b ++ 10#11
  | .rol d a b => 1#6 ++ d ++ a ++ b ++ 11#11
  | .ror d a b => 1#6 ++ d ++ a ++ b ++ 12#11
  | .addw d a b => 1#6 ++ d ++ a ++ b ++ 16#11
  | .subw d a b => 1#6 ++ d ++ a ++ b ++ 17#11
  | .sllw d a b => 1#6 ++ d ++ a ++ b ++ 24#11
  | .srlw d a b => 1#6 ++ d ++ a ++ b ++ 25#11
  | .sraw d a b => 1#6 ++ d ++ a ++ b ++ 26#11
  | .min d a b => 1#6 ++ d ++ a ++ b ++ 32#11
  | .max d a b => 1#6 ++ d ++ a ++ b ++ 33#11
  | .minu d a b => 1#6 ++ d ++ a ++ b ++ 34#11
  | .maxu d a b => 1#6 ++ d ++ a ++ b ++ 35#11
  | .addsat d a b => 1#6 ++ d ++ a ++ b ++ 40#11
  | .subsat d a b => 1#6 ++ d ++ a ++ b ++ 41#11
  | .seq d a b => 2#6 ++ d ++ a ++ b ++ 0#11
  | .sne d a b => 2#6 ++ d ++ a ++ b ++ 1#11
  | .slt d a b => 2#6 ++ d ++ a ++ b ++ 2#11
  | .sltu d a b => 2#6 ++ d ++ a ++ b ++ 3#11
  | .sge d a b => 2#6 ++ d ++ a ++ b ++ 4#11
  | .sgeu d a b => 2#6 ++ d ++ a ++ b ++ 5#11
  | .cmovz d a b => 2#6 ++ d ++ a ++ b ++ 8#11
  | .cmovnz d a b => 2#6 ++ d ++ a ++ b ++ 9#11
  | .clz d a => 3#6 ++ d ++ a ++ 0#16
  | .ctz d a => 3#6 ++ d ++ a ++ 1#16
  | .popc d a => 3#6 ++ d ++ a ++ 2#16
  | .brev d a => 3#6 ++ d ++ a ++ 3#16
  | .bswap d a => 3#6 ++ d ++ a ++ 4#16
  | .extr d a b => 3#6 ++ d ++ a ++ b ++ 8#11
  | .extrs d a b => 3#6 ++ d ++ a ++ b ++ 9#11
  | .insr d a b => 3#6 ++ d ++ a ++ b ++ 10#11
  | .mul d a b => 4#6 ++ d ++ a ++ b ++ 0#11
  | .mulh d a b => 4#6 ++ d ++ a ++ b ++ 1#11
  | .mulhu d a b => 4#6 ++ d ++ a ++ b ++ 2#11
  | .mulhm d a b => 4#6 ++ d ++ a ++ b ++ 3#11
  | .mulw d a b => 4#6 ++ d ++ a ++ b ++ 4#11
  | .div d a b => 4#6 ++ d ++ a ++ b ++ 8#11
  | .divu d a b => 4#6 ++ d ++ a ++ b ++ 9#11
  | .rem d a b => 4#6 ++ d ++ a ++ b ++ 10#11
  | .remu d a b => 4#6 ++ d ++ a ++ b ++ 11#11
  | .divw d a b => 4#6 ++ d ++ a ++ b ++ 12#11
  | .divuw d a b => 4#6 ++ d ++ a ++ b ++ 13#11
  | .remw d a b => 4#6 ++ d ++ a ++ b ++ 14#11
  | .remuw d a b => 4#6 ++ d ++ a ++ b ++ 15#11
  | .fadd d a b r p => 5#6 ++ d ++ a ++ b ++ r ++ p ++ 0#6
  | .fsub d a b r p => 5#6 ++ d ++ a ++ b ++ r ++ p ++ 1#6
  | .fmul d a b r p => 5#6 ++ d ++ a ++ b ++ r ++ p ++ 2#6
  | .fdiv d a b r p => 5#6 ++ d ++ a ++ b ++ r ++ p ++ 3#6
  | .fsqrt d a r p => 5#6 ++ d ++ a ++ 0#5 ++ r ++ p ++ 4#6
  | .fmin d a b p => 5#6 ++ d ++ a ++ b ++ 0#3 ++ p ++ 5#6
  | .fmax d a b p => 5#6 ++ d ++ a ++ b ++ 0#3 ++ p ++ 6#6
  | .fmac d a b r p => 5#6 ++ d ++ a ++ b ++ r ++ p ++ 7#6
  | .fnmac d a b r p => 5#6 ++ d ++ a ++ b ++ r ++ p ++ 8#6
  | .fcpys d a b p => 5#6 ++ d ++ a ++ b ++ 0#3 ++ p ++ 9#6
  | .fcpysn d a b p => 5#6 ++ d ++ a ++ b ++ 0#3 ++ p ++ 10#6
  | .fcpysx d a b p => 5#6 ++ d ++ a ++ b ++ 0#3 ++ p ++ 11#6
  | .feq d a b p => 5#6 ++ d ++ a ++ b ++ 0#3 ++ p ++ 12#6
  | .flt d a b p => 5#6 ++ d ++ a ++ b ++ 0#3 ++ p ++ 13#6
  | .fle d a b p => 5#6 ++ d ++ a ++ b ++ 0#3 ++ p ++ 14#6
  | .fkind d a p => 5#6 ++ d ++ a ++ 0#8 ++ p ++ 15#6
  | .fcvtl d a r p => 5#6 ++ d ++ a ++ 0#5 ++ r ++ p ++ 16#6
  | .fcvtlu d a r p => 5#6 ++ d ++ a ++ 0#5 ++ r ++ p ++ 17#6
  | .fcvtfl d a r p => 5#6 ++ d ++ a ++ 0#5 ++ r ++ p ++ 18#6
  | .fcvtflu d a r p => 5#6 ++ d ++ a ++ 0#5 ++ r ++ p ++ 19#6
  | .fcvtf d a c r p => 5#6 ++ d ++ a ++ c ++ r ++ p ++ 20#6
  | .addi d a i => 8#6 ++ d ++ a ++ i
  | .andi d a i => 9#6 ++ d ++ a ++ i
  | .ori d a i => 10#6 ++ d ++ a ++ i
  | .xori d a i => 11#6 ++ d ++ a ++ i
  | .slli d a n => 12#6 ++ d ++ a ++ 0#10 ++ n
  | .srli d a n => 12#6 ++ d ++ a ++ 128#10 ++ n
  | .srai d a n => 12#6 ++ d ++ a ++ 256#10 ++ n
  | .rori d a n => 12#6 ++ d ++ a ++ 384#10 ++ n
  | .slliw d a n => 12#6 ++ d ++ a ++ 1024#11 ++ n
  | .srliw d a n => 12#6 ++ d ++ a ++ 1280#11 ++ n
  | .sraiw d a n => 12#6 ++ d ++ a ++ 1536#11 ++ n
  | .slti d a i => 13#6 ++ d ++ a ++ 0#1 ++ i
  | .sltiu d a i => 13#6 ++ d ++ a ++ 1#1 ++ i
  | .lui d i => 14#6 ++ d ++ i
  | .addpc d i => 15#6 ++ d ++ i
  | .beq a b o => 16#6 ++ a ++ b ++ 0#3 ++ o
  | .bne a b o => 16#6 ++ a ++ b ++ 1#3 ++ o
  | .blt a b o => 16#6 ++ a ++ b ++ 2#3 ++ o
  | .bge a b o => 16#6 ++ a ++ b ++ 3#3 ++ o
  | .bltu a b o => 16#6 ++ a ++ b ++ 4#3 ++ o
  | .bgeu a b o => 16#6 ++ a ++ b ++ 5#3 ++ o
  | .beqz a o => 17#6 ++ a ++ 0#3 ++ o
  | .bnez a o => 17#6 ++ a ++ 1#3 ++ o
  | .bltz a o => 17#6 ++ a ++ 2#3 ++ o
  | .bgez a o => 17#6 ++ a ++ 3#3 ++ o
  | .bgtz a o => 17#6 ++ a ++ 4#3 ++ o
  | .blez a o => 17#6 ++ a ++ 5#3 ++ o
  | .jal o => 18#6 ++ o
  | .jalr d a i => 19#6 ++ d ++ a ++ i
  | .detach => 1342177280#32
  | .attach d t => 20#6 ++ d ++ 1#8 ++ t
  | .join d t => 20#6 ++ d ++ 2#8 ++ t
  | .donate d a => 20#6 ++ d ++ a ++ 24576#16
  | .takew d a => 20#6 ++ d ++ a ++ 32768#16
  | .gang d => 20#6 ++ d ++ 40960#21
  | .lb t a o => 24#6 ++ t ++ a ++ 0#3 ++ o
  | .lh t a o => 24#6 ++ t ++ a ++ 1#3 ++ o
  | .lw t a o => 24#6 ++ t ++ a ++ 2#3 ++ o
  | .ld t a o => 24#6 ++ t ++ a ++ 3#3 ++ o
  | .lbu t a o => 24#6 ++ t ++ a ++ 4#3 ++ o
  | .lhu t a o => 24#6 ++ t ++ a ++ 5#3 ++ o
  | .lwu t a o => 24#6 ++ t ++ a ++ 6#3 ++ o
  | .lbAcq t a s => 24#6 ++ t ++ a ++ 56#6 ++ s ++ 0#7
  | .lhAcq t a s => 24#6 ++ t ++ a ++ 58#6 ++ s ++ 0#7
  | .lwAcq t a s => 24#6 ++ t ++ a ++ 60#6 ++ s ++ 0#7
  | .ldAcq t a s => 24#6 ++ t ++ a ++ 62#6 ++ s ++ 0#7
  | .pref h a => 24#6 ++ h ++ a ++ 58368#16
  | .sb t a o => 25#6 ++ t ++ a ++ 0#3 ++ o
  | .sh t a o => 25#6 ++ t ++ a ++ 1#3 ++ o
  | .sw t a o => 25#6 ++ t ++ a ++ 2#3 ++ o
  | .sd t a o => 25#6 ++ t ++ a ++ 3#3 ++ o
  | .sbRel t a s => 25#6 ++ t ++ a ++ 56#6 ++ s ++ 0#7
  | .shRel t a s => 25#6 ++ t ++ a ++ 58#6 ++ s ++ 0#7
  | .swRel t a s => 25#6 ++ t ++ a ++ 60#6 ++ s ++ 0#7
  | .sdRel t a s => 25#6 ++ t ++ a ++ 62#6 ++ s ++ 0#7
  | .ldvExact d a b p z => 26#6 ++ d ++ a ++ b ++ 0#3 ++ p ++ 0#1 ++ z ++ 0#2
  | .ldvLe d a b p z => 26#6 ++ d ++ a ++ b ++ 0#3 ++ p ++ 0#1 ++ z ++ 1#2
  | .ldvAge d a b p z => 26#6 ++ d ++ a ++ b ++ 0#3 ++ p ++ 0#1 ++ z ++ 2#2
  | .stv t a b z => 26#6 ++ t ++ a ++ b ++ 16#7 ++ z ++ 0#2
  | .sealv a b => 832#11 ++ a ++ b ++ 512#11
  | .reclv a b => 832#11 ++ a ++ b ++ 768#11
  | .map d a b => 27#6 ++ d ++ a ++ b ++ 0#11
  | .unmap d a => 27#6 ++ d ++ a ++ 256#16
  | .sflush a s => 864#11 ++ a ++ 64#13 ++ s
  | .handover a b => 864#11 ++ a ++ b ++ 768#11
  | .capq d a => 27#6 ++ d ++ a ++ 1024#16
  | .amoswap d a b q z s => 28#6 ++ d ++ a ++ b ++ q ++ 1#1 ++ z ++ 0#4 ++ s ++ 0#1
  | .amoadd d a b q z s => 28#6 ++ d ++ a ++ b ++ q ++ 1#1 ++ z ++ 1#4 ++ s ++ 0#1
  | .amoand d a b q z s => 28#6 ++ d ++ a ++ b ++ q ++ 1#1 ++ z ++ 2#4 ++ s ++ 0#1
  | .amoor d a b q z s => 28#6 ++ d ++ a ++ b ++ q ++ 1#1 ++ z ++ 3#4 ++ s ++ 0#1
  | .amoxor d a b q z s => 28#6 ++ d ++ a ++ b ++ q ++ 1#1 ++ z ++ 4#4 ++ s ++ 0#1
  | .amomin d a b q z s => 28#6 ++ d ++ a ++ b ++ q ++ 1#1 ++ z ++ 5#4 ++ s ++ 0#1
  | .amomax d a b q z s => 28#6 ++ d ++ a ++ b ++ q ++ 1#1 ++ z ++ 6#4 ++ s ++ 0#1
  | .amominu d a b q z s => 28#6 ++ d ++ a ++ b ++ q ++ 1#1 ++ z ++ 7#4 ++ s ++ 0#1
  | .amomaxu d a b q z s => 28#6 ++ d ++ a ++ b ++ q ++ 1#1 ++ z ++ 8#4 ++ s ++ 0#1
  | .amocas d a b q z s => 28#6 ++ d ++ a ++ b ++ q ++ 1#1 ++ z ++ 9#4 ++ s ++ 0#1
  | .amofadd d a b q s => 28#6 ++ d ++ a ++ b ++ q ++ 42#6 ++ s ++ 0#1
  | .fenceFull s => 243269632#29 ++ s
  | .fenceAcq s => 243269633#29 ++ s
  | .fenceRel s => 243269634#29 ++ s
  | .waitv d a b z s => 29#6 ++ d ++ a ++ b ++ 17#7 ++ z ++ s
  | .vadd d a b p e z => 32#6 ++ d ++ a ++ b ++ p ++ e ++ z ++ 0#5
  | .vsub d a b p e z => 32#6 ++ d ++ a ++ b ++ p ++ e ++ z ++ 1#5
  | .vmul d a b p e z => 32#6 ++ d ++ a ++ b ++ p ++ e ++ z ++ 2#5
  | .vmulh d a b p e z => 32#6 ++ d ++ a ++ b ++ p ++ e ++ z ++ 3#5
  | .vmulhu d a b p e z => 32#6 ++ d ++ a ++ b ++ p ++ e ++ z ++ 4#5
  | .vmin d a b p e z => 32#6 ++ d ++ a ++ b ++ p ++ e ++ z ++ 5#5
  | .vmax d a b p e z => 32#6 ++ d ++ a ++ b ++ p ++ e ++ z ++ 6#5
  | .vminu d a b p e z => 32#6 ++ d ++ a ++ b ++ p ++ e ++ z ++ 7#5
  | .vmaxu d a b p e z => 32#6 ++ d ++ a ++ b ++ p ++ e ++ z ++ 8#5
  | .vand d a b p e z => 32#6 ++ d ++ a ++ b ++ p ++ e ++ z ++ 9#5
  | .vor d a b p e z => 32#6 ++ d ++ a ++ b ++ p ++ e ++ z ++ 10#5
  | .vxor d a b p e z => 32#6 ++ d ++ a ++ b ++ p ++ e ++ z ++ 11#5
  | .vsll d a b p e z => 32#6 ++ d ++ a ++ b ++ p ++ e ++ z ++ 12#5
  | .vsrl d a b p e z => 32#6 ++ d ++ a ++ b ++ p ++ e ++ z ++ 13#5
  | .vsra d a b p e z => 32#6 ++ d ++ a ++ b ++ p ++ e ++ z ++ 14#5
  | .vadds d a b p e z => 32#6 ++ d ++ a ++ b ++ p ++ e ++ z ++ 15#5
  | .vaddsu d a b p e z => 32#6 ++ d ++ a ++ b ++ p ++ e ++ z ++ 16#5
  | .vsubs d a b p e z => 32#6 ++ d ++ a ++ b ++ p ++ e ++ z ++ 17#5
  | .vsubsu d a b p e z => 32#6 ++ d ++ a ++ b ++ p ++ e ++ z ++ 18#5
  | .vabs d a p e z => 32#6 ++ d ++ a ++ 0#5 ++ p ++ e ++ z ++ 19#5
  | .vmac d a b p e z => 32#6 ++ d ++ a ++ b ++ p ++ e ++ z ++ 20#5
  | .vdot4 d a b p z => 32#6 ++ d ++ a ++ b ++ p ++ 2#2 ++ z ++ 21#5
  | .vredadd d a p e => 32#6 ++ d ++ a ++ 0#5 ++ p ++ e ++ 22#6
  | .vredmin d a p e => 32#6 ++ d ++ a ++ 0#5 ++ p ++ e ++ 23#6
  | .vredmax d a p e => 32#6 ++ d ++ a ++ 0#5 ++ p ++ e ++ 24#6
  | .vredminu d a p e => 32#6 ++ d ++ a ++ 0#5 ++ p ++ e ++ 25#6
  | .vredmaxu d a p e => 32#6 ++ d ++ a ++ 0#5 ++ p ++ e ++ 26#6
  | .vbcast d a e => 32#6 ++ d ++ a ++ 0#8 ++ e ++ 27#6
  | .vfadd d a b p e z f => 33#6 ++ d ++ a ++ b ++ p ++ 0#1 ++ e ++ z ++ f ++ 0#4
  | .vfsub d a b p e z f => 33#6 ++ d ++ a ++ b ++ p ++ 0#1 ++ e ++ z ++ f ++ 1#4
  | .vfmul d a b p e z f => 33#6 ++ d ++ a ++ b ++ p ++ 0#1 ++ e ++ z ++ f ++ 2#4
  | .vfma d a b p e z f => 33#6 ++ d ++ a ++ b ++ p ++ 0#1 ++ e ++ z ++ f ++ 3#4
  | .vfms d a b p e z f => 33#6 ++ d ++ a ++ b ++ p ++ 0#1 ++ e ++ z ++ f ++ 4#4
  | .vfmin d a b p e z f => 33#6 ++ d ++ a ++ b ++ p ++ 0#1 ++ e ++ z ++ f ++ 5#4
  | .vfmax d a b p e z f => 33#6 ++ d ++ a ++ b ++ p ++ 0#1 ++ e ++ z ++ f ++ 6#4
  | .vfabs d a p e z f => 33#6 ++ d ++ a ++ 0#5 ++ p ++ 0#1 ++ e ++ z ++ f ++ 7#4
  | .vfneg d a p e z f => 33#6 ++ d ++ a ++ 0#5 ++ p ++ 0#1 ++ e ++ z ++ f ++ 8#4
  | .vfredadd d a p e f => 33#6 ++ d ++ a ++ 0#5 ++ p ++ 0#1 ++ e ++ 0#1 ++ f ++ 9#4
  | .vfredmax d a p e f => 33#6 ++ d ++ a ++ 0#5 ++ p ++ 0#1 ++ e ++ 0#1 ++ f ++ 10#4
  | .vfredmin d a p e f => 33#6 ++ d ++ a ++ 0#5 ++ p ++ 0#1 ++ e ++ 0#1 ++ f ++ 11#4
  | .vfdot2 d a b p z f => 33#6 ++ d ++ a ++ b ++ p ++ 1#2 ++ z ++ f ++ 12#4
  | .vceq d a b p e z => 136#8 ++ d ++ a ++ b ++ p ++ e ++ z ++ 0#5
  | .vcne d a b p e z => 136#8 ++ d ++ a ++ b ++ p ++ e ++ z ++ 1#5
  | .vclt d a b p e z => 136#8 ++ d ++ a ++ b ++ p ++ e ++ z ++ 2#5
  | .vcle d a b p e z => 136#8 ++ d ++ a ++ b ++ p ++ e ++ z ++ 3#5
  | .vcltu d a b p e z => 136#8 ++ d ++ a ++ b ++ p ++ e ++ z ++ 4#5
  | .vcleu d a b p e z => 136#8 ++ d ++ a ++ b ++ p ++ e ++ z ++ 5#5
  | .vfceq d a b p e z => 136#8 ++ d ++ a ++ b ++ p ++ 0#1 ++ e ++ z ++ 8#5
  | .vfclt d a b p e z => 136#8 ++ d ++ a ++ b ++ p ++ 0#1 ++ e ++ z ++ 9#5
  | .vfcle d a b p e z => 136#8 ++ d ++ a ++ b ++ p ++ 0#1 ++ e ++ z ++ 10#5
  | .vfcun d a b p e z => 136#8 ++ d ++ a ++ b ++ p ++ 0#1 ++ e ++ z ++ 11#5
  | .vfceqBf d a b p z => 136#8 ++ d ++ a ++ b ++ p ++ 1#2 ++ z ++ 16#5
  | .vfcltBf d a b p z => 136#8 ++ d ++ a ++ b ++ p ++ 1#2 ++ z ++ 17#5
  | .vfcleBf d a b p z => 136#8 ++ d ++ a ++ b ++ p ++ 1#2 ++ z ++ 18#5
  | .vfcunBf d a b p z => 136#8 ++ d ++ a ++ b ++ p ++ 1#2 ++ z ++ 19#5
  | .vperm d a b p e z => 35#6 ++ d ++ a ++ b ++ p ++ e ++ z ++ 0#5
  | .vsldup d a b p e z => 35#6 ++ d ++ a ++ b ++ p ++ e ++ z ++ 1#5
  | .vslddn d a b p e z => 35#6 ++ d ++ a ++ b ++ p ++ e ++ z ++ 2#5
  | .vziplo d a b p e z => 35#6 ++ d ++ a ++ b ++ p ++ e ++ z ++ 3#5
  | .vziphi d a b p e z => 35#6 ++ d ++ a ++ b ++ p ++ e ++ z ++ 4#5
  | .vuzpe d a b p e z => 35#6 ++ d ++ a ++ b ++ p ++ e ++ z ++ 5#5
  | .vuzpo d a b p e z => 35#6 ++ d ++ a ++ b ++ p ++ e ++ z ++ 6#5
  | .vcompr d a p e => 35#6 ++ d ++ a ++ 0#5 ++ p ++ e ++ 7#6
  | .vexpnd d a p e z => 35#6 ++ d ++ a ++ 0#5 ++ p ++ e ++ z ++ 8#5
  | .vins d a b e => 35#6 ++ d ++ a ++ b ++ 0#3 ++ e ++ 9#6
  | .vext d a k e => 35#6 ++ d ++ a ++ 0#1 ++ k ++ 0#3 ++ e ++ 10#6
  | .vcvtfi d a p e z => 36#6 ++ d ++ a ++ 0#5 ++ p ++ 0#1 ++ e ++ z ++ 0#5
  | .vcvtif d a p e z => 36#6 ++ d ++ a ++ 0#5 ++ p ++ 0#1 ++ e ++ z ++ 1#5
  | .vcvtwh d a h p z => 36#6 ++ d ++ a ++ 0#4 ++ h ++ p ++ 0#2 ++ z ++ 2#5
  | .vcvtwb d a h p z => 36#6 ++ d ++ a ++ 0#4 ++ h ++ p ++ 0#2 ++ z ++ 3#5
  | .vcvtnh d a h p z => 36#6 ++ d ++ a ++ 0#4 ++ h ++ p ++ 0#2 ++ z ++ 4#5
  | .vcvtnb d a h p z => 36#6 ++ d ++ a ++ 0#4 ++ h ++ p ++ 0#2 ++ z ++ 5#5
  | .vcvtw8e4 d a q p z => 36#6 ++ d ++ a ++ 0#3 ++ q ++ p ++ 0#2 ++ z ++ 6#5
  | .vcvtw8e5 d a q p z => 36#6 ++ d ++ a ++ 0#3 ++ q ++ p ++ 0#2 ++ z ++ 7#5
  | .vcvtn8e4 d a q p z => 36#6 ++ d ++ a ++ 0#3 ++ q ++ p ++ 0#2 ++ z ++ 8#5
  | .vcvtn8e5 d a q p z => 36#6 ++ d ++ a ++ 0#3 ++ q ++ p ++ 0#2 ++ z ++ 9#5
  | .vqblk d a r => 36#6 ++ d ++ a ++ r ++ 10#11
  | .vqmx d a t => 36#6 ++ d ++ a ++ 0#3 ++ t ++ 11#11
  | .vld d a p e z => 37#6 ++ d ++ a ++ 0#5 ++ p ++ e ++ z ++ 0#5
  | .vst d a p e => 37#6 ++ d ++ a ++ 0#5 ++ p ++ e ++ 1#6
  | .vldx d a b p e z => 37#6 ++ d ++ a ++ b ++ p ++ e ++ z ++ 2#5
  | .vstx d a b p e => 37#6 ++ d ++ a ++ b ++ p ++ e ++ 3#6
  | .vldb d a p e z => 37#6 ++ d ++ a ++ 0#5 ++ p ++ e ++ z ++ 4#5
  | .vlds d a b p e z => 37#6 ++ d ++ a ++ b ++ p ++ e ++ z ++ 5#5
  | .vsts d a b p e => 37#6 ++ d ++ a ++ b ++ p ++ e ++ 6#6
  | .vrcp d a p z => 38#6 ++ d ++ a ++ 0#5 ++ p ++ 0#2 ++ z ++ 0#5
  | .vrsqrt d a p z => 38#6 ++ d ++ a ++ 0#5 ++ p ++ 0#2 ++ z ++ 1#5
  | .vsqrt d a p z => 38#6 ++ d ++ a ++ 0#5 ++ p ++ 0#2 ++ z ++ 2#5
  | .vexp2 d a p z => 38#6 ++ d ++ a ++ 0#5 ++ p ++ 0#2 ++ z ++ 3#5
  | .vlog2 d a p z => 38#6 ++ d ++ a ++ 0#5 ++ p ++ 0#2 ++ z ++ 4#5
  | .vsin d a p z => 38#6 ++ d ++ a ++ 0#5 ++ p ++ 0#2 ++ z ++ 5#5
  | .vcos d a p z => 38#6 ++ d ++ a ++ 0#5 ++ p ++ 0#2 ++ z ++ 6#5
  | .vtanh d a p z => 38#6 ++ d ++ a ++ 0#5 ++ p ++ 0#2 ++ z ++ 7#5
  | .pand d a b => 156#8 ++ d ++ 0#2 ++ a ++ 0#2 ++ b ++ 0#11
  | .por d a b => 156#8 ++ d ++ 0#2 ++ a ++ 0#2 ++ b ++ 1#11
  | .pxor d a b => 156#8 ++ d ++ 0#2 ++ a ++ 0#2 ++ b ++ 2#11
  | .pandn d a b => 156#8 ++ d ++ 0#2 ++ a ++ 0#2 ++ b ++ 3#11
  | .pnot d a => 156#8 ++ d ++ 0#2 ++ a ++ 4#16
  | .pfirst d a => 156#8 ++ d ++ 0#2 ++ a ++ 5#16
  | .pcnt d a => 39#6 ++ d ++ 0#2 ++ a ++ 6#16
  | .pset d a => 156#8 ++ d ++ a ++ 7#16
  | .pget d a => 39#6 ++ d ++ 0#2 ++ a ++ 8#16
  | .mxq s w m i => 320#9 ++ s ++ w ++ m ++ i
  | .cpq c s w m i => 82#7 ++ c ++ s ++ w ++ m ++ i
  | .trq s w m i => 339#9 ++ s ++ w ++ m ++ i
  | .waitc d a k => 43#6 ++ d ++ a ++ 0#14 ++ k
  | .engst d e => 43#6 ++ d ++ 64#19 ++ e
  | .rnginit a b => 1376#11 ++ a ++ b ++ 512#11
  | .rngnext d => 43#6 ++ d ++ 768#21
  | .send d a b => 44#6 ++ d ++ a ++ b ++ 0#11
  | .senda d a b h => 44#6 ++ d ++ a ++ b ++ 4#5 ++ h
  | .recv d b => 44#6 ++ d ++ 0#5 ++ b ++ 512#11
  | .recvp d b => 44#6 ++ d ++ 0#5 ++ b ++ 768#11
  | .recvf d a b => 44#6 ++ d ++ a ++ b ++ 1024#11
  | .reply d b => 44#6 ++ d ++ 0#5 ++ b ++ 1280#11
  | .hset a h => 1440#11 ++ a ++ 0#10 ++ h
  | .hclr h => 47185924#26 ++ h
  | .hend h => 47185928#26 ++ h
  | .arrive c => 96468992#27 ++ c
  | .waitb c => 96469000#27 ++ c
  | .voteAnd d a c => 46#6 ++ d ++ a ++ 16#11 ++ c
  | .voteOr d a c => 46#6 ++ d ++ a ++ 24#11 ++ c
  | .sstep => 3087008768#32
  | .spawn d a => 47#6 ++ d ++ a ++ 0#16
  | .yield => 3154116864#32
  | .finish => 3154117120#32
  | .redsrv a => 1504#11 ++ a ++ 768#16
  | .stealoff => 3154117632#32
  | .rep c m s => 62#6 ++ c ++ m ++ s ++ 0#14
  | .nop => 4227858432#32
  | .ctlr d a => 63#6 ++ d ++ 16#9 ++ a
  | .ctlw s a => 63#6 ++ s ++ 32#9 ++ a
  | .trap i => 64515#16 ++ i
  | .tret => 4228120576#32
  | .brk i => 64517#16 ++ i
  | .idle => 4228251648#32
  | .halt => 4228317184#32
  | _ => 0

/-- Decode one word. -/
noncomputable def decode (w : BitVec 32) : Decoded :=
  match select w with
  | none => .rejected .unassigned
  | some i =>
    if encode i ≠ w then .rejected .fixedBits
    else if i.wellFormed then .instr i
    else .rejected .operandLimit

/-- The instruction a context executes for a word: every word that does not decode traps ILLEGAL, by the step that does so
(R44, R58). -/
noncomputable def decodeStep (w : BitVec 32) : Instr :=
  match decode w with
  | .instr i => i
  | .rejected _ => .reservedEncoding w

/-- The word of an instruction as an Instr is executed from, for TVAL of a trap that names the word (R44). -/
def wordOf : Instr → BitVec 32
  | .reservedEncoding w => w
  | i => encode i

/-- The little-endian word of four bytes (R41). -/
def wordOfBytes (b0 b1 b2 b3 : BitVec 8) : BitVec 32 := b3 ++ b2 ++ b1 ++ b0

/-- The instruction the decoder reads from a word whose bits are w, bit 0 the least significant: every row of the table with an
encoding is one 32-bit word, stored little-endian (R41). The part's own steps have no word. -/
noncomputable def decodeTableWord (nbits w : Nat) : Option Instr :=
  if nbits = 0 ∨ 32 < nbits then none
  else
    let b := fun i => BitVec.ofNat 8 (w % 2 ^ nbits / 2 ^ (8 * i))
    match decode (wordOfBytes (b 0) (b 1) (b 2) (b 3)) with
    | .instr i => some i
    | .rejected _ => none

end Sys2Proof
end

