-- ==== Sys2Proof/Config.lean ====
section
/-! DEFINITION. What the manual leaves to an implementation or gives no value for: constants without a body, so
that nothing can be proved of their values (log entry 7). -/

namespace Sys2Proof.Config

/-- A free value of up to 512 bits for each draw (log entry 7). -/
opaque freeBits : Nat → BitVec 512

/-- Whether an SLH-DSA-SHA2-192s signature verifies over a digest under the public key fused in this part (R411): the key is
not in the manual. -/
opaque signatureValid : BitVec 256 → List Byte → Bool

/-- The LZ4 block the tier engine makes of a granule (R303): the published format admits many; what it returns is stored
only when it expands to the granule again. -/
opaque lz4Block : List Byte → List Byte

/-- The sets a line falls in, in a slice's data array, a slice's directory, an L1 data cache and an L1 instruction cache (R287, R294): the
manual does not give the indexes, nor the ways of a directory set and of the instruction cache: dirWays and l1iWays are what these have beyond
the first. -/
opaque l2Set : Nat → Nat
opaque dirSet : Nat → Nat
opaque dirWays : Nat
opaque l1Set : Nat → Nat
opaque l1iSet : Nat → Nat
opaque l1iWays : Nat

/-- Which of the lines a full cache may replace goes, where the manual gives no rule: all but the L2 data arrays (R296; log entry 19). -/
opaque cachePick : List Nat → Nat

/-- The rate at which device time follows an offset to gPTP time, in parts per million from nominal (R340: within 250), and the Sync interval
in ns, which the manual does not give. -/
opaque syncRate : Int → Int
opaque syncInterval : Nat

/-- How long a frame of so many bytes occupies a TSN port, in ns: the ports' rates are not registers of the manual (R357). -/
opaque portTime : Nat → Nat → Nat

/-- Where in kernel-owned local memory the boot ROM copies the micro-kernel (R412): a 4 KiB page number. -/
opaque kernelPage : Nat

/-- The pool of the micro-kernel's own command records: its address and the number of records (R80; a kernel-core context has no task
graph, and the manual names no pool for it). -/
opaque kernelPool : Nat
opaque kernelRecords : Nat

/-- The entry of each kernel-core context of the micro-kernel (R412), as a word offset from its base. -/
opaque kernelEntry : Nat → BitVec 18

end Sys2Proof.Config
end

