-- ==== Sys2Proof/Machine/Bits.lean ====
section
/-! DEFINITION. Bit-field, sign-extension and list helpers (R3, R6, R40). -/

namespace Sys2Proof.Machine

/-- Bits lo to lo + n - 1 of x, as a number. -/
def fld {w : Nat} (x : BitVec w) (lo n : Nat) : Nat := (x.toNat / 2 ^ lo) % 2 ^ n

/-- Bit i of x. -/
def bit {w : Nat} (x : BitVec w) (i : Nat) : Bool := x.getLsbD i

/-- A word from a number, modulo 2^64. -/
def word (n : Nat) : Word := BitVec.ofNat 64 n

/-- A word from an integer, modulo 2^64. -/
def wordI (n : Int) : Word := BitVec.ofInt 64 n

/-- x with bits lo to lo + n - 1 replaced by the low n bits of v. -/
def putFld (x : Word) (lo n v : Nat) : Word :=
  let old := x.toNat
  word (old - ((old / 2 ^ lo) % 2 ^ n) * 2 ^ lo + (v % 2 ^ n) * 2 ^ lo)

/-- The low n bits of x as a two's complement integer. -/
def sintN (x n : Nat) : Int :=
  let m := x % 2 ^ n
  if m < 2 ^ (n - 1) then (m : Int) else (m : Int) - (2 ^ n : Nat)

/-- An integer clamped to lo .. hi. -/
def clampI (lo hi x : Int) : Int := if x < lo then lo else if hi < x then hi else x

/-- R40: 32-bit serial order. -/
def serialLater (a b : Word32) : Bool :=
  let d := (a - b).toNat
  decide (1 ≤ d) && decide (d < 2 ^ 31)

/-- u is not later than v (R170). -/
def serialLe (u v : Word32) : Bool := !serialLater u v

/-- The first i of lo .. lo + n - 1 that meets p. -/
def findNat (p : Nat → Bool) : Nat → Nat → Option Nat
  | _, 0 => none
  | lo, n + 1 => if p lo then some lo else findNat p (lo + 1) n

/-- Apply f to s for each i of lo .. lo + n - 1, in order. -/
def foldNat {σ : Type} (f : σ → Nat → σ) (s : σ) : Nat → Nat → σ
  | _, 0 => s
  | lo, n + 1 => foldNat f (f s lo) (lo + 1) n

/-- Bytes of a number, little-endian. -/
def bytesOf : Nat → Nat → List Byte
  | 0, _ => []
  | n + 1, x => BitVec.ofNat 8 x :: bytesOf n (x / 256)

/-- The number a little-endian list of bytes holds. -/
def natOf : List Byte → Nat
  | [] => 0
  | b :: bs => b.toNat + 256 * natOf bs

/-- Bytes off .. off + n - 1 of a list, as a number; beyond the end they count as 0. -/
def natAt (bs : List Byte) (off n : Nat) : Nat := natOf ((bs.drop off).take n)

/-- Replace element i of a list. -/
def setAt {α : Type} : List α → Nat → α → List α
  | [], _, _ => []
  | _ :: xs, 0, y => y :: xs
  | x :: xs, i + 1, y => x :: setAt xs i y

/-- Remove the first element that meets p. -/
def dropFirst {α : Type} (p : α → Bool) : List α → List α
  | [] => []
  | x :: xs => if p x then xs else x :: dropFirst p xs

/-- Ceiling division. -/
def cdiv (a b : Nat) : Nat := (a + b - 1) / b

/-- 1 or 0. -/
def b2n (b : Bool) : Nat := if b then 1 else 0

end Sys2Proof.Machine
end

