-- ==== Sys2Proof/Machine/SMap.lean ====
section
/-! DEFINITION. Sparse maps: a list of (key, value) pairs in ONE canonical form, keys strictly rising and no
entry equal to the default an unlisted key reads as. Memory, register files of a device's size, and every
keyed collection of the machine are held so: plain data, comparable, and equal when they read equal. -/

namespace Sys2Proof.Machine

/-- A sparse map from naturals: sorted by key, no repeats, no entry equal to the default. -/
abbrev SMap (α : Type) := List (Nat × α)

/-- The value at key k; an unlisted key reads as d. -/
def SMap.read {α : Type} (d : α) : SMap α → Nat → α
  | [], _ => d
  | (k, v) :: m, i => if i = k then v else SMap.read d m i

/-- Put v at key k, keeping the keys in rising order. -/
def SMap.insert {α : Type} : SMap α → Nat → α → SMap α
  | [], i, x => [(i, x)]
  | (k, v) :: m, i, x =>
    if i < k then (i, x) :: (k, v) :: m
    else if i = k then (i, x) :: m
    else (k, v) :: SMap.insert m i x

/-- Remove every entry of key i. -/
def SMap.erase {α : Type} : SMap α → Nat → SMap α
  | [], _ => []
  | (k, v) :: m, i => if i = k then SMap.erase m i else (k, v) :: SMap.erase m i

/-- Write x at key i: the default value removes the entry, so that equal maps are equal lists. -/
def SMap.write {α : Type} [DecidableEq α] (d : α) (m : SMap α) (i : Nat) (x : α) : SMap α :=
  if x = d then SMap.erase m i else SMap.insert m i x

/-- The keys of a map rise strictly, from above lo. -/
def SMap.rising {α : Type} : Option Nat → SMap α → Bool
  | _, [] => true
  | none, (k, _) :: m => SMap.rising (some k) m
  | some lo, (k, _) :: m => decide (lo < k) && SMap.rising (some k) m

/-- The canonical form: keys strictly rising and no entry equal to the default. -/
def SMap.wf {α : Type} [DecidableEq α] (d : α) (m : SMap α) : Bool :=
  SMap.rising none m && m.all fun e => decide (e.2 ≠ d)

/-- Memory: bytes at physical addresses, each entry a Host.Cell. -/
abbrev Memory := List Host.Cell

/-- What a byte of memory that nothing has written reads as: 0x00 (log entry 4). -/
def Memory.blank : Byte := 0

/-- One byte of memory. -/
def Memory.byte (m : Memory) (a : Nat) : Byte := SMap.read Memory.blank m a

/-- Write one byte of memory. -/
def Memory.setByte (m : Memory) (a : Nat) (b : Byte) : Memory := SMap.write Memory.blank m a b

/-- The canonical form of memory: addresses strictly rising, no entry equal to what an unlisted address reads as. -/
def Memory.wf (m : Memory) : Bool := SMap.wf Memory.blank m

/-- n bytes from address a, as one number, little-endian (R3). -/
def Memory.readLE (m : Memory) (a : Nat) : Nat → Nat
  | 0 => 0
  | n + 1 => (Memory.byte m a).toNat + 256 * Memory.readLE m (a + 1) n

/-- Store the low n bytes of x from address a, little-endian (R3). -/
def Memory.writeLE (m : Memory) (a : Nat) : Nat → Nat → Memory
  | 0, _ => m
  | n + 1, x => Memory.writeLE (Memory.setByte m a (BitVec.ofNat 8 x)) (a + 1) n (x / 256)

/-- The same little-endian read of a byte map with default zero (stash, version data). -/
def SMap.readLE (m : SMap Byte) (a n : Nat) : Nat := Memory.readLE m a n

/-- The same little-endian write of a byte map with default zero. -/
def SMap.writeLE (m : SMap Byte) (a n x : Nat) : SMap Byte := Memory.writeLE m a n x

end Sys2Proof.Machine
end

