-- ==== Sys2Proof/Machine/Types.lean ====
section
/-! DEFINITION. The plain-data types the machine's state is made of: contexts, cores, gatherings, engine
commands, messages, launches, versions, trees, links. Each field cites the rule of spec/ that names it. -/

namespace Sys2Proof.Machine

/-! ### Contexts -/

/-- The state of a version slot (R170): 0 FREE, 1 OPEN, 2 SEALED. -/
inductive SlotSt where
  | free | opened | sealed
deriving DecidableEq, Repr

/-- One slot of a VERSIONED region's ring: its state, version number and bytes by offset (R170). -/
structure VSlot where
  st   : SlotSt := .free
  ver  : Word32 := 0
  data : SMap Byte := []
deriving DecidableEq, Repr

/-- The ring of a VERSIONED region (R170): one entry for each slot, slot 0 first. -/
structure Ring where
  slots : List VSlot := []
deriving DecidableEq, Repr

/-- The spine state of a context (R13, R27). -/
inductive Spine where
  | free | priv | attached | joining
deriving DecidableEq, Repr

/-- The fields of the REP prefix in progress: count - 1, step mask, stride - 1 (R54). -/
structure Rep where
  count  : BitVec 6
  mask   : BitVec 3
  stride : BitVec 3
deriving DecidableEq, Repr

/-- The registers of a context (R13), its hidden repeat index (R56), random stream (R240) and failure word (R237). -/
structure Regs where
  /-- PC, bits [1:0] always 0 (R13). -/
  pc    : Word := 0
  /-- s0 to s31 (R13). -/
  s     : Vector Word 32 := Vector.replicate 32 0
  /-- v0 to v31 (R13). -/
  v     : Vector VReg 32 := Vector.replicate 32 0
  /-- p0 to p7 (R13); p0 is read as all ones by the accessor. -/
  p     : Vector PReg 8 := Vector.replicate 8 0
  /-- w0 to w3 (R13). -/
  w     : Vector Word32 4 := Vector.replicate 4 0
  /-- acc0 and acc1: element (i, j) of tile t at key 1024 t + 32 i + j (R13). -/
  acc   : SMap AccElem := []
  /-- RI, the hidden repeat index (R56). -/
  ri    : BitVec 6 := 0
  /-- The REP prefix that has issued and whose repeats are in progress (R56). -/
  rep   : Option Rep := none
  /-- STRM, the stream id (R240). -/
  strm  : Word := 0
  /-- POS, the position in the stream (R240). -/
  pos   : Word := 0
  /-- FAILW (R237). -/
  failw : Word32 := 0
deriving DecidableEq, Repr

/-- The per-context control registers that hold a value (R18). CAPS, CID, PCID, CYCLE, DTIME, EQS are computed. -/
structure Ctl where
  tvec     : Word := 0
  tcause   : Word := 0
  tpc      : Word := 0
  tval     : Word := 0
  frm      : BitVec 2 := 0
  fflags   : BitVec 5 := 0
  vdeadl   : Word32 := 0xFFFFFFFF
  bmask    : Word32 := 1
  tree     : BitVec 28 := 0
  fmta     : BitVec 7 := 0
  fmtb     : BitVec 7 := 0
  scla     : BitVec 18 := 0
  sclb     : BitVec 18 := 0
  accbase  : BitVec 10 := 0
  mxovf    : Word32 := 0
  wp0      : Word := 0
  wp1      : Word := 0
  budget   : Word32 := 0xFFFFFFFF
  prioCls  : BitVec 2 := 0
  prioFlr  : BitVec 2 := 0
  rngseed  : Word := 0
deriving DecidableEq, Repr

/-- A message: the 8-byte header of R185 and the 56 bytes of payload (R187). -/
structure Msg where
  hdr     : Word
  payload : BitVec 448
deriving DecidableEq, Repr

/-- The reply target of a context (R189, R191). -/
structure ReplyTo where
  pcid : Cid
  dev  : Byte
  rmt  : Bool
  seq  : BitVec 16
deriving DecidableEq, Repr

/-- A tile task record: ENTRY and A0 to A6 (R38). -/
structure TaskRec where
  entry : Word
  args  : List Word
deriving DecidableEq, Repr

/-- The task a context holds: its launch, its index in the launch's array (none for a spawned record), its record (R38, R203). -/
structure TaskBind where
  launch : Nat
  index  : Option Nat
  trec   : TaskRec
deriving DecidableEq, Repr

/-- A region-table entry (R383), with the partition it belongs to. -/
structure RegionEnt where
  part   : Nat
  base   : Nat
  len    : Nat
  kind   : BitVec 3
  x      : Bool
  fbk    : Bool
  depth  : Nat
  ocls   : Nat
  tenant : Byte
  owner  : Cid
  svc    : Word32
  frec   : Nat
deriving DecidableEq, Repr

/-- A parked versioned load: what it samples at issue (R175, R176). mode 0 EXACT, 1 LE, 2 AGE. -/
structure LdvWait where
  ring     : Nat
  mode     : BitVec 2
  sd       : Reg
  pf       : BitVec 3
  off      : Nat
  size     : Nat
  arg      : Word32
  deadline : Option Nat
  /-- The region, with its fallback policy and record. -/
  reg      : RegionEnt
  /-- Device time of the first seal that resolves it while its tenant is switched out (R177). -/
  sealedAt : Option Nat := none
deriving DecidableEq, Repr

/-- A parked WAITV: the time and limit sampled at issue (R184). -/
structure WaitvWait where
  sd    : Reg
  va    : Word
  size  : Nat
  value : Word
  t0    : Nat
  dl    : Word32
deriving DecidableEq, Repr

/-- A context in JOINING: its join point, destination register and the clock its JOINTO passes (R137). -/
structure JoinWait where
  point : Word
  sd    : Reg
  stopAt : Nat
deriving DecidableEq, Repr

/-- An AMO waiting at its home slice: op code of R67, operands, ordered number (R180, R181). -/
structure AmoReq where
  op    : BitVec 4
  sd    : Reg
  va    : Word
  pa    : Nat
  size  : Nat
  val   : Word
  exp   : Word
  seq   : Option Word32
deriving DecidableEq, Repr

/-- The state of a reduction server (R206). -/
structure RedSrv where
  cfg     : Word
  round   : BitVec 16
  done    : Nat
  mask0   : BitVec 64
  mask1   : BitVec 64
  sending : Bool
deriving DecidableEq, Repr

/-- Why an instruction that will be executed again waits. -/
inductive Why where
  /-- RECV: no receivable entry (R191). -/
  | recv
  /-- RECVF: no entry of the named sender (R191). -/
  | recvf (op : Word)
  /-- A translation miss on the page of va, for an access of this kind (R311, R312, R369). -/
  | walk (va : Nat) (ak : Byte)
  /-- A stash line not yet filled (R162): the stash line number. -/
  | fill (line : Nat)
  /-- A push stalled on a full engine queue or inbox (R81, R193). -/
  | push (e : BitVec 2)
  /-- WAITC on counter k for target t (R238). -/
  | waitc (k : BitVec 2) (t : Word32)
  /-- WAITB, a vote or SSTEP on channel c (R201, R202). -/
  | bar (c : BitVec 5)
  /-- FINISH waiting for the context's engine commands (R204). -/
  | finish
  /-- HANDOVER waiting for the context's engine commands (R167). -/
  | engines
  /-- A device register that does not take the access yet (R314). -/
  | device
  /-- An STV waiting until the loads resolved to its slot have read their data (R172). -/
  | slot
deriving DecidableEq, Repr

/-- What a context is parked on. -/
inductive Wait where
  | none
  | again (w : Why)
  | ldv (w : LdvWait)
  | waitv (w : WaitvWait)
  /-- IDLE: the cycle number and the wait counters sampled at issue (R149). -/
  | idle (cyc : Word) (w : Vector Word32 4)
  | join (w : JoinWait)
  /-- ATTACHED and held at this join point with its stream (R137, R138); sd receives the status. -/
  | hold (point : Word) (sd : Reg)
  /-- An ordered AMO held at its home slice (held = true), or any AMO refused RETRY and to be sent again (R181). -/
  | amo (a : AmoReq) (held : Bool)
  /-- SEND, SENDA, REPLY waiting for the answer (R189). -/
  | send (sd : Reg)
  /-- HANDOVER waiting for the acceptance of its message (R167). -/
  | handover
  /-- A VSFU instruction waiting for its return token (R229). -/
  | sfu
  | redsrv (r : RedSrv)
deriving DecidableEq, Repr

/-- A pending K-class fault record (R369). -/
structure KRec where
  fpc    : Word
  fval   : Word
  code   : Byte
  flags  : Byte
  detail : Byte
  akind  : Byte
  repi   : Byte
  ftime  : Nat
deriving DecidableEq, Repr

/-- What handler dispatch saves (R198); free: the handler was dispatched on a FREE context. -/
structure HSave where
  free   : Bool
  pc     : Word
  ri     : BitVec 6
  frm    : BitVec 2
  fflags : BitVec 5
  cls    : BitVec 2
  s      : Vector Word 32
  p      : Vector PReg 8
  v      : Vector VReg 4
  reply  : Option ReplyTo
  wait   : Wait
  yielded : Bool
deriving DecidableEq, Repr

/-- A context's state on one barrier channel (R200): 0 IDLE, 1 ARRIVED, 2 DONE; its bits for AND and OR, whether
it arrived by SSTEP, and the generation's results once DONE (R201, R202). -/
structure BarSt where
  st    : BitVec 2 := 0
  andB  : Bool := true
  orB   : Bool := false
  sstep : Bool := false
deriving DecidableEq, Repr

/-- An instruction word in a context's drift buffer: its stream position, address and bits (R22). -/
structure Drift where
  pos  : Nat
  addr : Word
  word : Word32
deriving DecidableEq, Repr

/-- The rest of a context: what task it holds and what it waits for. -/
structure Sched where
  spine     : Spine := .free
  task      : Option TaskBind := none
  /-- The launch of the context's previous task, which decides whether the inbox is kept (R13). -/
  lastGraph : Option Nat := none
  tenant    : Byte := 0
  /-- Instruction memory as it stood when the task started (R30). -/
  code      : Memory := []
  /-- The rings of VERSIONED regions as they stood then (R30, R32). -/
  codeV     : SMap Ring := []
  /-- The clock at which that was, and the granules whose contents it keeps apart from the frames (R302). -/
  codeAt    : Nat := 0
  codeG     : List Nat := []
  /-- DOM of the launch packet (R322). -/
  dom       : BitVec 3 := 0
  /-- BUDGET of the launch packet (R322, R335). -/
  pktBudget : Word32 := 0xFFFFFFFF
  /-- The overrun rule of the launching slot (R351), none for a host launch. -/
  rule      : Option (BitVec 2) := none
  exhausted : Bool := false
  /-- The class an exhausted context's next cycle start restores (R335). -/
  savedCls  : Option (BitVec 2) := none
  /-- Frozen by PREEMPT until the next cycle start (R354, R355). -/
  frozen    : Bool := false
  /-- Waiting for the next cycle start after YIELD (R39). -/
  yielded   : Bool := false
  /-- STEALOFF in force (R204). -/
  stealOff  : Bool := false
  /-- A kernel-core context stopped by HALT, or not yet started (R150, R412). -/
  halted    : Bool := false
  wait      : Wait := .none
  susp      : Option KRec := none
  handler   : Option HSave := none
  reply     : Option ReplyTo := none
  /-- The recorded wait-for edge: the named-sender operand (R195). -/
  edge      : Option Word := none
  /-- Device time at which the context parked (R195). -/
  since     : Nat := 0
  /-- CYCLE and device time as a versioned load sampled them at issue, while it waits for a translation (R175). -/
  sampled   : Option (Word × Nat) := none
  /-- Barrier state by channel (R200). -/
  bar       : SMap BarSt := []
  drift     : List Drift := []
  /-- The last stream position accepted (R22). -/
  accepted  : Option Nat := none
  /-- The clock at which the next instruction became ready (R334). -/
  readyAt   : Nat := 0
  /-- The first clock at which the L0 buffer has the next word while the context is not attached (R25). -/
  l0At      : Nat := 0
deriving DecidableEq, Repr

/-- One context (R10, R13). -/
structure Ctx where
  regs  : Regs := {}
  ctl   : Ctl := {}
  /-- The inbox, oldest entry first, at most 16 with the reserved ones (R13, R193). -/
  inbox : List Msg := []
  sched : Sched := {}
deriving DecidableEq, Repr

/-! ### Cores and gatherings -/

/-- A stash mapping (R161, R162, R165). base is a virtual address, frames the physical page of each page,
filled and dirty are stash line numbers. -/
structure Mapping where
  base     : Nat
  spage    : Nat
  npg      : Nat
  zero     : Bool
  nowb     : Bool
  writable : Bool
  owner    : Nat
  graph    : Option Nat
  tenant   : Byte
  frames   : List Nat
  filled   : List Nat
  dirty    : List Nat
deriving DecidableEq, Repr

/-- An engine command in a queue: the patched record w0 to w7, the pool index, the issuer and what it sampled (R231, R113). -/
structure Cmd where
  w       : Vector Word32 8
  idx     : BitVec 15
  cid     : Nat
  tenant  : Byte
  launch  : Option Nat
  ctr     : BitVec 2
  msg     : Bool
  fmta    : BitVec 7
  fmtb    : BitVec 7
  scla    : BitVec 18
  sclb    : BitVec 18
  accbase : BitVec 10
deriving DecidableEq, Repr

/-- A command whose writes are performed and whose completion act is to come (R234): its failure reason, RES0 and RES1 (R235). -/
structure Done where
  cmd    : Cmd
  reason : Byte
  res0   : Word32
  res1   : Word32
deriving DecidableEq, Repr

/-- An engine: its 2-entry queue, oldest first, and its commands awaiting their completion act (R81, R233). -/
structure EngQ where
  queue : List Cmd := []
  done  : List Done := []
  /-- How much of the oldest command has been performed (R236, R254, R255): acts done, and stream bytes consumed by CP.DECODE. -/
  prog  : Nat := 0
  aux   : Nat := 0
deriving DecidableEq, Repr

/-- A handler-table entry (R197). -/
inductive HState where
  | empty | writing | valid
deriving DecidableEq, Repr

/-- A handler-table entry: its state, entry PC and the tenant that wrote it (R197). -/
structure HEntry where
  st     : HState := .empty
  pc     : Word := 0
  tenant : Byte := 0
deriving DecidableEq, Repr

/-- A task-deque or ready-ring entry (R203, R329), and the clock at which it was pushed (R333). -/
structure Queued where
  launch : Nat
  index  : Option Nat
  trec   : TaskRec
  age    : Nat := 0
deriving DecidableEq, Repr

/-- A steal request in flight: the thief's context slot and the victims still to try, as core keys (R331). -/
structure Steal where
  slot    : BitVec 2
  victims : List Nat
deriving DecidableEq, Repr

/-- A translation held in a TLB: its tenant, page, page size (log2), frame; written: D is set (R311, R313). -/
structure Tlb where
  tenant  : Byte
  va      : Nat
  log2    : Nat
  pa      : Nat
  written : Bool
deriving DecidableEq, Repr

/-- A capability-table entry (R384), with the tenant it belongs to. -/
structure CapEnt where
  tenant : Byte
  typ    : Byte
  rights : Byte
  w4     : Word32
  w8     : Word
deriving DecidableEq, Repr

/-- The state a core's contexts share (R16). -/
structure Core where
  /-- The 256 KiB stash by byte offset (R16). -/
  stash    : SMap Byte := []
  maps     : List Mapping := []
  /-- Engine queues by engine number: 0 matrix unit, 1 and 2 copy channels, 3 sum-tree port (R77). -/
  eng      : SMap EngQ := []
  /-- HTAB.SLOT and HTAB.EN (R196). -/
  htSlot   : BitVec 2 := 0
  htEn     : Bool := false
  /-- The 64 handler-table entries (R197). -/
  handlers : SMap HEntry := []
  /-- The task deque, oldest first; the owner end is the end of the list (R203). -/
  deque    : List Queued := []
  /-- MXIDLE (R18, R252). -/
  mxidle   : Word := 256
  /-- The clock from which matrix idleness is counted, and whether the sub-arrays are gated (R252). -/
  mxSince  : Nat := 0
  mxGated  : Bool := false
  /-- The data TLB (R313). -/
  tlb      : List Tlb := []
  /-- Region and capability entries cached by the core's gate (R386). -/
  gateR    : List RegionEnt := []
  gateC    : List CapEnt := []
  steal    : Option Steal := none
  /-- The clock at which a new steal round may start (R331). -/
  stealAt  : Nat := 0
  /-- The last clock in which the core issued an instruction (R334). -/
  issuedAt : Option Nat := none
  /-- Stash words that are poisoned (R300). -/
  bad      : List Nat := []
deriving DecidableEq, Repr

/-- A spine stream (R22 to R28, R137 to R139). -/
structure Stream where
  running  : Bool := false
  /-- The address of the next word to deliver. -/
  nextPc   : Word := 0
  /-- The next stream position (R22). -/
  pos      : Nat := 0
  /-- The straggler mask (R26). -/
  strag    : Byte := 0
  /-- The stream's class (R137, R139). -/
  cls      : BitVec 2 := 0
  /-- The join point the stream is at (R137). -/
  atJoin   : Option Word := none
  /-- While the stream holds: the clock at which JOINTO passes (R138). -/
  holdTo   : Option Nat := none
  /-- Positions of words whose next PC depends on data, with the leader's next PC once known (R24). -/
  outcomes : List (Nat × Option Word) := []
  /-- By position: the status a delivered JOIN or ATTACH returns to attached contexts (R137), and what a delivered GANG reads,
  its STATE apart (R143). -/
  status   : List (Nat × Nat) := []
deriving DecidableEq, Repr

/-- An entry of the rejoin queue (R16, R140). -/
structure Rejoin where
  start  : Word32
  stop   : Word32
  tag    : Word32
  donor  : Cid
  launch : Option Nat
deriving DecidableEq, Repr

/-- A request entry of a special-function unit (R229): function of R228, destination, operand lanes, predicate, z, rounding
mode, arrival clock, and whether the SFU has started it. -/
structure SfuReq where
  cid     : Nat
  tenant  : Byte
  fn      : BitVec 3
  vd      : Reg
  ops     : VReg
  pred    : PReg
  z       : Bool
  frm     : BitVec 2
  arrival : Nat
  started : Option Nat
deriving DecidableEq, Repr

/-- The name of a line of instructions: a tenant's virtual line, or a physical line of the micro-kernel (R288; log entry 19). -/
structure CodeTag where
  kern   : Bool
  tenant : Byte
  line   : Nat
deriving DecidableEq, Repr

/-- A line of an L1 instruction cache (R288): its 64 bytes, and the clock from which they are the instruction memory's. -/
structure CodeLine where
  tag   : CodeTag
  since : Nat
  data  : List Byte
deriving DecidableEq, Repr

/-- A gathering (R16): the spine's four streams, the rejoin queue, two SFUs, and the shared TLB (R313). -/
structure Gath where
  /-- Device time of the last load averaging (R333). -/
  lavgAt  : Nat := 0
  streams : SMap Stream := []
  /-- The last clock in which the spine delivered, and the streams it decoded then (R22). -/
  decAt   : Nat := 0
  decs    : List Nat := []
  rejoin  : List Rejoin := []
  sfu0    : List SfuReq := []
  sfu1    : List SfuReq := []
  tlb     : List Tlb := []
  /-- The L1 instruction cache, and the L0 buffers by core number (R25, R287). -/
  l1i     : List CodeLine := []
  l0      : SMap (List CodeTag) := []
deriving DecidableEq, Repr

/-! ### Versions, capabilities, atomics, trees -/

/-- Who holds a writer capability (R33, R168). -/
inductive Holder where
  /-- The tenant's kernel-core service. -/
  | service
  | ctx (cid : Nat)
  /-- The cycle engine, for a process image (R344). -/
  | cycle
  /-- A HANDOVER message to this context has not been dequeued (R168). -/
  | moving (cid : Nat)
  /-- A context of this tenant whose state is saved off its slot holds it, or is to dequeue it (R336). -/
  | saved (t : Byte) (cid : Nat)
  | savedMoving (t : Byte) (cid : Nat)
deriving DecidableEq, Repr

/-- The registers of a configured sum-tree (R257); key names the tree, tb its base address. -/
structure Tree where
  key     : Nat
  tenant  : Byte
  tb      : Nat
  l       : Nat
  total   : Nat
  pmin    : Word32
  ncount  : Word32
  beta    : Word32
  tstale  : Word32
  cursor  : Word32
  nextlsn : Word32
  seed    : Word
  /-- Slots that have been inserted at least once: the slots below this number, or all (R260). -/
  used    : Nat
deriving DecidableEq, Repr

/-- A tree command the port has forwarded (R233, R259): its core, whether it is held at its tree, how often it was refused RETRY and
the clock it may be sent again at (R190). -/
structure TreeCmd where
  core    : Nat
  cmd     : Cmd
  held    : Bool
  refused : Nat
  ready   : Nat := 0
deriving DecidableEq, Repr

/-! ### Messages -/

/-- What a message in flight was sent for. -/
inductive Purpose where
  /-- SEND, SENDA, REPLY: the register the answer goes to (R189). -/
  | send (sd : Reg)
  /-- HANDOVER of the region at va, whose capability has this key (R167). -/
  | handover (va : Word) (key : Nat)
  /-- A reduction server's forward (R209). -/
  | reduce
deriving DecidableEq, Repr

/-- The answer a flight carries. -/
inductive Answer where
  | pending
  | accepted
  | refused (hdr : Word)
  /-- Waiting for its next resend (R190): the clock it may be sent at. -/
  | backoff (clk : Nat)
deriving DecidableEq, Repr

/-- A message in flight, or one that waits to be sent again (R188 to R190). src none: another device sent it. -/
structure Flight where
  src     : Option Nat
  tenant  : Byte
  part    : Nat
  launch  : Option Nat
  msg     : Msg
  /-- Destination device, when the destination is on another device (R186). -/
  remote  : Option Byte
  purpose : Purpose
  answer  : Answer
  resends : Nat
  /-- The sender was terminated: the answer is dropped (R373). -/
  dead    : Bool
deriving DecidableEq, Repr

/-! ### Launches and images -/

/-- Where a launch came from (R321). -/
inductive Source where
  | queue (q : Nat) (ridx : Nat)
  | slot (d : Nat) (x : Nat)
deriving DecidableEq, Repr

/-- A launch packet's fields (R322). -/
structure Packet where
  graph  : Word
  crec   : Word
  errq   : Word
  budget : Word32
  tag    : Word32
  flags  : Byte
  dom    : Byte
  pcore  : BitVec 16
  rest   : Bool
deriving DecidableEq, Repr

/-- A graph descriptor's fields (R324). -/
structure Graph where
  tasks  : Word
  deps   : Word
  succ   : Word
  grant  : Word
  pool   : Word
  tvec   : Word
  ntask  : Word32
  nsucc  : Word32
  ngrant : Byte
  rest   : Bool
deriving DecidableEq, Repr

/-- A running or waiting launch (R321 to R332). -/
structure Launch where
  id      : Nat
  tenant  : Byte
  part    : Nat
  src     : Source
  /-- The address the packet was read from (R381). -/
  pkt     : Word
  packet  : Packet
  graph   : Graph
  image   : Nat
  /-- PBASE and PLEN taken at launch (R328). -/
  pbase   : Nat
  plen    : Nat
  rule    : Option (BitVec 2)
  /-- Live dependence counts of the tasks that are not yet ready (R325). -/
  live    : SMap Nat
  /-- Tasks ready and not started, deterministic mode (R328). -/
  ready   : List Nat
  started : List Nat
  ended   : List Nat
  /-- The ready ring, oldest first (R329). -/
  ring    : List Queued
  /-- Task records armed in the launch buffer (R352). -/
  armed   : List TaskRec
deriving DecidableEq, Repr

/-- A loaded folio image (R97, R98). -/
structure Image where
  id     : Nat
  tenant : Byte
  base   : Nat
  size   : Nat
  text   : Nat
  poolAt : Nat
  nrec   : Nat
  modes  : Byte
  /-- The sections' regions as (offset, pages), to unmap them (R98). -/
  parts  : List (Nat × Nat)
deriving DecidableEq, Repr

/-! ### Memory system -/

/-- The owner a directory entry names (R291). -/
inductive DirOwner where
  | none | core (g c : Nat) | cpc | io
deriving DecidableEq, Repr

/-- MOESI (R291). -/
inductive Moesi where
  | i | s | e | o | m
deriving DecidableEq, Repr

/-- A directory entry (R291): state, owner and the 66-bit sharer vector. -/
structure DirEnt where
  st      : Moesi := .i
  owner   : DirOwner := .none
  sharers : BitVec 66 := 0
deriving DecidableEq, Repr

/-- A way of an L2 slice's data array: its line number and the CID it is tagged with, none for the system tag (R295); spill: it holds the
directory entry of that line instead (R294). -/
structure L2Line where
  line  : Nat
  tag   : Option Nat
  spill : Bool := false
deriving DecidableEq, Repr

/-- A line of an L1 data cache or of the control processor chiplet's cache (R287, R292): dirty, and the context that wrote it. -/
structure L1Line where
  line  : Nat
  dirty : Bool
  cid   : Option Nat
deriving DecidableEq, Repr

/-- The data caches (R287, R292): the L2 data arrays, most recently used first, the L1 data caches by core key, the CPC's cache. -/
structure Caches where
  l2  : List L2Line := []
  l1  : SMap (List L1Line) := []
  cpc : List L1Line := []
deriving DecidableEq, Repr

/-- Who waits on a walk (R312): a context, or an engine of a core. -/
inductive Requester where
  | ctx (cid : Nat)
  | engine (core : Nat) (e : Nat)
  /-- The launch unit or another unit of the device. -/
  | unit
deriving DecidableEq, Repr

/-- A walk: its die, the partition and tenant it is for, virtual address, log2 of the page it lies in, whether the access writes, who waits,
whether the walker has started it (R311, R312). -/
structure Walk where
  die     : Nat
  part    : Option Nat
  tenant  : Byte
  va      : Nat
  log2    : Nat
  write   : Bool
  reqs    : List Requester
  started : Bool
deriving DecidableEq, Repr

/-- A queued move of a granule (R303, R304): up-move or down-move, demanded by a walk or not. -/
structure Move where
  gran   : Nat
  up     : Bool
  demand : Bool
  /-- A down-move that has begun: its leaf entry, now MOVING, and what it held (R303). -/
  leaf   : Option (Nat × Nat) := none
deriving DecidableEq, Repr

/-- A write of a unit of the device to a page that is away, performed when the page is back (R304): n bytes, or a handler packet (R381). -/
inductive Post where
  | write (t : Byte) (va n v : Nat)
  | packet (t : Byte) (errq : Nat) (q : Option Nat) (bytes : List Byte)
deriving DecidableEq, Repr

/-- A page pull of post-copy migration in flight (R315): tenant, page, its size, the source page and when it was sent. -/
structure Pull where
  tenant : Byte
  va     : Nat
  leaf   : Nat
  size   : Nat
  srcPa  : Nat
  sent   : Nat
  /-- A walk asked for it. -/
  demand : Bool
  /-- The page has arrived and waits for a frame (R306). -/
  page   : Option (List Byte) := none
deriving DecidableEq, Repr

/-- A partition while its tenant is switched (R306, R337). -/
structure PartSt where
  /-- The outgoing and incoming tenant of the switch in progress. -/
  swOut   : Option Byte := none
  swIn    : Option Byte := none
  /-- Granules of the incoming record still to move up, in record order. -/
  todo    : List Nat := []
  /-- The incoming and the outgoing record. -/
  recIn   : List Nat := []
  recOut  : List Nat := []
  /-- Every member of the tenant is held at its SSTEP: the superstep boundary (R202). -/
  held    : Bool := false
  /-- Issue has stopped for the tenant: the in-flight count was seen at zero (R202). -/
  stopped : Bool := false
  /-- Candidates already skipped in this switch (R337). -/
  skipped : List Byte := []
  /-- The incoming tenant's WSRCTL before its other buffer started, for when it is skipped (R305, R337). -/
  wsrWas  : Word := 0
  /-- After a skip: the outgoing tenant's residency is being restored (R337). -/
  restoring : Bool := false
  /-- The pending request's resize has been carried out, and its switch has not (R320). -/
  resized : Bool := false
  /-- Device time of the pending request, and since when the running tenant runs (R320, R337). -/
  reqAt   : Nat := 0
  runAt   : Nat := 0
deriving DecidableEq, Repr

/-- A tenant's saved stash on one core (R166), and its saved deque (R329). -/
structure StashSave where
  tenant : Byte
  core   : Nat
  stash  : SMap Byte
  maps   : List Mapping
  deque  : List Queued
  bad    : List Nat := []
deriving DecidableEq, Repr

/-- The state of a slot saved when SLOTMAP gives it to another tenant (R336). -/
structure SlotSave where
  tenant : Byte
  cid    : Nat
  ctx    : Ctx
deriving DecidableEq, Repr

/-- A message held in a tenant's memory-backed inbox (R194). -/
structure HeldMsg where
  tenant : Byte
  cid    : Nat
  msg    : Msg
deriving DecidableEq, Repr

/-! ### Cycle engine and links -/

/-- A cycle domain's running state (R342 to R345). -/
structure Dom where
  en      : Bool := false
  /-- EN = 0 was written: it stops at the next cycle start (R343). -/
  stop    : Bool := false
  ever    : Bool := false
  /-- The current cycle number (R342). -/
  cyc     : Word := 0
  /-- The cycle whose latch comes next. -/
  latch   : Word := 0
  /-- The cycle whose egress comes next. -/
  egress  : Word := 0
  /-- CDIMG of the last enable (R344). -/
  area    : Option Word := none
deriving DecidableEq, Repr

/-- A launch-table slot's check result and arming, kept beside its registers (R352, R353): the running instance and deferral. -/
structure SlotInst where
  launch   : Option Nat := none
  deferred : Bool := false
  armed    : List TaskRec := []
  /-- The descriptor copied when the slot was armed (R352). -/
  graph    : Option Graph := none
  /-- Instants passed since the domain's first cycle (R353). -/
  instants : Nat := 0
deriving DecidableEq, Repr

/-- Per-filter state: the 802.1CB recovery history (last number and 32-bit history), the stream's frame number (R346, R349),
and sequence-bound frames held for the next opening (R347). -/
structure FilterSt where
  last    : Option (BitVec 16) := none
  hist    : Word32 := 0
  frameNo : Word32 := 0
  held    : List (List Byte) := []
deriving DecidableEq, Repr

/-- A flow meter's token state: credit in millionths of a bit, and the time it was brought up to date (R346). -/
structure MeterSt where
  tokens : Nat := 0
  asOf   : Nat := 0
  fresh  : Bool := true
deriving DecidableEq, Repr

/-- A frame queued at, or sent from, a TSN port (R357). -/
structure OutFrame where
  stream : Nat
  cls    : BitVec 3
  bytes  : List Byte
  /-- Device time at which it was sent, to 8 ns (R340). -/
  stamp  : Nat := 0
deriving DecidableEq, Repr

/-- A TSN port: gate-control position and mask, queued frames and frames sent (R357). -/
structure Port where
  entry  : Nat := 0
  mask   : Byte := 0xFF
  /-- Device time at which the frame it is sending ends. -/
  busy   : Nat := 0
  queue  : List OutFrame := []
  sent   : List OutFrame := []
deriving DecidableEq, Repr

/-- A version window's resolution in progress (R359). -/
structure VWin where
  ring     : Nat := 0
  /-- The slot the pinned version stands in. -/
  slot     : Nat := 0
  size     : Nat := 0
  mode     : BitVec 2 := 0
  arg      : Word32 := 0
  deadline : Option Nat := none
  fbk      : Bool := false
  frec     : Nat := 0
deriving DecidableEq, Repr

/-- A digest of an output version (R362): domain, version, SHA-256. -/
structure Digest where
  d : Nat
  u : Word32
  h : BitVec 256
deriving DecidableEq, Repr

/-- A PAIRSET region as a resynchronisation carries it (R364): its PAIRSET register, its bytes, its version ring with the stamps, its next(x)
values by 8-byte word of the region, its sum-trees. -/
structure PairData where
  setw  : Word
  bytes : List Byte
  ring  : List VSlot
  seqs  : List (Nat × Word32)
  trees : List Tree
deriving DecidableEq, Repr

/-- The redundant pair's running state (R361 to R365). -/
structure PairSt where
  mine   : List Digest := []
  theirs : List Digest := []
  /-- Versions sent unverified, awaiting a later digest (R362). -/
  unver  : List (Nat × Word32) := []
  heard  : Nat := 0
  /-- Domains in which a mismatch was found after transmission: it acts at the next instant (R362). -/
  late   : List Nat := []
  /-- Domains whose output tenant a resynchronisation keeps from launching until their restart cycle (R364). -/
  holding : List Nat := []
  /-- The restart cycle of each domain of a resynchronisation (R364). -/
  restart : List (Nat × Word) := []
deriving DecidableEq, Repr

/-- A die-to-die link end's running state (R398, R400). -/
structure LinkSt where
  /-- WID and UCMAP as they stood at the RETRAIN (R398, R448). -/
  wid       : Nat := 0
  umap      : Word := 0
  /-- Retries counted in a 1 ms interval, and which one: its device time in units of 1 ms (R400). -/
  count     : Nat := 0
  period    : Nat := 0
  /-- A RETRAIN written in ACTIVE: pausing leads to training, and training to ACTIVE (R398). -/
  retrain   : Bool := false
  fromAct   : Bool := false
  /-- Device time of the PAUSE. -/
  since     : Nat := 0
deriving DecidableEq, Repr

/-- A virtual function (R389, R403): the tenant it is bound to, VWIN, VINT. -/
structure VFun where
  tenant : Option Byte := none
  vwin   : Word := 0
  vint   : Word := 0
  /-- What the function's last read completed with; none for an Unsupported Request. -/
  data   : Option Word := none
deriving DecidableEq, Repr

/-- The privilege of a hart (R395); after reset M (PRESUMED, log entry 76). -/
inductive HartMode where
  | u | s | m
deriving DecidableEq, Repr

/-- A hart of the control processor chiplet, as memory sees it (R280, R375, R394): its reservation, the value its last access returned, its
pending interrupts, its mode, and the code with which its last access faulted (R32, R158), 0 for none. -/
structure Hart where
  resv  : Option Nat := none
  val   : Word := 0
  irq   : Nat := 0
  run   : Bool := false
  mode  : HartMode := .m
  fault : Byte := 0
deriving DecidableEq, Repr

/-- Traffic this package has sent to the outside: pulls answered, digests, recovery images, pair copies (R407). -/
inductive Outbound where
  | message (dev : Byte) (m : Msg)
  | page (dev : Byte) (pa : Nat) (data : Option (List Byte))
  | pull (dev : Byte) (pa : Nat) (size : Nat)
  | digest (x : Digest)
  | image (port : Nat) (img : List Byte)
  /-- A request for a resynchronisation, a region of one, and its restart cycles by domain (R364). -/
  | pairAsk
  | pairCopy (x : PairData)
  | pairStart (l : List (Nat × Word))
  | alert (hart : Nat)
  | internalError
deriving DecidableEq, Repr

/-- What the environment's schedule, or the autonomous scheduler, lets happen next. -/
inductive Turn where
  /-- The context issues its next instruction if it is ready (R334). -/
  | issue (cid : Nat)
  /-- One of the part's own steps happens. -/
  | event (i : Instr)
  /-- Clocks pass (R2). -/
  | elapse (clocks : Nat)
  /-- A message of another device reaches this package (R185, R407). -/
  | inbound (f : Flight)
  /-- The answer of another device to a message in flight reaches this package (R189, R407). -/
  | answer (n : Nat) (a : Answer)
  /-- A line of memory is marked poisoned (R299). -/
  | poison (line : Nat)
  /-- A memory channel counts a corrected or uncorrectable error (R301). -/
  | eccError (ch : Nat) (line : Nat) (uncorr : Bool)
  /-- A detected error that cannot be corrected in a line held by an L1 data cache or an L2 slice poisons it (R300). -/
  | cacheError (line : Nat)
  /-- One in a word of a core's stash (R300). -/
  | stashError (k : Nat) (w : Nat)
  /-- A receive lane of a link end counts an error (R399). -/
  | laneError (m : LinkEnd) (lane : Nat)
  /-- The host or an expander writes a byte of its own memory (R286). -/
  | hostByte (pa : Nat) (b : Byte)
  /-- The host or expander link goes down or comes up (R304, R406). -/
  | hostLink (down : Bool)
  /-- A region, and the restart cycles, of a resynchronisation arrive from the partner (R364). -/
  | pairData (x : PairData)
  | pairStart (l : List (Nat × Word))
  /-- A hart of the control processor chiplet changes its privilege (R394, R395). -/
  | hartMode (h : Nat) (mode : HartMode)
  /-- The host reads a register of a function's BAR0, or writes VWIN of a virtual one (R403). -/
  | bar0Read (fn off : Nat)
  | vwin (fn : Nat) (v : Word)
  /-- Flash contents are given (R413). -/
  | flash (img : List Byte)
  /-- The kernel-core service binds a virtual function to a tenant (R389). -/
  | bindVf (fn : Nat) (t : Option Byte)
  /-- The runtime raises the fused minimum SVNMIN (R411); a lower value than the one in force changes nothing. -/
  | raiseSvn (n : Nat)
deriving DecidableEq, Repr

end Sys2Proof.Machine
end

