-- ==== Sys2Proof/Machine/State.lean ====
section
/-! DEFINITION. The state of the whole part as plain data, what can stop it, and the state after reset. What
each field is for and its reset value stand in INVENTORY.md. -/

namespace Sys2Proof.Machine

/-- Why a step ends in a stuck state. -/
inductive Fault where
  /-- Raised by step alone, when module 4 of the I/O die is DOWN (R398) or STAGE is 6 (R409): the manual says the
  part must be reset, and gives no further step. Safe: the model stops where the part does. -/
  | mustBeReset
deriving DecidableEq, Repr

/-- Why the model answers nothing. -/
inductive Refusal where
  /-- Raised by an arm of exec whose meaning has not been written. Safe: the model stops where the part goes on. -/
  | notModelled (mnemonic : String)
deriving DecidableEq, Repr

/-- The state of the part. -/
structure State where
  /-- What the surroundings let happen next (the model's own; log entry 1). -/
  agenda  : List Turn := []
  /-- The CID of the context whose word is issuing (the model's own). -/
  cur     : Nat := 0
  /-- Clocks since reset (R2). -/
  clk     : Nat := 0
  /-- Device time in ns (R340). -/
  dtime   : Nat := 0
  /-- Device time below 1 ns, in parts of 24,000,000 (the model's own), and its rate in parts per million (R340). -/
  frac    : Nat := 0
  rate    : Nat := 1000000
  /-- The counter free values are drawn with (the model's own; log entry 7). -/
  draw    : Nat := 0
  /-- Contexts by CID (R10). -/
  ctxs    : SMap Ctx := []
  /-- Cores by 16 g + c (R16). -/
  cores   : SMap Core := []
  /-- Gatherings by number (R16). -/
  gaths   : SMap Gath := []
  /-- Memory by physical address (R285). -/
  mem     : Memory := []
  /-- Poisoned lines, by line number (R299). -/
  poison  : List Nat := []
  /-- Control-window registers by physical address (R394, R452); an unlisted one holds its reset value. -/
  win     : SMap Word := []
  /-- Version rings by region key (R170). -/
  rings   : SMap Ring := []
  /-- Writer-capability holders by region key (R33). -/
  holders : SMap Holder := []
  /-- next(x) by 8-byte word number (R180). -/
  seqs    : SMap Word32 := []
  /-- Configured sum-trees (R257). -/
  trees   : List Tree := []
  /-- Tree commands at the slices, by id, oldest first (R259). -/
  treeQ   : List (Nat × TreeCmd) := []
  /-- Messages in flight or waiting to be resent, by id (R188 to R190). -/
  flights : List (Nat × Flight) := []
  /-- Memory-backed inboxes, oldest first (R194). -/
  meminbox : List HeldMsg := []
  /-- Launches, oldest first (R321). -/
  launches : List Launch := []
  /-- Loaded images (R97), and the numbers of those to be unmapped once their graphs are done (R98). -/
  images  : List Image := []
  unmaps  : List Nat := []
  /-- The next number given to a launch, image, message, walk or pull (the model's own). -/
  nextId  : Nat := 1
  /-- Cycle domains (R342). -/
  doms    : SMap Dom := []
  /-- Launch-table instances by 256 d + s (R353). -/
  slotI   : SMap SlotInst := []
  /-- Stream filters' state (R346, R347). -/
  filters : SMap FilterSt := []
  /-- Flow meters' state (R346). -/
  meters  : SMap MeterSt := []
  /-- TSN ports (R357). -/
  ports   : SMap Port := []
  /-- Version windows (R359). -/
  vwins   : SMap VWin := []
  /-- The redundant pair (R361). -/
  pair    : PairSt := {}
  /-- Die-to-die link ends by 8 die + u (R398, R400). -/
  links   : SMap LinkSt := []
  /-- Partitions (R306, R337). -/
  parts   : SMap PartSt := []
  /-- Walks waited for, by id (R311, R312). -/
  walks   : List (Nat × Walk) := []
  /-- Moves queued, in order (R303, R304). -/
  moves   : List Move := []
  /-- Granules in the order in which up-moves brought them, oldest first (R306). -/
  upOrder : List Nat := []
  /-- Writes that wait for a page (R304). -/
  posts   : List Post := []
  /-- Page pulls in flight, by id (R315). -/
  pulls   : List (Nat × Pull) := []
  /-- Directory entries by line number (R291). -/
  dir     : SMap DirEnt := []
  /-- What the data caches hold (R287, R292, R295). -/
  caches  : Caches := {}
  /-- Stashes and deques of tenants that are switched out (R166, R329). -/
  stashes : List StashSave := []
  /-- Tenants whose current record buffer is the second one (R305). -/
  wsrBuf  : List Byte := []
  /-- Saved contexts of reassigned slots (R336). -/
  slots   : List SlotSave := []
  /-- Virtual functions by number (R403). -/
  vfs     : SMap VFun := []
  /-- CPC harts by id (R280, R395). -/
  harts   : SMap Hart := []
  /-- Device time of the last Sync, and whether device time has been set (R340). -/
  syncAt  : Nat := 0
  locked  : Bool := false
  /-- The boot flash (R413). -/
  flash   : List Byte := []
  /-- The accepted firmware image (R412). -/
  firmware : List Byte := []
  /-- The fused minimum SVN (R411). -/
  svnMin  : Nat := 0
  /-- A requested power envelope that is not yet in force (R414). -/
  envReq  : Option (BitVec 2) := none
  /-- What the last read of a control window returned (the model's own). -/
  bus     : Word := 0
  /-- What the package has sent to the outside, newest first (R407). -/
  sent    : List Outbound := []
  /-- The host or expander link through which tier slots are reached is down (R304). -/
  tierDown : Bool := false
  /-- The part must be reset (R398, R409). -/
  dead    : Bool := false
deriving DecidableEq, Repr

/-- The machine right after reset: every field at the value INVENTORY.md names. -/
def State.reset : State := {}

/-- What an instruction or a step answers. -/
abbrev Out := Host.Outcome State Fault Refusal

end Sys2Proof.Machine
end

