-- ==== Sys2Proof/Machine/Windows.lean ====
section
/-! DEFINITION. The control windows (R394, R452): where each register lies, its reset value, and reading and
writing one whole register without its side effects. -/

namespace Sys2Proof.Machine

/-- A register of compute die d's window (R285, R394). -/
def dieReg (d off : Nat) : Nat := 0x20000000000 + d * 0x1000000 + off

/-- A register of the I/O die's window (R394). -/
def ioReg (off : Nat) : Nat := 0x20008000000 + off

/-- The register blocks of die-to-die module u: end die 0 to 3 a compute die, 4 the I/O die (R399). -/
def ucReg (die u off : Nat) : Nat :=
  if die < 4 then dieReg die (0x800000 + 0x1000 * u + off) else ioReg (0x700000 + 0x1000 * u + off)

/-- Which window a physical address lies in: a compute die's offset, or the I/O die's, or the security block's (R394). -/
inductive WinAt where
  | die (d off : Nat)
  | io (off : Nat)
  | security (off : Nat)
  | none
deriving DecidableEq, Repr

/-- The window of a physical address (R394). -/
def winAt (pa : Nat) : WinAt :=
  if 0x20000000000 ≤ pa ∧ pa < 0x20004000000 then
    .die ((pa - 0x20000000000) / 0x1000000) ((pa - 0x20000000000) % 0x1000000)
  else if 0x20008000000 ≤ pa ∧ pa < 0x20010000000 then .io (pa - 0x20008000000)
  else if 0x20010000000 ≤ pa ∧ pa < 0x20010100000 then .security (pa - 0x20010000000)
  else .none

/-- The reset value of the register at a physical address, by the register tables (R301, R320, R349, R361, R399). -/
def winReset (pa : Nat) : Word :=
  match winAt pa with
  | .die d off =>
    if 0x100000 ≤ off ∧ off < 0x110000 ∧ off % 0x1000 < 8 * 36 then 0x8000
    else if 0x200000 ≤ off ∧ off < 0x200800 ∧ off % 0x100 = 0x10 then 24
    else if d = 0 ∧ 0x400000 ≤ off ∧ off < 0x404000 ∧ off % 0x40 = 0x18 then 192
    else if d = 0 ∧ off = 0x601000 then 20
    else if 0x800000 ≤ off ∧ off < 0x803000 ∧ off % 0x1000 = 8 then 0x1000
    else 0
  | .io off =>
    if 0x1C0000 ≤ off ∧ off < 0x1C0800 ∧ off % 0x20 = 0x18 then 0xFFFFFFFFFFFFFFFF
    else if off = 0x500000 then 0x3E80000
    else if 0x700000 ≤ off ∧ off < 0x705000 ∧ off % 0x1000 = 8 then 0x1000
    else 0
  | _ => 0

/-- A register as it stands. -/
def State.win! (s : State) (pa : Nat) : Word := SMap.read (winReset pa) s.win pa

/-- A register written. -/
def State.setWin (s : State) (pa : Nat) (v : Word) : State :=
  { s with win := SMap.write (winReset pa) s.win pa v }

/-- A field of a register written. -/
def State.setWinFld (s : State) (pa lo n v : Nat) : State := s.setWin pa (putFld (s.win! pa) lo n v)

/-! Registers by name. -/

def rPCFG (p : Nat) : Nat := dieReg 0 (0x600000 + 0x40 * p)
def rPREQ (p : Nat) : Nat := dieReg 0 (0x600008 + 0x40 * p)
def rPSTAT (p : Nat) : Nat := dieReg 0 (0x600010 + 0x40 * p)
def rRTBASE (p : Nat) : Nat := dieReg 0 (0x600018 + 0x40 * p)
def rRTLEN (p : Nat) : Nat := dieReg 0 (0x600020 + 0x40 * p)
def rLAVG : Nat := dieReg 0 0x601000
def rCTBASE (t : Nat) : Nat := dieReg 0 (0x700000 + 0x10 * t)
def rCTLEN (t : Nat) : Nat := dieReg 0 (0x700008 + 0x10 * t)
def rXROOT (t : Nat) : Nat := dieReg 0 (0x400000 + 0x40 * t)
def rWSRBASE (t : Nat) : Nat := dieReg 0 (0x400008 + 0x40 * t)
def rWSRCTL (t : Nat) : Nat := dieReg 0 (0x400010 + 0x40 * t)
def rRESTHR (t : Nat) : Nat := dieReg 0 (0x400018 + 0x40 * t)
def rTQUOTA (t : Nat) : Nat := dieReg 0 (0x400020 + 0x40 * t)
def rTSTAT (t : Nat) : Nat := dieReg 0 (0x400028 + 0x40 * t)
def rMIGCTL (t : Nat) : Nat := dieReg 0 (0x400030 + 0x40 * t)
def rTSLICE (t : Nat) : Nat := dieReg 0 (0x400038 + 0x40 * t)
def rTMBASE : Nat := dieReg 0 0x300000
def rTSBASE : Nat := dieReg 0 0x300008
def rNGRAN : Nat := dieReg 0 0x300010
def rFRBASE : Nat := dieReg 0 0x300018
def rFFBASE : Nat := dieReg 0 0x300020
def rFFCNT : Nat := dieReg 0 0x300028
def rXINV : Nat := dieReg 0 0x500000
def rXINVST : Nat := dieReg 0 0x500008
def rGINVST (d : Nat) : Nat := dieReg d 0x500018
def rMECNT (ch : Nat) : Nat := dieReg (ch / 8) (0x200000 + 0x100 * (ch % 8))
def rMELAST (ch : Nat) : Nat := dieReg (ch / 8) (0x200008 + 0x100 * (ch % 8))
def rSCRUB (ch : Nat) : Nat := dieReg (ch / 8) (0x200010 + 0x100 * (ch % 8))
def rPTPCTL : Nat := ioReg 0
def rPTPST : Nat := ioReg 8
def rCD (d off : Nat) : Nat := ioReg (0x010000 + 0x100 * d + off)
def rCDLEN (d : Nat) : Nat := rCD d 0
def rCDT0 (d : Nat) : Nat := rCD d 8
def rCDBASE (d : Nat) : Nat := rCD d 0x10
def rCDOFS (d : Nat) : Nat := rCD d 0x18
def rCDIMG (d : Nat) : Nat := rCD d 0x20
def rCDOUT (d : Nat) : Nat := rCD d 0x28
def rCDCTL (d : Nat) : Nat := rCD d 0x30
def rCDSTAT (d : Nat) : Nat := rCD d 0x38
def rCDCYC (d : Nat) : Nat := rCD d 0x40
def rSF (f off : Nat) : Nat := ioReg (0x100000 + 0x40 * f + off)
def rMTCFG (m : Nat) : Nat := ioReg (0x180000 + 0x10 * m)
def rBR (r off : Nat) : Nat := ioReg (0x1C0000 + 0x20 * r + off)
def rSLOTA (d x : Nat) : Nat := ioReg (0x200000 + 0x2000 * d + 0x20 * x)
def rSLOTB (d x : Nat) : Nat := ioReg (0x200008 + 0x2000 * d + 0x20 * x)
def rSLOTST (d x : Nat) : Nat := ioReg (0x200010 + 0x2000 * d + 0x20 * x)
def rEG (e off : Nat) : Nat := ioReg (0x300000 + 0x20 * e + off)
def rGCLCTL (p : Nat) : Nat := ioReg (0x380000 + 0x1000 * p)
def rGCL (p i : Nat) : Nat := ioReg (0x380100 + 0x1000 * p + 8 * i)
def rVW (w off : Nat) : Nat := ioReg (0x400000 + 0x40 * w + off)
def rPAIRCTL : Nat := ioReg 0x500000
def rPAIRST : Nat := ioReg 0x500008
def rPAIRSET (i : Nat) : Nat := ioReg (0x500100 + 8 * i)
def rLQ (q off : Nat) : Nat := ioReg (0x600000 + 0x20 * q + off)
def rENDEV : Nat := ioReg 0x780000
def rENPCTL (p : Nat) : Nat := ioReg (0x780100 + 0x40 * p)
def rENPST (p : Nat) : Nat := ioReg (0x780108 + 0x40 * p)
def rENPCNT (p : Nat) : Nat := ioReg (0x780110 + 0x40 * p)
def rENRT (v : Nat) : Nat := ioReg (0x781000 + 8 * v)
def rBOOTST : Nat := ioReg 0x7C0000
def rMEAS (i : Nat) : Nat := ioReg (0x7C0020 + 8 * i)
def rPWRENV : Nat := ioReg 0x7C0100
def rPWRST : Nat := ioReg 0x7C0108

/-! Places: gatherings, dies, cores, Hilbert positions. -/

/-- The gathering, core and slot of a CID (R10). -/
def gathOf (cid : Nat) : Nat := cid / 64
def coreNo (cid : Nat) : Nat := (cid % 64) / 4
def slotNo (cid : Nat) : Nat := cid % 4
def mkCid (g c k : Nat) : Nat := g * 64 + c * 4 + k

/-- The key of a core: 16 g + c. -/
def coreKey (cid : Nat) : Nat := gathOf cid * 16 + coreNo cid

/-- A context of a kernel core (R10). -/
def isKernel (cid : Nat) : Bool := coreNo cid == 8

/-- R10: the CID values that are assigned. -/
def assigned (cid : Nat) : Bool := decide (cid < 4096) && (decide (cid % 64 < 32) || cid % 64 == 32 || cid % 64 == 33)

/-- R317: the loop of HilbertIndex for s = 2^(n-1) down to 1. -/
def hilbertLoop : Nat → Nat → Nat → Nat → Nat
  | 0, _, _, d => d
  | n + 1, x, y, d =>
    let p := 2 ^ n
    let rx := (x / p) % 2
    let ry := (y / p) % 2
    let d' := d + p * p * (if ry = 1 then (if rx = 1 then 2 else 1) else 3 * rx)
    if ry = 0 then
      if rx = 1 then hilbertLoop n (7 - y) (7 - x) d' else hilbertLoop n y x d'
    else hilbertLoop n x y d'

/-- R317. -/
def hilbertIndex (x y : Nat) : Nat := hilbertLoop 3 x y 0

/-- The Hilbert position of a gathering (R318). -/
def hpOf (g : Nat) : Nat := hilbertIndex (g % 8) (g / 8)

/-- The gathering at a Hilbert position (R318). -/
def gathAt (hp : Nat) : Nat := (findNat (fun g => hpOf g == hp) 0 64).getD 0

/-- The compute die of a gathering (R318): positions 0 to 15 die 0, 16 to 31 die 2, 32 to 47 die 3, 48 to 63 die 1. -/
def dieOfG (g : Nat) : Nat :=
  match hpOf g / 16 with
  | 0 => 0
  | 1 => 2
  | 2 => 3
  | _ => 1

/-- The gathering with index n on compute die d (R453). -/
def gathOn (d n : Nat) : Nat :=
  gathAt ((if d = 0 then 0 else if d = 2 then 16 else if d = 3 then 32 else 48) + n)

/-- Per-gathering registers (R301, R320, R371). -/
def gathReg (g off : Nat) : Nat := dieReg (dieOfG g) (off + 0x1000 * (hpOf g % 16))
def rOCCLIM (cid : Nat) : Nat := gathReg (gathOf cid) (0x100000 + 8 * (cid % 64))
def rOCCQ (g : Nat) : Nat := gathReg g 0x100800
def rSLOTMAP (g c : Nat) : Nat := gathReg g (0x100900 + 8 * c)
def rKFBASE (g : Nat) : Nat := gathReg g 0x100A00
def rKFPEND (g : Nat) : Nat := gathReg g 0x100A08

/-- R290. -/
def homeSlice (pa : Nat) : Nat :=
  let f := fun lo => (pa / 2 ^ lo) % 64
  f 6 ^^^ f 12 ^^^ f 18 ^^^ f 24 ^^^ f 30 ^^^ f 36 ^^^ f 42 ^^^ (f 48 % 16)

/-- The channel that stores the lines of a slice (R290). -/
def channelOf (slice : Nat) : Nat := 8 * (slice / 16) + slice % 8

/-! Partitions (R319, R320). -/

/-- PCFG's fields. -/
def State.pbase (s : State) (p : Nat) : Nat := fld (s.win! (rPCFG p)) 0 6
def State.plen (s : State) (p : Nat) : Nat := fld (s.win! (rPCFG p)) 8 7
def State.pvalid (s : State) (p : Nat) : Bool := bit (s.win! (rPCFG p)) 63

/-- The partition that holds a gathering. -/
def State.partOf (s : State) (g : Nat) : Option Nat :=
  findNat (fun p => s.pvalid p && decide (s.pbase p ≤ hpOf g) && decide (hpOf g < s.pbase p + s.plen p)) 0 64

/-- The tenant running in a partition: none while PCFG.VALID is 0 (log entry 9). -/
def State.running (s : State) (p : Nat) : Option Byte :=
  if s.pvalid p && !bit (s.win! (rPSTAT p)) 8 then some (BitVec.ofNat 8 (fld (s.win! (rPSTAT p)) 0 8)) else none

/-- The tenant a slot is assigned to (R336). -/
def State.slotTenant (s : State) (cid : Nat) : Option Byte :=
  let r := s.win! (rSLOTMAP (gathOf cid) (coreNo cid))
  if bit r (32 + slotNo cid) then some (BitVec.ofNat 8 (fld r (8 * slotNo cid) 8)) else none

/-- The PCID of a context in its partition (R11); 0 where its gathering is in none (log entry 9). -/
def State.pcidOf (s : State) (cid : Nat) : Nat :=
  match s.partOf (gathOf cid) with
  | some p => (hpOf (gathOf cid) - s.pbase p) * 64 + cid % 64
  | none => 0

/-- The CID of a PCID in partition p (R11), when it is assigned. -/
def State.cidOfPcid (s : State) (p pcid : Nat) : Option Nat :=
  let hp := s.pbase p + pcid / 64
  if pcid / 64 < s.plen p ∧ hp < 64 ∧ assigned (pcid % 64) then some (gathAt hp * 64 + pcid % 64) else none

/-- The CIDs of a core's contexts. -/
def coreCids (key : Nat) : List Nat :=
  let b := mkCid (key / 16) (key % 16) 0
  if key % 16 = 8 then [b, b + 1] else [b, b + 1, b + 2, b + 3]

/-- The CIDs of a gathering's compute contexts. -/
def gathCids (g : Nat) : List Nat := (List.range 32).map (g * 64 + ·)

/-- The gatherings of a partition. -/
def State.gathsOf (s : State) (p : Nat) : List Nat :=
  (List.range (s.plen p)).map fun i => gathAt (s.pbase p + i)

/-- The compute CIDs of a partition. -/
def State.cidsOf (s : State) (p : Nat) : List Nat := (s.gathsOf p).flatMap gathCids

end Sys2Proof.Machine
end

