-- ==== Sys2Proof/Machine/Context.lean ====
section
/-! DEFINITION. The named operations over contexts and registers: reading and writing registers, advancing the
PC, leaving a stream and following its leader. -/

namespace Sys2Proof.Machine

/-! ### Contexts, cores, gatherings -/

/-- A context as it stands. -/
def State.ctxOf (s : State) (cid : Nat) : Ctx := SMap.read {} s.ctxs cid
/-- A context written. -/
def State.setCtx (s : State) (cid : Nat) (c : Ctx) : State := { s with ctxs := SMap.write {} s.ctxs cid c }
/-- The context whose word issues. -/
def State.me (s : State) : Ctx := s.ctxOf s.cur
/-- A core by its key 16 g + c. -/
def State.coreOf (s : State) (k : Nat) : Core := SMap.read {} s.cores k
def State.setCore (s : State) (k : Nat) (c : Core) : State := { s with cores := SMap.write {} s.cores k c }
/-- A gathering. -/
def State.gathSt (s : State) (g : Nat) : Gath := SMap.read {} s.gaths g
def State.setGath (s : State) (g : Nat) (x : Gath) : State := { s with gaths := SMap.write {} s.gaths g x }

def State.setRegs (s : State) (cid : Nat) (r : Regs) : State := s.setCtx cid { s.ctxOf cid with regs := r }
def State.setCtl (s : State) (cid : Nat) (x : Ctl) : State := s.setCtx cid { s.ctxOf cid with ctl := x }
def State.setSched (s : State) (cid : Nat) (x : Sched) : State := s.setCtx cid { s.ctxOf cid with sched := x }
def State.setWait (s : State) (cid : Nat) (w : Wait) : State :=
  s.setSched cid { (s.ctxOf cid).sched with wait := w, since := s.dtime }

/-! ### Registers (R13, R123) -/

/-- A scalar register; s0 reads zero. -/
def Regs.sget (r : Regs) (i : Reg) : Word := if i = 0 then 0 else r.s[i.toNat]
/-- A scalar register written; a write to s0 is discarded. -/
def Regs.sset (r : Regs) (i : Reg) (x : Word) : Regs := if i = 0 then r else { r with s := r.s.set i.toNat x }
/-- A vector register. -/
def Regs.vget (r : Regs) (i : Reg) : VReg := r.v[i.toNat]
def Regs.vset (r : Regs) (i : Reg) (x : VReg) : Regs := { r with v := r.v.set i.toNat x }
/-- A predicate; p0 reads all ones. -/
def Regs.pget (r : Regs) (i : BitVec 3) : PReg := if i = 0 then 0xFFFF else r.p[i.toNat]
/-- A predicate written; a write to p0 is discarded. -/
def Regs.pset (r : Regs) (i : BitVec 3) (x : PReg) : Regs := if i = 0 then r else { r with p := r.p.set i.toNat x }
/-- A wait counter. -/
def Regs.wget (r : Regs) (k : BitVec 2) : Word32 := r.w[k.toNat]
def Regs.wset (r : Regs) (k : BitVec 2) (x : Word32) : Regs := { r with w := r.w.set k.toNat x }
/-- An accumulator element (R13): tile, row, column. -/
def Regs.accGet (r : Regs) (t i j : Nat) : AccElem := SMap.read 0 r.acc (1024 * t + 32 * i + j)
def Regs.accSet (r : Regs) (t i j : Nat) (x : AccElem) : Regs :=
  { r with acc := SMap.write 0 r.acc (1024 * t + 32 * i + j) x }

def State.s! (s : State) (i : Reg) : Word := s.me.regs.sget i
def State.v! (s : State) (i : Reg) : VReg := s.me.regs.vget i
def State.p! (s : State) (i : BitVec 3) : PReg := s.me.regs.pget i

/-- Write a scalar register of the issuing context. -/
def State.setS (s : State) (i : Reg) (x : Word) : State := s.setRegs s.cur (s.me.regs.sset i x)
def State.setV (s : State) (i : Reg) (x : VReg) : State := s.setRegs s.cur (s.me.regs.vset i x)
def State.setP (s : State) (i : BitVec 3) (x : PReg) : State := s.setRegs s.cur (s.me.regs.pset i x)

/-- Accumulate flags into FFLAGS (R104). -/
def State.addFlags (s : State) (f : BitVec 5) : State :=
  s.setCtl s.cur { s.me.ctl with fflags := s.me.ctl.fflags ||| f }

/-! ### The PC -/

/-- The address of the word that is issuing: inside a REP the governed word stands at PC + 4 (R41, R56). -/
def State.ia (s : State) : Word := if s.me.regs.rep.isSome then s.me.regs.pc + 4 else s.me.regs.pc

/-- The registers after the issuing word completes: the PC moves on, or inside a REP the repeat index does, and after the last
repeat the PC moves past both words (R56). -/
def Regs.advance (r : Regs) : Regs :=
  match r.rep with
  | none => { r with pc := r.pc + 4 }
  | some p =>
    if r.ri.toNat + 1 < p.count.toNat + 1 then { r with ri := r.ri + 1 }
    else { r with ri := 0, rep := none, pc := r.pc + 8 }

/-- The issuing word completes. -/
def State.advance (s : State) : State := s.setRegs s.cur s.me.regs.advance

/-- A context's word completes. -/
def State.advanceAt (s : State) (cid : Nat) : State := s.setRegs cid (s.ctxOf cid).regs.advance

/-- The issuing word completes after writing a scalar register. -/
def State.done (s : State) (d : Reg) (x : Word) : Out := .next (s.setS d x).advance

/-- The issuing context's next PC is t. -/
def State.goto (s : State) (t : Word) : State :=
  s.setRegs s.cur { s.me.regs with pc := t, ri := 0, rep := none }

/-! ### Streams: leaving, following the leader (R22 to R28) -/

def State.stream (s : State) (g k : Nat) : Stream := SMap.read {} (s.gathSt g).streams k
def State.setStream (s : State) (g k : Nat) (x : Stream) : State :=
  s.setGath g { s.gathSt g with streams := SMap.write {} (s.gathSt g).streams k x }

def State.isAttached (s : State) (cid : Nat) : Bool := (s.ctxOf cid).sched.spine == .attached

/-- The contexts attached to stream k of gathering g, lowest core number first (R24). -/
def State.attached (s : State) (g k : Nat) : List Nat :=
  ((List.range 8).map fun c => mkCid g c k).filter s.isAttached

/-- The leader of a stream (R24). -/
def State.leader (s : State) (g k : Nat) : Option Nat := (s.attached g k).head?

/-- A JOINING context returns to PRIVATE and its join instruction completes with this status (R27, R137). -/
def State.joinEnds (s : State) (cid : Nat) (status : Nat) : State :=
  let c := s.ctxOf cid
  match c.sched.wait with
  | .join w =>
    s.setCtx cid { c with
      regs := (c.regs.sset w.sd (word status)).advance
      sched := { c.sched with spine := .priv, wait := .none } }
  | _ => s

/-- R26, R27: when the last attached context has left, the stream stops and every JOINING context of it becomes PRIVATE with
status ABSENT. -/
def State.stopIfEmpty (s : State) (g k : Nat) : State :=
  if (s.attached g k).isEmpty then
    let s := s.setStream g k { s.stream g k with running := false, atJoin := none, holdTo := none, outcomes := [], status := [] }
    ((List.range 8).map fun c => mkCid g c k).foldl
      (fun s cid => if (s.ctxOf cid).sched.spine == .joining then s.joinEnds cid 2 else s) s
  else s

/-- What a context that leaves its stream waits for afterwards: a JOIN or ATTACH held at its join point is executed again, as the one of
a JOINING context is (R27; log entry 63). -/
def Wait.left : Wait → Wait
  | .hold _ _ => .none
  | w => w

/-- One context leaves its stream for PRIVATE; strag says whether its straggler bit is set (R26, R27). -/
def State.leaveOne (s : State) (cid : Nat) (strag : Bool) : State :=
  let c := s.ctxOf cid
  let g := gathOf cid
  let k := slotNo cid
  let st := s.stream g k
  let m : Byte := BitVec.ofNat 8 (2 ^ coreNo cid)
  let s := s.setSched cid { c.sched with spine := .priv, drift := [], accepted := none, wait := c.sched.wait.left }
  s.setStream g k { st with strag := if strag then st.strag ||| m else st.strag &&& ~~~m }

/-- An attached context has accepted a word whose outcome is known and went elsewhere (R24). -/
def State.diverged (s : State) (g k cid : Nat) : Bool :=
  match (s.ctxOf cid).sched.accepted with
  | some p => (s.stream g k).outcomes.any fun o => o.1 == p && (match o.2 with
    | some t => t != (s.ctxOf cid).regs.pc
    | none => false)
  | none => false

/-- R24: once the leader has accepted the word whose outcome the stream awaits, its next PC is the outcome and the stream goes on
there. Every attached context that has accepted such a word and goes elsewhere detaches; the last one to leave stops the stream (R26). -/
def State.settle (s : State) (g k : Nat) : State :=
  let st := s.stream g k
  let s :=
    match st.outcomes, s.leader g k with
    | (pos, none) :: rest, some l =>
      if (s.ctxOf l).sched.accepted = some pos then
        s.setStream g k { st with outcomes := (pos, some (s.ctxOf l).regs.pc) :: rest, nextPc := (s.ctxOf l).regs.pc }
      else s
    | _, _ => s
  match (s.attached g k).filter (s.diverged g k) with
  | [] => s
  | out => (out.foldl (fun s cid => s.leaveOne cid true) s).stopIfEmpty g k

/-- Detach(c, cause) of R40: an ATTACHED context becomes PRIVATE with its straggler bit set, a JOINING context becomes PRIVATE
with its instruction to be executed again; any other is left (R27). -/
def State.detach (s : State) (cid : Nat) : State :=
  match (s.ctxOf cid).sched.spine with
  | .attached => ((s.leaveOne cid true).stopIfEmpty (gathOf cid) (slotNo cid)).settle (gathOf cid) (slotNo cid)
  | .joining => s.setSched cid { (s.ctxOf cid).sched with spine := .priv, wait := .none }
  | _ => s

/-- R28, R138: the hold of a stream ends: the status of its join point is fixed, and every context held there completes. -/
def State.endHold (s : State) (g k : Nat) : State :=
  let st := s.stream g k
  match st.holdTo with
  | none => s
  | some _ =>
    let status := if st.strag = 0 then 0 else 1
    let s := s.setStream g k { st with holdTo := none, status := (st.pos - 1, status) :: st.status }
    (s.attached g k).foldl (fun s cid =>
      let c := s.ctxOf cid
      match c.sched.wait with
      | .hold _ sd => s.setCtx cid { c with
          regs := (c.regs.sset sd (word status)).advance
          sched := { c.sched with wait := .none, readyAt := s.clk } }
      | _ => s) s

/-- A stream that holds with no straggler left goes on (R138). -/
def State.holdCheck (s : State) (g k : Nat) : State :=
  if (s.stream g k).holdTo.isSome && (s.stream g k).strag == 0 then s.endHold g k else s

/-! ### Wait counters -/

/-- A wait counter is incremented, modulo 2^32 (R234, R369, R400). -/
def State.bumpW (s : State) (cid : Nat) (k : BitVec 2) : State :=
  let r := (s.ctxOf cid).regs
  s.setRegs cid (r.wset k (r.wget k + 1))

/-! ### CYCLE (R342) -/

/-- The number CYCLE and CDCYC read for a domain (R342). -/
def State.cycleOf (s : State) (d : Nat) : Word :=
  let x := SMap.read {} s.doms d
  if x.ever then x.cyc else s.win! (rCDBASE d) - 1

/-- The cycle domain of a context (R342). -/
def State.domOf (s : State) (cid : Nat) : Nat := (s.ctxOf cid).sched.dom.toNat

/-- The tenant of a context that holds a task or a handler; of a FREE one, its slot's (R198). -/
def State.tenantOf (s : State) (cid : Nat) : Byte :=
  let c := s.ctxOf cid
  if c.sched.task.isSome then c.sched.tenant else (s.slotTenant cid).getD 0

/-- The launch a context's task belongs to. -/
def State.launchOf (s : State) (cid : Nat) : Option Nat := (s.ctxOf cid).sched.task.map (·.launch)

/-- A launch by its number. -/
def State.launch? (s : State) (n : Nat) : Option Launch := s.launches.find? (·.id == n)
def State.setLaunch (s : State) (l : Launch) : State :=
  { s with launches := s.launches.map fun x => if x.id == l.id then l else x }

/-- The launch of a context runs in deterministic mode (R322). -/
def State.deterministic (s : State) (cid : Nat) : Bool :=
  match s.launchOf cid with
  | some n => match s.launch? n with
    | some l => bit l.packet.flags 0
    | none => false
  | none => false

end Sys2Proof.Machine
end

