-- ==== Sys2Proof/Machine/Phys.lean ====
section
/-! DEFINITION. Memory by physical address, the stash lines that stand in for it, poison, the region and
capability tables (R383 to R388), page tables and walks (R308 to R311), and the TLBs (R313). -/

namespace Sys2Proof.Machine

/-! ### Bytes -/

/-- Write bytes to physical memory from address a. -/
def Memory.putBytes (m : Memory) (a : Nat) : List Byte → Memory
  | [] => m
  | b :: bs => Memory.putBytes (Memory.setByte m a b) (a + 1) bs

/-- Read n bytes of physical memory from address a. -/
def Memory.getBytes (m : Memory) (a : Nat) : Nat → List Byte
  | 0 => []
  | n + 1 => Memory.byte m a :: Memory.getBytes m (a + 1) n

/-- R285: local memory, image SRAM, the control windows, the host window. -/
def inLocal (pa : Nat) : Bool := decide (pa < 0x7800000000)
def inImage (pa : Nat) : Bool := decide (0x10000000000 ≤ pa) && decide (pa < 0x10001000000)
def inDevice (pa : Nat) : Bool := decide (0x20000000000 ≤ pa) && decide (pa < 0x30000000000)
def inHost (pa : Nat) : Bool := decide (0x8000000000000 ≤ pa) && decide (pa < 0x10000000000000)

/-- Both ends of a range lie in one range of R285. -/
def inMap (pa size : Nat) : Bool :=
  [inLocal, inImage, inDevice, inHost].any fun f => f pa && f (pa + size - 1)

/-! ### Stash lines that hold a physical line (R162, R294) -/

/-- The stash offset at which a mapping holds the byte at pa. -/
def Mapping.offOf (m : Mapping) (pa : Nat) : Option Nat :=
  (m.frames.findIdx? (· == pa / 4096)).map fun i => (m.spage + i) * 4096 + pa % 4096

/-- The core and stash offset whose writable mapping owns the filled line of pa (R162). -/
def State.stashAt (s : State) (pa : Nat) : Option (Nat × Nat) :=
  s.cores.findSome? fun kc => kc.2.maps.findSome? fun m =>
    if m.writable then
      match m.offOf pa with
      | some off => if m.filled.contains (off / 64) then some (kc.1, off) else none
      | none => none
    else none

/-- The byte an agent of the device reads at pa: the stash contents where a writable mapping owns the line, memory elsewhere
(R162, R268). -/
def State.physByte (s : State) (pa : Nat) : Byte :=
  match s.stashAt pa with
  | some (k, off) => SMap.read 0 (s.coreOf k).stash off
  | none => Memory.byte s.mem pa

/-- The physical address behind a stash offset of a mapping. -/
def Mapping.paOf (m : Mapping) (off : Nat) : Nat :=
  let rel := off - m.spage * 4096
  (m.frames.getD (rel / 4096) 0) * 4096 + rel % 4096

/-- Memory as the stash lines owned by writable mappings stand in it. -/
def State.codeNow (s : State) : Memory :=
  s.cores.foldl (fun m kc => kc.2.maps.foldl (fun m x =>
    if x.writable then x.filled.foldl (fun m line => foldNat (fun m i =>
      Memory.setByte m (x.paOf (line * 64) + i) (SMap.read 0 kc.2.stash (line * 64 + i))) m 0 64) m
    else m) m) s.mem

/-- n bytes at pa, little-endian. -/
def State.physRead (s : State) (pa : Nat) : Nat → Nat
  | 0 => 0
  | n + 1 => (s.physByte pa).toNat + 256 * s.physRead (pa + 1) n

/-- n bytes at pa. -/
def State.physBytes (s : State) (pa : Nat) : Nat → List Byte
  | 0 => []
  | n + 1 => s.physByte pa :: s.physBytes (pa + 1) n

/-- A read-only mapping without the line of pa (R162). -/
def Mapping.unfill (m : Mapping) (pa : Nat) : Mapping :=
  if m.writable then m else
  match m.offOf pa with
  | some off => { m with filled := m.filled.filter (· != off / 64) }
  | none => m

/-- R162: the line of pa in every read-only mapping is invalidated, and will be filled again. -/
def State.dropRO (s : State) (pa : Nat) : State :=
  { s with cores := s.cores.map fun kc => (kc.1, { kc.2 with maps := kc.2.maps.map (·.unfill pa) }) }

/-- A writable mapping whose line at stash offset off has been written (R162). -/
def Mapping.soil (m : Mapping) (pa off : Nat) : Mapping :=
  if m.writable && m.offOf pa == some off && !m.dirty.contains (off / 64) then { m with dirty := off / 64 :: m.dirty } else m

/-- A byte written at pa: into the owning stash line where there is one, else into memory. -/
def State.putByte (s : State) (pa : Nat) (b : Byte) : State :=
  match s.stashAt pa with
  | some (k, off) =>
    let c := s.coreOf k
    s.setCore k { c with
      stash := SMap.write 0 c.stash off b
      maps := c.maps.map (·.soil pa off) }
  | none => { s with mem := Memory.setByte s.mem pa b }

/-- The low n bytes of v written at pa. -/
def State.physPut (s : State) (pa : Nat) : Nat → Nat → State
  | 0, _ => s
  | n + 1, v => (s.putByte pa (BitVec.ofNat 8 v)).physPut (pa + 1) n (v / 256)

/-- A write of pa .. pa + n - 1 ends the reservations of CPC harts on those 8-byte words (R280). -/
def State.loseResv (s : State) (pa n : Nat) : State :=
  { s with harts := s.harts.map fun x =>
      match x.2.resv with
      | some a => (x.1, if decide (a * 8 < pa + n) && decide (pa < a * 8 + 8) then { x.2 with resv := none } else x.2)
      | none => x }

/-- An aligned write of n bytes, at most a line, at pa: copies in read-only mappings are invalidated, and a write of a whole line
clears its poison (R162, R299). -/
def State.physWrite (s : State) (pa n v : Nat) : State :=
  let s := ((s.dropRO pa).physPut pa n v).loseResv pa n
  if n = 64 then { s with poison := s.poison.filter (· != pa / 64) } else s

/-- Bytes written at pa, any length. -/
def State.physWriteBytes (s : State) (pa : Nat) : List Byte → State
  | [] => s
  | b :: bs => (((s.dropRO pa).putByte pa b).loseResv pa 1).physWriteBytes (pa + 1) bs

/-- A stash word among those from offset off is poisoned (R300). -/
def Core.badAt (c : Core) (off n : Nat) : Bool := c.bad.any fun w => decide (w * 4 < off + n) && decide (off < w * 4 + 4)

/-- Poison that a write of n stash bytes from off leaves: whole words that are written are good (R299, R300). -/
def Core.heal (c : Core) (off n : Nat) : Core := { c with bad := c.bad.filter fun w => !(decide (off ≤ w * 4) && decide (w * 4 + 4 ≤ off + n)) }

/-- Some byte of pa .. pa + n - 1 is poisoned (R299): of a line that a stash owns, in the stash. -/
def State.isPoisoned (s : State) (pa n : Nat) : Bool :=
  (s.poison.any fun l => decide (l * 64 < pa + n) && decide (pa < l * 64 + 64) && (s.stashAt (l * 64)).isNone)
    || ((s.cores.any fun kc => !kc.2.bad.isEmpty) && (List.range n).any fun i => match s.stashAt (pa + i) with
      | some (k, off) => (s.coreOf k).badAt off 1
      | none => false)

/-! ### Regions and capabilities (R383, R384) -/

/-- Access kinds as the gate judges them (R388). -/
inductive Need where
  | load | store | fetch | amo | version | ldv | engLoad | engStore | map
deriving DecidableEq, Repr

/-- Region kinds (R169). -/
def kPRIVATE : BitVec 3 := 0
def kOWNED : BitVec 3 := 1
def kVERSIONED : BitVec 3 := 2
def kATOMIC : BitVec 3 := 3
def kTREE : BitVec 3 := 4
def kQUEUE : BitVec 3 := 5
def kDEVICE : BitVec 3 := 6

/-- A region-table entry parsed from its 32 bytes (R383); none when it is not valid. -/
def parseRegion (p : Nat) (bs : List Byte) : Option RegionEnt :=
  let b12 := natAt bs 12 1
  let ocls := natAt bs 13 1
  if natAt bs 15 1 % 2 = 1 ∧ ocls < 3 ∧ b12 % 8 < 7 then
    some { part := p, base := natAt bs 0 8 % 2 ^ 56 / 4096 * 4096, len := natAt bs 8 4 * 4096
           kind := BitVec.ofNat 3 b12, x := b12 / 8 % 2 == 1, fbk := b12 / 16 % 2 == 1, depth := b12 / 32 + 2
           ocls := ocls, tenant := BitVec.ofNat 8 (natAt bs 14 1), owner := BitVec.ofNat 12 (natAt bs 16 2)
           svc := BitVec.ofNat 32 (natAt bs 20 4), frec := natAt bs 24 8 % 2 ^ 52 / 64 * 64 }
  else none

/-- A partition's region table in memory (R383, R385). -/
def State.regionTable (s : State) (p : Nat) : List RegionEnt :=
  let base := fld (s.win! (rRTBASE p)) 12 40 * 4096
  (List.range (fld (s.win! (rRTLEN p)) 0 16)).filterMap fun i => parseRegion p (s.physBytes (base + 32 * i) 32)

/-- A capability-table entry (R384); none when unused. -/
def parseCap (t : Byte) (bs : List Byte) : Option CapEnt :=
  let ty := natAt bs 0 1
  if 1 ≤ ty ∧ ty ≤ 3 then
    some { tenant := t, typ := BitVec.ofNat 8 ty, rights := BitVec.ofNat 8 (natAt bs 1 1)
           w4 := BitVec.ofNat 32 (natAt bs 4 4), w8 := BitVec.ofNat 64 (natAt bs 8 8) }
  else none

/-- A tenant's capability table in memory (R384, R385). -/
def State.capTable (s : State) (t : Byte) : List CapEnt :=
  let base := fld (s.win! (rCTBASE t.toNat)) 12 40 * 4096
  (List.range (Nat.min 1024 (fld (s.win! (rCTLEN t.toNat)) 0 11))).filterMap fun i => parseCap t (s.physBytes (base + 16 * i) 16)

/-- The capability entries of tenant t that a core's gate holds, and those in memory (R386). -/
def State.capsOf (s : State) (core : Nat) (t : Byte) : List CapEnt :=
  (s.coreOf core).gateC.filter (·.tenant == t) ++ s.capTable t

/-- A region covers an address. -/
def RegionEnt.covers (r : RegionEnt) (va : Nat) : Bool := decide (r.base ≤ va) && decide (va < r.base + r.len)

/-- The tenant's capability table names service svc; with the right of the mask (R387, R388). -/
def namesService (cs : List CapEnt) (svc : Word32) (right : Nat) : Bool :=
  cs.any fun c => c.typ == 1 && c.w4 == svc && (right == 0 || c.rights.toNat &&& right != 0)

/-- The tenant's extents cover va .. va + n - 1 with one of the rights of the mask (R388). -/
def extentCovers (cs : List CapEnt) (va n right : Nat) : Bool :=
  cs.any fun c => c.typ == 2 && decide (c.w8.toNat % 2 ^ 56 / 4096 * 4096 ≤ va)
    && decide (va + Nat.max n 1 ≤ c.w8.toNat % 2 ^ 56 / 4096 * 4096 + c.w4.toNat * 4096) && (right == 0 || c.rights.toNat &&& right != 0)

/-- The regions a core's gate judges an address of tenant t by: the entries it holds, then those of its partition's table (R386,
R387). -/
def State.regionsFor (s : State) (core p : Nat) : List RegionEnt :=
  (s.coreOf core).gateR.filter (·.part == p) ++ s.regionTable p

/-- R387: the region an address of tenant t lies in: its own, or a service region that covers it. -/
def State.findRegion (s : State) (core p : Nat) (t : Byte) (va : Nat) : Option RegionEnt :=
  let rs := s.regionsFor core p
  match rs.find? fun r => r.ocls == 0 && r.tenant == t && r.covers va with
  | some r => some r
  | none =>
    match rs.find? fun r => r.ocls == 1 && r.covers va && namesService (s.capsOf core t) r.svc 0 with
    | some r => some r
    | none => rs.find? fun r => r.ocls != 0 && r.covers va

/-! ### Page tables (R308 to R311) -/

/-- What a walk finds. -/
inductive WalkRes where
  /-- A leaf: the entry's address, the page's size (log2) and base, the entry. -/
  | leaf (ea : Nat) (log2 : Nat) (pa : Nat) (e : Nat)
  | bad (detail : Nat)
  | tiered (ea : Nat) (g : Nat)
  | moving (ea : Nat)
  | remote (ea : Nat) (log2 : Nat) (pa : Nat)
  /-- A page-table read returned poison (R375). -/
  | poisoned
deriving DecidableEq, Repr

/-- The page size a level's entries name (log2), with 5 standing for the 64 KiB table (R308). -/
def levelLog2 (lvl : Nat) : Nat :=
  if lvl = 5 then 16 else 12 + 9 * lvl

/-- An address rounded down to a page of 2^n bytes. -/
def pageDown (va n : Nat) : Nat := va / 2 ^ n * 2 ^ n

/-- R311: the walk from the entry at ea of level lvl (4 to 0, and 5 for a 64 KiB table). -/
def State.walkLoop (s : State) (va : Nat) : Nat → Nat → Nat → WalkRes
  | 0, _, _ => .bad 2
  | fuel + 1, lvl, ea =>
    if s.isPoisoned ea 8 then .poisoned else
    let e := s.physRead ea 8
    let kind := e / 2 % 4
    let addr := e % 2 ^ 52 / 4096 * 4096
    if e % 2 = 0 then
      match e / 2 % 8 with
      | 0 => .bad 1
      | 1 => if lvl = 5 then .tiered ea (e / 2 ^ 32 % 2 ^ 26) else .bad 2
      | 2 => .moving ea
      | 3 => .remote ea (levelLog2 lvl) addr
      | _ => .bad 2
    else if e / 64 % 64 ≠ 0 ∨ e / 2 ^ 52 ≠ 0 ∨ (e / 32 % 2 = 1 ∧ lvl ≠ 5) then .bad 2
    else if kind = 0 ∧ 1 ≤ lvl ∧ lvl ≤ 4 ∧ inMap addr 4096 then
      s.walkLoop va fuel (lvl - 1) (addr + 8 * (va / 2 ^ (levelLog2 (lvl - 1)) % 512))
    else if kind = 2 ∧ lvl = 1 ∧ inMap addr 4096 then s.walkLoop va fuel 5 (addr + 8 * (va / 2 ^ 16 % 32))
    else if kind = 1 ∧ (lvl = 5 ∨ lvl ≤ 2) ∧ addr % 2 ^ (levelLog2 lvl) = 0 ∧ inMap addr (2 ^ levelLog2 lvl) then
      .leaf ea (levelLog2 lvl) addr e
    else .bad 2

/-- R311: the walk of va for tenant t, as the tables stand. -/
def State.walkTables (s : State) (t : Byte) (va : Nat) : WalkRes :=
  if va / 2 ^ 56 ≠ 0 then .bad 3
  else s.walkLoop va 6 4 (fld (s.win! (rXROOT t.toNat)) 12 40 * 4096 + 8 * (va / 2 ^ 48 % 256))

/-- log2 of the page that va lies in, as the tables stand: what the entry at which the walk ends maps (R308, R311, R312). -/
def State.walkExtent (s : State) (va : Nat) : Nat → Nat → Nat → Nat
  | 0, _, _ => 12
  | fuel + 1, lvl, ea =>
    let e := s.physRead ea 8
    let addr := e % 2 ^ 52 / 4096 * 4096
    if e % 2 = 1 ∧ e / 2 % 4 = 0 ∧ 1 ≤ lvl ∧ lvl ≤ 4 ∧ inMap addr 4096 then
      s.walkExtent va fuel (lvl - 1) (addr + 8 * (va / 2 ^ (levelLog2 (lvl - 1)) % 512))
    else if e % 2 = 1 ∧ e / 2 % 4 = 2 ∧ lvl = 1 ∧ inMap addr 4096 then s.walkExtent va fuel 5 (addr + 8 * (va / 2 ^ 16 % 32))
    else levelLog2 lvl

def State.pageLog2 (s : State) (t : Byte) (va : Nat) : Nat :=
  if va / 2 ^ 56 ≠ 0 then 12 else s.walkExtent va 6 4 (fld (s.win! (rXROOT t.toNat)) 12 40 * 4096 + 8 * (va / 2 ^ 48 % 256))

/-- The addresses of the entries a walk of va reads, first to last (R311). -/
def State.walkPath (s : State) (va : Nat) : Nat → Nat → Nat → List Nat
  | 0, _, _ => []
  | fuel + 1, lvl, ea =>
    let e := s.physRead ea 8
    let addr := e % 2 ^ 52 / 4096 * 4096
    ea :: (if e % 2 = 1 ∧ e / 2 % 4 = 0 ∧ 1 ≤ lvl ∧ lvl ≤ 4 ∧ inMap addr 4096 then
      s.walkPath va fuel (lvl - 1) (addr + 8 * (va / 2 ^ (levelLog2 (lvl - 1)) % 512))
    else if e % 2 = 1 ∧ e / 2 % 4 = 2 ∧ lvl = 1 ∧ inMap addr 4096 then s.walkPath va fuel 5 (addr + 8 * (va / 2 ^ 16 % 32))
    else [])

/-- The physical address of va for tenant t when the tables hold a leaf for it: what the units of the I/O die and the launch
unit reach a tenant's memory through. -/
def State.paOf (s : State) (t : Byte) (va : Nat) : Option Nat :=
  match s.walkTables t va with
  | .leaf _ n pa _ => some (pa + va % 2 ^ n)
  | _ => none

/-! ### TLBs (R313) -/

/-- A translation held by a TLB answers for an access of va that writes or not: with D clear, a write walks again (R311). -/
def Tlb.hit (e : Tlb) (t : Byte) (va : Nat) (write : Bool) : Bool :=
  e.tenant == t && pageDown va e.log2 == e.va && (e.written || !write)

/-- The translation of va from the core's TLB or the gathering's (R313). -/
def State.tlbLookup (s : State) (core : Nat) (t : Byte) (va : Nat) (write : Bool) : Option Nat :=
  match (s.coreOf core).tlb.find? (·.hit t va write) with
  | some e => some (e.pa + va % 2 ^ e.log2)
  | none =>
    match (s.gathSt (core / 16)).tlb.find? (·.hit t va write) with
    | some e => some (e.pa + va % 2 ^ e.log2)
    | none => none

/-- Drop the translations that meet p, everywhere. -/
def State.dropTlb (s : State) (p : Tlb → Bool) : State :=
  { s with
    cores := s.cores.map fun kc => (kc.1, { kc.2 with tlb := kc.2.tlb.filter (fun e => !p e) })
    gaths := s.gaths.map fun kg => (kg.1, { kg.2 with tlb := kg.2.tlb.filter (fun e => !p e) }) }

/-! ### Region keys: version rings and writer capabilities -/

/-- The input-image area of domain d, as the last enable placed it (R343, R344): its base and ILEN in bytes. -/
def State.imageArea (s : State) (d : Nat) : Option (Nat × Nat) :=
  (SMap.read {} s.doms d).area.map fun w => (0x10000000000 + fld w 12 12 * 4096, fld w 32 12 * 4096)

/-- The key of the input image ring of domain d. -/
def imageKey (d : Nat) : Nat := 2 ^ 70 + d

/-- The domain whose input image lies at a physical address. -/
def State.imageAt (s : State) (pa : Nat) : Option Nat :=
  findNat (fun d => match s.imageArea d with
    | some (b, _) => b == pa
    | none => false) 0 8

/-- The key that names a region's ring and capability: its tenant and base, or the image it maps (R344). -/
def State.regionKey (s : State) (r : RegionEnt) : Nat :=
  let own := (r.tenant.toNat + 256 * b2n (r.ocls == 1) + 512 * b2n (r.ocls == 2)) * 2 ^ 56 + r.base
  if r.kind = kVERSIONED then
    match s.paOf r.tenant r.base with
    | some pa => match s.imageAt pa with
      | some d => imageKey d
      | none => own
    | none => own
  else own

/-- Where slot i of the input image that key names lies in image SRAM, and its length (R344). -/
def State.imageSlot (s : State) (key i : Nat) : Option (Nat × Nat) :=
  if key < 2 ^ 70 then none else (s.imageArea (key - 2 ^ 70)).map fun a => (a.1 + i * a.2, a.2)

/-- The bytes of memory from a to a + n - 1, by offset. -/
def Memory.span (m : Memory) (a n : Nat) : SMap Byte :=
  (m.filter fun e => decide (a ≤ e.1) && decide (e.1 < a + n)).map fun e => (e.1 - a, e.2)

/-- The n bytes of memory from a become those of a map by offset: the ones listed before go. -/
def Memory.setSpan (m : Memory) (a n : Nat) (d : SMap Byte) : Memory :=
  (d.filter fun e => decide (e.1 < n)).foldl (fun m e => Memory.setByte m (a + e.1) e.2) ((Memory.span m a n).foldl (fun m e => Memory.setByte m (a + e.1) Memory.blank) m)

/-- A slot with its bytes where an input image holds them: in image SRAM (R344). -/
def State.slotBytes (s : State) (key i : Nat) (x : VSlot) : VSlot :=
  match s.imageSlot key i with
  | some (a, n) => { x with data := Memory.span s.mem a n }
  | none => x

/-- Slots with their numbers. -/
def numbered (l : List VSlot) : List (Nat × VSlot) := (List.range l.length).zip l

/-- A ring as it stands; one that nothing has touched is as at creation: slot 0 SEALED with version 0 (R170). -/
def State.ring (s : State) (key depth : Nat) : List VSlot :=
  match (SMap.read {} s.rings key).slots with
  | [] => { st := .sealed } :: List.replicate (depth - 1) {}
  | l => if key < 2 ^ 70 then l else (numbered l).map fun x => s.slotBytes key x.1 x.2

/-- A slot without its bytes. -/
def VSlot.bare (x : VSlot) : VSlot := { x with data := [] }

/-- The bytes of an input image's slots written to image SRAM (R344). -/
def State.putImage (s : State) (key : Nat) (l : List VSlot) : State :=
  (numbered l).foldl (fun s x => match s.imageSlot key x.1 with
    | some (a, n) => { s with mem := Memory.setSpan s.mem a n x.2.data }
    | none => s) s

def State.setRing (s : State) (key : Nat) (l : List VSlot) : State :=
  if key < 2 ^ 70 then { s with rings := SMap.write {} s.rings key { slots := l } }
  else ({ s with rings := SMap.write {} s.rings key { slots := l.map VSlot.bare } }).putImage key l

/-- Every ring with its bytes. -/
def State.ringsNow (s : State) : SMap Ring := s.rings.map fun x => (x.1, { slots := if x.1 < 2 ^ 70 then x.2.slots else s.ring x.1 2 })

/-- Who holds a region's writer capability (R33). -/
def State.holder (s : State) (key : Nat) : Holder := SMap.read .service s.holders key
def State.setHolder (s : State) (key : Nat) (h : Holder) : State :=
  { s with holders := SMap.write .service s.holders key h }

/-- The newest version of a ring among the slots p admits, by SerialLater. -/
def newestBy (p : VSlot → Bool) (l : List VSlot) : Option VSlot :=
  l.foldl (fun acc x => if p x then
    match acc with
    | some y => if serialLater x.ver y.ver then some x else some y
    | none => some x else acc) none

/-- The newest sealed version (R170). -/
def newestSealed (l : List VSlot) : Option VSlot := newestBy (·.st == .sealed) l

/-- The bytes of the newest sealed version of a ring from offset off. -/
def ringRead (l : List VSlot) (off n : Nat) : Nat :=
  match newestSealed l with
  | some v => SMap.readLE v.data off n
  | none => 0

end Sys2Proof.Machine
end

