-- ==== Sys2Proof/Machine/Caches.lean ====
section
/-! DEFINITION. Which lines the caches hold (R286 to R296): the directory, the L1 data caches with their snoop filters, the control processor
chiplet's cache, the L2 data arrays, and the instruction lines of a gathering (R288). Data lines are tags: the one
memory of State holds the bytes, as the protocol keeps every copy equal to it (log entry 19). -/

namespace Sys2Proof.Machine

/-! ### Who holds a line (R291, R294) -/

/-- The sharer bit of an owner (R291). -/
def DirOwner.mask : DirOwner → BitVec 66
  | .none => 0
  | .core g _ => BitVec.ofNat 66 (2 ^ g)
  | .cpc => BitVec.ofNat 66 (2 ^ 64)
  | .io => BitVec.ofNat 66 (2 ^ 65)

/-- The core of key k as an owner. -/
def ownerOf (k : Nat) : DirOwner := .core (k / 16) (k % 16)

def State.dirAt (s : State) (line : Nat) : DirEnt := SMap.read {} s.dir line

/-- The lines a core's L1 data cache holds. -/
def Caches.l1Of (c : Caches) (k : Nat) : List L1Line := SMap.read [] c.l1 k

/-- A core's L1 data cache holds a line. -/
def State.l1Has (s : State) (k line : Nat) : Bool := (s.caches.l1Of k).any (·.line == line)

/-- A core's stash holds a filled line of a mapping for this line of memory. -/
def Core.stashHas (c : Core) (line : Nat) : Bool :=
  c.maps.any fun m => match m.offOf (line * 64) with
    | some off => m.filled.contains (off / 64)
    | none => false

/-- The snoop filter of a gathering (R291): its cores that hold the line. -/
def State.snoop (s : State) (g line : Nat) : List Nat :=
  (List.range 9).filter fun c => s.l1Has (16 * g + c) line || (s.coreOf (16 * g + c)).stashHas line

/-- The entry of a line that a stash holds is pinned (R294). -/
def State.pinned (s : State) (line : Nat) : Bool := s.cores.any fun kc => kc.2.stashHas line

/-- A directory entry written; the last copy gone, the way it had spilled into is free (R294). -/
def State.setDir (s : State) (line : Nat) (e : DirEnt) : State :=
  { s with
    dir := SMap.write {} s.dir line e
    caches := if e = {} then { s.caches with l2 := s.caches.l2.filter fun x => !(x.spill && x.line == line) } else s.caches }

/-! ### The L2 data arrays (R287, R295, R296) -/

/-- The set a line falls in: 2,048 sets of 16 ways in each slice. -/
def l2Set (line : Nat) : Nat := Config.l2Set line % 2048

/-- The lines of the set a line falls in, most recently used first. -/
def Caches.l2Mates (c : Caches) (line : Nat) : List L2Line :=
  c.l2.filter fun x => homeSlice (x.line * 64) == homeSlice (line * 64) && l2Set x.line == l2Set line

/-- Occ(slice, cid) (R295). -/
def Caches.occ (c : Caches) (slice cid : Nat) : Nat :=
  (c.l2.filter fun x => homeSlice (x.line * 64) == slice && x.tag == some cid && !x.spill).length

/-- R296: the way of a full set that goes: of those that hold no directory spill the least recently used one whose CID is above its limit in
the slice, else the least recently used. -/
def State.victimWay (s : State) (line : Nat) : Option L2Line :=
  let cand := (s.caches.l2Mates line).filter fun x => !x.spill
  let most := cand.filter fun x => match x.tag with
    | some t =>
      let lim := fld (s.win! (rOCCLIM t)) 0 16
      decide (lim < 0x8000) && decide (lim < s.caches.occ (homeSlice (line * 64)) t)
    | none => false
  most.getLast?.or cand.getLast?

/-- A slice allocates a way: for a line on behalf of a context or under the system tag, or for a directory entry that spills. -/
def State.l2Add (s : State) (x : L2Line) : State :=
  let c := s.caches
  if (c.l2Mates x.line).length < 16 then { s with caches := { c with l2 := x :: c.l2 } }
  else match s.victimWay x.line with
    | some v => { s with caches := { c with l2 := x :: c.l2.erase v } }
    | none => s

/-- A line passes through its slice: it becomes the most recently used one, and is allocated when the slice does not hold it. -/
def State.l2Touch (s : State) (line : Nat) (tag : Option Nat) : State :=
  match s.caches.l2.find? fun x => x.line == line && !x.spill with
  | some x => { s with caches := { s.caches with l2 := x :: s.caches.l2.erase x } }
  | none => s.l2Add { line := line, tag := tag }

/-! ### The caches above L2 (R287, R292) -/

/-- A cache without a line. -/
def without (l : List L1Line) (line : Nat) : List L1Line := l.filter (·.line != line)

/-- No L1 data cache but that of core k, and, unless the CPC keeps it, no cache of the CPC holds the line (R291, R292). -/
def State.invalidate (s : State) (line : Nat) (k : Option Nat) (cpc : Bool) : State :=
  { s with caches := { s.caches with
      l1 := s.caches.l1.map fun x => if some x.1 = k then x else (x.1, without x.2 line)
      cpc := if cpc then s.caches.cpc else without s.caches.cpc line } }

/-- A line goes from a cache for space: a dirty one is written back to its slice on behalf of the context that wrote it, and the directory
forgets the copy (R287, R291). -/
def State.evicted (s : State) (x : L1Line) (who : DirOwner) (last : Bool) : State :=
  let s := if x.dirty then s.l2Touch x.line x.cid else s
  let e := s.dirAt x.line
  let sharers := if last then e.sharers &&& ~~~who.mask else e.sharers
  if e.owner = who ∧ !s.pinned x.line then
    s.setDir x.line (if sharers = 0 then {} else { st := .s, owner := .none, sharers := sharers })
  else s.setDir x.line (if sharers = 0 ∧ e.owner = .none then {} else { e with sharers := sharers })

/-- Ways of an L1 data cache of 64 sets: 32 KiB on a compute core, 16 KiB on a kernel core (R287). -/
def l1Ways (k : Nat) : Nat := if k % 16 = 8 then 4 else 8

/-- The set of an L1 data cache a line falls in. -/
def l1Set (line : Nat) : Nat := Config.l1Set line % 64

/-- The entry that goes from a full list of candidates: the manual names no rule for this one (log entry 19). -/
def pick {α : Type} (key : α → Nat) (l : List α) : Option α := l[Config.cachePick (l.map key) % l.length]?

/-- The line of an access enters the core's L1 data cache, write-back and write-allocate (R287). -/
def State.l1Touch (s : State) (k line cid : Nat) (write : Bool) : State :=
  let l := s.caches.l1Of k
  match l.find? (·.line == line) with
  | some x =>
    let y := if write then { x with dirty := true, cid := some cid } else x
    { s with caches := { s.caches with l1 := SMap.write [] s.caches.l1 k (y :: without l line) } }
  | none =>
    let y : L1Line := { line := line, dirty := write, cid := some cid }
    let mates := l.filter fun x => l1Set x.line == l1Set line
    let out := if mates.length < l1Ways k then none else pick (·.line) mates
    let l := match out with
      | some v => without l v.line
      | none => l
    let s := { s with caches := { s.caches with l1 := SMap.write [] s.caches.l1 k (y :: l) } }
    match out with
    | some v => s.evicted v (ownerOf k) (s.snoop (k / 16) v.line).isEmpty
    | none => s

/-- The line of a hart's access enters the 8 MiB cache of the control processor chiplet (R292). -/
def State.cpcTouch (s : State) (line : Nat) (write : Bool) : State :=
  let l := s.caches.cpc
  let dirty := write || l.any fun x => x.line == line && x.dirty
  let out := if (without l line).length < 131072 then none else pick (·.line) (without l line)
  let keep := match out with
    | some v => without (without l line) v.line
    | none => without l line
  let s := { s with caches := { s.caches with cpc := { line := line, dirty := dirty, cid := none } :: keep } }
  match out with
  | some v => s.evicted v .cpc true
  | none => s

/-! ### The directory (R291 to R294) -/

/-- The entry after a read of the line by an agent that keeps a copy, or by one that keeps none. -/
def DirEnt.readBy (e : DirEnt) (who : DirOwner) : DirEnt :=
  if who = .none then (if e.st = .m then { e with st := .o } else e)
  else match e.st with
    | .i => { st := .e, owner := who, sharers := who.mask }
    | .e => if e.owner = who then e else { st := .s, owner := .none, sharers := e.sharers ||| who.mask }
    | .s => { e with sharers := e.sharers ||| who.mask }
    | _ => if e.owner = who then e else { st := .o, owner := e.owner, sharers := e.sharers ||| who.mask }

/-- The entry after a write of the line: the writer owns it in state M, alone; after a write by an agent that keeps no copy nobody holds it. -/
def DirEnt.writtenBy (who : DirOwner) : DirEnt :=
  if who = .none then {} else { st := .m, owner := who, sharers := who.mask }

/-- The entry after a line of a read-only mapping is filled: the core is a sharer (R162, R294). -/
def DirEnt.sharedBy (e : DirEnt) (who : DirOwner) : DirEnt :=
  match e.st with
  | .i | .e => { st := .s, owner := .none, sharers := e.sharers ||| who.mask }
  | .s => { e with sharers := e.sharers ||| who.mask }
  | _ => { e with st := .o, sharers := e.sharers ||| who.mask }

/-- The entries of the directory set a line falls in, those that have spilled apart. -/
def State.dirMates (s : State) (line : Nat) : List Nat :=
  (s.dir.map (·.1)).filter fun l => l != line && homeSlice (l * 64) == homeSlice (line * 64) && Config.dirSet l == Config.dirSet line
    && !(s.caches.l2.any fun x => x.spill && x.line == l)

/-- R294: a new entry takes a way of its directory set: an entry that is not pinned goes, with the copies it tracks, and when every way is
pinned the new one spills into the slice's data array. -/
def State.dirRoom (s : State) (line : Nat) : State :=
  if (s.dirMates line).length < Config.dirWays + 1 then s
  else match pick id ((s.dirMates line).filter fun l => !s.pinned l) with
    | some v => (s.invalidate v none false).setDir v {}
    | none => s.l2Add { line := line, tag := none, spill := true }

/-- The directory entry of a line becomes e. -/
def State.dirPut (s : State) (line : Nat) (e : DirEnt) : State :=
  let s := if s.dirAt line = {} ∧ e ≠ {} then s.dirRoom line else s
  s.setDir line e

/-- R293, R294: the directory's part in an access: a write takes the line from every other cache. A line that a stash owns stays there: another
agent's read makes it O, and a write lands in the stash. -/
def State.dirTouch (s : State) (line : Nat) (who : DirOwner) (write : Bool) : State :=
  let e := s.dirAt line
  match s.stashAt (line * 64) with
  | some (k, _) => if write then (s.invalidate line none false).dirPut line (.writtenBy (ownerOf k)) else s.dirPut line (e.readBy who)
  | none =>
    if write then
      let mine := match who with
        | .core g c => some (16 * g + c)
        | _ => none
      (s.invalidate line mine (who == .cpc)).dirPut line (.writtenBy who)
    else s.dirPut line (e.readBy who)

/-- An agent's access to the line of pa, on behalf of a context or under the system tag (R286, R292, R293, R295). who none: the agent keeps no
copy above L2, as an engine, a walker and a tier engine. -/
def State.touch (s : State) (pa : Nat) (who : DirOwner) (tag : Option Nat) (write : Bool) : State :=
  let line := pa / 64
  if inDevice pa then s
  else if inHost pa then s.l2Touch line tag
  else
    let s := (s.dirTouch line who write).l2Touch line tag
    if (s.stashAt (line * 64)).isSome then s
    else match who, tag with
      | .core g c, some cid => s.l1Touch (16 * g + c) line cid write
      | .cpc, _ => s.cpcTouch line write
      | _, _ => s

/-- The access of a context. -/
def State.touchCtx (s : State) (cid pa : Nat) (write : Bool) : State :=
  s.touch pa (.core (gathOf cid) (coreNo cid)) (some cid) write

/-- A line is filled into a mapping of core k (R162, R294, R295): the stash owns it, or shares it. -/
def State.touchFill (s : State) (k line : Nat) (m : Mapping) : State :=
  let s := s.l2Touch line (some m.owner)
  if m.writable then (s.invalidate line none false).dirPut line (.writtenBy (ownerOf k))
  else s.dirPut line ((s.dirAt line).sharedBy (ownerOf k))

/-- The stash of core k gives a line up (R163, R166): the directory forgets its copy. -/
def State.stashLeaves (s : State) (k line : Nat) : State :=
  s.evicted { line := line, dirty := false, cid := none } (ownerOf k) (s.snoop (k / 16) line).isEmpty

/-- OCCNT (R301): the lines a slice holds under a CID's tag. -/
def State.occnt (s : State) (g : Nat) : Nat :=
  let q := s.win! (rOCCQ g)
  s.caches.occ (fld q 0 6) (fld q 6 12)

/-! ### Instruction lines (R288) -/

/-- The name of the instruction line that holds an address, for a context. -/
def State.codeTag (s : State) (cid va : Nat) : CodeTag :=
  { kern := isKernel cid, tenant := if isKernel cid then 0 else s.tenantOf cid, line := va / 64 }

/-- The line of the gathering's L1 instruction cache a context reads: one filled no later than its task started (R30, R288). -/
def State.codeLine (s : State) (cid va : Nat) : Option CodeLine :=
  (s.gathSt (gathOf cid)).l1i.find? fun x => x.tag == s.codeTag cid va && decide (x.since ≤ (s.ctxOf cid).sched.codeAt)

/-- A line enters the L1 instruction cache of a gathering, 1,024 lines; what goes for space goes from the L0 buffers too. -/
def Gath.fillL1i (x : Gath) (y : CodeLine) : Gath :=
  let mates := x.l1i.filter fun z => Config.l1iSet z.tag.line == Config.l1iSet y.tag.line
  let out := if decide (mates.length < Config.l1iWays % 1024 + 1) && decide (x.l1i.length < 1024) then none else pick (·.tag.line) mates
  match out with
  | some v => { x with
      l1i := y :: x.l1i.filter (·.tag != v.tag)
      l0 := x.l0.map fun kl => (kl.1, kl.2.filter (· != v.tag)) }
  | none => { x with l1i := y :: x.l1i }

/-- A line enters the L0 buffer of core c: 64 lines (R25, R287). -/
def Gath.fillL0 (x : Gath) (c : Nat) (y : CodeTag) : Gath :=
  let l := (SMap.read [] x.l0 c : List CodeTag)
  if l.contains y then x
  else
    let keep := if l.length < 64 then l else match pick (·.line) l with
      | some v => l.filter (· != v)
      | none => l
    { x with l0 := SMap.write [] x.l0 c (y :: keep) }

/-- R98, R288: the lines of a tenant's addresses base to base + size - 1 leave the instruction caches and the L0 buffers. -/
def State.dropCode (s : State) (t : Byte) (base size : Nat) : State :=
  let gone := fun (y : CodeTag) => !y.kern && y.tenant == t && decide (base < y.line * 64 + 64) && decide (y.line * 64 < base + size)
  { s with gaths := s.gaths.map fun kg => (kg.1, { kg.2 with
      l1i := kg.2.l1i.filter fun x => !gone x.tag
      l0 := kg.2.l0.map fun kl => (kl.1, kl.2.filter fun y => !gone y) }) }

end Sys2Proof.Machine
end

