-- ==== Sys2Proof/Machine/Gate.lean ====
section
/-! DEFINITION. The gate's judgement of an access (R31 to R36, R158, R388), connections of messages (R34, R188),
and the entries a gate keeps (R386). -/

namespace Sys2Proof.Machine

/-- What the gate answers. -/
inductive Judged where
  | ok (r : RegionEnt)
  /-- GATE with this DETAIL (R388). -/
  | gate (detail : Nat)
  /-- WCAP (R32). -/
  | wcap
deriving DecidableEq, Repr

/-- The access only reads. -/
def Need.reads : Need → Bool
  | .load | .fetch | .ldv | .engLoad | .map => true
  | _ => false

/-- Step 3 of R388: the rights an access needs of the tenant's capability entries. -/
def rightsOk (cs : List CapEnt) (r : RegionEnt) (va n : Nat) (need : Need) : Bool :=
  if r.ocls = 2 then true
  else if r.ocls = 0 then
    match need with
    | .load | .ldv | .map => extentCovers cs va n 1
    | .store | .amo | .version => extentCovers cs va n 2
    | .fetch => extentCovers cs va n 4 && r.x
    | .engLoad => cs.any fun c => extentCovers [c] va n 8 && extentCovers [c] va n 1
    | .engStore => cs.any fun c => extentCovers [c] va n 8 && extentCovers [c] va n 2
  else
    match need with
    | .load | .ldv | .map => namesService cs r.svc 1
    | .amo => namesService cs r.svc 2
    | .fetch => namesService cs r.svc 4 && r.x
    | _ => false

/-- Step 4 of R388: the kind and OWNER allow the access (R32, R158). isOwner: the accessing context, or for an engine its core,
owns a PRIVATE region; isHolder: the context holds the writer capability. -/
def kindOk (r : RegionEnt) (need : Need) (va n : Nat) (isOwner isHolder : Bool) : Bool :=
  if r.kind = kPRIVATE then
    match need with
    | .load | .store | .fetch | .engLoad | .engStore | .map => isOwner
    | _ => false
  else if r.kind = kOWNED then
    match need with
    | .load | .store | .fetch | .engLoad | .engStore | .map => true
    | _ => false
  else if r.kind = kVERSIONED then
    match need with
    | .load | .fetch | .ldv | .engLoad => true
    | .version => decide (r.base + 8 ≤ va) || n == 0
    | .store => !isHolder
    | .engStore => !isHolder
    | _ => false
  else if r.kind = kATOMIC then
    match need with
    | .load | .fetch | .amo => true
    | _ => false
  else if r.kind = kDEVICE then
    match need with
    | .load | .store => n == 4 || n == 8
    | _ => false
  else
    match need with
    | .load | .fetch => true
    | _ => false

/-- The context is the owner of a PRIVATE region; for an engine access, of the owner's core (R32). -/
def State.ownerOk (s : State) (cid : Nat) (r : RegionEnt) (need : Need) : Bool :=
  match need with
  | .engLoad | .engStore => r.owner.toNat / 4 == s.pcidOf cid / 4
  | _ => r.owner.toNat == s.pcidOf cid

/-- Steps 3 to 6 of R388 for a region that was found. -/
def State.judgeRegion (s : State) (cid : Nat) (r : RegionEnt) (va n : Nat) (need : Need) : Judged :=
  let holds := s.holder (s.regionKey r) == .ctx cid
  if !rightsOk (s.capsOf (coreKey cid) (s.tenantOf cid)) r va n need then .gate 3
  else if !kindOk r need va n (s.ownerOk cid r need) holds then .gate 4
  else if (r.kind = kDEVICE ∨ r.ocls = 2) ∧ !isKernel cid then .gate 5
  else if !need.reads && need != .amo && (r.kind == kOWNED || r.kind == kVERSIONED) && !holds then .wcap
  else .ok r

/-- The kernel region (OCLS 2) of its partition's table that a kernel-core context's address lies in (R387). -/
def State.kernelListed (s : State) (cid va : Nat) : Option RegionEnt :=
  match s.partOf (gathOf cid) with
  | some p => (s.regionsFor (coreKey cid) p).find? fun r => r.ocls == 2 && r.covers va
  | none => none

/-- A physical range as a kernel-core context sees it where no kernel region covers it (R36; log entry 8). -/
def rangeRegion (b l : Nat) (k : BitVec 3) : RegionEnt :=
  { part := 0, base := b, len := l, kind := k, x := true, fbk := false, depth := 2, ocls := 2, tenant := 0, owner := 0, svc := 0, frec := 0 }

/-- The range of R285 an address lies in. -/
def rangeOf (va : Nat) : Option RegionEnt :=
  if inLocal va then some (rangeRegion 0 0x7800000000 kOWNED)
  else if inImage va then some (rangeRegion 0x10000000000 0x1000000 kOWNED)
  else if inDevice va then some (rangeRegion 0x20000000000 0x10000000000 kDEVICE)
  else if inHost va then some (rangeRegion 0x8000000000000 0x8000000000000 kOWNED)
  else none

/-- The region of some partition's table that the bytes at a physical address belong to, and their offset in it (R280). -/
def State.regionAt (s : State) (pa : Nat) : Option (RegionEnt × Nat) :=
  (List.range 64).findSome? fun p => (s.regionTable p).findSome? fun r =>
    if r.ocls = 2 then (if r.covers pa then some (r, pa - r.base) else none)
    else (findNat (fun i => match s.paOf r.tenant (r.base + 4096 * i) with
      | some q => q / 4096 == pa / 4096
      | none => false) 0 (r.len / 4096)).map fun i => (r, 4096 * i + pa % 4096)

/-- A context holds a region's writer capability; a kernel-core context is the service that holds what no context does (R33, R36). -/
def State.holds (s : State) (cid : Nat) (r : RegionEnt) : Bool :=
  s.holder (s.regionKey r) == .ctx cid || (isKernel cid && s.holder (s.regionKey r) == .service)

/-- A store by physical address to bytes of a region, by the holder of its capability or not (R32, R158, R267, R280). -/
def storeJudged (r : RegionEnt) (holds : Bool) : Judged :=
  if r.kind = kOWNED then (if holds then .ok r else .wcap)
  else if r.kind = kVERSIONED ∧ !holds then .wcap
  else .gate 4

/-- R388 for a kernel-core context: the rights of the capability tables do not bind it (R36; log entry 8). In a kernel region its X bit, kind,
owner and writer capability do. Where none covers the address, memory takes loads, fetches and stores, the last as the
region allows whose bytes they are, and a control window aligned loads and stores of 4 and 8 bytes. -/
def State.judgeKernel (s : State) (cid va n : Nat) (need : Need) : Judged :=
  match s.kernelListed cid va with
  | some r =>
    if need = .fetch ∧ !r.x then .gate 3
    else if !kindOk r need va n (s.ownerOk cid r need) (s.holds cid r) then .gate 4
    else if !need.reads && need != .amo && (r.kind == kOWNED || r.kind == kVERSIONED) && !s.holds cid r then .wcap
    else .ok r
  | none =>
    match rangeOf va with
    | none => .gate 1
    | some r =>
      if !kindOk r need va n true true then .gate 4
      else if (need = .store ∨ need = .engStore) ∧ r.kind ≠ kDEVICE then
        match s.regionAt va with
        | some (q, _) => match storeJudged q (s.holds cid q) with
          | .ok _ => .ok r
          | j => j
        | none => .ok r
      else .ok r

/-- R388: the gate's answer to an access of n bytes at va by a context. -/
def State.judge (s : State) (cid va n : Nat) (need : Need) : Judged :=
  if isKernel cid then s.judgeKernel cid va n need
  else
    match s.partOf (gathOf cid) with
    | none => .gate 1
    | some p =>
      match s.findRegion (coreKey cid) p (s.tenantOf cid) va with
      | none => .gate 1
      | some r =>
        if r.ocls = 1 ∧ !namesService (s.capsOf (coreKey cid) (s.tenantOf cid)) r.svc 0 then .gate 2
        else s.judgeRegion cid r va n need

/-- R31: an access that touches several regions is judged against each of them, lowest first. -/
def State.judgeAll (s : State) (cid : Nat) (need : Need) : Nat → Nat → Nat → Judged
  | 0, va, n => s.judge cid va n need
  | fuel + 1, va, n =>
    let page := va / 4096 * 4096 + 4096
    if va + n ≤ page then s.judge cid va n need
    else
      match s.judge cid va (page - va) need with
      | .ok _ => s.judgeAll cid need fuel page (va + n - page)
      | j => j

/-- R386: the entries that admitted an access stay in the core's gate. -/
def State.keepGate (s : State) (cid : Nat) (r : RegionEnt) (va : Nat) : State :=
  let k := coreKey cid
  let c := s.coreOf k
  if isKernel cid then
    match s.kernelListed cid va with
    | some e => s.setCore k { c with gateR := if c.gateR.contains e then c.gateR else e :: c.gateR }
    | none => s
  else
  let used := (s.capTable (s.tenantOf cid)).filter fun e =>
    (e.typ == 2 && extentCovers [e] va 1 0) || (e.typ == 1 && r.ocls == 1 && e.w4 == r.svc)
  s.setCore k { c with
    gateR := if c.gateR.contains r then c.gateR else r :: c.gateR
    gateC := used.foldl (fun l e => if l.contains e then l else e :: l) c.gateC }

/-- R34, R188: a destination PCID on this device lies inside a tenant's connections, with right 1 (DATA, REDUCE, HANDOVER)
or 2 (ACTIVE). -/
def State.connected (s : State) (core : Nat) (t : Byte) (pcid : Nat) (dev : Option Byte) (right : Nat) : Bool :=
  (s.capsOf core t).any fun c =>
    c.typ == 3 && c.rights.toNat &&& right != 0 && decide (fld c.w4 0 12 ≤ pcid) && decide (pcid ≤ fld c.w4 16 12)
      && (match dev with
          | none => !bit c.w8 8
          | some d => bit c.w8 8 && fld c.w8 0 8 == d.toNat)

end Sys2Proof.Machine
end

