-- ==== Sys2Proof/Machine/Tier.lean ====
section
/-! DEFINITION. The tier map and what a tier slot holds (R302, R303), translation misses (R312), and a tenant's memory as the launch unit, the I/O
die and other units reach it: whatever a page's state, a read returns its contents (R283), and a write to a page that is away waits for it (R304). -/

namespace Sys2Proof.Machine

/-! ### The tier map (R302) -/

def State.tierAt (s : State) (g : Nat) : Nat := fld (s.win! rTMBASE) 12 40 * 4096 + 16 * g
def State.tierEnt (s : State) (g : Nat) : BitVec 128 := BitVec.ofNat 128 (natOf (s.physBytes (s.tierAt g) 16))
def State.setTier (s : State) (g : Nat) (e : BitVec 128) : State := (s.touch (s.tierAt g) .none none true).physWriteBytes (s.tierAt g) (bytesOf 16 e.toNat)

/-- A field of a tier-map entry replaced. -/
def tput (e : BitVec 128) (lo n v : Nat) : BitVec 128 :=
  BitVec.ofNat 128 (e.toNat - fld e lo n * 2 ^ lo + (v % 2 ^ n) * 2 ^ lo)

def tRes (e : BitVec 128) : Bool := bit e 0
def tDirty (e : BitVec 128) : Bool := bit e 1
def tValid (e : BitVec 128) : Bool := bit e 2
def tCoded (e : BitVec 128) : Bool := bit e 3
def tRec (e : BitVec 128) : Bool := bit e 4
def tPin (e : BitVec 128) : Bool := bit e 5
def tLz (e : BitVec 128) : Bool := bit e 6
def tFrame (e : BitVec 128) : Nat := fld e 8 23
def tTenant (e : BitVec 128) : Byte := BitVec.ofNat 8 (fld e 48 8)

/-- The address of granule g's tier slot. -/
def State.slotAddr (s : State) (g : Nat) : Nat := fld (s.win! rTSBASE) 16 36 * 65536 + 65536 * g

/-- One byte into a CRC-32C register. -/
def crcStep (c : Word32) (b : Byte) : Word32 :=
  foldNat (fun c _ => if bit c 0 then (c >>> 1) ^^^ 0x82F63B78 else c >>> 1) (c ^^^ b.zeroExtend 32) 0 8

/-- CRC-32C. -/
def crc32c (bs : List Byte) : Word32 := ~~~(bs.foldl crcStep 0xFFFFFFFF)

/-- An LZ4 length: 15 is followed by bytes to add, up to one that is not 255. -/
def lzLength : Nat → List Byte → Nat × List Byte
  | n, [] => (n, [])
  | n, b :: bs => if b = 0xFF then lzLength (n + 255) bs else (n + b.toNat, bs)

/-- Copy n bytes from off bytes back in the output, which stands last byte first. -/
def lzCopy (off : Nat) : Nat → List Byte → List Byte
  | 0, out => out
  | n + 1, out => lzCopy off n (out.getD (off - 1) 0 :: out)

/-- An LZ4 block expanded; the output stands last byte first. -/
def lzLoop : Nat → List Byte → List Byte → List Byte
  | 0, _, out => out
  | _, [], out => out
  | fuel + 1, t :: bs, out =>
    let (nl, bs) := if t.toNat / 16 = 15 then lzLength 15 bs else (t.toNat / 16, bs)
    let out := (bs.take nl).reverse ++ out
    match bs.drop nl with
    | o0 :: o1 :: bs =>
      let (nm, bs) := if t.toNat % 16 = 15 then lzLength 15 bs else (t.toNat % 16, bs)
      lzLoop fuel bs (lzCopy (o0.toNat + 256 * o1.toNat) (nm + 4) out)
    | _ => out

def lz4Expand (bs : List Byte) : List Byte := (lzLoop bs.length bs []).reverse

/-- The 64 KiB contents of granule g as its tier slot holds them (R303). -/
def State.slotData (s : State) (g : Nat) : List Byte :=
  let e := s.tierEnt g
  let raw := s.physBytes (s.slotAddr g) (fld e 32 16 + 1)
  if tLz e then lz4Expand raw else raw

/-! ### Misses (R312) -/

/-- R312: a miss on a page joins the walk its die runs for that tenant and page, or queues a new one. -/
def State.addWalk (s : State) (g : Nat) (t : Byte) (va : Nat) (write : Bool) (r : Requester) : State :=
  let d := dieOfG g
  let same := fun (w : Walk) => w.die == d && w.tenant == t && pageDown va w.log2 == pageDown w.va w.log2
  if s.walks.any fun w => same w.2 then
    { s with walks := s.walks.map fun w =>
        if same w.2 then
          (w.1, { w.2 with write := w.2.write || write, reqs := if w.2.reqs.contains r then w.2.reqs else w.2.reqs ++ [r] })
        else w }
  else
    { s with
      walks := s.walks ++ [(s.nextId, { die := d, part := s.partOf g, tenant := t, va := va / 4096 * 4096, log2 := s.pageLog2 t va, write := write, reqs := [r], started := false })]
      nextId := s.nextId + 1 }

/-! ### A tenant's memory -/

/-- Where the contents of a tenant's page stand. -/
inductive Held where
  | frame (pa : Nat)
  /-- In the tier slot of granule g, from this offset (R303). -/
  | slot (g off : Nat)
  /-- On the migration source (R315). -/
  | far
  | none
deriving DecidableEq, Repr

/-- Where the byte at va stands: a page in motion is still in its frame (R303). -/
def State.whereAt (s : State) (t : Byte) (va : Nat) : Held :=
  match s.walkTables t va with
  | .leaf _ n pa _ => .frame (pa + va % 2 ^ n)
  | .tiered _ g => .slot g (va % 65536)
  | .moving ea => match s.moves.findSome? fun m => m.leaf.bind fun x => if x.1 = ea then some x.2 else Option.none with
    | some e => .frame (e % 2 ^ 52 / 65536 * 65536 + va % 65536)
    | Option.none => .none
  | .remote _ _ _ => .far
  | _ => .none

/-- The byte at va of a tenant; none where there is no mapping or the page is on another device. -/
def State.vaByte (s : State) (t : Byte) (va : Nat) : Option Byte :=
  match s.whereAt t va with
  | .frame pa => some (s.physByte pa)
  | .slot g off => some ((s.slotData g).getD off 0)
  | _ => Option.none

/-- n bytes of a tenant's memory from va; none where a byte has no mapping. -/
def State.vaBytes (s : State) (t : Byte) (va : Nat) : Nat → Option (List Byte)
  | 0 => some []
  | n + 1 => do
    let b ← s.vaByte t va
    let bs ← s.vaBytes t (va + 1) n
    some (b :: bs)

/-- n bytes of a tenant's memory as a number; absent pages read as 0. -/
def State.vaRead (s : State) (t : Byte) (va n : Nat) : Nat :=
  match s.whereAt t va with
  | .frame pa => s.physRead pa n
  | .slot g off => natAt (s.slotData g) off n
  | _ => 0

/-- The gathering whose die's walker serves a unit for tenant t: the first of the partition the tenant runs in. -/
def State.homeGath (s : State) (t : Byte) : Nat :=
  (((List.range 64).find? fun p => s.running p == some t).map fun p => gathAt (s.pbase p)).getD 0

/-- A page that a unit outside the walkers' clients needs and that is away: a walker brings it (R304, R315). -/
def State.fetchPage (s : State) (t : Byte) (va : Nat) : State := s.addWalk (s.homeGath t) t va false .unit

/-- Bytes written into a tenant's memory: at once where the page is resident, after its return where it is away; nothing where there is no
mapping. -/
def State.vaWrite (s : State) (t : Byte) (va n v : Nat) : State :=
  match s.paOf t va with
  | some pa => (s.touch pa .none none true).physWrite pa n v
  | none =>
    if s.whereAt t va = .none then s
    else State.fetchPage { s with posts := s.posts ++ [Post.write t va n v] } t va

/-- The first page of these ranges of a tenant's memory that is away (R304, R315). -/
def State.away (s : State) (t : Byte) (rs : List (Nat × Nat)) : Option Nat :=
  rs.findSome? fun r => findNat (fun i => match s.walkTables t (pageDown r.1 12 + 4096 * i) with
    | .tiered _ _ | .moving _ | .remote _ _ _ => decide (r.2 ≠ 0)
    | _ => false) 0 ((r.1 % 4096 + r.2 + 4095) / 4096) |>.map fun i => pageDown r.1 12 + 4096 * i

end Sys2Proof.Machine
end

