-- ==== Sys2Proof/Machine/Barrier.lean ====
section
/-! DEFINITION. Barrier channels (R200 to R202) and the stash mappings' write-back and end (R162 to R165). -/

namespace Sys2Proof.Machine

/-! ### Barriers -/

def State.barOf (s : State) (cid c : Nat) : BarSt := SMap.read {} (s.ctxOf cid).sched.bar c
def State.setBar (s : State) (cid c : Nat) (b : BarSt) : State :=
  let x := (s.ctxOf cid).sched
  s.setSched cid { x with bar := SMap.write {} x.bar c b }

/-- A context is a member of channel c: it holds a task of the tenant running in its partition and has bit c of BMASK set
(R200). -/
def State.isMember (s : State) (cid c : Nat) : Bool :=
  let x := s.ctxOf cid
  x.sched.task.isSome && bit x.ctl.bmask c && !isKernel cid &&
    (match s.partOf (gathOf cid) with
     | some p => s.running p == some x.sched.tenant
     | none => false)

/-- The members of channel c in partition p (R200). -/
def State.members (s : State) (p c : Nat) : List Nat := (s.cidsOf p).filter fun cid => s.isMember cid c

/-- The tenant of a domain's output image (R341). -/
def State.cdTenant (s : State) (d : Nat) : Byte := BitVec.ofNat 8 (fld (s.win! (rCDOUT d)) 56 8)

/-- This is the preferred package of the pair (R361). -/
def State.preferred (s : State) : Bool := bit (s.win! rPAIRCTL) 11

/-- R364: a resynchronisation holds the tenant that runs in p on the preferred package: it owns the output image of a domain every slot of
which is idle, or is held already. -/
def State.pairHolds (s : State) (p : Nat) : Bool :=
  s.preferred && s.pair.holding.any fun d => s.running p == some (s.cdTenant d)
    && ((SMap.read {} s.parts p : PartSt).held || (List.range 256).all fun x => fld (s.win! (rSLOTST d x)) 0 2 == 0)

/-- A pending request of the kernel-core service (R320), or the hold of a resynchronisation (R364). -/
def State.pending (s : State) (p : Nat) : Bool := bit (s.win! (rPREQ p)) 63 || s.pairHolds p

/-- R200: a generation completes when every member is ARRIVED and there is one: all become DONE with the generation's AND and OR
(R201). On channel 0, a generation in which every member arrived by SSTEP is a superstep boundary: with a request
pending, the members stay held there (R202). -/
def State.barEval (s : State) (p c : Nat) : State :=
  let ms := s.members p c
  if !ms.isEmpty && ms.all (fun cid => (s.barOf cid c).st == 1) then
    let a := ms.all fun cid => (s.barOf cid c).andB
    let o := ms.any fun cid => (s.barOf cid c).orB
    let step := c == 0 && ms.all (fun cid => (s.barOf cid c).sstep)
    let s' := ms.foldl (fun s cid => s.setBar cid c { st := 2, andB := a, orB := o, sstep := step }) s
    if step && s.pending p then
      { s' with parts := SMap.write {} s'.parts p { SMap.read {} s'.parts p with held := true } }
    else s'
  else s

/-- Evaluate channel c of the context's partition again. -/
def State.barEvalOf (s : State) (cid c : Nat) : State :=
  match s.partOf (gathOf cid) with
  | some p => s.barEval p c
  | none => s

/-- Arrive on a channel with a bit for AND and OR; only IDLE becomes ARRIVED (R201). -/
def State.arrive (s : State) (cid c : Nat) (a o sstep : Bool) : State :=
  if (s.barOf cid c).st = 0 then
    (s.setBar cid c { st := 1, andB := a, orB := o, sstep := sstep }).barEvalOf cid c
  else s

/-- R200: a context is withdrawn from every channel, and each is evaluated again over the remaining members. -/
def State.withdraw (s : State) (cid : Nat) : State :=
  let s := s.setSched cid { (s.ctxOf cid).sched with bar := [] }
  foldNat (fun s c => s.barEvalOf cid c) s 0 32

/-! ### Stash mappings -/

/-- A mapping covers a global address. -/
def Mapping.covers (m : Mapping) (va : Nat) : Bool := decide (m.base ≤ va) && decide (va < m.base + m.npg * 4096)

/-- 64 bytes of a stash from its line put into memory at pa; the whole line is written, so it is poisoned when a word of it is (R163, R299). -/
def State.lineBack (s : State) (st : SMap Byte) (bad : Bool) (line pa : Nat) : State :=
  let s := foldNat (fun s i => { s with mem := Memory.setByte s.mem (pa + i) (SMap.read 0 st (line * 64 + i)) }) s 0 64
  let clean := s.poison.filter (· != pa / 64)
  { s with poison := if bad then pa / 64 :: clean else clean }

/-- Write one dirty line back (R163), on behalf of the context that made the mapping (R295). -/
def State.writeBackLine (s : State) (k : Nat) (m : Mapping) (line : Nat) : State :=
  let c := s.coreOf k
  (s.lineBack c.stash (c.badAt (line * 64) 64) line (m.paOf (line * 64))).l2Touch (m.paOf (line * 64) / 64) (some m.owner)

/-- Write the dirty lines of a mapping back, unless NOWB = 1 (R163, R164). -/
def State.writeBack (s : State) (k : Nat) (m : Mapping) : State :=
  if m.nowb then s else m.dirty.foldl (fun s line => s.writeBackLine k m line) s

/-- The lines of a mapping leave the directory as the stash's (R163, R166). -/
def State.unregister (s : State) (k : Nat) (m : Mapping) : State :=
  m.filled.foldl (fun s line => s.stashLeaves k (m.paOf (line * 64) / 64)) s

/-- A core's mappings replaced. -/
def State.setMaps (s : State) (k : Nat) (ms : List Mapping) : State := s.setCore k { s.coreOf k with maps := ms }

/-- A mapping is removed, and its lines with it. -/
def State.dropMapping (s : State) (k : Nat) (m : Mapping) : State :=
  (s.setMaps k ((s.coreOf k).maps.filter (· != m))).unregister k m

/-- The mapping ends as by UNMAP (R163): written back, then removed. -/
def State.endMapping (s : State) (k : Nat) (m : Mapping) : State := (s.writeBack k m).dropMapping k m

/-- A mapping of a saved stash ends (R165, R166): what a tree command wrote since the save goes to memory. -/
def State.endSaved (s : State) (x : StashSave) (m : Mapping) : State :=
  if m.nowb then s else m.dirty.foldl (fun s line => s.lineBack x.stash false line (m.paOf (line * 64))) s

/-- Every mapping that p picks ends, those of tenants that are switched out too; back says whether dirty lines are written back (R165,
R166). -/
def State.endMappings (s : State) (p : Mapping → Bool) (back : Bool) : State :=
  let s := s.cores.foldl (fun s kc =>
    kc.2.maps.foldl (fun s m => if p m then (if back then s.endMapping kc.1 m else s.dropMapping kc.1 m) else s) s) s
  let s := if back then s.stashes.foldl (fun s x => (x.maps.filter p).foldl (fun s m => s.endSaved x m) s) s else s
  { s with stashes := s.stashes.map fun x => { x with maps := x.maps.filter fun m => !p m } }

end Sys2Proof.Machine
end

