-- ==== Sys2Proof/Machine/Launch.lean ====
section
/-! DEFINITION. Launches: packets, descriptors and their checks (R322 to R326, R382), launch and error queues
(R378 to R381), starting and ending tasks (R38, R39, R328 to R330), and completion (R332). -/

namespace Sys2Proof.Machine

/-! ### Engine commands outstanding -/

def Core.engine (c : Core) (e : Nat) : EngQ := SMap.read {} c.eng e
def Core.setEngine (c : Core) (e : Nat) (q : EngQ) : Core := { c with eng := SMap.write {} c.eng e q }

/-- The commands of tenant t's context cid that are pushed and not completed, with their engines (R238, R239). -/
def State.cmdsFor (s : State) (t : Byte) (cid : Nat) : List (Nat × Cmd) :=
  let here := (s.coreOf (coreKey cid)).eng.flatMap fun e =>
    e.2.queue.map (fun c => (e.1, c)) ++ e.2.done.map (fun d => (e.1, d.cmd))
  (here ++ s.treeQ.map fun (x : Nat × TreeCmd) => (3, x.2.cmd)).filter fun x => x.2.cid == cid && (isKernel cid || x.2.tenant == t)

/-- Those of the context on its slot. -/
def State.cmdsOf (s : State) (cid : Nat) : List (Nat × Cmd) := s.cmdsFor (s.tenantOf cid) cid

/-! ### Saved contexts (R336) -/

/-- What becomes of the capabilities of context cid when its state is saved for tenant t. -/
def Holder.park (t : Byte) (cid : Nat) (h : Holder) : Holder :=
  if h = .ctx cid then .saved t cid else if h = .moving cid then .savedMoving t cid else h

/-- And when it comes back. -/
def Holder.unpark (t : Byte) (cid : Nat) (h : Holder) : Holder :=
  if h = .saved t cid then .ctx cid else if h = .savedMoving t cid then .moving cid else h

/-- The capabilities a context holds follow its state off its slot, and back. -/
def State.parkCaps (s : State) (t : Byte) (cid : Nat) : State := { s with holders := s.holders.map fun h => (h.1, h.2.park t cid) }
def State.unparkCaps (s : State) (t : Byte) (cid : Nat) : State := { s with holders := s.holders.map fun h => (h.1, h.2.unpark t cid) }

/-- The live state of context cid is saved for tenant t, with the capabilities it holds; a context as an unused slot holds it leaves nothing. -/
def State.parkCtx (s : State) (t : Byte) (cid : Nat) : State :=
  let c := s.ctxOf cid
  let s := s.parkCaps t cid
  State.setCtx { s with slots := if c = {} then s.slots else s.slots ++ [{ tenant := t, cid := cid, ctx := c }] } cid {}

/-- The state saved for tenant t comes back to context cid. -/
def State.unparkCtx (s : State) (t : Byte) (cid : Nat) : State :=
  let s := s.unparkCaps t cid
  match s.slots.find? fun x => x.tenant == t && x.cid == cid with
  | some x => ({ s with slots := s.slots.filter fun y => !(y.tenant == t && y.cid == cid) }).setCtx cid x.ctx
  | none => s

/-- What happens to the context of tenant t on slot cid: on its saved state where that is off its slot (R336). -/
def State.onOwner (s : State) (t : Byte) (cid : Nat) (f : State → State) : State :=
  if s.slots.any fun x => x.tenant == t && x.cid == cid then
    let live := s.ctxOf cid
    let s := match s.slotTenant cid with
      | some u => s.parkCaps u cid
      | none => s
    let s := (f ((s.setCtx cid {}).unparkCtx t cid)).parkCtx t cid
    let s := match s.slotTenant cid with
      | some u => s.unparkCaps u cid
      | none => s
    s.setCtx cid live
  else f s

/-- The state as the context of tenant t on slot cid sees it: with its saved state on the slot where that is off it (R17, R336). -/
def State.ownerView (s : State) (t : Byte) (cid : Nat) : State :=
  if s.slots.any fun x => x.tenant == t && x.cid == cid then
    (match s.slotTenant cid with
      | some u => s.parkCaps u cid
      | none => s).unparkCtx t cid
  else s

/-! ### Packets and descriptors -/

/-- A launch packet's 64 bytes (R322). -/
def parsePacket (bs : List Byte) : Packet :=
  { graph := word (natAt bs 0 8), crec := word (natAt bs 8 8), errq := word (natAt bs 16 8)
    budget := BitVec.ofNat 32 (natAt bs 24 4), tag := BitVec.ofNat 32 (natAt bs 28 4)
    flags := BitVec.ofNat 8 (natAt bs 32 1), dom := BitVec.ofNat 8 (natAt bs 33 1)
    pcore := BitVec.ofNat 16 (natAt bs 34 2)
    rest := natAt bs 36 28 != 0 || natAt bs 33 1 / 8 != 0 }

/-- A graph descriptor's 64 bytes (R324). -/
def parseGraph (bs : List Byte) : Graph :=
  { tasks := word (natAt bs 0 8), deps := word (natAt bs 8 8), succ := word (natAt bs 16 8), grant := word (natAt bs 24 8)
    pool := word (natAt bs 32 8), tvec := word (natAt bs 40 8), ntask := BitVec.ofNat 32 (natAt bs 48 4)
    nsucc := BitVec.ofNat 32 (natAt bs 52 4), ngrant := BitVec.ofNat 8 (natAt bs 56 1), rest := natAt bs 57 7 != 0 }

/-- MODE, CLASS, SLOT, SCOPE of a packet's FLAGS (R322). -/
def Packet.det (p : Packet) : Bool := bit p.flags 0
def Packet.cls (p : Packet) : BitVec 2 := p.flags.extractLsb' 1 2
def Packet.slot (p : Packet) : Nat := fld p.flags 3 2
def Packet.scope (p : Packet) : Nat := fld p.flags 5 3

/-- A task record's 64 bytes (R38). -/
def parseTask (bs : List Byte) : TaskRec :=
  { entry := word (natAt bs 0 8), args := (List.range 7).map fun i => word (natAt bs (8 + 8 * i) 8) }

/-- Dependence entry i of a graph (R325): COUNT, FIRST, and whether its zero byte is not zero. -/
def State.depEntry (s : State) (t : Byte) (g : Graph) (i : Nat) : Nat × Nat × Bool :=
  let e := s.vaRead t (g.deps.toNat + 8 * i) 8
  (e % 2 ^ 24, e / 2 ^ 32, e / 2 ^ 24 % 256 != 0)

/-- FIRST(i), with FIRST(NTASK) = NSUCC (R325). -/
def State.firstOf (s : State) (t : Byte) (g : Graph) (i : Nat) : Nat :=
  if i = g.ntask.toNat then g.nsucc.toNat else (s.depEntry t g i).2.1

/-- The successors of task i (R325). -/
def State.succsOf (s : State) (t : Byte) (g : Graph) (i : Nat) : List Nat :=
  let a := s.firstOf t g i
  (List.range (s.firstOf t g (i + 1) - a)).map fun k => s.vaRead t (g.succ.toNat + 4 * (a + k)) 4

/-- How often each task is named as a successor. -/
def State.countSuccs (s : State) (t : Byte) (g : Graph) : SMap Nat :=
  foldNat (fun m k => let x := s.vaRead t (g.succ.toNat + 4 * k) 4
                      SMap.write 0 m x (SMap.read 0 m x + 1)) [] 0 g.nsucc.toNat

/-- An entry PC that R38 admits. -/
def entryOk (pc : Word) : Bool := fld pc 0 2 == 0 && fld pc 56 8 == 0

/-- R324, R325, R38: the descriptor and its tables are well formed. -/
def State.graphOk (s : State) (t : Byte) (ga : Nat) (g : Graph) : Bool :=
  let n := g.ntask.toNat
  ga % 64 == 0 && g.tasks.toNat % 64 == 0 && g.deps.toNat % 8 == 0 && g.succ.toNat % 4 == 0 && g.grant.toNat % 16 == 0
    && (g.ngrant != 0 || g.grant == 0) && decide (1 ≤ n) && decide (n ≤ 2 ^ 24) && decide (g.nsucc.toNat ≤ 2 ^ 26)
    && decide (g.ngrant.toNat ≤ 16) && !g.rest
    && (let cs := s.countSuccs t g
        (List.range n).all fun i =>
          let (cnt, first, z) := s.depEntry t g i
          !z && decide (first ≤ s.firstOf t g (i + 1)) && decide (s.firstOf t g (i + 1) ≤ g.nsucc.toNat)
            && ((s.succsOf t g i).all fun j => decide (i < j) && decide (j < n)) && cnt == SMap.read 0 cs i
            && s.whereAt t (g.tasks.toNat + 64 * i) != .none && entryOk (word (s.vaRead t (g.tasks.toNat + 64 * i) 8)))
    && ((List.range g.ngrant.toNat).all fun e => s.vaRead t (g.grant.toNat + 16 * e + 12) 4 == 0)

/-- Grant entry e: the region address and the task index (R326). -/
def State.grantOf (s : State) (t : Byte) (g : Graph) (e : Nat) : Nat × Nat :=
  (s.vaRead t (g.grant.toNat + 16 * e) 8, s.vaRead t (g.grant.toNat + 16 * e + 8) 4)

/-- A tenant's own region that covers an address in partition p (R383). -/
def State.ownRegion (s : State) (p : Nat) (t : Byte) (va : Nat) : Option RegionEnt :=
  (s.regionTable p).find? fun r => r.ocls == 0 && r.tenant == t && r.covers va

/-- The kind of the own region an address lies in. -/
def State.ownKind (s : State) (p : Nat) (t : Byte) (va : Nat) : Option (BitVec 3) := (s.ownRegion p t va).map (·.kind)

/-- The capability key of a grant's region, when the service holds it (R326). -/
def State.grantKey (s : State) (p : Nat) (t : Byte) (va : Nat) : Option Nat :=
  match s.ownRegion p t va with
  | some r => if (r.kind = kOWNED ∨ r.kind = kVERSIONED) ∧ s.holder (s.regionKey r) = .service then some (s.regionKey r) else none
  | none => none

/-- The image of tenant t that holds the graph descriptor (R99, R324). -/
def State.imageOf (s : State) (t : Byte) (ga : Nat) : Option Image :=
  s.images.find? fun im => im.tenant == t && decide (im.base ≤ ga) && decide (ga + 64 ≤ im.base + im.size)

/-- The base of a queue's launch and error regions, its tenant and size (R379). -/
def State.lqBase (s : State) (q : Nat) : Nat := fld (s.win! (rLQ q 0)) 12 44 * 4096
def State.lqTenant (s : State) (q : Nat) : Byte := BitVec.ofNat 8 (fld (s.win! (rLQ q 0)) 56 8)
def State.lqErr (s : State) (q : Nat) : Nat := fld (s.win! (rLQ q 8)) 12 44 * 4096
def State.lqLog2 (s : State) (q : Nat) : Nat := fld (s.win! (rLQ q 0x10)) 0 4
def State.lqEn (s : State) (q : Nat) : Bool := bit (s.win! (rLQ q 0x10)) 16
def State.lqStop (s : State) (q : Nat) : Bool := bit (s.win! (rLQ q 0x10)) 17
def State.lqFunc (s : State) (q : Nat) : Byte := BitVec.ofNat 8 (fld (s.win! (rLQ q 0x10)) 8 8)

/-- The graph descriptor a packet names, as it stands. -/
def State.graphAt (s : State) (t : Byte) (pk : Packet) : Graph :=
  parseGraph ((s.vaBytes t pk.graph.toNat 64).getD [])

/-- ERRQ is not the sibling error queue of launch queue q, or for a slot packet not the base of a QUEUE region (R323). -/
def State.errqBad (s : State) (t : Byte) (p : Nat) (q : Option Nat) (pk : Packet) : Bool :=
  match q with
  | some q => pk.errq.toNat != s.lqErr q
  | none => match s.ownRegion p t pk.errq.toNat with
    | some r => r.kind != kQUEUE || r.base != pk.errq.toNat
    | none => true

/-- CREC is not 16-byte aligned in an OWNED region (R323). -/
def State.crecBad (s : State) (t : Byte) (p : Nat) (pk : Packet) : Bool :=
  pk.crec.toNat % 16 != 0 || s.ownKind p t pk.crec.toNat != some kOWNED

/-- In stealing mode PCORE lies outside the partition (R323). -/
def State.pcoreBad (s : State) (p : Nat) (pk : Packet) : Bool := !pk.det && decide (8 * s.plen p ≤ pk.pcore.toNat)

/-- The service holds the capability of every grant of a graph (R326). -/
def State.grantsHeld (s : State) (t : Byte) (p : Nat) (g : Graph) : Bool :=
  (List.range g.ngrant.toNat).all fun e => (s.grantKey p t (s.grantOf t g e).1).isSome

/-- The checks of R323 in the order of their sub-reasons (R382); none when the packet passes. q is the launch queue, none for a
slot packet. -/
def State.malformed (s : State) (t : Byte) (p : Nat) (q : Option Nat) (pk : Packet) : Option Nat :=
  let ga := pk.graph.toNat
  let g := s.graphAt t pk
  let img := s.imageOf t ga
  if pk.rest ∨ 6 ≤ pk.scope then some 1
  else if pk.cls = 0 ∧ q.isSome then some 2
  else if s.errqBad t p q pk then some 3
  else if s.crecBad t p pk then some 4
  else if (match img with
      | none => true
      | some im => (s.vaBytes t ga 64).isNone || g.pool.toNat != im.poolAt || !bit im.modes (b2n pk.det)) then some 5
  else if s.pcoreBad p pk then some 6
  else if !s.graphOk t ga g then some 7
  else if !s.grantsHeld t p g then some 8
  else none

/-! ### Error queues (R378, R381) -/

/-- log2 of the entries of the error queue at va of tenant t: that of the enabled launch queue whose LQERR names it; for one named
only by slot packets, the largest that fits its region (R381). -/
def State.errLog2 (s : State) (t : Byte) (va : Nat) : Nat :=
  match findNat (fun q => s.lqEn q && s.lqTenant q == t && s.lqErr q == va) 0 1024 with
  | some q => s.lqLog2 q
  | none =>
    let len := ((List.range 64).findSome? fun p => s.ownRegion p t va).map (·.len)
    Nat.min 15 (Nat.log2 (((len.getD 4096) - 64) / 64))

/-- R381: write one 64-byte handler packet to an error queue, or count it lost. q is the launch queue whose LQST counts it. -/
def State.putPacket (s : State) (t : Byte) (errq : Nat) (q : Option Nat) (bs : List Byte) : State :=
  let widx := s.vaRead t errq 8
  let ridx := s.vaRead t (errq + 8) 8
  let n := 2 ^ s.errLog2 t errq
  if (widx + 2 ^ 64 - ridx) % 2 ^ 64 < n then
    let at' := errq + 64 + 64 * (widx % n)
    let s := foldNat (fun s i => s.vaWrite t (at' + 8 * i) 8 (natAt bs (8 * i) 8)) s 0 8
    let s := s.vaWrite t errq 8 (widx + 1)
    match q with
    | some q =>
      let f := s.lqFunc q
      if f = 0 then s else
        let v := SMap.read {} s.vfs f.toNat
        { s with vfs := SMap.write {} s.vfs f.toNat { v with vint := v.vint ||| 1 } }
    | none => s
  else
    match q with
    | some q =>
      let r := s.win! (rLQ q 0x18)
      s.setWin (rLQ q 0x18) (putFld r 32 16 (Nat.min 0xFFFF (fld r 32 16 + 1)))
    | none => s

/-- The header and entries of the error queue at va, as a range of the tenant's memory (R378). -/
def State.errRange (s : State) (t : Byte) (va : Nat) : Nat × Nat := (va, 64 + 64 * 2 ^ s.errLog2 t va)

/-- A handler packet goes to its error queue; where a page of the queue is away it waits for the page, and later packets behind it (R304). -/
def State.errPacket (s : State) (t : Byte) (errq : Nat) (q : Option Nat) (bs : List Byte) : State :=
  match s.away t [s.errRange t errq] with
  | none => if s.posts.isEmpty then s.putPacket t errq q bs else { s with posts := s.posts ++ [.packet t errq q bs] }
  | some va => State.fetchPage { s with posts := s.posts ++ [Post.packet t errq q bs] } t va

/-- The page a waiting write needs and that is away. -/
def State.postAway (s : State) : Post → Option (Byte × Nat)
  | .write t va n _ => (s.away t [(va, n)]).map fun a => (t, a)
  | .packet t errq _ _ => (s.away t [s.errRange t errq]).map fun a => (t, a)

/-- The waiting writes whose pages are back are performed, in order; a page that is away again is asked for again (R304). -/
def State.flushPosts (s : State) : State :=
  s.posts.foldl (fun s x => match s.postAway x with
    | some (t, va) => State.fetchPage { s with posts := s.posts ++ [x] } t va
    | none => match x with
      | .write t va n v => s.vaWrite t va n v
      | .packet t errq q bs => s.putPacket t errq q bs) { s with posts := [] }

/-- The bytes of a handler packet (R381). -/
def handlerBytes (code : Byte) (sub : Nat) (tag : Word32) (pkt val : Word) (ftime cid : Nat) (t : Byte) (func qidx ndone : Nat) : List Byte :=
  [code] ++ bytesOf 1 sub ++ bytesOf 2 0 ++ bytesOf 4 tag.toNat ++ bytesOf 8 pkt.toNat ++ bytesOf 8 val.toNat ++ bytesOf 8 ftime
    ++ bytesOf 2 cid ++ [t] ++ bytesOf 1 func ++ bytesOf 4 qidx ++ bytesOf 4 ndone ++ bytesOf 20 0

/-- R381: the handler packet of a launch goes to its error queue. cid 0xFFFF: none. -/
def State.reportLaunch (s : State) (l : Launch) (code : Byte) (sub : Nat) (val : Word) (cid : Nat) : State :=
  match l.src with
  | .queue q ridx =>
    s.errPacket l.tenant l.packet.errq.toNat (some q)
      (handlerBytes code sub l.packet.tag l.pkt val s.dtime cid l.tenant (s.lqFunc q).toNat ridx l.ended.length)
  | .slot _ _ =>
    s.errPacket l.tenant l.packet.errq.toNat none
      (handlerBytes code sub l.packet.tag l.pkt val s.dtime cid l.tenant 0xFF 0xFFFFFFFF l.ended.length)

/-! ### Deques and ready rings (R203, R329) -/

/-- The key of partition-relative core j (R319). -/
def coreAt (pbase j : Nat) : Nat := gathAt (pbase + j / 8) * 16 + j % 8

/-- A record goes to the deque of core k when it has room, else to the launch's ready ring (R329). -/
def State.queueTask (s : State) (k : Nat) (q : Queued) : State :=
  let c := s.coreOf k
  if c.deque.length < 64 then s.setCore k { c with deque := c.deque ++ [{ q with age := s.clk }] }
  else match s.launch? q.launch with
    | some l => s.setLaunch { l with ring := l.ring ++ [q] }
    | none => s

/-- The record of task i of a launch: the armed copy where there is one, else memory (R325, R352). -/
def State.taskRec (s : State) (l : Launch) (i : Nat) : TaskRec :=
  match l.armed[i]? with
  | some r => r
  | none => parseTask ((s.vaBytes l.tenant (l.graph.tasks.toNat + 64 * i) 64).getD [])

/-- A checked packet becomes a launch (R321, R325, R328, R329). -/
def State.startLaunch (s : State) (t : Byte) (p : Nat) (src : Source) (pkt : Word) (pk : Packet) (rule : Option (BitVec 2))
    (g : Graph) (armed : List TaskRec) : State :=
  let id := s.nextId
  let n := g.ntask.toNat
  let live : SMap Nat := foldNat (fun m i => SMap.write 0 m i (s.depEntry t g i).1) [] 0 n
  let zero := (List.range n).filter fun i => SMap.read 0 live i == 0
  let l : Launch := { id := id, tenant := t, part := p, src := src, pkt := pkt, packet := pk, graph := g, image := ((s.imageOf t pk.graph.toNat).map (·.id)).getD 0, pbase := s.pbase p, plen := s.plen p, rule := rule, live := live, ready := if pk.det then zero else [], started := [], ended := [], ring := [], armed := armed }
  let s : State := { s with launches := s.launches ++ [l], nextId := id + 1 }
  if pk.det then s
  else zero.foldl (fun s i =>
    let q : Queued := { launch := id, index := some i, trec := s.taskRec l i }
    if i = 0 then s.queueTask (coreAt l.pbase pk.pcore.toNat) q
    else match s.launch? id with
      | some l => s.setLaunch { l with ring := l.ring ++ [q] }
      | none => s) s

/-! ### Starting a task (R13, R330) -/

/-- The registers at task start (R13). -/
def Regs.start (r : TaskRec) : Regs :=
  let a := fun i => r.args.getD i 0
  let base : Regs := { pc := r.entry }
  { base with s := (((((((base.s.set 1 (a 0)).set 2 (a 1)).set 3 (a 2)).set 4 (a 3)).set 5 (a 4)).set 6 (a 5)).set 7 (a 6)) }

/-- CLASS of an exhausted context (R335). -/
def exhCls (floor : BitVec 2) : BitVec 2 := if floor = 3 then 3 else 2

/-- R335: a context whose BUDGET has reached 0. Under PREEMPT it issues nothing until the next cycle start (R354); otherwise its
class is saved and lowered, and an attached context detaches on a change (R27). While a handler runs, the class saved
is the task's, held in the save area. -/
def State.exhaust (s : State) (cid : Nat) : State :=
  let c := s.ctxOf cid
  if c.sched.exhausted then s
  else if c.sched.rule = some 2 then s.setSched cid { c.sched with exhausted := true, frozen := true }
  else
    let saved := match c.sched.handler with
      | some h => if h.free then c.ctl.prioCls else h.cls
      | none => c.ctl.prioCls
    let cls := exhCls c.ctl.prioFlr
    let s := s.setCtx cid { c with
      ctl := { c.ctl with prioCls := cls }
      sched := { c.sched with exhausted := true, savedCls := some saved } }
    if cls = c.ctl.prioCls ∨ c.sched.spine ≠ .attached then s else s.detach cid

/-- The inbox of a context is emptied: a capability that a HANDOVER message in it carries goes to the tenant's kernel-core service (R33,
R168). -/
def State.dropHandovers (s : State) (cid : Nat) : State :=
  { s with holders := s.holders.filter fun h =>
      !(h.2 == .moving cid && (s.ctxOf cid).inbox.any fun m =>
        fld m.hdr 0 3 == 4 && (h.1 % 2 ^ 56 == fld m.payload 0 64 || decide (2 ^ 70 ≤ h.1))) }

/-- A task starts on a FREE context (R13, R27, R38): its inbox is kept when its previous task belonged to the same graph; grants
that name it pass to the context (R326). -/
def State.startTask (s : State) (cid : Nat) (q : Queued) : State :=
  match s.launch? q.launch with
  | none => s
  | some l =>
    let c := s.ctxOf cid
    let cls := l.packet.cls
    let s := if c.sched.lastGraph = some l.id then s else s.dropHandovers cid
    let s := s.setCtx cid {
      regs := Regs.start q.trec
      ctl := { tvec := l.graph.tvec &&& ~~~(3 : Word), budget := l.packet.budget, prioCls := cls, prioFlr := cls }
      inbox := if c.sched.lastGraph = some l.id then c.inbox else []
      sched := { spine := .priv, task := some { launch := l.id, index := q.index, trec := q.trec }, lastGraph := some l.id, tenant := l.tenant, code := s.codeNow, codeV := s.ringsNow, codeAt := s.clk, dom := l.packet.dom.extractLsb' 0 3, pktBudget := l.packet.budget, rule := l.rule, readyAt := s.clk } }
    let s := match q.index with
      | some i =>
        let s := s.setLaunch { l with started := i :: l.started, ready := l.ready.filter (· != i) }
        (List.range l.graph.ngrant.toNat).foldl (fun s e =>
          let (va, ti) := s.grantOf l.tenant l.graph e
          if ti = i then
            match s.ownRegion l.part l.tenant va with
            | some r => s.setHolder (s.regionKey r) (.ctx cid)
            | none => s
          else s) s
      | none => s
    if l.packet.budget = 0 then s.exhaust cid else s

/-- R328: the deterministic task that may start on a context: the first one, of the oldest launch placed there whose earlier
tasks on it have ended. -/
def State.detTask (s : State) (cid : Nat) (t : Byte) : Option Queued :=
  let placed := s.launches.filter fun l => l.packet.det && l.tenant == t && l.packet.slot == slotNo cid
    && decide (l.pbase ≤ hpOf (gathOf cid)) && decide (hpOf (gathOf cid) < l.pbase + l.plen)
  let mine := fun (l : Launch) => (List.range l.graph.ntask.toNat).filter fun i =>
    i % (8 * l.plen) == 8 * (hpOf (gathOf cid) - l.pbase) + coreNo cid && !l.ended.contains i
  match placed.find? fun l => !(mine l).isEmpty with
  | some l =>
    match mine l with
    | i :: _ => if SMap.read 0 l.live i = 0 ∧ !l.started.contains i then
        some { launch := l.id, index := some i, trec := s.taskRec l i } else none
    | [] => none
  | none => none

/-- The tenant of a partition whose launch and issue may go on: it runs, its switch-in has reached READY, and issue has not
stopped for a switch (R202, R306). -/
def State.mayIssue (s : State) (p : Nat) (t : Byte) : Bool :=
  let x := SMap.read {} s.parts p
  s.running p == some t && x.swIn.isNone && !x.stopped

/-- A context is FREE and may take work of its slot's tenant (R330, R336). -/
def State.freeFor (s : State) (cid : Nat) : Option (Nat × Byte) :=
  let c := s.ctxOf cid
  if c.sched.task.isNone && c.sched.handler.isNone && !isKernel cid then
    match s.partOf (gathOf cid), s.slotTenant cid with
    | some p, some t => if s.mayIssue p t then some (p, t) else none
    | _, _ => none
  else none

/-- The victims of a steal round of a core, in order (R331). -/
def State.victims (s : State) (p key : Nat) : List Nat :=
  let g := key / 16
  let c := key % 16
  let hp := hpOf g
  let own := (List.range 7).map fun i => g * 16 + (c + 1 + i) % 8
  let near := (List.range 64).flatMap fun d => [(hp + (d + 1)), (if d + 1 ≤ hp then hp - (d + 1) else 64)]
  own ++ (near.filter fun h => decide (s.pbase p ≤ h) && decide (h < s.pbase p + s.plen p)).flatMap
    fun h => (List.range 8).map fun j => gathAt h * 16 + j

/-- R330: a FREE context takes a deterministic task, the newest entry of its deque, the oldest entry of a ready ring, or sends
a steal request. -/
def State.takeWork (s : State) (cid : Nat) : State :=
  match s.freeFor cid with
  | none => s
  | some (p, t) =>
    match s.detTask cid t with
    | some q => s.startTask cid q
    | none =>
      let k := coreKey cid
      let c := s.coreOf k
      match c.deque.reverse with
      | q :: rest => (s.setCore k { c with deque := rest.reverse }).startTask cid q
      | [] =>
        match s.launches.find? fun l => l.tenant == t && l.part == p && !l.packet.det && !l.ring.isEmpty with
        | some l =>
          match l.ring with
          | q :: rest => (s.setLaunch { l with ring := rest }).startTask cid q
          | [] => s
        | none =>
          if c.steal.isNone ∧ c.stealAt ≤ s.clk then
            s.setCore k { c with steal := some { slot := BitVec.ofNat 2 cid, victims := s.victims p k } }
          else s

/-! ### Ending a task (R39, R325, R329) -/

/-- The context becomes FREE: its straggler bit clears, it leaves its stream, and its barrier states go (R27, R200). Its inbox
and the writer capabilities it holds stay (R33, R188). -/
def State.freeCtx (s : State) (cid : Nat) : State :=
  let g := gathOf cid
  let k := slotNo cid
  let was := (s.ctxOf cid).sched.spine
  let s := if isKernel cid then s else (s.leaveOne cid false).holdCheck g k
  let s := if was = .attached then (s.stopIfEmpty g k).settle g k else s
  let s := s.withdraw cid
  let c := s.ctxOf cid
  s.setCtx cid { regs := {}, ctl := {}, inbox := c.inbox, sched := { lastGraph := c.sched.lastGraph, tenant := c.sched.tenant } }

/-- The successors of an ended task of the array lose one count; those at zero become ready (R325, R328, R329). -/
def State.release (s : State) (l : Launch) (i k : Nat) : State :=
  (s.succsOf l.tenant l.graph i).foldl (fun s j =>
    match s.launch? l.id with
    | none => s
    | some l =>
      let n := SMap.read 0 l.live j - 1
      let s := s.setLaunch { l with live := SMap.write 0 l.live j n, ready := if n = 0 ∧ l.packet.det then l.ready ++ [j] else l.ready }
      if n = 0 ∧ !l.packet.det then s.queueTask k { launch := l.id, index := some j, trec := s.taskRec l j } else s) s

/-- The context's task ends by FINISH or HALT (R39, R204). -/
def State.endTask (s : State) (cid : Nat) : State :=
  let c := s.ctxOf cid
  let s := s.freeCtx cid
  match c.sched.task with
  | none => s
  | some b =>
    match s.launch? b.launch, b.index with
    | some l, some i =>
      let l := { l with ended := i :: l.ended, started := l.started.filter (· != i) }
      (s.setLaunch l).release l i (coreKey cid)
    | _, _ => s

/-! ### Completion (R332) -/

/-- A reduction server that serves until its graph completes and is idle now (R206, R209). -/
def RedSrv.idle (r : RedSrv) : Bool := fld r.cfg 16 16 == 0 && r.mask0 == 0 && r.mask1 == 0 && !r.sending

/-- Every CID of a compute context. -/
def allCids : List Nat := (List.range 64).flatMap gathCids

/-- A context holds a task of a launch. -/
def Ctx.serves (c : Ctx) (n : Nat) : Bool := c.sched.task.map (·.launch) == some n

/-- The contexts that hold a task of a launch on their slots. -/
def State.holdersOf (s : State) (n : Nat) : List Nat := (s.ctxs.filter fun kc => kc.2.serves n).map (·.1)

/-- The contexts of a launch whose state is saved off their slots (R336). -/
def State.savedOf (s : State) (n : Nat) : List SlotSave := s.slots.filter fun x => x.ctx.serves n

/-- The context serves REDSRV with NROUNDS = 0, is idle (R332), and has no engine command outstanding, as FINISH would wait for (R204,
R281). -/
def State.idleServer (s : State) (t : Byte) (cid : Nat) (c : Ctx) : Bool :=
  (match c.sched.wait with
  | .redsrv r => r.idle
  | _ => false) && (s.cmdsFor t cid).isEmpty

/-- R332: a launch is complete: a task of the array that serves until then counts as ended (R209). -/
def State.isComplete (s : State) (l : Launch) : Bool :=
  let left := (s.holdersOf l.id).map s.ctxOf ++ (s.savedOf l.id).map (·.ctx)
  l.ended.length + (left.filter fun c => (c.sched.task.bind (·.index)).isSome).length == l.graph.ntask.toNat && l.ring.isEmpty
    && !(s.cores.any fun kc => kc.2.deque.any (·.launch == l.id))
    && !(s.stashes.any fun x => x.deque.any (·.launch == l.id))
    && (s.holdersOf l.id).all (fun cid => s.idleServer l.tenant cid (s.ctxOf cid))
    && (s.savedOf l.id).all fun x => s.idleServer x.tenant x.cid x.ctx

/-- The rejoin-queue entries of a launch go (R142). -/
def State.dropRejoin (s : State) (n : Nat) : State :=
  { s with gaths := s.gaths.map fun kg => (kg.1, { kg.2 with rejoin := kg.2.rejoin.filter (·.launch != some n) }) }

/-- Granted capabilities return to the service (R326). -/
def State.returnGrants (s : State) (l : Launch) : State :=
  (List.range l.graph.ngrant.toNat).foldl (fun s e =>
    match s.ownRegion l.part l.tenant (s.grantOf l.tenant l.graph e).1 with
    | some r => s.setHolder (s.regionKey r) .service
    | none => s) s

/-- The slot that launched an instance counts it as complete (R353). -/
def State.slotDone (s : State) (l : Launch) : State :=
  match l.src with
  | .slot d x =>
    let i := SMap.read {} s.slotI (256 * d + x)
    if i.launch = some l.id then
      let s := { s with slotI := SMap.write {} s.slotI (256 * d + x) { i with launch := none } }
      s.setWinFld (rSLOTST d x) 0 2 (b2n i.deferred)
    else s
  | .queue _ _ => s

/-- R332, R281: servers with NROUNDS = 0 end, mappings end as by UNMAP, grants return, rejoin entries go, and the completion record
is written, bytes [15:8] first. -/
def State.completeLaunch (s : State) (l : Launch) : State :=
  let s := (s.holdersOf l.id).foldl (fun s cid => s.endTask cid) s
  let s := (s.savedOf l.id).foldl (fun s x => s.onOwner x.tenant x.cid fun s => s.endTask x.cid) s
  let s := s.endMappings (·.graph == some l.id) true
  let s := (s.returnGrants l).dropRejoin l.id
  let s := s.vaWrite l.tenant (l.packet.crec.toNat + 8) 8 l.graph.ntask.toNat
  let s := s.vaWrite l.tenant l.packet.crec.toNat 8 (0x80000000 + l.packet.tag.toNat * 2 ^ 32)
  ({ s with launches := s.launches.filter (·.id != l.id) }).slotDone l

end Sys2Proof.Machine
end

