-- ==== Sys2Proof/Machine/Terminate.lean ====
section
/-! DEFINITION. Termination of graphs and tenants (R368, R372 to R374), uncorrectable errors by owner (R375),
partition reset (R376) and kernel-core reset (R377). -/

namespace Sys2Proof.Machine

/-- The engine commands, tree commands, SFU requests and messages that p, over (CID, tenant, launch), picks are discarded (R243,
R368, R373): a message in flight is answered and then dropped. -/
def State.discardWork (s : State) (p : Nat → Byte → Option Nat → Bool) : State :=
  { s with
    cores := s.cores.map fun kc => (kc.1, { kc.2 with eng := kc.2.eng.map fun e => (e.1, {
        queue := e.2.queue.filter (fun c => !p c.cid c.tenant c.launch)
        done := e.2.done.filter (fun d => !p d.cmd.cid d.cmd.tenant d.cmd.launch)
        prog := if e.2.queue.head?.any (fun c => p c.cid c.tenant c.launch) then 0 else e.2.prog
        aux := if e.2.queue.head?.any (fun c => p c.cid c.tenant c.launch) then 0 else e.2.aux }) })
    treeQ := s.treeQ.filter fun x => !p x.2.cmd.cid x.2.cmd.tenant x.2.cmd.launch
    flights := s.flights.map fun x =>
      match x.2.src with
      | some cid => (x.1, if p cid x.2.tenant x.2.launch then { x.2 with dead := true } else x.2)
      | none => x }

/-- The requests of the special-function units that p picks go. -/
def Gath.dropSfu (x : Gath) (p : SfuReq → Bool) : Gath :=
  { x with sfu0 := x.sfu0.filter (fun r => !p r), sfu1 := x.sfu1.filter (fun r => !p r) }

/-- Capabilities a context holds, or that are on their way to it, go to the tenant's kernel-core service (R33, R168). -/
def State.dropCaps (s : State) (cid : Nat) : State :=
  { s with holders := s.holders.filter fun h => h.2 != .ctx cid && h.2 != .moving cid }

/-- A context of a terminated graph or tenant: everything it holds is discarded, and it is FREE (R368, R373). -/
def State.discardCtx (s : State) (cid : Nat) : State :=
  let t := s.tenantOf cid
  let s := s.setWinFld (rKFPEND (gathOf cid)) (cid % 64) 1 0
  let s := (s.freeCtx cid).dropCaps cid
  let s : State := { s with
    gaths := s.gaths.map fun kg => (kg.1, kg.2.dropSfu fun x => x.cid == cid && x.tenant == t)
    walks := s.walks.map fun w => (w.1, if w.2.tenant = t then { w.2 with reqs := w.2.reqs.filter (· != .ctx cid) } else w.2)
    meminbox := s.meminbox.filter fun m => !(m.cid == cid && m.tenant == t) }
  let c := s.ctxOf cid
  s.setCtx cid { c with inbox := [] }

/-- What belongs to a launch goes, its contexts apart (R165, R182, R326, R373); the slot that launched it counts it complete
(R353). -/
def State.dropRest (s : State) (l : Launch) : State :=
  let s := s.discardWork fun _ _ n => n == some l.id
  let s := s.endMappings (·.graph == some l.id) false
  let s := (s.returnGrants l).dropRejoin l.id
  let s : State := { s with
    cores := s.cores.map fun kc => (kc.1, { kc.2 with deque := kc.2.deque.filter (·.launch != l.id) })
    stashes := s.stashes.map fun x => { x with deque := x.deque.filter (·.launch != l.id) }
    launches := s.launches.filter (·.id != l.id) }
  s.slotDone l

/-- A launch and everything that belongs to it goes (R368, R373), its contexts whose state is saved off their slots too (R336). -/
def State.dropLaunch (s : State) (l : Launch) : State :=
  let s := (s.holdersOf l.id).foldl (fun s cid => s.discardCtx cid) s
  ((s.savedOf l.id).foldl (fun s x => s.onOwner x.tenant x.cid fun s => s.discardCtx x.cid) s).dropRest l

/-- R372, R373: the graph of a launch is terminated; its handler packet is written to its error queue. -/
def State.killLaunch (s : State) (l : Launch) (code : Byte) (sub : Nat) (val : Word) (cid : Nat) : State :=
  (s.dropLaunch l).reportLaunch l code sub val cid

/-- Entry i of a launch queue (R378). -/
def State.lqEntry (s : State) (q i : Nat) : Nat := s.lqBase q + 64 + 64 * (i % 2 ^ s.lqLog2 q)

/-- A launch record for an entry that is not started: what its handler packet needs (R373, R381). -/
def State.untaken (s : State) (t : Byte) (src : Source) (pkt : Nat) : Launch :=
  let pk := parsePacket ((s.vaBytes t pkt 64).getD [])
  let pk := match src with
    | .queue q _ => { pk with errq := word (s.lqErr q) }
    | .slot _ _ => pk
  { id := 0, tenant := t, part := 0, src := src, pkt := word pkt, packet := pk, graph := parseGraph [], image := 0, pbase := 0, plen := 0, rule := none, live := [], ready := [], started := [], ended := [], ring := [], armed := [] }

/-- LQST counts packets taken, and saturates (R379). -/
def State.countTaken (s : State) (q n : Nat) : State :=
  let r := s.win! (rLQ q 0x18)
  s.setWin (rLQ q 0x18) (putFld r 0 32 (Nat.min 0xFFFFFFFF (fld r 0 32 + n)))

/-- R373: the entries a terminated tenant's enabled queues hold up to WIDX are taken, reported and not started; a queue in error gives none
(R380). -/
def State.drainQueue (s : State) (q : Nat) (code : Byte) (sub : Nat) (val : Word) (cid : Nat) (report : Bool) : State :=
  let t := s.lqTenant q
  let widx := s.vaRead t (s.lqBase q) 8
  let ridx := s.vaRead t (s.lqBase q + 8) 8
  let d := (widx + 2 ^ 64 - ridx) % 2 ^ 64
  let n := if s.lqStop q ∨ 2 ^ s.lqLog2 q < d then 0 else d
  let s := if report then
      foldNat (fun s i => s.reportLaunch (s.untaken t (.queue q ((ridx + i) % 2 ^ 32)) (s.lqEntry q (ridx + i))) code sub val cid) s 0 n
    else s
  if n = 0 then s else (s.vaWrite t (s.lqBase q + 8) 8 (ridx + n)).countTaken q n

/-- R372, R373: a tenant is terminated. report: one handler packet for each of its launches, running, held or still in a queue. -/
def State.killTenant (s : State) (t : Byte) (code : Byte) (sub : Nat) (val : Word) (cid : Nat) (report : Bool) : State :=
  let s := (s.launches.filter (·.tenant == t)).foldl
    (fun s l => if report then s.killLaunch l code sub val cid else s.dropLaunch l) s
  let s := (s.ctxs.filter fun kc => !isKernel kc.1 && s.tenantOf kc.1 == t
      && (kc.2.sched.task.isSome || kc.2.sched.handler.isSome || s.slotTenant kc.1 == some t)).foldl
    (fun s kc => s.discardCtx kc.1) s
  let s := s.discardWork fun _ t' _ => t' == t
  let s := s.endMappings (·.tenant == t) false
  let s : State := { s with
    gaths := s.gaths.map fun kg => (kg.1, kg.2.dropSfu (·.tenant == t))
    holders := s.holders.filter fun h => match h.2 with
      | .saved u _ | .savedMoving u _ => u != t
      | _ => true
    meminbox := s.meminbox.filter (·.tenant != t)
    stashes := s.stashes.filter (·.tenant != t)
    slots := s.slots.filter (·.tenant != t)
    walks := s.walks.filter (·.2.tenant != t)
    pulls := s.pulls.filter (·.2.tenant != t) }
  foldNat (fun s q => if s.lqEn q && s.lqTenant q == t then s.drainQueue q code sub val cid report else s) s 0 1024

/-- The boot stage (R409). -/
def State.stage (s : State) : Nat := fld (s.win! rBOOTST) 0 4

/-- A kernel-core context starts at its entry of the micro-kernel in memory (R377, R412). -/
def State.startKernel (s : State) (cid : Nat) : State :=
  s.setCtx cid {
    regs := { pc := word (Config.kernelPage % 2 ^ 27 * 4096 + 4 * (Config.kernelEntry (slotNo cid)).toNat) }
    sched := { spine := .priv, code := s.mem, codeAt := s.clk, readyAt := s.clk } }

/-- R377: both contexts of a gathering's kernel core stop, their registers are cleared, and the micro-kernel starts again. -/
def State.kernelReset (s : State) (g : Nat) : State :=
  (s.startKernel (mkCid g 8 0)).startKernel (mkCid g 8 1)

/-- The tenants with an assigned slot in a partition. -/
def State.tenantsIn (s : State) (p : Nat) : List Byte :=
  ((s.cidsOf p).filterMap s.slotTenant).eraseDups

/-- R376: every tenant of the partition is terminated, then its kernel cores are reset. -/
def State.partitionReset (s : State) (p : Nat) (val : Word) (cid : Nat) : State :=
  let s := (s.tenantsIn p).foldl (fun s t => s.killTenant t 0x40 2 val cid true) s
  (s.gathsOf p).foldl (fun s g => s.kernelReset g) s

/-- R375: a read through region r returned poison. -/
def State.uncorr (s : State) (r : RegionEnt) (p : Nat) (val : Word) (cid : Nat) : State :=
  if r.ocls = 0 then s.killTenant r.tenant 0x40 0 val cid true
  else if r.ocls = 1 then
    ((List.range 256).filter fun t => namesService (s.capTable (BitVec.ofNat 8 t)) r.svc 0).foldl
      (fun s t => s.killTenant (BitVec.ofNat 8 t) 0x40 1 val cid true) s
  else s.partitionReset p val cid

/-- R375: a page-table read for an engine of gathering g returned poison; a gathering outside every partition is reset alone (log entry 9). -/
def State.tablesBad (s : State) (g : Nat) : State :=
  match s.partOf g with
  | some p => s.partitionReset p 0 0xFFFF
  | none => s.kernelReset g

/-- R375 for a context's read; a kernel core outside every partition is reset alone (log entry 9). -/
def State.poisoned (s : State) (cid : Nat) (r : RegionEnt) (va : Word) : State :=
  match s.partOf (gathOf cid) with
  | some p => s.uncorr r p va cid
  | none => s.kernelReset (gathOf cid)

end Sys2Proof.Machine
end

