-- ==== Sys2Proof/Machine/Ops.lean ====
section
/-! DEFINITION. Taking an exception: K-class suspension (R369), U-class trap entry (R152) with its escalation,
and the return from a trap (R153). -/

namespace Sys2Proof.Machine

/-! ### K-class suspension (R369) -/

/-- Access kinds of a fault record (R369). -/
def akLoad : Byte := 0
def akStore : Byte := 1
def akAmo : Byte := 2
def akVersion : Byte := 3
def akEngine : Byte := 4
def akFetch : Byte := 5
def akMessage : Byte := 6
def akNone : Byte := 7

/-- Whether the words of memory a fault record fills are reached: the record's 64 bytes (R369). -/
def State.recBytes (s : State) (cid : Nat) (r : KRec) : List Byte :=
  bytesOf 8 r.fpc.toNat ++ bytesOf 8 r.fval.toNat ++ [r.code, r.flags, r.detail, r.akind]
    ++ bytesOf 2 cid ++ bytesOf 2 (s.pcidOf cid) ++ [(s.ctxOf cid).sched.tenant, r.repi] ++ bytesOf 6 0
    ++ bytesOf 8 r.ftime ++ bytesOf 24 0

/-- R369: suspension of a context. It detaches (R27), TVAL is written (R152), the record is written to its slot, the pending
bit is set, and wait counter w3 of kernel-core context 0 is incremented; a fault
of kernel-core context 0 resets the partition (R376), or its kernel core where the gathering is in none (log entry 9). -/
def State.suspend (s : State) (cid : Nat) (code : Byte) (val : Word) (flags detail akind : Byte) : State :=
  let s := s.detach cid
  let c := s.ctxOf cid
  let r : KRec := { fpc := c.regs.pc, fval := val, code := code, flags := flags, detail := detail, akind := akind, repi := BitVec.ofNat 8 c.regs.ri.toNat, ftime := s.dtime }
  let s := s.setCtx cid { c with
    regs := { c.regs with rep := none }
    ctl := { c.ctl with tval := val }
    sched := { c.sched with susp := some r, wait := .none, edge := none, sampled := none } }
  let g := gathOf cid
  let i := cid % 64
  let a := (fld (s.win! (rKFBASE g)) 12 40) * 4096 + 64 * i
  let s := (s.touch a .none none true).physWrite a 64 (natOf (s.recBytes cid r))
  let s := s.setWinFld (rKFPEND g) i 1 1
  if i = 32 then
    match s.partOf g with
    | some p => s.partitionReset p 0 cid
    | none => s.kernelReset g
  else s.bumpW (mkCid g 8 0) 3

/-! ### U-class traps (R152) -/

/-- Fault codes (R366). -/
def cILLEGAL : Byte := 0x01
def cMISALIGN : Byte := 0x02
def cBREAK : Byte := 0x03
def cSTALE : Byte := 0x04
def cVGONE : Byte := 0x05
def cRNGWRAP : Byte := 0x06
def cENGERR : Byte := 0x07
def cTRAPI : Byte := 0x08
def cXLATE : Byte := 0x20
def cWCAP : Byte := 0x21
def cGATE : Byte := 0x22
def cDEADLOCK : Byte := 0x23
def cRESIZE : Byte := 0x24
def cUNCORR : Byte := 0x40
def cLINK : Byte := 0x41
def cPULLFAIL : Byte := 0x42
def cDIVERGE : Byte := 0x43
def cMALFORMED : Byte := 0x44

/-- TCAUSE at trap entry: CODE, INH = 1, REPI = RI (R151, R152). -/
def trapCause (old : Word) (code : Byte) (ri : BitVec 6) : Word :=
  putFld (putFld (putFld old 0 8 code.toNat) 8 1 1) 16 6 ri.toNat

/-- FLAGS of the record of an escalated trap (R369): ESC, with FETCH for a fetch and ENG for an engine command. -/
def escFlags (ak : Byte) : Byte := 1 + (if ak = akFetch then 2 else 0) + (if ak = akEngine then 4 else 0)

/-- R152: a U-class trap of a context with this code and value, raised for an access of kind ak (R369). With TVEC = 0 or INH = 1 it is
escalated to a suspension with the escalation flag; otherwise TPC, TCAUSE and TVAL are written, RI cleared, the context leaves its stream, and the PC
is TVEC. -/
def State.trapAs (s : State) (cid : Nat) (code : Byte) (val : Word) (ak : Byte) : State :=
  let c := s.ctxOf cid
  if c.ctl.tvec = 0 ∨ bit c.ctl.tcause 8 then s.suspend cid code val (escFlags ak) 0 ak
  else
    let s := s.setCtx cid { c with
      regs := { c.regs with ri := 0, rep := none, pc := c.ctl.tvec }
      ctl := { c.ctl with tval := val, tpc := c.regs.pc, tcause := trapCause c.ctl.tcause code c.regs.ri }
      sched := { c.sched with wait := if c.sched.spine = .joining then c.sched.wait else .none } }
    s.detach cid

/-- The access a code speaks of by itself (R366, R369; log entry 9): an engine command, a version, or none. -/
def akOf (code : Byte) : Byte := if code = cENGERR then akEngine else if code = cSTALE ∨ code = cVGONE then akVersion else akNone

/-- A U-class trap whose code says for what it is raised. -/
def State.trapAt (s : State) (cid : Nat) (code : Byte) (val : Word) : State := s.trapAs cid code val (akOf code)

/-- A U-class trap of the issuing word (R152). -/
def State.trap (s : State) (code : Byte) (val : Word) : Out := .next (s.trapAt s.cur code val)

/-- A trap that is ILLEGAL with TVAL = the word (R44): w is the word's encoding. -/
def State.illegal (s : State) (w : Word32) : Out := s.trap cILLEGAL (w.zeroExtend 64)

/-- R153, R144: TRET with INH = 1; isRep says whether RI is reloaded: the word at TPC is a REP prefix, or is not known yet. -/
def State.trapReturn (s : State) (isRep : Bool) : State :=
  let c := s.me
  s.setCtx s.cur { c with
    regs := { c.regs with
      pc := c.ctl.tpc
      rep := none
      ri := if isRep then BitVec.ofNat 6 (fld c.ctl.tcause 16 6) else 0 }
    ctl := { c.ctl with tcause := putFld (putFld c.ctl.tcause 8 1 0) 16 6 0 } }

end Sys2Proof.Machine
end

