-- ==== Sys2Proof/Machine/Fetch.lean ====
section
/-! DEFINITION. Translation misses (R311, R312) and instruction fetch (R41 to R44). A context fetches from instruction memory
as it stood when its task started (R30), or from lines cached before (R288). -/

namespace Sys2Proof.Machine

/-- A context parks; its word will be executed again. -/
def State.park (s : State) (cid : Nat) (y : Why) : State :=
  if (s.ctxOf cid).sched.wait = .again y then s else s.setWait cid (.again y)

/-- A context parks on a walk for an access of this kind (R311, R369). -/
def State.parkWalk (s : State) (cid va : Nat) (write : Bool) (ak : Byte) : State :=
  (s.addWalk (gathOf cid) (s.tenantOf cid) va write (.ctx cid)).park cid (.walk va ak)

/-- A number of n bytes at physical address pa of the context's instruction memory, through region r (R30, R32): of a VERSIONED region's
newest sealed version as it stood then. -/
def State.codeMem (s : State) (cid pa : Nat) (r : RegionEnt) (va n : Nat) : Nat :=
  let x := (s.ctxOf cid).sched
  if r.kind = kVERSIONED ∧ !isKernel cid then
    let l := match (SMap.read {} x.codeV (s.regionKey r)).slots with
      | [] => [{ st := .sealed : VSlot }]
      | l => l
    ringRead l (va - r.base) n
  else Memory.readLE x.code pa n

/-- The word a context fetches at va (R25, R30, R288): from the gathering's L1 instruction cache where it holds the line, else from instruction
memory. -/
def State.codeWord (s : State) (cid pa : Nat) (r : RegionEnt) (va : Nat) : Word32 :=
  match s.codeLine cid va with
  | some x => BitVec.ofNat 32 (natAt x.data (va % 64) 4)
  | none => BitVec.ofNat 32 (s.codeMem cid pa r va 4)

/-- What fetching at an address gives. -/
inductive Fetched where
  | word (w : Word32)
  /-- The fetch faults, parks or ends in an error: the state after it. -/
  | stop (s : State)
deriving DecidableEq, Repr

/-- Fetch the word at va for a context (R13, R43, R44). -/
def State.fetchAt (s : State) (cid : Nat) (va : Word) : Fetched :=
  let a := va.toNat
  if fld va 56 8 ≠ 0 ∨ fld va 0 2 ≠ 0 then .stop (s.trapAs cid cMISALIGN va akFetch)
  else match s.judge cid a 4 .fetch with
    | .gate d => .stop (s.suspend cid cGATE va 2 (BitVec.ofNat 8 d) akFetch)
    | .wcap => .stop (s.suspend cid cWCAP va 2 0 akFetch)
    | .ok r =>
      let go := fun (pa : Nat) =>
        if s.isPoisoned pa 4 then Fetched.stop (s.poisoned cid r va) else .word (s.codeWord cid pa r a)
      if isKernel cid then go a
      else match s.tlbLookup (coreKey cid) (s.tenantOf cid) a false with
        | some pa => go pa
        | none => .stop (s.parkWalk cid a false akFetch)

/-- The region and the physical address a fetch at va comes to, without faults; none where the gate refuses it or there is no mapping. -/
def State.codePlace (s : State) (cid va : Nat) : Option (Nat × RegionEnt) :=
  match s.judge cid va 4 .fetch with
  | .ok r =>
    if isKernel cid then some (va, r)
    else match s.tlbLookup (coreKey cid) (s.tenantOf cid) va false with
      | some pa => some (pa, r)
      | none => (s.paOf (s.tenantOf cid) va).map fun pa => (pa, r)
  | _ => none

/-- A word of the context's instruction memory looked at without faults, for TRET (R144). -/
def State.peekWord (s : State) (cid : Nat) (va : Word) : Option Word32 :=
  (s.codePlace cid va.toNat).map fun x => s.codeWord cid x.1 x.2 va.toNat

/-- The line of instructions that holds va, for a context, and the line of memory it fills from (R25, R288). -/
def State.lineFor (s : State) (cid va : Nat) : Option (Nat × CodeLine) :=
  (s.codePlace cid va).map fun x => (x.1 / 64,
    { tag := s.codeTag cid va, since := (s.ctxOf cid).sched.codeAt, data := bytesOf 64 (s.codeMem cid (x.1 / 64 * 64) x.2 (va / 64 * 64) 64) })

/-- R25, R288: a word that context cid fetched, or the spine for it, leaves its line in the instruction caches: it fills from L2, and a word
fetched privately enters the core's L0 buffer. A line that is there stays as it is. -/
def State.takeLine (s : State) (cid : Nat) (y : Option (Nat × CodeLine)) (priv : Bool) : State :=
  match y with
  | none => s
  | some (line, y) =>
    let held := (s.gathSt (gathOf cid)).l1i.any (·.tag == y.tag)
    let s := if held then s else s.l2Touch line (some cid)
    let x := s.gathSt (gathOf cid)
    let x := if held then x else x.fillL1i y
    s.setGath (gathOf cid) (if priv then x.fillL0 (coreNo cid) y.tag else x)

/-- The word is a REP prefix (R54). -/
def isRepWord (w : Word32) : Bool := fld w 26 6 == 0x3E

/-! ### REP (R54 to R57) -/

/-- R55: the word groups REP may govern. -/
def repGroup (w : Word32) : Bool :=
  let m := fld w 26 6
  (decide (1 ≤ m) && decide (m ≤ 5)) || (decide (8 ≤ m) && decide (m ≤ 15)) || m == 0x18 || m == 0x19 || (decide (0x20 ≤ m) && decide (m ≤ 0x27))

/-- The register fields d (t, vd), a (va) and b (vb) that the format of a governed word has, as the largest number each may name:
31, or 7 where the field names a predicate; none where the format has no such field (R46, R55, R70; log entry 18). -/
def repFields (w : Word32) : List (Option Nat) :=
  let m := fld w 26 6
  let fn := fld w 0 5
  if m ≤ 5 then [some 31, some 31, some 31]
  else if m = 0x0E ∨ m = 0x0F then [some 31, none, none]
  else if m ≤ 0x0D ∨ m = 0x18 ∨ m = 0x19 then [some 31, some 31, none]
  else if m = 0x22 then [some 7, some 31, some 31]
  else if m = 0x27 then [some (if fn = 6 ∨ fn = 8 then 31 else 7), some (if fn = 7 then 31 else 7), some 7]
  else [some 31, some 31, some 31]

/-- The governed word of repeat i: each stepped field raised by i * stride (R56). -/
def stepWord (w : Word32) (mask : BitVec 3) (stride i : Nat) : Word32 :=
  let add := (if bit mask 2 then 2 ^ 21 else 0) + (if bit mask 1 then 2 ^ 16 else 0) + (if bit mask 0 then 2 ^ 11 else 0)
  w + BitVec.ofNat 32 (add * (i * stride))

/-- One stepped field, whose lowest bit is lo, stays within its limit (R55). -/
def repFieldOk (w : Word32) (on : Bool) (lo : Nat) (top : Option Nat) (count stride : Nat) : Bool :=
  !on || match top with
    | some top => decide (fld w lo 5 + (count - 1) * stride ≤ top)
    | none => false

/-- The checks of R55 on a governed word. -/
def repOk (w : Word32) (r : Rep) : Bool :=
  let count := r.count.toNat + 1
  let stride := r.stride.toNat + 1
  repGroup w
    && ((repFields w).zip [2, 1, 0]).all (fun f => repFieldOk w (bit r.mask f.2) (11 + 5 * f.2) f.1 count stride)
    && (List.range count).all fun i => match selectData (stepWord w r.mask stride i) with
        | some k => encode k == stepWord w r.mask stride i && k.wellFormed
        | none => false

end Sys2Proof.Machine
end

