-- ==== Sys2Proof/Machine/Handler.lean ====
section
/-! DEFINITION. Inboxes and what reserves entries in them (R188, R191, R193), active-message dispatch and handler end
(R196 to R199), and ending a task (R39, R204, R237). -/

namespace Sys2Proof.Machine

/-! ### Engine commands outstanding -/

/-- R193: entries of the inbox in use plus those reserved for COMPLETE messages equal 16. -/
def State.inboxFull (s : State) (cid : Nat) : Bool :=
  decide (16 ≤ (s.ctxOf cid).inbox.length + ((s.cmdsOf cid).filter (·.2.msg)).length)

/-! ### Message headers (R185) -/

def kDATA : Nat := 0
def kACTIVE : Nat := 1
def kREFUSE : Nat := 2
def kCOMPLETE : Nat := 3
def kHANDOVER : Nat := 4
def kREDUCE : Nat := 6
def rFULL : Nat := 1
def rNOHANDLER : Nat := 2
def rRETRY : Nat := 3
def rGATE : Nat := 4

/-- A header (R185). -/
def header (kind rsn h src dst dev : Nat) (rmt : Bool) (seq : Nat) : Word :=
  word (kind % 8 + (rsn % 8) * 2 ^ 3 + (h % 64) * 2 ^ 6 + (src % 4096) * 2 ^ 12 + (dst % 4096) * 2 ^ 24
    + (dev % 256) * 2 ^ 36 + b2n rmt * 2 ^ 44 + 2 ^ 47 + (seq % 65536) * 2 ^ 48)

def hKind (h : Word) : Nat := fld h 0 3
def hRsn (h : Word) : Nat := fld h 3 3
def hH (h : Word) : Nat := fld h 6 6
def hSrc (h : Word) : Nat := fld h 12 12
def hDst (h : Word) : Nat := fld h 24 12
def hDev (h : Word) : Nat := fld h 36 8
def hRmt (h : Word) : Bool := bit h 44
def hSeq (h : Word) : Nat := fld h 48 16

/-- The entry is held for dispatch on this context: it is its core's handler context, EN = 1, and the entry's handler is VALID or
WRITING (R198). -/
def State.heldFor (s : State) (cid : Nat) (m : Msg) : Bool :=
  let c := s.coreOf (coreKey cid)
  hKind m.hdr == kACTIVE && !isKernel cid && c.htEn && c.htSlot.toNat == slotNo cid
    && (SMap.read {} c.handlers (hH m.hdr) : HEntry).st != .empty

/-- R191: entry m leaves the inbox: the reply target is set; a HANDOVER entry brings the writer capability (R168); a COMPLETE entry
whose STATUS is FAILW clears it, MORE apart (R237). -/
def State.dequeue (s : State) (cid : Nat) (m : Msg) : State :=
  let c := s.ctxOf cid
  let reply : ReplyTo := { pcid := BitVec.ofNat 12 (hSrc m.hdr), dev := BitVec.ofNat 8 (hDev m.hdr), rmt := hRmt m.hdr, seq := BitVec.ofNat 16 (hSeq m.hdr) }
  let failw := if hKind m.hdr = kCOMPLETE ∧ fld m.payload 0 32 = (c.regs.failw &&& ~~~0x8000).toNat then c.regs.failw &&& 0x8000
    else c.regs.failw
  let s := s.setCtx cid { c with
    inbox := c.inbox.erase m
    regs := { c.regs with failw := failw }
    sched := { c.sched with reply := some reply } }
  if hKind m.hdr = kHANDOVER then
    let base := fld m.payload 0 64
    match s.holders.find? fun h => h.2 == .moving cid && (h.1 % 2 ^ 56 == base || decide (2 ^ 70 ≤ h.1)) with
    | some h => s.setHolder h.1 (.ctx cid)
    | none => s
  else s

/-- A received payload as a vector register: bytes [63:56] zero (R187). -/
def payloadV (m : Msg) : VReg := m.payload.zeroExtend 512

/-! ### Dispatch (R198) -/

/-- The context is exhausted under a rule that lowered its CLASS (R335, R354): every rule but PREEMPT. -/
def Sched.lowered (x : Sched) : Bool := x.exhausted && x.rule != some (2 : BitVec 2)

/-- Entry h of a core's handler table (R197). -/
def Core.handler (c : Core) (h : Nat) : HEntry := SMap.read {} c.handlers h

/-- The context waits inside its instruction, and is not at an instruction boundary (R198, R210). -/
def Wait.inside : Wait → Bool
  | .amo _ _ | .send _ | .handover | .sfu => true
  | _ => false

/-- What stays of a wait while a handler runs: a reduction server is resumed, every other is issued again (R198). -/
def Wait.saved : Wait → Wait
  | .redsrv r => .redsrv r
  | _ => .none

/-- The oldest entry held for dispatch. -/
def State.oldestHeld (s : State) (cid : Nat) : Option Msg := (s.ctxOf cid).inbox.find? (s.heldFor cid)

/-- Dispatch may run on a context (R198, R199): no handler runs on its core, it is at an instruction boundary and not suspended (R367) or frozen
(R355), and the oldest held entry's handler is VALID. -/
def State.mayDispatch (s : State) (cid : Nat) : Bool :=
  let x := (s.ctxOf cid).sched
  (coreCids (coreKey cid)).all (fun k => (s.ctxOf k).sched.handler.isNone) && !x.wait.inside && x.susp.isNone && !x.frozen &&
    match s.oldestHeld cid with
    | some m => ((s.coreOf (coreKey cid)).handler (hH m.hdr)).st == .valid
    | none => false

/-- R198: dispatch of the oldest held entry. -/
def State.dispatch (s : State) (cid : Nat) : State :=
  match s.oldestHeld cid with
  | none => s
  | some m =>
    if !s.mayDispatch cid then s else
    let c0 := s.ctxOf cid
    let free := c0.sched.task.isNone
    let s := match c0.sched.wait with
      | .idle _ _ => s.advanceAt cid
      | _ => s
    let s := if free then s else s.detach cid
    let c := s.ctxOf cid
    let save : HSave := { free := free, pc := c.regs.pc, ri := c.regs.ri, frm := c.ctl.frm, fflags := c.ctl.fflags, cls := c.ctl.prioCls, s := c.regs.s, p := c.regs.p, v := Vector.ofFn fun i => c.regs.v[i.val], reply := c.sched.reply, wait := c0.sched.wait.saved, yielded := c.sched.yielded }
    let s := s.dequeue cid m
    let c := s.ctxOf cid
    let entry := ((s.coreOf (coreKey cid)).handler (hH m.hdr)).pc
    let ctl : Ctl := if free then { prioCls := 1, prioFlr := 1 } else c.ctl
    let cls : BitVec 2 := if c.sched.lowered then exhCls ctl.prioFlr
      else if ctl.prioFlr.toNat ≤ 1 then 1 else ctl.prioFlr
    let regs : Regs := { c.regs with
      pc := entry, ri := 0, rep := none
      s := (Vector.replicate 32 (0 : Word)).set 1 m.hdr
      p := Vector.replicate 8 0
      v := (((c.regs.v.set 0 (payloadV m)).set 1 0).set 2 0).set 3 0 }
    s.setCtx cid { c with
      regs := regs
      ctl := { ctl with prioCls := cls }
      sched := { c.sched with
        handler := some save, wait := .none, edge := none, yielded := false, readyAt := s.clk, spine := .priv
        tenant := s.tenantOf cid, dom := if free then 0 else c.sched.dom
        code := if free then s.codeNow else c.sched.code, codeV := if free then s.ringsNow else c.sched.codeV
        codeAt := if free then s.clk else c.sched.codeAt, codeG := if free then [] else c.sched.codeG, sampled := none } }

/-- R199: a handler ends: the save area is restored, or the context is FREE again (R27). A change of class detaches an attached context
(R27). -/
def State.endHandler (s : State) (cid : Nat) : State :=
  let c := s.ctxOf cid
  match c.sched.handler with
  | none => s
  | some h =>
    if h.free then s.freeCtx cid
    else
      let cls := if c.sched.lowered then exhCls c.ctl.prioFlr else h.cls
      let s := s.setCtx cid { c with
        regs := { c.regs with
          pc := h.pc, ri := h.ri, rep := none, s := h.s, p := h.p
          v := (((c.regs.v.set 0 h.v[0]).set 1 h.v[1]).set 2 h.v[2]).set 3 h.v[3] }
        ctl := { c.ctl with frm := h.frm, fflags := h.fflags, prioCls := cls }
        sched := { c.sched with handler := none, wait := h.wait, reply := h.reply, yielded := h.yielded, since := s.dtime, readyAt := s.clk } }
      if cls = c.ctl.prioCls ∨ c.sched.spine ≠ .attached then s else s.detach cid

/-! ### Ending a task (R39, R204) -/

/-- A pending failure (R237). -/
def failPending (w : Word32) : Bool := fld w 16 8 != 0 || bit w 15

/-- FINISH and HALT on a compute core (R150, R199, R204, R237): in a handler they end it; otherwise the context waits for its engine
commands, a pending failure traps ENGERR, and the task ends. -/
def State.finish (s : State) : Out :=
  let c := s.me
  if c.sched.handler.isSome then .next (s.endHandler s.cur)
  else if !(s.cmdsOf s.cur).isEmpty then .next (s.park s.cur .finish)
  else if failPending c.regs.failw then
    (s.setRegs s.cur { c.regs with failw := 0 }).trap cENGERR (zx32 c.regs.failw)
  else .next (s.endTask s.cur)
where zx32 (x : Word32) : Word := x.zeroExtend 64

end Sys2Proof.Machine
end

