-- ==== Sys2Proof/Machine/Operands.lean ====
section
/-! DEFINITION. Operand forms: immediates (R47, R61), scalar arithmetic on 64-bit and 32-bit operands (R125 to R129),
vector elements, their predicates and merging (R14, R15, R210 to R214). -/

namespace Sys2Proof.Machine

/-! ### Immediates and integers -/

/-- A signed immediate, sign-extended to 64 bits (R47). -/
def sx {n : Nat} (i : BitVec n) : Word := i.signExtend 64

/-- An unsigned immediate or field, zero-extended to 64 bits (R61). -/
def zx {n : Nat} (i : BitVec n) : Word := i.zeroExtend 64

/-- LUI and ADDPC: SignExtend(imm21 : Zeros(16), 64) (R61). -/
def upper (i : BitVec 21) : Word := sx (i ++ (0 : BitVec 16))

/-- The target of a branch or JAL: PC + SignExtend(off, 64) * 4 (R135). -/
def target {n : Nat} (pc : Word) (off : BitVec n) : Word := pc + sx off * 4

/-- A W form: a 32-bit result sign-extended (R125). -/
def wform (x : Word32) : Word := sx x

/-- The low 32 bits of an operand. -/
def lo32 (a : Word) : Word32 := a.truncate 32

/-- A shift count of 64 bits and of 32 bits (R125). -/
def cnt64 (b : Word) : Nat := b.toNat % 64
def cnt32 (b : Word) : Nat := b.toNat % 32

/-- 1 or 0 as a register value (R126). -/
def flag (b : Bool) : Word := if b then 1 else 0

/-- A sum or difference clamped to the signed 64-bit range (R125). -/
def satS (x : Int) : Word := wordI (clampI (-(2 ^ 63)) (2 ^ 63 - 1) x)

/-- Leading zeros of a 64-bit value (R127). -/
def clz64 (a : Word) : Nat := if a = 0 then 64 else 63 - Nat.log2 a.toNat

/-- Trailing zeros (R127). -/
def ctz64 (a : Word) : Nat := (findNat (fun i => bit a i) 0 64).getD 64

/-- One bits (R127). -/
def popc {n : Nat} (a : BitVec n) : Nat := foldNat (fun c i => c + b2n (bit a i)) 0 0 n

/-- The 64 bits reversed (R127). -/
def brev64 (a : Word) : Word := a.reverse

/-- The eight bytes reversed (R127). -/
def bswap64 (a : Word) : Word := word (natOf (bytesOf 8 a.toNat).reverse)

/-- The field of EXTR, EXTRS and INSR: pos, and wid limited to 64 - pos (R127). -/
def bitField (b : Word) : Nat × Nat :=
  let pos := fld b 0 6
  let wid := fld b 8 6 + 1
  (pos, if 64 < pos + wid then 64 - pos else wid)

/-- EXTR (R127). -/
def extr (a b : Word) : Word := word (fld a (bitField b).1 (bitField b).2)

/-- EXTRS (R127). -/
def extrs (a b : Word) : Word := wordI (sintN (fld a (bitField b).1 (bitField b).2) (bitField b).2)

/-- INSR (R127). -/
def insr (d a b : Word) : Word := putFld d (bitField b).1 (bitField b).2 a.toNat

/-- A signed quotient of n-bit operands with the corners of R128. -/
def divS (n : Nat) (a b : Int) : Int :=
  if b = 0 then (if 0 ≤ a then 2 ^ (n - 1) - 1 else -(2 ^ (n - 1)))
  else if a = -(2 ^ (n - 1)) ∧ b = -1 then 2 ^ (n - 1) - 1
  else Int.tdiv a b

/-- A signed remainder with the corners of R128. -/
def remS (n : Nat) (a b : Int) : Int :=
  if b = 0 then 0 else if a = -(2 ^ (n - 1)) ∧ b = -1 then 0 else Int.tmod a b

/-- An unsigned quotient of n-bit operands (R128). -/
def divU (n a b : Nat) : Nat := if b = 0 then 2 ^ n - 1 else a / b

/-- An unsigned remainder (R128). -/
def remU (a b : Nat) : Nat := if b = 0 then 0 else a % b

/-! ### Vector elements -/

/-- Element width in bits of an et code (R50). -/
def ewidth (e : BitVec 2) : Nat := if e = 0 then 32 else if e = 1 then 16 else if e = 2 then 8 else 64

/-- The element count of a width (R210). -/
def ecount (w : Nat) : Nat := 512 / w

/-- Element i of width w (R210). -/
def elem (v : VReg) (w i : Nat) : Nat := fld v (w * i) w

/-- A register from n elements of width w: element i is f i modulo 2^w. -/
def build (w : Nat) (f : Nat → Nat) : Nat → Nat
  | 0 => 0
  | n + 1 => build w f n + (f n % 2 ^ w) * 2 ^ (w * n)

/-- A vector register built from its elements. -/
def ofElems (w : Nat) (f : Nat → Nat) : VReg := BitVec.ofNat 512 (build w f (ecount w))

/-- The predicate bit that governs element i of width w (R14). -/
def govBit (w i : Nat) : Nat := if w = 64 then 2 * i else w * i / 32

/-- Element i is active (R14). -/
def active (p : PReg) (w i : Nat) : Bool := bit p (govBit w i)

/-- R15: a result element by element: active elements from f, inactive ones zero or kept. -/
def merge (w : Nat) (p : PReg) (z : Bool) (old : VReg) (f : Nat → Nat) : VReg :=
  ofElems w fun i => if active p w i then f i else if z then 0 else elem old w i

/-- Signed and unsigned minimum and maximum of w-bit elements (R213). -/
def minS (w x y : Nat) : Nat := if sintN x w ≤ sintN y w then x else y
def maxS (w x y : Nat) : Nat := if sintN x w ≤ sintN y w then y else x
def minU (x y : Nat) : Nat := if x ≤ y then x else y
def maxU (x y : Nat) : Nat := if x ≤ y then y else x

/-- An integer as a w-bit element (R213). -/
def ofInt (w : Nat) (x : Int) : Nat := (x % (2 ^ w : Nat)).toNat

/-- The pairwise tree of R214 over a list of present or absent elements. -/
def pairUp {α : Type} (f : α → α → α) : List (Option α) → List (Option α)
  | [] => []
  | [x] => [x]
  | x :: y :: l =>
    (match x, y with
     | some a, some b => some (f a b)
     | some a, none => some a
     | none, o => o) :: pairUp f l

/-- R214: levels of the tree, the first pairing (0,1), (2,3) and so on. -/
def pairTree {α : Type} (f : α → α → α) : Nat → List (Option α) → Option α
  | 0, l => l.headD none
  | n + 1, l => pairTree f n (pairUp f l)

/-- The elements a reduction takes: those active, ABSENT elsewhere (R214). -/
def nodes (v : VReg) (w : Nat) (p : PReg) : List (Option Nat) :=
  (List.range (ecount w)).map fun i => if active p w i then some (elem v w i) else none

/-- A reduction's result register: element 0 holds the value, zero when every element is absent; the rest are zero (R214). -/
def reduceTo (r : Option Nat) (w : Nat) : VReg := BitVec.ofNat 512 (r.getD 0 % 2 ^ w)

/-- A predicate result of w-bit elements written under a governing predicate (R14, R216): bit i from f, or zero or kept where the bit
that governs it is 0; for 64-bit elements that is the even one of its pair. -/
def mergeP (w : Nat) (p : PReg) (z : Bool) (old : PReg) (f : Nat → Bool) : PReg :=
  BitVec.ofNat 16 (foldNat (fun n i => n + b2n (if bit p (if w = 64 then i / 2 * 2 else i) then f i else if z then false else bit old i) * 2 ^ i) 0 0 16)

/-- R216: predicate bit i of a compare of w-bit elements under condition c on elements: the AND over the elements it governs, or
for 64-bit elements the result of element i / 2. -/
def cmpBit (w : Nat) (c : Nat → Bool) (i : Nat) : Bool :=
  if w = 64 then c (i / 2)
  else (List.range (32 / w)).all fun k => c (32 / w * i + k)

end Sys2Proof.Machine
end

