-- ==== Sys2Proof/Machine/Control.lean ====
section
/-! DEFINITION. Branches and jumps (R135), the gang instructions (R136 to R143), REP (R54 to R57, R144) and the system group
with the control registers (R18 to R21, R145 to R153). -/

namespace Sys2Proof.Machine

/-! ### Branches and jumps -/

/-- Bits [63:56] of a target are zero and bits [1:0] too (R42). -/
def targetOk (t : Word) : Bool := fld t 56 8 == 0 && fld t 0 2 == 0

/-- R42, R135: go to a target, or trap MISALIGN with TVAL = the target. -/
def State.jump (s : State) (t : Word) : Out := if targetOk t then .next (s.goto t) else s.trap cMISALIGN t

/-- A branch: taken it goes to PC + off * 4, otherwise to the next word. -/
def State.branch {n : Nat} (s : State) (taken : Bool) (off : BitVec n) : Out :=
  if taken then s.jump (target s.ia off) else .next s.advance

/-- BEQ (R49, R135): branches when s(a) = s(b). -/
def execBeq (a b : Reg) (o : BitVec 13) (s : State) : Out :=
  s.branch (s.s! a == s.s! b) o

/-- BNE (R49, R135): branches when s(a) differs from s(b). -/
def execBne (a b : Reg) (o : BitVec 13) (s : State) : Out :=
  s.branch (s.s! a != s.s! b) o

/-- BLT (R49, R135): branches when SInt(s(a)) < SInt(s(b)). -/
def execBlt (a b : Reg) (o : BitVec 13) (s : State) : Out :=
  s.branch (decide ((s.s! a).toInt < (s.s! b).toInt)) o

/-- BGE (R49, R135): branches when SInt(s(a)) >= SInt(s(b)). -/
def execBge (a b : Reg) (o : BitVec 13) (s : State) : Out :=
  s.branch (decide ((s.s! b).toInt ≤ (s.s! a).toInt)) o

/-- BLTU (R49, R135): branches when UInt(s(a)) < UInt(s(b)). -/
def execBltu (a b : Reg) (o : BitVec 13) (s : State) : Out :=
  s.branch (decide ((s.s! a).toNat < (s.s! b).toNat)) o

/-- BGEU (R49, R135): branches when UInt(s(a)) >= UInt(s(b)). -/
def execBgeu (a b : Reg) (o : BitVec 13) (s : State) : Out :=
  s.branch (decide ((s.s! b).toNat ≤ (s.s! a).toNat)) o

/-- BEQZ (R49, R135): branches when s(a) = 0. -/
def execBeqz (a : Reg) (o : BitVec 18) (s : State) : Out :=
  s.branch (s.s! a == 0) o

/-- BNEZ (R49, R135): branches when s(a) is not 0. -/
def execBnez (a : Reg) (o : BitVec 18) (s : State) : Out :=
  s.branch (s.s! a != 0) o

/-- BLTZ (R49, R135): branches when SInt(s(a)) < 0. -/
def execBltz (a : Reg) (o : BitVec 18) (s : State) : Out :=
  s.branch (decide ((s.s! a).toInt < 0)) o

/-- BGEZ (R49, R135): branches when SInt(s(a)) >= 0. -/
def execBgez (a : Reg) (o : BitVec 18) (s : State) : Out :=
  s.branch (decide (0 ≤ (s.s! a).toInt)) o

/-- BGTZ (R49, R135): branches when SInt(s(a)) > 0. -/
def execBgtz (a : Reg) (o : BitVec 18) (s : State) : Out :=
  s.branch (decide (0 < (s.s! a).toInt)) o

/-- BLEZ (R49, R135): branches when SInt(s(a)) <= 0. -/
def execBlez (a : Reg) (o : BitVec 18) (s : State) : Out :=
  s.branch (decide ((s.s! a).toInt ≤ 0)) o

/-- JAL (R135): jumps and writes PC + 4 to s31. -/
def execJal (o : BitVec 26) (s : State) : Out :=
  let t := target s.ia o
  if targetOk t then .next ((s.setS 31 (s.ia + 4)).goto t) else s.trap cMISALIGN t

/-- JALR (R135): jumps to s(a) + imm16, read before sd is written, and writes PC + 4 to sd. -/
def execJalr (d a : Reg) (i : BitVec 16) (s : State) : Out :=
  let t := s.s! a + sx i
  if targetOk t then .next ((s.setS d (s.ia + 4)).goto t) else s.trap cMISALIGN t

/-! ### Gangs (R136 to R143) -/

/-- The bit of a context's core in a straggler mask (R26). -/
def coreBit (cid : Nat) : Byte := BitVec.ofNat 8 (2 ^ coreNo cid)

/-- R27, R137, R139: a JOINING context whose join point the stream is at, and whose class is the stream's, attaches: its straggler
bit clears, and it accepts the positions after the point. -/
def State.tryAttach (s : State) (cid : Nat) : State :=
  let c := s.ctxOf cid
  let g := gathOf cid
  let k := slotNo cid
  let st := s.stream g k
  match c.sched.wait with
  | .join w =>
    if c.sched.spine = .joining ∧ st.atJoin = some w.point ∧ st.cls = c.ctl.prioCls then
      let s := s.setCtx cid { c with
        regs := (c.regs.sset w.sd 0).advance
        sched := { c.sched with spine := .attached, wait := .none, drift := [], accepted := some (st.pos - 1), readyAt := s.clk } }
      let s := s.setStream g k { st with strag := st.strag &&& ~~~(coreBit cid) }
      if st.strag &&& ~~~(coreBit cid) = 0 then s.endHold g k else s
    else s
  | _ => s

/-- What an attached context reads of the position it has accepted (R137, R143). -/
def State.posStatus (s : State) (cid : Nat) : Option Nat :=
  let st := s.stream (gathOf cid) (slotNo cid)
  match (s.ctxOf cid).sched.accepted with
  | some p => (st.status.find? (·.1 == p)).map (·.2)
  | none => none

/-- ATTACH and JOIN (R137): start says that with no attached context the stream starts here. -/
def State.joinStream (s : State) (d : Reg) (t : BitVec 13) (start : Bool) : Out :=
  let g := gathOf s.cur
  let k := slotNo s.cur
  let c := s.me
  match c.sched.spine with
  | .attached =>
    match s.posStatus s.cur with
    | some x => s.done d (word x)
    | none => .next (s.setWait s.cur (.hold c.regs.pc d))
  | _ =>
    if (s.attached g k).isEmpty then
      if start then
        let s := (s.setS d 0).advance
        let s := s.setStream g k { running := true, nextPc := c.regs.pc + 4, cls := c.ctl.prioCls }
        .next (s.setSched s.cur { s.me.sched with spine := .attached, drift := [], accepted := none })
      else s.done d 2
    else
      let w : JoinWait := { point := c.regs.pc, sd := d, stopAt := s.clk + (t.toNat + 1) * 64 }
      let s := s.setSched s.cur { c.sched with spine := .joining, wait := .join w, since := s.dtime }
      .next (s.tryAttach s.cur)

/-- What GANG reads of a stream, without STATE (R143). -/
def State.gangValue (s : State) (g k : Nat) : Nat :=
  let at' := s.attached g k
  let st := s.stream g k
  at'.foldl (fun n cid => n + 2 ^ coreNo cid) 0 + st.strag.toNat * 2 ^ 8
    + ((s.leader g k).map coreNo).getD 15 * 2 ^ 16 + k * 2 ^ 22

/-- A gathering's rejoin queue replaced. -/
def State.setRejoin (s : State) (g : Nat) (l : List Rejoin) : State := s.setGath g { s.gathSt g with rejoin := l }

/-- DETACH (R136): an ATTACHED context becomes PRIVATE and its straggler bit is set. -/
def execDetach (s : State) : Out :=
  if isKernel s.cur then s.illegal (encode .detach) else .next (s.advance.detach s.cur)

/-- ATTACH (R137): attaches to the slot's stream, starting it when no context is attached. -/
def execAttach (d : Reg) (t : BitVec 13) (s : State) : Out :=
  if isKernel s.cur then s.illegal (encode (.attach d t)) else s.joinStream d t true

/-- JOIN (R137): joins the slot's stream; status ABSENT when no context is attached. -/
def execJoin (d : Reg) (t : BitVec 13) (s : State) : Out :=
  if isKernel s.cur then s.illegal (encode (.join d t)) else s.joinStream d t false

/-- DONATE (R140): offers the range s(a), s(a + 1) with tag s(a + 2) to the rejoin queue. DESIGN CHOICE: an entry of a handler on a FREE context, which
has no graph, is for another taker without one (log entry 75). -/
def execDonate (d a : Reg) (s : State) : Out :=
  if isKernel s.cur then s.illegal (encode (.donate d a)) else
  let start := lo32 (s.s! a)
  let stop := lo32 (s.s! (a + 1))
  let q := (s.gathSt (gathOf s.cur)).rejoin
  if stop.toNat ≤ start.toNat then s.done d 1
  else if 64 ≤ q.length then s.done d 2
  else
    let e : Rejoin := { start := start, stop := stop, tag := lo32 (s.s! (a + 2)), donor := BitVec.ofNat 12 s.cur, launch := s.launchOf s.cur }
    (s.setRejoin (gathOf s.cur) (q ++ [e])).done d 0

/-- TAKEW (R141): takes the oldest entry of the queue with this tag and the taker's graph, or with none where the taker has none (log entry 75). -/
def execTakew (d a : Reg) (s : State) : Out :=
  if isKernel s.cur then s.illegal (encode (.takew d a)) else
  let q := (s.gathSt (gathOf s.cur)).rejoin
  let tag := lo32 (s.s! (a + 2))
  let n := s.launchOf s.cur
  let p := fun (e : Rejoin) => e.tag == tag && e.launch == n
  match q.find? p with
  | some e => (((s.setRejoin (gathOf s.cur) (dropFirst p q)).setS a (zx e.start)).setS (a + 1) (zx e.stop)).done d 0
  | none => s.done d 1

/-- GANG (R143): the stream's state: as it stood at delivery for an attached context, at issue for a private one. -/
def execGang (d : Reg) (s : State) : Out :=
  if isKernel s.cur then s.illegal (encode (.gang d)) else
  let now := s.gangValue (gathOf s.cur) (slotNo s.cur)
  if s.isAttached s.cur then s.done d (word ((s.posStatus s.cur).getD now + 2 * 2 ^ 20))
  else s.done d (word (now + 2 ^ 20))

/-! ### REP (R54 to R57) -/

/-- REP (R54 to R56): checks the governed word, then its repeats run from RI on; with RI at or above the count none runs. DESIGN CHOICE:
an ATTACHED context then passes the governed word without accepting its position (log entry 73). -/
def execRep (c : BitVec 6) (m s' : BitVec 3) (s : State) : Out :=
  let r : Rep := { count := c, mask := m, stride := s' }
  match s.fetchAt s.cur (s.me.regs.pc + 4) with
  | .stop t => .next t
  | .word w =>
    if !repOk w r then s.illegal (encode (.rep c m s'))
    else if c.toNat + 1 ≤ s.me.regs.ri.toNat then
      .next (s.setRegs s.cur { s.me.regs with ri := 0, pc := s.me.regs.pc + 8 })
    else .next (s.setRegs s.cur { s.me.regs with rep := some r })

/-! ### Control registers (R18 to R21) -/

/-- CAPS (R19). -/
def capsWord (cid : Nat) : Word :=
  word (1 + 32 * 2 ^ 8 + (if isKernel cid then 2 else 4) * 2 ^ 16 + b2n (isKernel cid) * 2 ^ 19 + 8 * 2 ^ 20 + 180 * 2 ^ 24
    + 16 * 2 ^ 32 + 64 * 2 ^ 40 + 64 * 2 ^ 48)

/-- PCID (R20). -/
def State.pcidWord (s : State) (cid : Nat) : Word :=
  match s.partOf (gathOf cid) with
  | some p => word (s.pcidOf cid + s.pbase p * 2 ^ 12 + s.plen p * 2 ^ 18 + (s.tenantOf cid).toNat * 2 ^ 32)
  | none => word ((s.tenantOf cid).toNat * 2 ^ 32)

/-- Occupancy of an engine's queue (R239). -/
def Core.occ (c : Core) (e : Nat) : Nat := (c.engine e).queue.length

/-- Engine e of core k is executing a command (R239): one that has begun, or is parked on a walk, or whose completion act is to come; a tree
command that its port has forwarded, while no slice holds it. -/
def State.engBusy (s : State) (k e : Nat) : Bool :=
  let q := (s.coreOf k).engine e
  !q.done.isEmpty || q.prog != 0 || q.aux != 0 || (s.walks.any fun w => w.2.reqs.contains (.engine k e))
    || (e == 3 && s.treeQ.any fun x => x.2.core == k && !x.2.held)

/-- EQS (R239). -/
def State.eqsWord (s : State) (cid : Nat) : Word :=
  let c := s.coreOf (coreKey cid)
  let occ := foldNat (fun n e => n + (c.occ e % 4) * 2 ^ (2 * e)) 0 0 4
  let busy := foldNat (fun n e => n + b2n (s.engBusy (coreKey cid) e) * 2 ^ (8 + e)) 0 0 4
  word (occ + busy + Nat.min 255 (s.cmdsOf cid).length * 2 ^ 16 + (s.ctxOf cid).regs.failw.toNat * 2 ^ 32)

/-- HTAB as a register (R196). -/
def Core.htab (c : Core) : Word := word (c.htSlot.toNat + b2n c.htEn * 4)

/-- The value CTLR reads at a control-register address; none where the table has none (R18, R146). -/
def State.ctlRead (s : State) (cid : Nat) (a : BitVec 12) : Option Word :=
  let c := (s.ctxOf cid).ctl
  match a.toNat with
  | 0x000 => some (capsWord cid)
  | 0x001 => some (word cid)
  | 0x002 => some (s.pcidWord cid)
  | 0x010 => some c.tvec
  | 0x011 => some c.tcause
  | 0x012 => some c.tpc
  | 0x013 => some c.tval
  | 0x020 => some (zx c.frm)
  | 0x021 => some (zx c.fflags)
  | 0x030 => some (s.cycleOf (s.domOf cid))
  | 0x031 => some (word s.dtime)
  | 0x032 => some (zx c.vdeadl)
  | 0x040 => some (zx c.bmask)
  | 0x041 => some (zx c.tree)
  | 0x050 => some (s.coreOf (coreKey cid)).htab
  | 0x060 => some (zx c.fmta)
  | 0x061 => some (zx c.fmtb)
  | 0x062 => some (zx c.scla)
  | 0x063 => some (zx c.sclb)
  | 0x064 => some (zx c.accbase)
  | 0x065 => some (zx c.mxovf)
  | 0x070 => some c.wp0
  | 0x071 => some c.wp1
  | 0x080 => some (zx c.budget)
  | 0x081 => some (word (c.prioCls.toNat + c.prioFlr.toNat * 2 ^ 8))
  | 0x090 => some c.rngseed
  | 0x0A0 => some (s.eqsWord cid)
  | 0x0B0 => some (s.coreOf (coreKey cid)).mxidle
  | _ => none

/-- R21, R335: PRIO.CLASS written: not below FLOOR. While the context is exhausted under a rule that lowered its class, the written
class is what the next cycle start restores, and is taken at once only when it is above max(2, FLOOR). A change of class
detaches an attached context (R27). -/
def State.writeClass (s : State) (cid : Nat) (v : BitVec 2) : State :=
  let c := s.ctxOf cid
  let cls := if v.toNat < c.ctl.prioFlr.toNat then c.ctl.prioFlr else v
  let now := if c.sched.lowered then (if (exhCls c.ctl.prioFlr).toNat < cls.toNat then cls else c.ctl.prioCls) else cls
  let s := s.setCtx cid { c with
    ctl := { c.ctl with prioCls := now }
    sched := { c.sched with savedCls := if c.sched.lowered then some cls else c.sched.savedCls } }
  if now = c.ctl.prioCls ∨ c.sched.spine ≠ .attached then s else s.detach cid

/-- BMASK written: a channel whose bit clears withdraws the context, and its completion is evaluated again (R200). -/
def State.writeBmask (s : State) (cid : Nat) (v : Word32) : State :=
  let c := s.ctxOf cid
  let gone := (List.range 32).filter fun i => bit c.ctl.bmask i && !bit v i
  let s := s.setCtl cid { c.ctl with bmask := v }
  gone.foldl (fun s i => (s.setBar cid i {}).barEvalOf cid i) s

/-- HTAB written: a SLOT of another tenant makes every handler entry EMPTY (R196, R197); DESIGN CHOICE: so does one of no tenant (log entry 65). -/
def State.writeHtab (s : State) (cid : Nat) (v : Word) : State :=
  let k := coreKey cid
  let c := s.coreOf k
  let slot : BitVec 2 := v.truncate 2
  let base := mkCid (gathOf cid) (coreNo cid) 0
  let other := s.slotTenant (base + slot.toNat) != s.slotTenant (base + c.htSlot.toNat)
  s.setCore k { c with htSlot := slot, htEn := bit v 2, handlers := if other then [] else c.handlers }

/-- A control register written; none where the table has none or marks it RO (R18, R147). -/
def State.ctlWrite (s : State) (cid : Nat) (a : BitVec 12) (v : Word) : Option State :=
  let c := (s.ctxOf cid).ctl
  match a.toNat with
  | 0x010 => some (s.setCtl cid { c with tvec := v &&& ~~~(3 : Word) })
  | 0x011 => some (s.setCtl cid { c with tcause := v &&& 0x3F01FF })
  | 0x012 => some (s.setCtl cid { c with tpc := v &&& ~~~(3 : Word) })
  | 0x013 => some (s.setCtl cid { c with tval := v })
  | 0x020 => some (s.setCtl cid { c with frm := v.truncate 2 })
  | 0x021 => some (s.setCtl cid { c with fflags := v.truncate 5 })
  | 0x032 => some (s.setCtl cid { c with vdeadl := lo32 v })
  | 0x040 => some (s.writeBmask cid (lo32 v))
  | 0x041 => some (s.setCtl cid { c with tree := v.truncate 28 })
  | 0x050 => some (s.writeHtab cid v)
  | 0x060 => some (s.setCtl cid { c with fmta := v.truncate 7 })
  | 0x061 => some (s.setCtl cid { c with fmtb := v.truncate 7 })
  | 0x062 => some (s.setCtl cid { c with scla := v.truncate 18 })
  | 0x063 => some (s.setCtl cid { c with sclb := v.truncate 18 })
  | 0x064 => some (s.setCtl cid { c with accbase := v.truncate 10 })
  | 0x065 => some (s.setCtl cid { c with mxovf := lo32 v })
  | 0x081 => some (s.writeClass cid (v.truncate 2))
  | 0x090 => some (s.setCtl cid { c with rngseed := v })
  | 0x0B0 =>
    let k := coreKey cid
    some (s.setCore k { s.coreOf k with mxidle := v, mxSince := s.clk, mxGated := false })
  | _ => none

/-! ### System group (R145 to R153) -/

/-- NOP (R145): advances the PC. -/
def execNop (s : State) : Out :=
  .next s.advance

/-- CTLR (R146): reads a control register; MXOVF is cleared by the read, even into s0. -/
def execCtlr (d : Reg) (a : BitVec 12) (s : State) : Out :=
  match s.ctlRead s.cur a with
  | none => s.trap cILLEGAL (zx a)
  | some v =>
    let s := if a = 0x065 then s.setCtl s.cur { s.me.ctl with mxovf := 0 } else s
    s.done d v

/-- MXOVFREAD (R18): a read of MXOVF: CTLR sd, MXOVF returns the count and clears it as one act. -/
def execMxovfRead (d : Reg) (s : State) : Out :=
  execCtlr d 0x065 s

/-- WPREAD (R255): a read of WP0 or WP1: CTLR sd, WPn. -/
def execWpRead (d : Reg) (ch : BitVec 1) (s : State) : Out :=
  execCtlr d (if ch = 0 then 0x070 else 0x071) s

/-- CTLW (R147): writes a control register; none at an address that is RO or not in the table (R18). -/
def execCtlw (r : Reg) (a : BitVec 12) (s : State) : Out :=
  match s.ctlWrite s.cur a (s.s! r) with
  | none => s.trap cILLEGAL (zx a)
  | some t => .next t.advance

/-- PRIOWRITE (R21, R147): CTLW PRIO, sa. -/
def execPrioWrite (a : Reg) (s : State) : Out :=
  execCtlw a 0x081 s

/-- HTABWRITE (R18, R196): CTLW HTAB, sa, for all contexts of the core. -/
def execHtabWrite (a : Reg) (s : State) : Out :=
  execCtlw a 0x050 s

/-- MXIDLEWRITE (R18, R252): CTLW MXIDLE, sa: the count of idleness restarts. -/
def execMxidleWrite (a : Reg) (s : State) : Out :=
  execCtlw a 0x0B0 s

/-- TRAP (R148): raises TRAPI with the immediate. -/
def execTrap (i : BitVec 16) (s : State) : Out :=
  s.trap cTRAPI (zx i)

/-- BRK (R148): raises BREAK with the immediate. -/
def execBrk (i : BitVec 16) (s : State) : Out :=
  s.trap cBREAK (zx i)

/-- TRET (R153, R144): returns from a trap; legal only while INH = 1. Where the word at TPC cannot be seen yet (its page is TIERED, MOVING or
REMOTE, R304), RI is reloaded, and the word decides when it is fetched (State.begin). -/
def execTret (s : State) : Out :=
  if bit s.me.ctl.tcause 8 then
    .next (s.trapReturn (match s.peekWord s.cur s.me.ctl.tpc with
      | some w => isRepWord w
      | none => true))
  else s.illegal (encode .tret)

/-- IDLE (R149): completes when the inbox has an entry, a wait counter is incremented, or CYCLE changes. -/
def execIdle (s : State) : Out :=
  if !s.me.inbox.isEmpty then .next s.advance
  else .next (s.setWait s.cur (.idle (s.cycleOf (s.domOf s.cur)) s.me.regs.w))

/-- HALT (R150): ends the task or handler as FINISH does; on a kernel core the context stops until its core is reset. -/
def execHalt (s : State) : Out :=
  if isKernel s.cur then .next (s.setSched s.cur { s.me.sched with halted := true })
  else s.finish

/-- ILLEGAL (R45): traps ILLEGAL with TVAL = the all-zero word. -/
def execIllegal (s : State) : Out :=
  s.illegal 0

/-- RESERVEDENCODING (R44, R58): a word that is no instruction traps ILLEGAL with TVAL = the word. -/
def execReservedEncoding (w : BitVec 32) (s : State) : Out :=
  s.illegal w

end Sys2Proof.Machine
end

