-- ==== Sys2Proof/Machine/Digest.lean ====
section
/-! DEFINITION. SHA-256 of FIPS 180-4, which the redundant pair (R362) and the boot ROM (R411) compute: its constants from the roots of the
primes they are defined by, and a message schedule kept as a window of 16 words. -/

namespace Sys2Proof.Machine

/-- The whole part of the k-th root of n, below 2^40. -/
def wholeRoot (k n : Nat) : Nat := (List.range 40).foldr (fun i r => if (r + 2 ^ i) ^ k ≤ n then r + 2 ^ i else r) 0

/-- The first 32 bits of the fraction of the k-th root of p. -/
def rootFraction (k p : Nat) : Word32 := BitVec.ofNat 32 (wholeRoot k (p * 2 ^ (32 * k)))

/-- The primes up to 311, the sixty-fourth. -/
def primes : List Nat := (List.range 312).filter fun n => decide (2 ≤ n) && (List.range 18).all fun d => decide (d < 2) || decide (n ≤ d) || n % d != 0

/-- A word rotated right by each of three amounts. -/
def twist (x : Word32) (i j k : Nat) : Word32 := x.rotateRight i ^^^ x.rotateRight j ^^^ x.rotateRight k

/-- A word rotated right by two amounts and shifted by a third. -/
def stir (x : Word32) (i j k : Nat) : Word32 := x.rotateRight i ^^^ x.rotateRight j ^^^ x >>> k

/-- The word of the schedule that comes after a window of 16. -/
def slideWord (w : List Word32) : Word32 :=
  let at' := fun i => w.getD i 0
  at' 0 + stir (at' 1) 7 18 3 + at' 9 + stir (at' 14) 17 19 10

/-- One round on the eight working words, with the sum of its constant and its word of the schedule. -/
def mixWords (kw : Word32) : List Word32 → List Word32
  | [a, b, c, d, e, f, g, h] =>
    let t := kw + h + twist e 6 11 25 + (g ^^^ (e &&& (f ^^^ g)))
    [t + twist a 2 13 22 + ((a &&& b) ||| (c &&& (a ||| b))), a, b, c, t + d, e, f, g]
  | l => l

/-- The rounds with these constants, from a window of the schedule. -/
def rounds : List Word32 → List Word32 → List Word32 → List Word32
  | [], _, s => s
  | k :: ks, w, s => rounds ks (w.drop 1 ++ [slideWord w]) (mixWords (k + w.getD 0 0) s)

/-- The big-endian word i of a block. -/
def blockWord (block : List Byte) (i : Nat) : Word32 := BitVec.ofNat 32 (natOf ((block.drop (4 * i)).take 4).reverse)

/-- A block of 64 bytes goes into the hash value. -/
def hashBlock (s : List Word32) (block : List Byte) : List Word32 :=
  List.zipWith (· + ·) s (rounds (primes.map (rootFraction 3)) ((List.range 16).map (blockWord block)) s)

/-- A message padded to whole blocks: a one bit, zeros, its length in bits. -/
def padded (bs : List Byte) : List Byte :=
  bs ++ [0x80] ++ List.replicate ((119 - bs.length % 64) % 64) 0 ++ (bytesOf 8 (8 * bs.length)).reverse

/-- SHA-256. -/
def sha256 (bs : List Byte) : BitVec 256 :=
  let all := padded bs
  let out := (List.range (all.length / 64)).foldl (fun s i => hashBlock s ((all.drop (64 * i)).take 64)) ((primes.take 8).map (rootFraction 2))
  BitVec.ofNat 256 (out.foldl (fun acc x => acc * 2 ^ 32 + x.toNat) 0)

end Sys2Proof.Machine
end

