-- ==== Sys2Proof/Machine/Versions.lean ====
section
/-! DEFINITION. Versions (R170 to R177): resolving a versioned load, opening, sealing and reclaiming, the loads and version
windows that wait on a ring (R359), and the digests of output versions (R362). -/

namespace Sys2Proof.Machine

/-! ### Resolution (R175) -/

/-- What resolving a version finds: the slot that holds it, that the load parks, or that it is gone. -/
inductive Found where
  | hit (i : Nat)
  | park
  | gone
deriving DecidableEq, Repr

/-- The newest version in the ring, open or sealed (R170). -/
def ringNewest (l : List VSlot) : Option VSlot := newestBy (·.st != .free) l

/-- The slot of the newest sealed version that p admits. -/
def newestSlot (p : Word32 → Bool) (l : List VSlot) : Option Nat :=
  match newestBy (fun x => x.st == .sealed && p x.ver) l with
  | some w => l.findIdx? fun x => x.st == .sealed && x.ver == w.ver
  | none => none

/-- R175: mode 0 EXACT and 1 LE of version a, 2 AGE with lower bound a. -/
def resolveV (l : List VSlot) (mode : BitVec 2) (a : Word32) : Found :=
  match mode.toNat with
  | 0 =>
    match l.findIdx? fun x => x.st == .sealed && x.ver == a with
    | some i => .hit i
    | none =>
      if l.any fun x => x.st == .opened && x.ver == a then .park
      else match ringNewest l with
        | some x => if serialLater a x.ver then .park else .gone
        | none => .park
  | 1 =>
    if l.any fun x => x.st == .opened && serialLe x.ver a then .park
    else match newestSlot (fun w => serialLe w a) l with
      | some i => .hit i
      | none => .gone
  | _ =>
    match newestSlot (fun w => serialLe a w) l with
    | some i => .hit i
    | none => .park

/-- Slot i of a ring. -/
def slotAt (l : List VSlot) (i : Nat) : VSlot := l.getD i {}

/-! ### Parked loads (R175 to R177) -/

/-- A context's tenant is switched out of its partition: its loads stay parked (R177) and its messages go to memory (R194). -/
def State.switchedOut (s : State) (cid : Nat) : Bool :=
  !isKernel cid &&
    match s.partOf (gathOf cid) with
    | some p => (SMap.read {} s.parts p : PartSt).swIn.isSome || s.running p != some (s.tenantOf cid)
    | none => true

/-- A versioned load delivers a value and a predicate, and completes. -/
def State.ldvGives (s : State) (cid : Nat) (w : LdvWait) (v : Word) (p : PReg) : State :=
  let c := s.ctxOf cid
  s.setCtx cid { c with
    regs := ((c.regs.sset w.sd v).pset w.pf p).advance
    sched := { c.sched with wait := .none, readyAt := s.clk } }

/-- VGONE with a reason (R366). -/
def vgoneVal (reason : Nat) (v : Word32) : Word := word (v.toNat + 2 ^ 32 * reason)

/-- A U-class trap of a context that leaves its wait, raised for an access of kind ak. -/
def State.wakeTrapAs (s : State) (cid : Nat) (code : Byte) (val : Word) (ak : Byte) : State :=
  (s.setSched cid { (s.ctxOf cid).sched with wait := .none, readyAt := s.clk }).trapAs cid code val ak

/-- A U-class trap of a context that leaves its wait. -/
def State.wakeTrap (s : State) (cid : Nat) (code : Byte) (val : Word) : State := s.wakeTrapAs cid code val (akOf code)

/-- Resolve a load of a context against a ring as it stands: delivered, trapped, or left as it is. -/
def State.ldvTry (s : State) (cid : Nat) (w : LdvWait) (l : List VSlot) : State :=
  match resolveV l w.mode w.arg with
  | .hit i => s.ldvGives cid w (word (SMap.readLE (slotAt l i).data w.off w.size)) 0
  | .gone => s.wakeTrap cid cVGONE (vgoneVal 1 w.arg)
  | .park => s

/-- The deadline instant of a load has passed (R176). -/
def State.ldvPast (s : State) (w : LdvWait) : Bool :=
  match w.deadline with
  | some dl => decide (dl < s.dtime)
  | none => false

/-- R176: the deadline of a load passed with the load unresolved: the region's fallback policy decides, and a poisoned fallback record is
UNCORR (R375). -/
def State.ldvLate (s : State) (cid : Nat) (w : LdvWait) : State :=
  let a := w.reg.frec + w.off % 64
  if w.reg.fbk then
    if s.isPoisoned a w.size then s.poisoned cid w.reg (word (w.reg.base + w.off)) else s.ldvGives cid w (word (s.physRead a w.size)) 1
  else s.wakeTrap cid cSTALE (word w.arg.toNat)

/-- R177: a load whose tenant resumes. -/
def State.ldvResume (s : State) (cid : Nat) (w : LdvWait) : State :=
  if ({ s with dtime := w.sealedAt.getD s.dtime } : State).ldvPast w then s.ldvLate cid w else s.ldvTry cid w (s.ring w.ring 2)

/-- R177: a load of a tenant that is switched out keeps the instant of the first seal that resolves it. -/
def Wait.sealedNow (now key : Nat) (l : List VSlot) (x : Wait) : Wait :=
  match x with
  | .ldv w =>
    if w.ring ≠ key then x
    else match resolveV l w.mode w.arg, w.sealedAt with
      | .hit _, Option.none => .ldv { w with sealedAt := some now }
      | _, _ => x
  | _ => x

/-- A context whose load is off its slot or switched out. -/
def Ctx.sealedNow (now key : Nat) (l : List VSlot) (c : Ctx) : Ctx := { c with sched := { c.sched with wait := c.sched.wait.sealedNow now key l } }

/-- R175 to R177: every load parked on a ring is resolved again, or its deadline has passed; of a tenant that is switched out, and of a
context whose state is saved, the instant is kept. -/
def State.reresolve (s : State) (key : Nat) (l : List VSlot) : State :=
  let s : State := { s with slots := s.slots.map fun x => { x with ctx := x.ctx.sealedNow s.dtime key l } }
  s.ctxs.foldl (fun s kc =>
    match kc.2.sched.wait with
    | .ldv w =>
      if w.ring ≠ key then s
      else if s.switchedOut kc.1 then s.setCtx kc.1 ((s.ctxOf kc.1).sealedNow s.dtime key l)
      else if s.ldvPast w then s.ldvLate kc.1 w
      else s.ldvTry kc.1 w l
    | _ => s) s

/-- R177: a context whose tenant resumes looks at the load it is parked on. -/
def State.resumeCtx (s : State) (cid : Nat) : State :=
  match (s.ctxOf cid).sched.wait with
  | .ldv w => s.ldvResume cid w
  | _ => s

/-- R177: the parked loads of a tenant that resumes in partition p. -/
def State.resumeTenant (s : State) (p : Nat) (t : Byte) : State :=
  (s.cidsOf p).foldl (fun s cid => if s.tenantOf cid == t then s.resumeCtx cid else s) s

/-- PSTAT names the running tenant of a partition (R320). -/
def State.setRunning (s : State) (p : Nat) (t : Byte) : State :=
  s.setWin (rPSTAT p) (putFld (putFld (s.win! (rPSTAT p)) 0 8 t.toNat) 8 1 0)

/-! ### Version windows (R358, R359) -/

/-- VWSTAT of window w (R358). -/
def State.vwStat (s : State) (w : Nat) (busy res ver : Nat) : State :=
  s.setWin (rVW w 0x20) (word (busy + res * 2 + ver * 2 ^ 32))
def State.vwBusy (s : State) (w : Nat) : Bool := bit (s.win! (rVW w 0x20)) 0
def State.vwRes (s : State) (w : Nat) : Nat := fld (s.win! (rVW w 0x20)) 1 3

/-- Resolve a busy window against a ring (R359). -/
def State.vwTry (s : State) (w : Nat) (l : List VSlot) : State :=
  let x : VWin := SMap.read {} s.vwins w
  match resolveV l x.mode x.arg with
  | .hit i => ({ s with vwins := SMap.write {} s.vwins w { x with slot := i } }).vwStat w 0 1 (slotAt l i).ver.toNat
  | .gone => s.vwStat w 0 4 0
  | .park => s

/-- The deadline instant of a busy window has passed with the window unresolved: its region's policy decides. -/
def State.vwLate (s : State) (w : Nat) : State := s.vwStat w 0 (if (SMap.read {} s.vwins w : VWin).fbk then 2 else 3) 0

/-- The deadline instant of a window has passed. -/
def State.vwPast (s : State) (w : Nat) : Bool :=
  match (SMap.read {} s.vwins w : VWin).deadline with
  | some dl => decide (dl < s.dtime)
  | none => false

/-- Every busy window on a ring is resolved again, or its deadline has passed. -/
def State.vwReresolve (s : State) (key : Nat) (l : List VSlot) : State :=
  foldNat (fun s w => if s.vwBusy w && (SMap.read {} s.vwins w : VWin).ring == key then
    (if s.vwPast w then s.vwLate w else s.vwTry w l) else s) s 0 64

/-- R359: a slot is about to be reopened: the windows pinned on it are revoked first. -/
def State.vwRevoke (s : State) (key i : Nat) : State :=
  foldNat (fun s w =>
    let x : VWin := SMap.read {} s.vwins w
    if s.vwRes w == 1 && x.ring == key && x.slot == i then s.vwStat w 0 5 (fld (s.win! (rVW w 0x20)) 32 32) else s) s 0 64

/-! ### Opening, sealing, reclaiming (R172 to R174) -/

/-- The ring has changed: what waits on it is resolved again (R173, R175, R359). -/
def State.ringChanged (s : State) (key : Nat) (l : List VSlot) : State :=
  ((s.setRing key l).reresolve key l).vwReresolve key l

/-- The slot an opening takes: the lowest-numbered FREE slot, else that of the oldest sealed version (R172). -/
def openSlot (l : List VSlot) : Nat :=
  match l.findIdx? (·.st == .free) with
  | some i => i
  | none =>
    let oldest := l.foldl (fun acc x => if x.st == .sealed then
      match acc with
      | some y => if serialLater y.ver x.ver then some x else some y
      | none => some x else acc) (none : Option VSlot)
    match oldest with
    | some y => (l.findIdx? fun x => x.st == .sealed && x.ver == y.ver).getD 0
    | none => 0

/-- The contents of a version opened on the newest sealed one, with its stamp (R170, R171). -/
def openedSlot (l : List VSlot) (v : Word32) : VSlot :=
  let old := match newestSealed l with
    | some x => x.data
    | none => []
  { st := .opened, ver := v, data := SMap.writeLE old 0 8 v.toNat }

/-- Version v is opened in its slot (R172). -/
def State.openV (s : State) (key depth : Nat) (v : Word32) : State :=
  let l := s.ring key depth
  let i := openSlot l
  (s.vwRevoke key i).ringChanged key (setAt l i (openedSlot l v))

/-- The slot of an open version. -/
def openIdx (l : List VSlot) (v : Word32) : Option Nat := l.findIdx? fun x => x.st == .opened && x.ver == v

/-- The bytes of a version over its region. -/
def VSlot.bytes (x : VSlot) (len : Nat) : List Byte := (List.range len).map fun i => SMap.read 0 x.data i

/-- R362: the sealing of an output version of a PAIR domain sends its digest to the partner. -/
def State.pairSeal (s : State) (key len : Nat) (x : VSlot) : State :=
  (List.range 8).foldl (fun s d =>
    let c := s.win! (rCDCTL d)
    let o := s.win! (rCDOUT d)
    let t : Byte := BitVec.ofNat 8 (fld o 56 8)
    let named := (List.range 64).any fun p => match s.ownRegion p t (fld o 12 44 * 4096) with
      | some r => r.kind == kVERSIONED && s.regionKey r == key
      | none => false
    if bit c 0 && bit c 1 && bit (s.win! rPAIRCTL) 10 && named then
      let g : Digest := { d := d, u := x.ver, h := sha256 ({ x with data := SMap.writeLE x.data 4 4 0 }.bytes len) }
      { s with pair := { s.pair with mine := g :: s.pair.mine }, sent := .digest g :: s.sent }
    else s) s

/-- Version v in slot i is sealed now (R171, R173). -/
def State.sealV (s : State) (key depth len i : Nat) : State :=
  let l := s.ring key depth
  let x := slotAt l i
  let y : VSlot := { x with st := .sealed, data := SMap.writeLE x.data 4 4 (s.dtime % 2 ^ 32) }
  (s.ringChanged key (setAt l i y)).pairSeal key len y

/-- R174: every sealed slot whose version is u or earlier becomes FREE, the newest sealed one apart. -/
def State.reclaimV (s : State) (key depth : Nat) (u : Word32) : State :=
  let l := s.ring key depth
  let top := newestSealed l
  s.setRing key (l.map fun x =>
    if x.st == .sealed && serialLe x.ver u && some x.ver != top.map (·.ver) then { x with st := .free } else x)

end Sys2Proof.Machine
end

