-- ==== Sys2Proof/Machine/MemSys.lean ====
section
/-! DEFINITION. The memory system's own steps (R297 to R316): walks, granule moves between local
memory and the second tier, TLB invalidation, post-copy migration, error counts. -/

namespace Sys2Proof.Machine

/-! ### Page-table entries -/

/-- Every page-table entry of a tenant that names no further table and is not zero, in page-table order: its address, its level
(5 a 64 KiB table), the virtual address it maps, its value (R308 to R310). -/
def State.tableEntries (s : State) : Nat → Nat → Nat → Nat → List (Nat × Nat × Nat × Nat)
  | 0, _, _, _ => []
  | fuel + 1, lvl, base, va =>
    let n := if lvl = 4 then 256 else if lvl = 5 then 32 else 512
    (List.range n).flatMap fun i =>
      let ea := base + 8 * i
      let e := s.physRead ea 8
      let va' := va + i * 2 ^ levelLog2 lvl
      let next := e % 2 ^ 52 / 4096 * 4096
      if e = 0 then []
      else if e % 2 = 1 ∧ e / 2 % 4 = 0 ∧ 1 ≤ lvl ∧ lvl ≤ 4 then s.tableEntries fuel (lvl - 1) next va'
      else if e % 2 = 1 ∧ e / 2 % 4 = 2 ∧ lvl = 1 then s.tableEntries fuel 5 next va'
      else [(ea, lvl, va', e)]

def State.entriesOf (s : State) (t : Byte) : List (Nat × Nat × Nat × Nat) :=
  s.tableEntries 6 4 (fld (s.win! (rXROOT t.toNat)) 12 40 * 4096) 0

/-- A page-table entry written by the walker or a tier engine, with an AMO, under the system tag (R295). -/
def State.putEntry (s : State) (ea e : Nat) : State := (s.touch ea .none none true).physWrite ea 8 e

/-- The lines of pa .. pa + n - 1 pass through L2 under the system tag (R295). -/
def State.touchSpan (s : State) (pa n : Nat) (write : Bool) : State :=
  foldNat (fun s i => s.touch (pa + 64 * i) .none none write) s 0 ((n + 63) / 64)

/-! ### Frames and leaves (R301, R302) -/

/-- The free-frame stack (R301): push and pop. -/
def State.ffcnt (s : State) : Nat := fld (s.win! rFFCNT) 0 23
def State.ffAddr (s : State) (i : Nat) : Nat := fld (s.win! rFFBASE) 12 40 * 4096 + 4 * i
def State.frAddr (s : State) (f : Nat) : Nat := fld (s.win! rFRBASE) 12 40 * 4096 + 4 * f
def State.pushFrame (s : State) (f : Nat) : State :=
  ((s.physWrite (s.ffAddr s.ffcnt) 4 f).physWrite (s.frAddr f) 4 0xFFFFFFFF).setWinFld rFFCNT 0 23 (s.ffcnt + 1)
def State.topFrame (s : State) : Nat := s.physRead (s.ffAddr (s.ffcnt - 1)) 4
/-- Take the top frame for granule g. -/
def State.popFrame (s : State) (g : Nat) : State :=
  (s.physWrite (s.frAddr s.topFrame) 4 g).setWinFld rFFCNT 0 23 (s.ffcnt - 1)

/-- Frames a tenant holds (TQUOTA, R301). -/
def State.framesHeld (s : State) (t : Byte) : Nat := fld (s.win! (rTQUOTA t.toNat)) 32 23
def State.addFrames (s : State) (t : Byte) (n : Nat) (up : Bool) : State :=
  let h := s.framesHeld t
  s.setWinFld (rTQUOTA t.toNat) 32 23 (if up then h + n else h - n)

/-- n more frames would put the tenant above its quota (R306). -/
def State.overQuota (s : State) (t : Byte) (n : Nat) : Bool :=
  let q := fld (s.win! (rTQUOTA t.toNat)) 0 23
  q != 0 && decide (q < s.framesHeld t + n)

/-- The leaf of granule g: its entry's address and the page's virtual address, valid with G = 1 in frame f, or TIERED (R302, R310). -/
def State.leafOf (s : State) (t : Byte) (p : Nat → Bool) : Option (Nat × Nat) :=
  ((s.entriesOf t).find? fun x => x.2.1 == 5 && p x.2.2.2).map fun x => (x.1, x.2.2.1)

/-- The leaf of a granule that is resident. -/
def State.leafFor (s : State) (g : Nat) : Option (Nat × Nat) :=
  let e := s.tierEnt g
  s.leafOf (tTenant e) fun x => x % 2 == 1 && x / 32 % 2 == 1 && x % 2 ^ 52 / 65536 == tFrame e

/-- A stash mapping covers a frame (R303). -/
def State.stashHolds (s : State) (frame : Nat) : Bool :=
  s.cores.any (fun kc => kc.2.maps.any fun m => m.frames.any fun f => f / 16 == frame)
    || s.stashes.any (fun x => x.maps.any fun m => m.frames.any fun f => f / 16 == frame)

/-- A page drops from every TLB. -/
def State.dropPage (s : State) (t : Byte) (va log2 : Nat) : State :=
  s.dropTlb fun e => e.tenant == t && decide (e.va < va + 2 ^ log2) && decide (va < e.va + 2 ^ e.log2)

/-- R306: TSTAT of an incoming tenant takes a new value; once READY is 1 the tenant runs in its partition. -/
def State.readyUp (s : State) (t : Byte) (new : Word) : State :=
  let s := s.setWin (rTSTAT t.toNat) new
  if !bit new 63 then s else
  match s.parts.find? fun kp => kp.2.swIn == some t with
  | none => s
  | some (p, x) => (({ s with parts := SMap.write {} s.parts p { x with swIn := none, runAt := s.dtime } }).setRunning p t).resumeTenant p t

/-- RESD and READY of a tenant's record after granule g became resident or not (R306). -/
def State.recount (s : State) (t : Byte) (g : Nat) (up : Bool) : State :=
  let inRec := s.parts.any fun kp => kp.2.recIn.contains g && !kp.2.restoring
  if !inRec then s else
  let r := s.win! (rTSTAT t.toNat)
  let n := if up then fld r 32 26 + 1 else fld r 32 26 - 1
  let thr := Nat.min 256 (fld (s.win! (rRESTHR t.toNat)) 0 9)
  let r := putFld r 32 26 n
  s.readyUp t (if thr * fld r 0 26 ≤ 256 * n then putFld r 63 1 1 else r)

/-! ### Instruction memory of tasks that have started (R30, R304) -/

/-- Where a context keeps the instruction memory of granule g while the granule is in its tier slot. -/
def codeKey (g : Nat) : Nat := 2 ^ 60 + 65536 * g

/-- Granule g leaves frame f: its instruction memory is kept apart. -/
def Sched.codeOut (x : Sched) (f g : Nat) : Sched :=
  { x with
    code := Memory.setSpan x.code (codeKey g) 65536 (Memory.span x.code (f * 65536) 65536)
    codeG := if x.codeG.contains g then x.codeG else g :: x.codeG }

/-- Granule g comes to frame f, with the instruction memory that was kept, or these contents when it was away as the task started. -/
def Sched.codeIn (x : Sched) (f g : Nat) (data : List Byte) : Sched :=
  if x.codeG.contains g then { x with
    code := Memory.setSpan (Memory.setSpan x.code (f * 65536) 65536 (Memory.span x.code (codeKey g) 65536)) (codeKey g) 65536 []
    codeG := x.codeG.filter (· != g) }
  else { x with code := Memory.putBytes x.code (f * 65536) data }

/-- A context that holds a task or runs a handler has its instruction memory changed. -/
def Ctx.mapCode (f : Sched → Sched) (c : Ctx) : Ctx := if c.sched.spine = .free then c else { c with sched := f c.sched }

/-- The instruction memory of every context of a compute core, on its slot or saved. -/
def State.mapCode (s : State) (f : Sched → Sched) : State :=
  { s with
    ctxs := s.ctxs.map fun kc => (kc.1, if isKernel kc.1 then kc.2 else kc.2.mapCode f)
    slots := s.slots.map fun x => { x with ctx := x.ctx.mapCode f } }

/-! ### Moves (R303) -/

/-- R303 step 3: no cache keeps a copy of a line of frame f: dirty copies go to local memory. -/
def State.recallFrame (s : State) (f : Nat) : State :=
  let out := fun (l : Nat) => l / 1024 != f
  { s with
    dir := s.dir.filter fun x => out x.1
    caches := { l2 := s.caches.l2.filter fun x => out x.line
                l1 := (s.caches.l1.map fun x => (x.1, x.2.filter fun y => out y.line)).filter fun x => !x.2.isEmpty
                cpc := s.caches.cpc.filter fun y => out y.line } }

/-- The move of granule g in a direction goes from the queue. -/
def State.dropMove (s : State) (g : Nat) (up : Bool) : State := { s with moves := dropFirst (fun m => m.gran == g && m.up == up) s.moves }

/-- R303 step 1 of a down-move of granule g: its leaf is MOVING, and the page drops from every TLB. A granule that is not resident, or has PIN = 1
(R302), stays as it is. -/
def State.startDown (s : State) (g : Nat) : State :=
  let e := s.tierEnt g
  match s.leafFor g with
  | none => s.dropMove g false
  | some (ea, va) =>
    if !tRes e || tPin e then s.dropMove g false
    else
      let old := s.physRead ea 8
      let s := (s.dropPage (tTenant e) va 16).putEntry ea 4
      { s with moves := s.moves.map fun m => if m.gran = g ∧ m.up = false ∧ m.leaf = none then { m with leaf := some (ea, old) } else m }

/-- What a tier slot stores of a granule's contents (R303): an LZ4 block where it is shorter, unless the granule is CODED; and whether it is one. -/
def slotBody (coded : Bool) (data : List Byte) : List Byte × Bool :=
  let lz := Config.lz4Block data
  if !coded && decide (lz.length < 65536) && lz4Expand lz == data then (lz, true) else (data, false)

/-- R303 step 4: the contents of frame f go to the tier slot of granule g; a poisoned line poisons what holds it (R299). -/
def State.storeSlot (s : State) (g f : Nat) : State :=
  let e := s.tierEnt g
  let data := s.physBytes (f * 65536) 65536
  let bad := (s.poison.filter fun l => l / 1024 == f).map fun l => l % 1024
  let slot := s.slotAddr g
  let (body, lz) := slotBody (tCoded e) data
  let s := (s.touchSpan (f * 65536) 65536 false).touchSpan slot body.length true
  let s := { s with
    mem := Memory.putBytes s.mem slot body
    poison := ((if lz then (if bad.isEmpty then [] else List.range 1024) else bad).map (slot / 64 + ·))
      ++ s.poison.filter fun l => l / 1024 != slot / 65536 }
  let e := tput (tput (tput e 32 16 (body.length - 1)) 6 1 (b2n lz)) 64 32 (crc32c data).toNat
  s.setTier g (tput (tput e 2 1 1) 1 1 0)

/-- R303 steps 2 to 5 of a down-move of granule g, whose leaf at ea held old: a granule that a stash mapping covers gets its leaf back (a skip). -/
def State.endDown (s : State) (g ea old : Nat) : State :=
  let f := old % 2 ^ 52 / 65536
  let t := tTenant (s.tierEnt g)
  let s := s.dropMove g false
  if s.stashHolds f then s.putEntry ea old
  else
    let s := s.recallFrame f
    let s := if tDirty (s.tierEnt g) || !tValid (s.tierEnt g) then s.storeSlot g f else s
    let s := (s.putEntry ea (2 + g * 2 ^ 32)).setTier g (tput (s.tierEnt g) 0 1 0)
    let s : State := { s with poison := s.poison.filter (fun l => l / 1024 != f), upOrder := s.upOrder.filter (· != g) }
    ((((s.pushFrame f).addFrames t 1 false).recount t g false).mapCode fun x => x.codeOut f g)

/-- R303: an up-move of granule g into the top free frame. A CRC that does not agree, or a slot with a poisoned line, poisons the frame. -/
def State.upMove (s : State) (g : Nat) : State :=
  let e := s.tierEnt g
  let t := tTenant e
  match s.leafOf t fun x => x % 16 == 2 && x / 2 ^ 32 % 2 ^ 26 == g with
  | none => s
  | some (ea, _) =>
    if tRes e || s.ffcnt == 0 then s else
    let f := s.topFrame
    let s := s.popFrame g
    let slot := s.slotAddr g
    let data := s.slotData g
    let bad := (s.poison.filter fun l => l / 1024 == slot / 65536).map (· % 1024)
    let lost := (crc32c data).toNat != fld e 64 32 || (tLz e && !bad.isEmpty)
    let s := (s.touchSpan slot (fld e 32 16 + 1) false).touchSpan (f * 65536) 65536 true
    let s := { s with
      mem := Memory.putBytes s.mem (f * 65536) (data.take 65536)
      poison := (if lost then List.range 1024 else bad).map (f * 1024 + ·) ++ s.poison.filter fun l => l / 1024 != f
      upOrder := s.upOrder.filter (· != g) ++ [g] }
    let s := s.setTier g (tput (tput (tput e 8 23 f) 0 1 1) 1 1 0)
    (((s.putEntry ea (1 + 1 * 2 + 32 + f * 65536)).addFrames t 1 true).recount t g true).mapCode fun x => x.codeIn f g (data.take 65536)

/-! ### Victims (R306) -/

/-- A tenant that runs in some partition, or is being switched in. -/
def State.isRunning (s : State) (t : Byte) : Bool :=
  (List.range 64).any fun p =>
    let x : PartSt := SMap.read {} s.parts p
    x.swIn == some t || (x.swIn.isNone && s.running p == some t)

/-- Granule g may be moved down. -/
def State.movable (s : State) (g : Nat) : Bool :=
  let e := s.tierEnt g
  tRes e && !tPin e && !s.stashHolds (tFrame e) && (s.leafFor g).isSome

/-- R306: the victim of a move that needs a frame when the stack is empty: the outgoing tenant's record from its end, then any granule of a
tenant that is neither running nor incoming, lowest id first; never one of the incoming record. -/
def State.victim (s : State) (g : Nat) : Option Nat :=
  let sw := (s.parts.find? fun kp => kp.2.recIn.contains g).map (·.2)
  let keep := (sw.map (·.recIn)).getD []
  let ok := fun v => s.movable v && !keep.contains v
  let out := ((sw.map (·.recOut)).getD []).reverse
  match out.find? fun v => ok v && !s.isRunning (tTenant (s.tierEnt v)) with
  | some v => some v
  | none => (List.range (fld (s.win! rNGRAN) 0 26)).find? fun v =>
      ok v && !s.isRunning (tTenant (s.tierEnt v)) && (sw.map (·.swIn)).getD none != some (tTenant (s.tierEnt v))

/-- A tenant's oldest granule that may be moved down (R306): one that no up-move has brought, lowest id first, else the one that came up first
(log entry 20). -/
def State.ownOldest (s : State) (t : Byte) : Option Nat :=
  let mine := fun v => s.movable v && tTenant (s.tierEnt v) == t
  ((List.range (fld (s.win! rNGRAN) 0 26)).find? fun v => mine v && !s.upOrder.contains v).or (s.upOrder.find? mine)

/-- How n frames for tenant t come to hand (R306): they are there, after a down-move of a victim, or not at all. -/
inductive Room where
  | here
  | after (v : Nat)
  | never
deriving DecidableEq, Repr

/-- R306: at its quota a tenant's own oldest granule goes first; with the stack empty the victim of a move of granule g. -/
def State.roomFor (s : State) (t : Byte) (n g : Nat) (have' : Bool) : Room :=
  if s.overQuota t n then
    match s.ownOldest t with
    | some v => .after v
    | none => .never
  else if have' then .here
  else match s.victim g with
    | some v => .after v
    | none => .never

/-- STUCK (R306): a switch-in whose next up-move finds no victim and is not READY. -/
def State.stuck (s : State) (g : Nat) : State :=
  let t := tTenant (s.tierEnt g)
  if s.parts.any (fun kp => kp.2.swIn == some t) ∧ !bit (s.win! (rTSTAT t.toNat)) 63 then s.setWinFld (rTSTAT t.toNat) 62 1 1 else s

/-! ### The queue of moves (R304, R306) -/

/-- What an up-move of granule g needs first. -/
def State.upRoom (s : State) (g : Nat) : Room := s.roomFor (tTenant (s.tierEnt g)) 1 g (s.ffcnt != 0)

/-- An up-move for which no frame can be had waits in the queue, and others pass it. -/
def State.blocked (s : State) (m : Move) : Bool := m.up && !tRes (s.tierEnt m.gran) && !s.tierDown && s.upRoom m.gran == .never

/-- The next move of the tier engine of granule g's die: one that has begun, then demand up-moves, then the others in queue order (R302, R304). -/
def State.moveTurn (s : State) (g : Nat) (up : Bool) : Bool :=
  let l := s.moves.filter fun m => m.gran % 4 == g % 4 && !s.blocked m
  match ((l.find? (·.leaf.isSome)).or (l.find? (·.demand))).or l.head? with
  | some m => m.gran == g && m.up == up
  | none => false

/-- DOWN_MOVE (R303): the tier engine begins the down-move of granule n, or ends the one it has begun. -/
def execDownMove (n : BitVec 26) (s : State) : Out :=
  let g := n.toNat
  if s.moveTurn g false then
    match (s.moves.find? fun m => m.gran == g && !m.up).bind (·.leaf) with
    | some (ea, old) => .next (s.endDown g ea old)
    | none => .next (s.startDown g)
  else .next s

/-- A down-move of granule v is queued, ahead of the move that needs its frame. -/
def State.moveFirst (s : State) (v : Nat) : State :=
  if s.moves.any fun m => m.gran == v && !m.up then s
  else { s with moves := { gran := v, up := false, demand := true } :: s.moves }

/-- An up-move of granule g, or what it needs first (R303, R304, R306): an unreachable slot terminates the owning tenant. -/
def State.runUp (s : State) (g : Nat) : State :=
  let t := tTenant (s.tierEnt g)
  if tRes (s.tierEnt g) then s.dropMove g true
  else if s.tierDown then (s.dropMove g true).killTenant t cLINK 0 (word g) 0xFFFF true
  else match s.upRoom g with
    | .here => (s.dropMove g true).upMove g
    | .after v => s.moveFirst v
    | .never => s.stuck g

/-- UP_MOVE (R303, R304, R306): the tier engine moves granule n up, or finds that it cannot. -/
def execUpMove (n : BitVec 26) (s : State) : Out :=
  let g := n.toNat
  if s.moveTurn g true || s.moves.any fun m => m.gran == g && s.blocked m then .next (s.runUp g) else .next s

/-- A granule's move in a direction is queued. -/
def State.moveQueued (s : State) (g : Nat) (up : Bool) : Bool := s.moves.any fun m => m.gran == g && m.up == up

/-! ### Walks (R311, R312) -/

/-- A demand up-move of granule g, unless one is queued (R304). -/
def State.demandMove (s : State) (g : Nat) : State :=
  if s.moves.any fun m => m.gran == g && m.up && m.demand then s
  else { s with moves := s.moves ++ [{ gran := g, up := true, demand := true }] }

/-! ### Enryn routes (R407, R408) -/

def State.enUp (s : State) (p : Nat) : Bool := fld (s.win! (rENPST p)) 0 2 == 2

/-- The port traffic to a device takes (R408). -/
def State.routeTo (s : State) (dev : Nat) : Option Nat :=
  let r := s.win! (rENRT dev)
  if bit r 2 && s.enUp (fld r 0 2) then some (fld r 0 2)
  else if bit r 5 && s.enUp (fld r 3 2) then some (fld r 3 2)
  else none

/-- The device a migrating tenant's pages come from (R301). -/
def State.srcDev (s : State) (t : Byte) : Nat := fld (s.win! (rMIGCTL t.toNat)) 0 8

/-- A pull's tenant is terminated with PULLFAIL (R316). -/
def State.pullFails (s : State) (p : Pull) : State := s.killTenant p.tenant cPULLFAIL 0 (word p.va) 0xFFFF true

/-- A pull of a REMOTE page, unless one is in flight (R315); with no route to the source it fails (R316). -/
def State.addPull (s : State) (t : Byte) (ea log2 va srcPa : Nat) (demand : Bool) : State :=
  let p : Pull := { tenant := t, va := pageDown va log2, leaf := ea, size := log2, srcPa := srcPa, sent := s.dtime, demand := demand }
  if s.pulls.any fun p => p.2.tenant == t && p.2.leaf == ea then s
  else if (s.routeTo (s.srcDev t)).isNone then s.pullFails p
  else
    let dev : Byte := BitVec.ofNat 8 (s.srcDev t)
    { s with
      pulls := s.pulls ++ [(s.nextId, p)]
      nextId := s.nextId + 1
      sent := .pull dev srcPa (2 ^ log2) :: s.sent }

/-- R305: the walker records granule g of the running tenant t. -/
def State.recordGran (s : State) (t : Byte) (g : Nat) : State :=
  let e := s.tierEnt g
  if tRec e || !s.isRunning t then s else
  let c := s.win! (rWSRCTL t.toNat)
  let max := fld c 0 26
  let len := fld c 32 26
  if len < max then
    let base := fld (s.win! (rWSRBASE t.toNat)) 2 50 * 4 + (if s.wsrBuf.contains t then 4 * max else 0)
    (((s.physWrite (base + 4 * len) 4 g).setWinFld (rWSRCTL t.toNat) 32 26 (len + 1))).setTier g (tput e 4 1 1)
  else s.setWinFld (rWSRCTL t.toNat) 63 1 1

/-- The granule resident in the frame of a tiered leaf. -/
def State.granuleOf (s : State) (pa : Nat) : Nat := s.physRead (s.frAddr (pa / 65536)) 4

/-- The leaf's A and D are set, D also in the granule's entry, and a tiered granule is recorded (R303, R305, R311). -/
def State.markLeaf (s : State) (t : Byte) (ea pa e : Nat) (write : Bool) : State :=
  let e1 := if e / 8 % 2 = 0 then e + 8 else e
  let e2 := if write ∧ e1 / 16 % 2 = 0 then e1 + 16 else e1
  let s := if e2 = e then s else s.putEntry ea e2
  if e / 32 % 2 = 1 then
    let g := s.granuleOf pa
    let s := if write then s.setTier g (tput (s.tierEnt g) 1 1 1) else s
    s.recordGran t g
  else s

/-- The translation a walk found. -/
def mkTlb (t : Byte) (va log2 pa e : Nat) (write : Bool) : Tlb :=
  { tenant := t, va := pageDown va log2, log2 := log2, pa := pa, written := write || e / 16 % 2 == 1 }

/-- A TLB of at most n entries takes one more, the oldest going for space (R313). -/
def fillTlb (n : Nat) (l : List Tlb) (e : Tlb) : List Tlb :=
  (e :: l.filter fun x => !(x.tenant == e.tenant && x.va == e.va && x.log2 == e.log2)).take n

/-- The TLBs of a core and its gathering take a translation (R313). -/
def State.fillBoth (s : State) (core : Nat) (e : Tlb) : State :=
  let s := s.setCore core { s.coreOf core with tlb := fillTlb 64 (s.coreOf core).tlb e }
  s.setGath (core / 16) { s.gathSt (core / 16) with tlb := fillTlb 2048 (s.gathSt (core / 16)).tlb e }

/-- A walk by number. -/
def State.walk? (s : State) (n : Nat) : Option Walk := (s.walks.find? (·.1 == n)).map (·.2)

/-- What a walk that waits on a page starts: a demand up-move, or a pull (R304, R315). -/
def State.walkWaits (s : State) (w : Walk) : State :=
  match s.walkTables w.tenant w.va with
  | .tiered _ g => s.demandMove g
  | .remote ea log2 pa => s.addPull w.tenant ea log2 w.va pa true
  | _ => s

/-- WALK (R311, R312): the walker of a die, with fewer than 64 walks running, starts its oldest waiting walk. -/
def execWalk (n : Nat) (s : State) : Out :=
  match s.walk? n with
  | none => .next s
  | some w =>
    let mine := s.walks.filter fun x => x.2.die == w.die
    let first := (mine.find? fun x => !x.2.started).map (·.1)
    if first = some n ∧ (mine.filter (·.2.started)).length < 64 then
      .next (({ s with walks := s.walks.map fun (x : Nat × Walk) => if x.1 == n then (x.1, { x.2 with started := true }) else x }).walkWaits w)
    else .next s

/-- The mark of a wait for a walk whose failure is no fault: MAP's (R161). -/
def akMap : Byte := 0xFF

/-- A context's walk has faulted (R312). -/
def State.walkFailed (s : State) (cid detail : Nat) : State :=
  match (s.ctxOf cid).sched.wait with
  | .again (.walk va ak) =>
    if ak = akMap then s else s.suspend cid cXLATE (word va) (if ak = akFetch then 2 else 0) (BitVec.ofNat 8 detail) ak
  | .waitv w => s.suspend cid cXLATE w.va 0 (BitVec.ofNat 8 detail) akLoad
  | _ => s

/-- R312: a faulting walk of tenant t suspends a context that waits on it, at its own instruction with its own record; an engine's command is
tried again, and fails with reason 0x42 (R241). -/
def State.walkFault (s : State) (t : Byte) (r : Requester) (detail : Nat) : State :=
  match r with
  | .engine _ _ | .unit => s
  | .ctx cid => s.onOwner t cid fun s => s.walkFailed cid detail

/-- The core of a requester whose TLBs a translation fills. -/
def Requester.core : Requester → Option Nat
  | .ctx cid => some (coreKey cid)
  | .engine k _ => some k
  | .unit => none

/-- What a requester does when its walk has found a leaf (R312, R313): a core's TLBs are filled, and another unit performs what waits. -/
def State.walkDone (s : State) (e : Tlb) (r : Requester) : State :=
  match r.core with
  | some k => s.fillBoth k e
  | none => s.flushPosts

/-- The entries a walk of va reads pass through L2 under the system tag (R295, R311). -/
def State.touchWalk (s : State) (t : Byte) (va : Nat) : State :=
  (s.walkPath va 6 4 (fld (s.win! (rXROOT t.toNat)) 12 40 * 4096 + 8 * (va / 2 ^ 48 % 256))).foldl (fun s ea => s.touch ea .none none false) s

/-- WALK_END (R311, R312): a started walk whose page is neither tiered, moving nor remote ends: the leaf fills the TLBs of the
requesters, or each of them faults; a poisoned table terminates by owner (R375). -/
def execWalkEnd (n : Nat) (s : State) : Out :=
  match s.walk? n with
  | none => .next s
  | some w =>
    if !w.started then .next s else
    let gone : State := State.touchWalk { s with walks := s.walks.filter (·.1 != n) } w.tenant w.va
    match s.walkTables w.tenant w.va with
    | .leaf ea log2 pa e =>
      let s := gone.markLeaf w.tenant ea pa e w.write
      .next (w.reqs.foldl (fun s r => s.walkDone (mkTlb w.tenant w.va log2 pa e w.write) r) s)
    | .bad d => .next (w.reqs.foldl (fun s r => s.walkFault w.tenant r d) gone).flushPosts
    | .poisoned =>
      match w.part with
      | some p => .next (gone.partitionReset p 0 0xFFFF)
      | none => .next gone
    | _ => .next (s.walkWaits w)

/-- Translation for an engine, a tier engine or another unit of the device (R241, R311). -/
inductive Xlated where
  | ok (pa : Nat) (s : State)
  /-- The page is tiered, moving or remote: the unit waits. -/
  | wait (s : State)
  | bad
  | poisoned
deriving DecidableEq, Repr

/-- Translate for engine e of a core. -/
def State.xlate (s : State) (core e : Nat) (t : Byte) (va : Nat) (write : Bool) : Xlated :=
  match s.tlbLookup core t va write with
  | some pa => .ok pa s
  | none =>
    match s.walkTables t va with
    | .leaf ea log2 pa en =>
      .ok (pa + va % 2 ^ log2) (((s.touchWalk t va).markLeaf t ea pa en write).fillBoth core (mkTlb t va log2 pa en write))
    | .bad _ => .bad
    | .poisoned => .poisoned
    | _ => .wait (s.addWalk (core / 16) t va write (.engine core e))

/-! ### TLB invalidation (R314) -/

/-- XINV's busy bit. -/
def State.xinvBusy (s : State) : Bool := bit (s.win! rXINVST) 0

/-- R314: a write of XINV: every matching entry drops, and BUSY is set; while BUSY is 1 the write stalls (none). -/
def State.xinv (s : State) (v : Word) : Option State :=
  if s.xinvBusy then none
  else
    let t : Byte := BitVec.ofNat 8 (fld v 44 8)
    let log2 := match fld v 52 2 with
      | 0 => 12
      | 1 => 16
      | 2 => 21
      | _ => 30
    let va := pageDown (fld v 0 44 * 4096) log2
    let s := s.dropTlb fun e => e.tenant == t && (bit v 54 || (decide (e.va < va + 2 ^ log2) && decide (va < e.va + 2 ^ e.log2)))
    some (s.setWinFld rXINVST 0 1 1)

/-- XINV (R314). -/
def execXinv (v : BitVec 64) (s : State) : Out := .next ((s.xinv v).getD s)

/-- The end of an invalidation (R314): BUSY clears. -/
def execXinvDone (s : State) : Out := .next (s.setWinFld rXINVST 0 1 0)

/-! ### The partner of a pair (R365) -/

/-- Something has arrived from the partner. -/
def State.heardNow (s : State) : State := ({ s with pair := { s.pair with heard := s.dtime } }).setWinFld rPAIRST 0 1 1

/-- Something has arrived from a device: it may be the partner that PAIRCTL.PDEV names. -/
def State.hear (s : State) (dev : Nat) : State :=
  let c := s.win! rPAIRCTL
  if bit c 10 && fld c 2 8 == dev then s.heardNow else s

/-! ### Post-copy migration (R315, R316) -/

/-- A frame run for a page of 2^log2 bytes on the free-frame stack: the first free frame, or for a large page the lowest aligned run
that is free (log entry 20). -/
def State.freeRun (s : State) (log2 : Nat) : Option Nat :=
  let fs := (List.range s.ffcnt).map fun i => s.physRead (s.ffAddr i) 4
  if log2 ≤ 16 then (if s.ffcnt = 0 then none else some s.topFrame)
  else
    let n := 2 ^ (log2 - 16)
    (fs.filter fun f => f % n == 0 && (List.range n).all fun i => fs.contains (f + i)).min?

/-- Take frames f .. f + n - 1 off the stack. -/
def State.takeFrames (s : State) (f n : Nat) : State :=
  let fs := ((List.range s.ffcnt).map fun i => s.physRead (s.ffAddr i) 4).filter fun x => !(decide (f ≤ x) && decide (x < f + n))
  let s := foldNat (fun s i => s.physWrite (s.ffAddr i) 4 (fs.getD i 0)) s 0 fs.length
  s.setWinFld rFFCNT 0 23 fs.length

/-- R315: with migration on and no REMOTE entry left, DONE becomes 1. -/
def State.migrationDone (s : State) (t : Byte) : State :=
  let c := s.win! (rMIGCTL t.toNat)
  if bit c 8 && !((s.entriesOf t).any fun x => x.2.2.2 % 16 == 6) then s.setWin (rMIGCTL t.toNat) (putFld c 9 1 1) else s

/-- A page of pull n takes frame f: its bytes, then its valid leaf; the tasks that have started find it in their instruction memory (R30,
R315). -/
def State.landPull (s : State) (n : Nat) (p : Pull) (page : List Byte) (f : Nat) : State :=
  let frames := 2 ^ (p.size - 16)
  let s := (s.takeFrames f frames).touchSpan (f * 65536) (2 ^ p.size) true
  let s : State := { s with
    pulls := s.pulls.filter (·.1 != n)
    mem := Memory.putBytes s.mem (f * 65536) (page.take (2 ^ p.size))
    poison := s.poison.filter fun l => !(decide (f * 1024 ≤ l) && decide (l < f * 1024 + 2 ^ p.size / 64)) }
  (((s.putEntry p.leaf (3 + f * 65536)).addFrames p.tenant frames true).migrationDone p.tenant).mapCode fun x =>
    { x with code := Memory.putBytes x.code (f * 65536) (page.take (2 ^ p.size)) }

/-- A page that has arrived goes to a free frame, or waits for one (R306, R315). -/
def State.placePull (s : State) (n : Nat) (p : Pull) (page : List Byte) : State :=
  let keep : State := { s with pulls := s.pulls.map fun x => if x.1 = n then (x.1, { x.2 with page := some page }) else x }
  match s.roomFor p.tenant (2 ^ (p.size - 16)) (2 ^ 26) (s.freeRun p.size).isSome, s.freeRun p.size with
  | .here, some f => s.landPull n p page f
  | .after v, _ => keep.moveFirst v
  | _, _ => keep

/-- PULL_RESPONSE (R315, R316): the source's answer to pull n: the page's bytes, or none when the source reports it gone. A page that waits for a
frame tries again. -/
def execPullResponse (n : Nat) (page : List (BitVec 8)) (s : State) : Out :=
  match s.pulls.find? (·.1 == n) with
  | none => .next s
  | some (_, p) =>
    match p.page with
    | some got => .next (s.placePull n p got)
    | none =>
      let s := s.hear (s.srcDev p.tenant)
      .next (if page.isEmpty then s.pullFails p else s.placePull n p page)

/-- PULL_TIMEOUT (R316): a pull unanswered for 2 ms fails. -/
def execPullTimeout (n : Nat) (s : State) : Out :=
  match s.pulls.find? (·.1 == n) with
  | some (_, p) => if p.page = none ∧ p.sent + 2000000 ≤ s.dtime then .next (s.pullFails p) else .next s
  | none => .next s

/-- BACKGROUND_PULL (R315): a tier engine pulls the next REMOTE page of tenant t: besides the pulls walks ask for, at most 8 at once by each of the
four engines. -/
def execBackgroundPull (t : BitVec 8) (s : State) : Out :=
  if !bit (s.win! (rMIGCTL t.toNat)) 8 || decide (32 ≤ (s.pulls.filter fun x => !x.2.demand).length) then .next s
  else
    match (s.entriesOf t).find? fun x => x.2.2.2 % 16 == 6 && !s.pulls.any (fun p => p.2.leaf == x.1) with
    | some (ea, lvl, va, e) => .next (s.addPull t ea (levelLog2 lvl) va (e % 2 ^ 52 / 4096 * 4096) false)
    | none => .next (s.migrationDone t)

/-- PULL_REQUEST (R315): another device asks for a page at pa of this one; the tier engine reads it at device scope and returns it,
or reports it gone when it does not lie in local memory. -/
def execPullRequest (dev : BitVec 8) (pa : BitVec 52) (sz : BitVec 2) (s : State) : Out :=
  let n := 2 ^ (match sz.toNat with
    | 0 => 12
    | 1 => 16
    | 2 => 21
    | _ => 30)
  let s := s.hear dev.toNat
  let data := if inLocal pa.toNat && inLocal (pa.toNat + n - 1) then some (s.physBytes pa.toNat n) else none
  .next { s with sent := .page dev pa.toNat data :: s.sent }

/-! ### Channels (R298, R301) -/

/-- SCRUB (R298): reading a line and writing it back changes no value. -/
def execScrub (_ch : BitVec 5) (s : State) : Out := .next s

/-- MECNT_READ (R301): the counts are returned and cleared as one act. -/
def execMecntRead (ch : BitVec 5) (s : State) : Out :=
  let r := rMECNT ch.toNat
  .next ({ s with bus := s.win! r }.setWin r 0)

/-- MELAST_CLEAR (R301): a write of 1 to VALID clears it. -/
def execMelastClear (ch : BitVec 5) (s : State) : Out := .next (s.setWinFld (rMELAST ch.toNat) 0 1 0)

/-- A line of memory is poisoned (R299). -/
def State.poisonLine (s : State) (line : Nat) : State := { s with poison := if s.poison.contains line then s.poison else line :: s.poison }

/-- A detected error that cannot be corrected in a line that an L1 data cache or an L2 slice holds poisons it (R300). -/
def State.cacheError (s : State) (line : Nat) : State :=
  if (s.caches.l2.any fun x => x.line == line && !x.spill) || s.caches.l1.any fun x => x.2.any fun y => y.line == line then s.poisonLine line else s

/-- One in a word of a core's stash poisons the word (R300). -/
def State.stashError (s : State) (k w : Nat) : State :=
  let c := s.coreOf k
  if w < 65536 ∧ !c.bad.contains w then s.setCore k { c with bad := w :: c.bad } else s

/-- A channel counts an error of a line (R301): each half saturates, and MELAST keeps the line of the last error. An error that cannot be
corrected poisons the line (R300). -/
def State.countError (s : State) (ch line : Nat) (uncorr : Bool) : State :=
  let c := s.win! (rMECNT ch)
  let lo := if uncorr then 32 else 0
  let s := s.setWin (rMECNT ch) (putFld c lo 32 (Nat.min 0xFFFFFFFF (fld c lo 32 + 1)))
  let s := s.setWin (rMELAST ch) (word (1 + b2n uncorr * 2 + line % 2 ^ 46 * 2 ^ 6))
  if uncorr then s.poisonLine line else s

end Sys2Proof.Machine
end

