-- ==== Sys2Proof/Machine/Partition.lean ====
section
/-! DEFINITION. Scheduling and partitions: starting and stealing tasks (R330 to R333), completion (R332), budgets (R335), slots
and partitions (R319, R320, R336), tenant switches (R202, R306, R337) and resizes (R338). -/

namespace Sys2Proof.Machine

def State.part (s : State) (p : Nat) : PartSt := SMap.read {} s.parts p
def State.setPart (s : State) (p : Nat) (x : PartSt) : State := { s with parts := SMap.write {} s.parts p x }

/-! ### Starting, stealing, averaging (R330 to R333) -/

/-- TASK_START (R330): a FREE context takes a task, or sends a steal request. -/
def execTaskStart (cid : BitVec 12) (s : State) : Out :=
  .next (s.takeWork cid.toNat)

/-- A victim accepts a steal: its deque holds an entry and no running task of the core has issued STEALOFF (R331). -/
def State.yieldsTo (s : State) (v : Nat) : Bool :=
  !(s.coreOf v).deque.isEmpty && !((coreCids v).any fun cid => (s.ctxOf cid).sched.stealOff)

/-- STEAL_REQUEST (R331): the steal request of core c of gathering g reaches its next victim, which gives its oldest entry or refuses;
after a full round the core waits 256 clocks. -/
def execStealRequest (g : BitVec 6) (c : BitVec 4) (s : State) : Out :=
  let k := g.toNat * 16 + c.toNat
  let x := s.coreOf k
  match x.steal with
  | none => .next s
  | some st =>
    let cid := mkCid g.toNat c.toNat st.slot.toNat
    match st.victims with
    | [] => .next (s.setCore k { x with steal := none, stealAt := s.clk + 256 })
    | v :: rest =>
      if s.yieldsTo v then
        let vx := s.coreOf v
        match vx.deque with
        | q :: more =>
          let s := s.setCore v { vx with deque := more }
          let s := s.setCore k { s.coreOf k with steal := none }
          .next (if (s.freeFor cid).isSome then s.startTask cid q else s.queueTask k q)
        | [] => .next s
      else if rest.isEmpty then .next (s.setCore k { x with steal := none, stealAt := s.clk + 256 })
      else .next (s.setCore k { x with steal := some { st with victims := rest } })

/-- STEAL_ROUND_WAIT (R331): 256 clocks after a round without work, the core's first FREE context looks for work again. -/
def execStealRoundWait (g : BitVec 6) (c : BitVec 4) (s : State) : Out :=
  let k := g.toNat * 16 + c.toNat
  let x := s.coreOf k
  if x.steal.isSome || decide (s.clk < x.stealAt) then .next s
  else match (coreCids k).find? fun cid => (s.freeFor cid).isSome with
    | some cid => .next (s.takeWork cid)
    | none => .next s

/-- The compute cores of a gathering. -/
def gathCores (g : Nat) : List Nat := (List.range 8).map (g * 16 + ·)

/-- The deque entries of a gathering not yet started (R333). -/
def State.queuedIn (s : State) (g : Nat) : Nat := (gathCores g).foldl (fun n k => n + (s.coreOf k).deque.length) 0

/-- The core of a list whose deque is shortest; the first among equals. -/
def State.emptiest (s : State) (ks : List Nat) : Nat :=
  let n := fun k => (s.coreOf k).deque.length
  ks.foldl (fun best k => if n k < n best then k else best) (ks.headD 0)

/-- The deque entry of a list of cores that was pushed first, with its core; the first among equals. -/
def State.oldestEntry (s : State) (ks : List Nat) : Option (Nat × Queued) :=
  (ks.flatMap fun k => (s.coreOf k).deque.map fun q => (k, q)).foldl (fun best x => match best with
    | some y => if x.2.age < y.2.age then some x else some y
    | none => some x) none

/-- Move up to n of the oldest entries of gathering a to the cores of gathering b, emptiest deque first, while there is room (R333). -/
def State.moveEntries (a b : Nat) : Nat → State → State
  | 0, s => s
  | n + 1, s =>
    let to' := s.emptiest (gathCores b)
    match s.oldestEntry (gathCores a) with
    | none => s
    | some (k, q) =>
      if 64 ≤ (s.coreOf to').deque.length then s
      else
        let s := s.setCore k { s.coreOf k with deque := (s.coreOf k).deque.erase q }
        State.moveEntries a b n (s.setCore to' { s.coreOf to' with deque := (s.coreOf to').deque ++ [q] })

/-- LOAD_AVERAGE (R333): every LAVG µs the kernel core of gathering g compares its count with its neighbours' and gives entries away. -/
def execLoadAverage (g : BitVec 6) (s : State) : Out :=
  let n := g.toNat
  let lavg := fld (s.win! rLAVG) 0 16
  let x := s.gathSt n
  if lavg = 0 ∨ s.dtime < x.lavgAt + 1000 * lavg then .next s
  else match s.partOf n with
    | none => .next s
    | some p =>
      let s := s.setGath n { x with lavgAt := s.dtime }
      let hp := hpOf n
      let q := s.queuedIn n
      let near := (if hp = s.pbase p then [] else [hp - 1]) ++ (if hp + 1 < s.pbase p + s.plen p then [hp + 1] else [])
      let moves := near.map fun h => (gathAt h, (q - s.queuedIn (gathAt h)))
      .next (moves.foldl (fun s m => if 3 ≤ m.2 then State.moveEntries n m.1 (m.2 / 3) s else s) s)

/-- LAUNCH_COMPLETE (R332): launch n is complete: its mappings end, its grants return, its completion record is written. -/
def execLaunchComplete (n : Nat) (s : State) : Out :=
  match s.launch? n with
  | some l => .next (if s.isComplete l then s.completeLaunch l else s)
  | none => .next s

/-! ### Budgets (R335) -/

/-- BUDGET_EXHAUSTED (R335, R354): a context whose BUDGET is 0 is exhausted. -/
def execBudgetExhausted (cid : BitVec 12) (s : State) : Out :=
  let c := s.ctxOf cid.toNat
  if c.ctl.budget = 0 ∧ c.sched.task.isSome ∧ !isKernel cid.toNat then .next (s.exhaust cid.toNat) else .next s

/-- Charge (R335): one issue clock of a context. -/
def State.charge (s : State) (cid : Nat) : State :=
  let c := s.ctxOf cid
  if c.ctl.budget = 0xFFFFFFFF ∨ c.ctl.budget = 0 then s
  else
    let s := s.setCtl cid { c.ctl with budget := c.ctl.budget - 1 }
    if c.ctl.budget = 1 then s.exhaust cid else s

/-! ### Slots and partitions (R319, R320, R336) -/

/-- R336: a slot passes from one tenant to another: live state is saved with the capabilities it holds, and state saved for the new tenant
comes back, where a parked load looks at its ring again when the tenant runs (R177). -/
def State.reassign (s : State) (cid : Nat) (old new : Option Byte) : State :=
  if old = new then s else
  let s := s.detach cid
  let s := match old with
    | some t => s.parkCtx t cid
    | none => s.setCtx cid {}
  match new with
  | some t =>
    let s := s.unparkCtx t cid
    if s.switchedOut cid then s else s.resumeCtx cid
  | none => s

/-- SLOTMAP written (R320, R336). A handler slot that passes to another tenant, or to none, loses its handler entries (R197; log entry 65). -/
def State.writeSlotmap (s : State) (g c : Nat) (v : Word) : State :=
  let cids := (List.range 4).map (mkCid g c)
  let olds := cids.map s.slotTenant
  let s1 := s.setWin (rSLOTMAP g c) (v &&& 0xFFFFFFFFF)
  let s1 := (cids.zip olds).foldl (fun s x => s.reassign x.1 x.2 (s.slotTenant x.1)) s1
  let k := g * 16 + c
  let h := mkCid g c (s.coreOf k).htSlot.toNat
  if s.slotTenant h = s1.slotTenant h then s1 else s1.setCore k { s1.coreOf k with handlers := [] }

/-- SLOTMAP_WRITE (R336). -/
def execSlotmapWrite (g : BitVec 6) (c : BitVec 3) (v : BitVec 64) (s : State) : Out :=
  .next (s.writeSlotmap g.toNat c.toNat v)

/-- PCFG written (R320): ignored while a tenant runs in the partition; a partition that becomes valid has no tenant running (log
entry 9). -/
def State.writePcfg (s : State) (p : Nat) (v : Word) : State :=
  if (s.running p).isSome then s
  else
    let was := s.pvalid p
    let s := s.setWin (rPCFG p) (v &&& 0x8000000000007F3F)
    if s.pvalid p && !was then s.setWinFld (rPSTAT p) 0 9 0x100 else s

/-- PCFG_WRITE (R320). -/
def execPcfgWrite (p : BitVec 6) (v : BitVec 64) (s : State) : Out :=
  .next (s.writePcfg p.toNat v)

/-- PREQ written (R320): with SW or RSZ the request is pending; a new write replaces a pending request, and one that asks for nothing lets the
members that are held go on. -/
def State.writePreq (s : State) (p : Nat) (v : Word) : State :=
  let x := s.part p
  let asks := bit v 8 || bit v 9
  (s.setWin (rPREQ p) (putFld (v &&& 0x7F3F03FF) 63 1 (b2n asks))).setPart p
    { x with reqAt := s.dtime, resized := false, held := x.held && asks, stopped := x.stopped && asks }

/-- SWITCH_REQUEST (R320): PREQ written with SW. -/
def execSwitchRequest (p : BitVec 6) (v : BitVec 64) (s : State) : Out :=
  .next (s.writePreq p.toNat (putFld v 8 1 1))

/-- RESIZE_REQUEST (R320, R338): PREQ written with RSZ. -/
def execResizeRequest (p : BitVec 6) (v : BitVec 64) (s : State) : Out :=
  .next (s.writePreq p.toNat (putFld v 9 1 1))

/-! ### Switches (R202, R306, R337) -/

/-- The tenants that may be scheduled in partition p, in increasing number after t, wrapping round (R337). -/
def State.candidates (s : State) (p : Nat) (t : Byte) : List Byte :=
  ((List.range 255).map fun i => (t + BitVec.ofNat 8 (i + 1) : Byte)).filter fun u =>
    let r := s.win! (rTSLICE u.toNat)
    bit r 40 && fld r 32 6 == p

/-- SLICE_EXPIRY (R337): the running tenant has had its slice and another is enabled: the service requests a switch to the next. -/
def execSliceExpiry (p : BitVec 6) (s : State) : Out :=
  let n := p.toNat
  match s.running n with
  | none => .next s
  | some t =>
    let len := fld (s.win! (rTSLICE t.toNat)) 0 32
    if len = 0 ∨ s.pending n ∨ (s.part n).swIn.isSome ∨ s.dtime < (s.part n).runAt + len then .next s
    else match s.candidates n t with
      | u :: _ => .next (s.writePreq n (word (u.toNat + 0x100)))
      | [] => .next s

/-- R202: messages of the tenant's contexts, and steal requests of the partition's cores, that are in flight. -/
def State.inFlight (s : State) (p : Nat) (t : Byte) : Nat :=
  (s.flights.filter fun x => x.2.src.isSome && x.2.part == p && x.2.tenant == t &&
      (match x.2.answer with
       | .backoff _ => false
       | _ => true)).length
    + ((s.gathsOf p).flatMap gathCores |>.filter fun k => (s.coreOf k).steal.isSome).length

/-- R243: every engine command of the tenant on the partition's cores has completed, but for tree commands held at a slice; and every request
of a special-function unit has returned (R210, R229). -/
def State.drained (s : State) (p : Nat) (t : Byte) : Bool :=
  (((s.gathsOf p).flatMap gathCores).all fun k => (s.coreOf k).eng.all fun e =>
      e.2.queue.all (·.tenant != t) && e.2.done.all (·.cmd.tenant != t))
    && (s.treeQ.all fun x => x.2.cmd.tenant != t || x.2.held || s.partOf (x.2.core / 16) != some p)
    && (s.gathsOf p).all fun g => (s.gathSt g).sfu0.all (·.tenant != t) && (s.gathSt g).sfu1.all (·.tenant != t)

/-- R202: how far a pending request of partition p has come: it waits for a boundary or for messages, issue stops now, commands
drain, or it is carried out. With no tenant running there is nothing to wait for (log entry 22). -/
inductive ReqSt where
  | waits
  | stops
  | ready
deriving DecidableEq, Repr

/-- A tenant of which no context of a partition holds a task is held by a resynchronisation as it is (R364; log entry 22). -/
def State.pairIdle (s : State) (p : Nat) : Bool := s.pairHolds p && (s.cidsOf p).all fun cid => (s.ctxOf cid).sched.task.isNone

/-- The state of partition p's request. -/
def State.reqSt (s : State) (p : Nat) : ReqSt :=
  let x := s.part p
  if !s.pending p || x.swIn.isSome || !s.pvalid p then .waits
  else match s.running p with
    | none => .ready
    | some t =>
      if !x.held && !s.pairIdle p then .waits
      else if !x.stopped then (if s.inFlight p t = 0 then .stops else .waits)
      else if s.drained p t then .ready
      else .waits

/-- The recorded granules of tenant t: its current buffer (R305). -/
def State.record (s : State) (t : Byte) : List Nat :=
  let c := s.win! (rWSRCTL t.toNat)
  let base := fld (s.win! (rWSRBASE t.toNat)) 2 50 * 4 + (if s.wsrBuf.contains t then 4 * fld c 0 26 else 0)
  (List.range (fld c 32 26)).map fun i => s.physRead (base + 4 * i) 4

/-- R166: the dirty lines of core k's mappings are written back, its lines leave the directory, and its stash and deque are saved for the
outgoing tenant. -/
def State.saveCore (s : State) (k : Nat) (t : Byte) : State :=
  let maps := (s.coreOf k).maps
  let s := maps.foldl (fun s m => s.writeBack k m) s
  let s := maps.foldl (fun s m => State.unregister (s.setMaps k []) k m) s
  let c := s.coreOf k
  let x : StashSave := { tenant := t, core := k, stash := c.stash, maps := maps.map fun m => { m with dirty := [] }, deque := c.deque, bad := c.bad }
  State.setCore { s with stashes := s.stashes.filter (fun y => !(y.tenant == t && y.core == k)) ++ [x] } k
    { c with stash := [], maps := [], deque := [], bad := [], tlb := c.tlb.filter (·.tenant != t) }

/-- R166: what core k saved for the incoming tenant comes back: the lines of a writable mapping are the core's again, and those of a read-only
mapping are not filled. -/
def State.loadCore (s : State) (k : Nat) (t : Byte) : State :=
  match s.stashes.find? fun x => x.tenant == t && x.core == k with
  | none => s
  | some x =>
    let maps := x.maps.map fun (m : Mapping) => { m with filled := if m.writable then m.filled else [] }
    let s : State := { s with stashes := s.stashes.filter fun y => !(y.tenant == t && y.core == k) }
    let s := s.setCore k { s.coreOf k with stash := x.stash, maps := maps, deque := x.deque, bad := x.bad }
    maps.foldl (fun s m => m.filled.foldl (fun s line => s.touchFill k (m.paOf (line * 64) / 64) m) s) s

/-- R166, R329: core k passes from one tenant to another. -/
def State.swapCore (s : State) (k : Nat) (out' in' : Option Byte) : State :=
  let s := match out' with
    | some t => s.saveCore k t
    | none => s
  match in' with
  | some t => s.loadCore k t
  | none => s

/-- The other record buffer of a tenant becomes its current one (R305). -/
def State.flipBuf (s : State) (t : Byte) : State :=
  { s with wsrBuf := if s.wsrBuf.contains t then s.wsrBuf.filter (· != t) else t :: s.wsrBuf }

/-- Up-moves of granules, in order, as background moves. -/
def upMoves (gs : List Nat) : List Move := gs.map fun g => { gran := g, up := true, demand := false }

/-- The queue without the background moves of these granules. -/
def State.unqueue (s : State) (gs : List Nat) : State := { s with moves := s.moves.filter fun m => m.demand || m.leaf.isSome || !gs.contains m.gran }

/-- R306 steps 3 to 5: tenant t comes in: its record is read, the other buffer starts, the moves of its record are queued. -/
def State.switchIn (s : State) (p : Nat) (t : Byte) : State :=
  let rec' := s.record t
  let was := s.win! (rWSRCTL t.toNat)
  let s := rec'.foldl (fun s g => s.setTier g (tput (s.tierEnt g) 4 1 0)) s
  let s := (s.flipBuf t).setWin (rWSRCTL t.toNat) (putFld (putFld was 32 26 0) 63 1 0)
  let resd := (rec'.filter fun g => tRes (s.tierEnt g)).length
  let todo := rec'.filter fun g => !tRes (s.tierEnt g)
  let thr := Nat.min 256 (fld (s.win! (rRESTHR t.toNat)) 0 9)
  let s : State := { s with moves := s.moves ++ upMoves todo }
  let s := s.setPart p { s.part p with swIn := some t, recIn := rec', wsrWas := was, restoring := false }
  s.readyUp t (word (rec'.length + resd * 2 ^ 32 + b2n (decide (thr * rec'.length ≤ 256 * resd)) * 2 ^ 63))

/-- The switch itself (R166, R306, R329, R337): out' leaves and t comes in. -/
def State.switch (s : State) (p : Nat) (out' : Option Byte) (t : Byte) : State :=
  let s := match out' with
    | some o => s.dropTlb fun e => e.tenant == o
    | none => s
  let x := s.part p
  let s := s.setPart p { x with swOut := out', held := false, stopped := false, skipped := [], recOut := (out'.map s.record).getD [] }
  let s := ((s.gathsOf p).flatMap gathCores).foldl (fun s k => s.swapCore k out' (some t)) s
  s.switchIn p t

/-- R337: the incoming tenant t of partition p is STUCK and skipped. It ran no slice, so its record stays the buffer it was (R305); the outgoing
tenant's granules come back before anything else. -/
def State.skipStuck (s : State) (p : Nat) (t : Byte) : State :=
  let x := s.part p
  let s := s.setWinFld (rPSTAT p) 16 16 (Nat.min 0xFFFF (fld (s.win! (rPSTAT p)) 16 16 + 1))
  let s := ((s.gathsOf p).flatMap gathCores).foldl (fun s k => s.swapCore k (some t) none) s
  let r := s.win! (rWSRCTL t.toNat)
  let s := (s.flipBuf t).setWin (rWSRCTL t.toNat) (putFld (putFld r 32 26 (fld x.wsrWas 32 26)) 63 1 (fld x.wsrWas 63 1))
  let s := s.unqueue x.recIn
  let s : State := { s with moves := s.moves ++ upMoves (x.recOut.filter fun g => !tRes (s.tierEnt g)) }
  s.setPart p { x with swIn := x.swOut.or (some t), recIn := x.recOut, recOut := x.recIn, skipped := t :: x.skipped, restoring := true }

/-- The outgoing tenant's residency is restored as far as frames allow. -/
def State.restored (s : State) (p : Nat) : Bool := !(s.moves.any fun m => m.up && (s.part p).recIn.contains m.gran && !s.blocked m)

/-- After a skip the next candidate comes in, or with none left the outgoing tenant resumes (R337). -/
def State.afterSkip (s : State) (p : Nat) : State :=
  let x := s.part p
  let s := s.unqueue x.recIn
  let cores := (s.gathsOf p).flatMap gathCores
  match (s.candidates p (x.swOut.getD (x.skipped.headD 0))).find? fun u => !x.skipped.contains u && some u != x.swOut with
  | some u => State.switchIn ((cores.foldl (fun s k => s.swapCore k none (some u)) s).setPart p { x with recOut := x.recIn }) p u
  | none =>
    let s := (cores.foldl (fun s k => s.swapCore k none x.swOut) s).setPart p
      { x with swIn := none, swOut := none, recOut := [], restoring := false, skipped := [], runAt := s.dtime }
    match x.swOut with
    | some o => s.resumeTenant p o
    | none => s

/-- TENANT_SWITCH (R202, R306, R337): the request of partition p goes on: issue stops in the clock the in-flight count is seen at
zero; once the commands have drained the tenants change, and PEND clears. An incoming tenant that is STUCK is skipped. -/
def execTenantSwitch (p : BitVec 6) (s : State) : Out :=
  let n := p.toNat
  let x := s.part n
  match x.swIn with
  | some t =>
    if x.restoring then .next (if s.restored n then s.afterSkip n else s)
    else .next (if bit (s.win! (rTSTAT t.toNat)) 62 then s.skipStuck n t else s)
  | none =>
    let r := s.win! (rPREQ n)
    match s.reqSt n with
    | .waits => .next s
    | .stops => .next (s.setPart n { x with held := true, stopped := true })
    | .ready =>
      if (bit r 9 && !x.resized) || !bit r 8 then .next s
      else
        let late := Nat.min 0xFFFFFFFF ((s.dtime - x.reqAt) / 1000)
        let s := (s.setWinFld (rPSTAT n) 32 32 late).setWin (rPREQ n) (putFld r 63 1 0)
        .next (s.switch n (s.running n) (BitVec.ofNat 8 (fld r 0 8)))

/-! ### Resize (R338) -/

/-- Tasks of a deterministic launch that have not ended and are placed on gathering positions p picks (R328, R338). -/
def Launch.placedOn (l : Launch) (p : Nat → Bool) : Bool :=
  (List.range l.graph.ntask.toNat).any fun i => !l.ended.contains i && p (l.pbase + i % (8 * l.plen) / 8)

/-- R338, R393: a deterministic launch is aborted with RESIZE: each of its contexts is suspended with a record, the launch is
discarded, and one handler packet is written. The contexts stay suspended until the service aborts them; one whose state is saved off its slot
goes at once (log entry 66). -/
def State.abortResize (s : State) (l : Launch) : State :=
  let s := (s.holdersOf l.id).foldl (fun s cid => s.suspend cid cRESIZE 0 0 0 akNone) s
  let s := (s.savedOf l.id).foldl (fun s x => s.onOwner x.tenant x.cid fun s => s.discardCtx x.cid) s
  (s.dropRest l).reportLaunch l cRESIZE 0 0 0xFFFF

/-- R338 step 2: a stealing-mode task is discarded with its state, its mappings end without write-back, and its record is queued
again. -/
def State.requeue (s : State) (cid : Nat) : State :=
  match (s.ctxOf cid).sched.task with
  | none => s.discardCtx cid
  | some b =>
    let t := s.tenantOf cid
    let s := s.endMappings (fun m => m.owner == cid && m.tenant == t) false
    let s := s.discardWork fun c u _ => c == cid && u == t
    let s := s.discardCtx cid
    match s.launch? b.launch with
    | some l => s.setLaunch { l with
        started := match b.index with
          | some i => l.started.filter (· != i)
          | none => l.started
        ring := l.ring ++ [{ launch := l.id, index := b.index, trec := b.trec }] }
    | none => s

/-- R338 step 3: the deque of a core goes to the ready rings of its entries' launches; the deques saved for tenants that are switched out too. -/
def State.dequeToRings (s : State) (k : Nat) : State :=
  let d := (s.coreOf k).deque ++ (s.stashes.filter fun x => x.core == k).flatMap (·.deque)
  let s : State := { s with stashes := s.stashes.map fun x => if x.core = k then { x with deque := [] } else x }
  d.foldl (fun s q => match s.launch? q.launch with
    | some l => s.setLaunch { l with ring := l.ring ++ [q] }
    | none => s) (s.setCore k { s.coreOf k with deque := [] })

/-- R338: the resize of partition p to positions nb .. nb + nl - 1. -/
def State.resize (s : State) (p nb nl : Nat) : State :=
  let leaves := fun hp => !(decide (nb ≤ hp) && decide (hp < nb + nl))
  let gone := (s.gathsOf p).filter fun g => leaves (hpOf g)
  let s := (s.launches.filter fun l => l.part == p && l.packet.det && l.placedOn leaves).foldl (fun s l => s.abortResize l) s
  let s := (gone.flatMap gathCids).foldl (fun s cid =>
    let x := (s.ctxOf cid).sched
    if (x.task.isSome || x.handler.isSome) && x.susp.map (·.code) != some cRESIZE then s.requeue cid else s) s
  let s := (s.slots.filter fun x => gone.contains (gathOf x.cid) && (x.ctx.sched.task.isSome || x.ctx.sched.handler.isSome)).foldl
    (fun s x => s.onOwner x.tenant x.cid fun s => s.requeue x.cid) s
  let s := (gone.flatMap gathCores).foldl (fun s k => s.dequeToRings k) s
  let s := s.setWin (rPCFG p) (putFld (putFld (s.win! (rPCFG p)) 0 6 nb) 8 7 nl)
  match s.running p with
  | some t => s.dropTlb fun e => e.tenant == t
  | none => s

/-- The interval of a resize is possible (R338). -/
def State.resizeOk (s : State) (p nb nl : Nat) : Bool :=
  decide (nb + nl ≤ 64) && (List.range 64).all fun q =>
    q == p || !s.pvalid q || decide (s.pbase q + s.plen q ≤ nb) || decide (nb + nl ≤ s.pbase q)

/-- PARTITION_RESIZE (R202, R338): the request of partition p goes on as a switch does; an impossible one is dropped. -/
def execPartitionResize (p : BitVec 6) (s : State) : Out :=
  let n := p.toNat
  let x := s.part n
  let r := s.win! (rPREQ n)
  match s.reqSt n with
  | .waits => .next s
  | .stops => .next (s.setPart n { x with held := true, stopped := true })
  | .ready =>
    if !bit r 9 || x.resized then .next s
    else
      let nb := fld r 16 6
      let nl := fld r 24 7
      let more := bit r 8
      let s := s.setWin (rPREQ n) (putFld r 63 1 (b2n more))
      let s := if s.resizeOk n nb nl then s.resize n nb nl else s
      .next (s.setPart n { s.part n with resized := more, held := (s.part n).held && more, stopped := (s.part n).stopped && more })

end Sys2Proof.Machine
end

