-- ==== Sys2Proof/Machine/Slots.lean ====
section
/-! DEFINITION. The registers of the cycle domains and of the launch table (R341, R342, R351), when an instant of a slot is due and whether its
tenant runs (R353, R364): what the launch unit and the cycle engine both look at. -/

namespace Sys2Proof.Machine

def State.dom (s : State) (d : Nat) : Dom := SMap.read {} s.doms d
def State.setDom (s : State) (d : Nat) (x : Dom) : State := { s with doms := SMap.write {} s.doms d x }

/-! ### Domains (R341, R342) -/

def State.cdLen (s : State) (d : Nat) : Nat := fld (s.win! (rCDLEN d)) 0 30
def State.cdT0 (s : State) (d : Nat) : Nat := (s.win! (rCDT0 d)).toNat
def State.cdBase (s : State) (d : Nat) : Nat := (s.win! (rCDBASE d)).toNat
def State.cdLatch (s : State) (d : Nat) : Nat := fld (s.win! (rCDOFS d)) 0 30
def State.cdEgoff (s : State) (d : Nat) : Nat := fld (s.win! (rCDOFS d)) 32 30
def State.imgLen (s : State) (d : Nat) : Nat := fld (s.win! (rCDIMG d)) 32 12 * 4096
def State.isPair (s : State) (d : Nat) : Bool := bit (s.win! (rCDCTL d)) 1

/-- T(n) (R342). -/
def State.cycleAt (s : State) (d n : Nat) : Nat := s.cdT0 d + (n - s.cdBase d) * s.cdLen d

/-! ### The launch table (R351) -/

def State.slotValid (s : State) (d x : Nat) : Bool := bit (s.win! (rSLOTA d x)) 32
def State.slotOffset (s : State) (d x : Nat) : Nat := fld (s.win! (rSLOTA d x)) 0 30
def State.slotRule (s : State) (d x : Nat) : BitVec 2 := BitVec.ofNat 2 (fld (s.win! (rSLOTA d x)) 30 2)
def State.slotPart (s : State) (d x : Nat) : Nat := fld (s.win! (rSLOTA d x)) 40 6
def State.slotOwner (s : State) (d x : Nat) : Byte := BitVec.ofNat 8 (fld (s.win! (rSLOTA d x)) 48 8)
def State.slotPkt (s : State) (d x : Nat) : Nat := fld (s.win! (rSLOTB d x)) 6 50 * 64
def State.inst (s : State) (d x : Nat) : SlotInst := SMap.read {} s.slotI (256 * d + x)
def State.setInst (s : State) (d x : Nat) (i : SlotInst) : State := { s with slotI := SMap.write {} s.slotI (256 * d + x) i }

/-- The next instant of a slot (R353). -/
def State.nextInstant (s : State) (d x : Nat) : Nat :=
  s.cycleAt d (s.cdBase d + (s.inst d x).instants) + s.slotOffset d x

/-- The slot is valid in a running domain and its instant has come. -/
def State.instantCome (s : State) (d x : Nat) : Bool :=
  (s.dom d).en && s.slotValid d x && decide (s.nextInstant d x ≤ s.dtime)

/-- A slot's instant is due: the cycle has started, and no slot before it in the table waits for an earlier or the same instant. -/
def State.slotDue (s : State) (d x : Nat) : Bool :=
  let t := s.nextInstant d x
  let c := s.dom d
  s.instantCome d x && c.ever && decide (s.cdBase d + (s.inst d x).instants ≤ c.cyc.toNat)
    && (c.cyc != word (s.cdBase d) - 1)
    && (List.range 256).all fun y => y == x || !s.slotValid d y ||
        decide (t < s.nextInstant d y) || (decide (t = s.nextInstant d y) && decide (x < y))

/-- R364: a resynchronisation keeps a domain's output tenant from launching: on the preferred package from its hold, on the other from the
request, until the restart cycle. -/
def State.pairMisses (s : State) (d x : Nat) : Bool :=
  s.pair.holding.contains d && s.slotOwner d x == s.cdTenant d && (!s.preferred || (s.part (s.slotPart d x)).held)

/-- A slot's tenant runs in its partition, and no resynchronisation holds it (R353, R364). -/
def State.slotRuns (s : State) (d x : Nat) : Bool := s.mayIssue (s.slotPart d x) (s.slotOwner d x) && !s.pairMisses d x

/-- A deferred instance whose turn has come (R354). -/
def State.deferredDue (s : State) (d x : Nat) : Bool := (s.inst d x).deferred && (s.inst d x).launch.isNone && s.slotRuns d x

/-- A launch-table launch of partition p waits to be made: it goes ahead of every queued host launch (R321). -/
def State.slotFirst (s : State) (p : Nat) : Bool :=
  (List.range 8).any fun d => (List.range 256).any fun x => s.slotPart d x == p && (s.instantCome d x || s.deferredDue d x)

end Sys2Proof.Machine
end

