-- ==== Sys2Proof/Machine/Isolation.lean ====
section
/-! DEFINITION. Faults and isolation: resolving fault records (R370), gate invalidation (R386), kernel-core resets (R377), launch
queues (R378 to R382, R405) and Function Level Reset (R390). -/

namespace Sys2Proof.Machine

/-! ### Fault records (R370) -/

/-- A record is pending for a context (R371). -/
def State.kfPending (s : State) (cid : Nat) : Bool := bit (s.win! (rKFPEND (gathOf cid))) (cid % 64)

/-- The pending bit of a context clears. -/
def State.kfClear (s : State) (cid : Nat) : State := s.setWinFld (rKFPEND (gathOf cid)) (cid % 64) 1 0

/-- R370: a context without a graph: a kernel-core context stays stopped (log entry 23), a FREE one is as after its handler, and a
context whose launch is gone (R393) is discarded. -/
def State.dropRecord (s : State) (cid : Nat) : State :=
  if isKernel cid then s.setSched cid { (s.ctxOf cid).sched with susp := none, halted := true }
  else match (s.ctxOf cid).sched.handler with
    | some h => if h.free then (s.setSched cid { (s.ctxOf cid).sched with susp := none }).endHandler cid else s.discardCtx cid
    | none => s.discardCtx cid

/-- RETRY (R370): the context resumes at FPC with RI = REPI. -/
def State.kRetry (s : State) (cid : Nat) : State :=
  let s := s.kfClear cid
  let c := s.ctxOf cid
  match c.sched.susp with
  | none => s
  | some r => s.setCtx cid { c with
      regs := { c.regs with pc := r.fpc, ri := BitVec.ofNat 6 r.repi.toNat, rep := none }
      sched := { c.sched with susp := none, readyAt := s.clk } }

/-- ABORT (R370): the context's graph is terminated with the record's code and value. -/
def State.kAbort (s : State) (cid : Nat) : State :=
  let c := s.ctxOf cid
  let s := s.kfClear cid
  match c.sched.susp with
  | none => s
  | some r =>
    match s.launchOf cid with
    | some n => match s.launch? n with
      | some l => s.killLaunch l r.code 0 r.fval cid
      | none => s.dropRecord cid
    | none => s.dropRecord cid

/-- KILL (R370): the context's tenant is terminated; of a handler on a FREE context, the tenant that owns the slot. -/
def State.kKill (s : State) (cid : Nat) : State :=
  let c := s.ctxOf cid
  let s := s.kfClear cid
  match c.sched.susp with
  | none => s
  | some r =>
    if isKernel cid then s.dropRecord cid
    else s.killTenant (s.tenantOf cid) r.code 0 r.fval cid true

/-- KRESUME_RETRY (R370): a write of KRESUME; without a pending bit it has no effect. -/
def execKresumeRetry (cid : BitVec 12) (s : State) : Out :=
  .next (if s.kfPending cid.toNat then s.kRetry cid.toNat else s)

/-- KRESUME_ABORT (R370, R372, R374). -/
def execKresumeAbort (cid : BitVec 12) (s : State) : Out :=
  .next (if s.kfPending cid.toNat then s.kAbort cid.toNat else s)

/-- KRESUME_KILL (R370, R372). -/
def execKresumeKill (cid : BitVec 12) (s : State) : Out :=
  .next (if s.kfPending cid.toNat then s.kKill cid.toNat else s)

/-- A write of KRESUME through the window of die d (R371): it names a context of that die. -/
def State.writeKresume (s : State) (v : Word) : State :=
  let cid := fld v 0 12
  if !s.kfPending cid then s
  else match fld v 12 2 with
    | 0 => s.kRetry cid
    | 1 => s.kAbort cid
    | 2 => s.kKill cid
    | _ => s

/-! ### Gate invalidation (R385, R386) -/

/-- The keys of the regions that the partitions' tables list. -/
def State.listedKeys (s : State) : List Nat := (List.range 64).flatMap fun p => (s.regionTable p).map s.regionKey

/-- An 8-byte word lies in an ATOMIC region that some table lists. -/
def State.atomicWord (s : State) (x : Nat) : Bool := (s.regionAt (8 * x)).any fun r => r.1.kind == kATOMIC

/-- What belongs to a region goes with it: a region made later at its base starts anew (R170, R180; log entry 64). Input images stay (R344). -/
def State.forget (s : State) : State :=
  let keep := fun (k : Nat) => decide (2 ^ 70 ≤ k) || s.listedKeys.contains k
  { s with
    rings := s.rings.filter fun x => keep x.1
    holders := s.holders.filter fun x => keep x.1
    seqs := s.seqs.filter fun x => s.atomicWord x.1 }

/-- R386: a write of GINV on die d: matching cached entries drop and BUSY is set; while BUSY is 1 the write stalls (none). With the region
entries, what belonged to regions that are no longer listed goes. -/
def State.ginv (s : State) (d : Nat) (v : Word) : Option State :=
  if bit (s.win! (rGINVST d)) 0 then none
  else
    let t : Byte := BitVec.ofNat 8 (fld v 0 8)
    let all := bit v 8
    let cores := s.cores.map fun (kc : Nat × Core) =>
      if dieOfG (kc.1 / 16) = d then
        (kc.1, { kc.2 with
          gateR := if bit v 9 then kc.2.gateR.filter (fun r => !(all || r.tenant == t)) else kc.2.gateR
          gateC := if bit v 10 then kc.2.gateC.filter (fun r => !(all || r.tenant == t)) else kc.2.gateC })
      else kc
    let s : State := { s with cores := cores }
    some ((if bit v 9 then s.forget else s).setWinFld (rGINVST d) 0 1 1)

/-- GINV (R386). -/
def execGinv (die : BitVec 2) (v : BitVec 64) (s : State) : Out :=
  .next ((s.ginv die.toNat v).getD s)

/-- GINV_DONE (R386): BUSY clears. -/
def execGinvDone (die : BitVec 2) (s : State) : Out :=
  .next (s.setWinFld (rGINVST die.toNat) 0 1 0)

/-- KERNEL_CORE_RESET (R371, R377): KCRST written by a hart in M mode. -/
def execKernelCoreReset (g : BitVec 6) (s : State) : Out :=
  .next (s.kernelReset g.toNat)

/-! ### Launch queues (R378 to R382) -/

/-- va is the base of a QUEUE region of tenant t that holds 2^n entries (R378, R379). -/
def State.queueFits (s : State) (t : Byte) (va n : Nat) : Bool :=
  (List.range 64).any fun p => match s.ownRegion p t va with
    | some r => r.kind == kQUEUE && r.base == va && decide (va + 64 + 64 * 2 ^ n ≤ r.base + r.len)
    | none => false

/-- Another enabled queue of the tenant uses the region at va (R379): a queue lies at its region's base. -/
def State.queueUsed (s : State) (q : Nat) (t : Byte) (va : Nat) : Bool :=
  (List.range 1024).any fun r => r != q && s.lqEn r && s.lqTenant r == t && (s.lqBase r == va || s.lqErr r == va)

/-- LQCFG written (R379, R380): EN = 1 is ignored when the queue cannot be enabled; the write that sets EN again clears STOP. -/
def State.writeLqcfg (s : State) (q : Nat) (v : Word) : State :=
  let r := rLQ q 0x10
  let new := (v &&& 0x1FF0F) ||| (s.win! r &&& 0x20000)
  if !bit v 16 then s.setWin r new
  else
    let n := fld v 0 4
    let t := s.lqTenant q
    if s.lqErr q = 0 ∨ n = 0 ∨ !s.queueFits t (s.lqBase q) n ∨ !s.queueFits t (s.lqErr q) n
        ∨ s.queueUsed q t (s.lqBase q) ∨ s.queueUsed q t (s.lqErr q) then s
    else s.setWin r (if s.lqEn q then new else putFld new 17 1 0)

/-- QUEUE_ENABLE (R379). -/
def execQueueEnable (q : BitVec 10) (v : BitVec 64) (s : State) : Out :=
  .next (s.writeLqcfg q.toNat v)

/-- LQST_READ (R379). -/
def execLqstRead (q : BitVec 10) (s : State) : Out :=
  let r := rLQ q.toNat 0x18
  .next ({ s with bus := s.win! r }.setWin r 0)

/-- The partition a tenant runs in (R321): none while it is switched out. -/
def State.runsIn (s : State) (t : Byte) : Option Nat := findNat (fun p => s.mayIssue p t) 0 64

/-- A packet is checked and becomes a launch, or fails MALFORMED with its handler packet (R323, R382). -/
def State.takePacket (s : State) (t : Byte) (p q ridx pkt : Nat) : State :=
  let pk := parsePacket ((s.vaBytes t pkt 64).getD [])
  match s.malformed t p (some q) pk with
  | some sub => s.reportLaunch (s.untaken t (.queue q ridx) pkt) cMALFORMED sub 0 0xFFFF
  | none => s.startLaunch t p (.queue q ridx) (word pkt) pk none (s.graphAt t pk) []

/-- A queue interrupt cause of the queue's function (R403). -/
def State.raiseVint (s : State) (f : Byte) (b : Nat) : State :=
  if f = 0 then s else
    let v : VFun := SMap.read {} s.vfs f.toNat
    { s with vfs := SMap.write {} s.vfs f.toNat { v with vint := v.vint ||| word b } }

/-- The parts of tenant t's memory that the checks of a packet at pkt read (R322 to R326): the packet, its graph descriptor, and its tables. -/
def State.packetParts (s : State) (t : Byte) (pkt : Nat) : List (Nat × Nat) :=
  let ga := (parsePacket ((s.vaBytes t pkt 64).getD [])).graph.toNat
  let g := parseGraph ((s.vaBytes t ga 64).getD [])
  let n := Nat.min (2 ^ 24) g.ntask.toNat
  [(pkt, 64), (ga, 64), (g.tasks.toNat, 64 * n), (g.deps.toNat, 8 * n), (g.succ.toNat, 4 * Nat.min (2 ^ 26) g.nsucc.toNat), (g.grant.toNat, 16 * g.ngrant.toNat)]

/-- The launch unit examines queue q (R380): a count above the queue's size stops it; otherwise the next packet is taken when its
tenant runs and no launch of the launch table waits (R321). What it reads and is away is brought first (R304). -/
def State.examine (s : State) (q : Nat) : State :=
  if !s.lqEn q || s.lqStop q then s
  else
    let t := s.lqTenant q
    let base := s.lqBase q
    let widx := s.vaRead t base 8
    let ridx := s.vaRead t (base + 8) 8
    let d := (widx + 2 ^ 64 - ridx) % 2 ^ 64
    let pkt := s.lqEntry q ridx
    match s.away t [(base, 16)] with
    | some va => s.fetchPage t va
    | none =>
    if d = 0 then s
    else if 2 ^ s.lqLog2 q < d then
      let s := s.setWinFld (rLQ q 0x10) 17 1 1
      let s := s.errPacket t (s.lqErr q) (some q)
        (handlerBytes cMALFORMED 9 0 (word pkt) (word d) s.dtime 0xFFFF t (s.lqFunc q).toNat (ridx % 2 ^ 32) 0)
      s.raiseVint (s.lqFunc q) 2
    else match s.runsIn t with
      | none => s
      | some p =>
        if s.slotFirst p then s
        else match s.away t (s.packetParts t pkt) with
          | some va => s.fetchPage t va
          | none =>
            let s := s.takePacket t p q (ridx % 2 ^ 32) pkt
            (s.vaWrite t (base + 8) 8 (ridx + 1)).countTaken q 1

/-- QUEUE_POLL (R380, R405). -/
def execQueuePoll (q : BitVec 10) (s : State) : Out :=
  .next (s.examine q.toNat)

/-- VDBELL (R405): a doorbell of function fn for queue q: dropped when the queue is not enabled or not the function's. -/
def execVdbell (fn : BitVec 8) (q : BitVec 10) (s : State) : Out :=
  .next (if s.lqEn q.toNat && s.lqFunc q.toNat == fn then s.examine q.toNat else s)

/-- VINT_CLEAR (R403): ones written to VINT clear its causes. -/
def execVintClear (fn : BitVec 8) (v : BitVec 64) (s : State) : Out :=
  let x : VFun := SMap.read {} s.vfs fn.toNat
  .next { s with vfs := SMap.write {} s.vfs fn.toNat { x with vint := x.vint &&& ~~~v } }

/-- FUNCTION_LEVEL_RESET (R390): every launch taken from the function's queues ends without a handler packet, its queues are emptied
and disabled, and the function is unbound. -/
def execFunctionLevelReset (fn : BitVec 8) (s : State) : Out :=
  if fn = 0 ∨ 128 < fn.toNat then .next s else
  let mine := fun (q : Nat) => s.lqFunc q == fn
  let s := (s.launches.filter fun l => match l.src with
    | .queue q _ => mine q
    | .slot _ _ => false).foldl (fun s l => s.dropLaunch l) s
  let s := foldNat (fun s q =>
    if s.lqFunc q == fn && s.lqEn q then
      let t := s.lqTenant q
      let s := s.vaWrite t (s.lqBase q + 8) 8 (s.vaRead t (s.lqBase q) 8)
      s.setWinFld (rLQ q 0x10) 16 1 0
    else s) s 0 1024
  .next { s with vfs := SMap.write {} s.vfs fn.toNat {} }

end Sys2Proof.Machine
end

