-- ==== Sys2Proof/Machine/Cycle.lean ====
section
/-! DEFINITION. The cycle engine: device time (R340), cycle domains (R341 to R345), image and bulk streams (R346 to R350), the launch
table (R351 to R355), egress (R356, R357) and version windows (R358, R359). -/

namespace Sys2Proof.Machine

/-! ### Device time (R340) -/

/-- Some cycle domain is enabled. -/
def State.anyDomain (s : State) : Bool := (List.range 8).any fun d => (s.dom d).en

/-- The rate with which device time follows an offset to gPTP time: within 250 parts per million of nominal (R340; log entry 36). -/
def rateFor (off : Int) : Nat := (1000000 + clampI (-250) 250 (Config.syncRate off)).toNat

/-- A timestamp of a frame: device time to 8 ns (R340). -/
def stamp8 (t : Nat) : Nat := t / 8 * 8

/-- PTP_SYNC (R340): a Sync with gPTP time t: at the first lock after reset, with no domain enabled, device time is set once; never
backwards. Otherwise the offset is reported, and the rate follows it. -/
def execPtpSync (t : BitVec 64) (s : State) : Out :=
  if !bit (s.win! rPTPCTL) 3 then .next s else
  let first := !s.locked && !s.anyDomain && decide (s.dtime ≤ t.toNat)
  let off := clampI (-(2 ^ 31 : Int)) (2 ^ 31 - 1) ((t.toNat : Int) - s.dtime)
  let s : State := if first then { s with dtime := t.toNat, frac := 0 } else { s with rate := rateFor off }
  let offW := (wordI (if first then 0 else off)).toNat % 2 ^ 32
  .next (({ s with locked := true, syncAt := s.dtime }).setWin rPTPST (word (1 + offW * 2 ^ 32)))

/-- HOLDOVER (R340): three Sync intervals have passed without a Sync message; the rate stays as it is. -/
def execHoldover (s : State) : Out :=
  .next (if s.locked && decide (s.syncAt + 3 * Config.syncInterval ≤ s.dtime) then s.setWinFld rPTPST 0 2 2 else s)

/-! ### Domains (R343) -/

/-- A filter's registers (R346). -/
def State.sfValid (s : State) (f : Nat) : Bool := bit (s.win! (rSF f 0)) 63
def State.sfBulk (s : State) (f : Nat) : Bool := bit (s.win! (rSF f 0)) 62
def State.sfRtag (s : State) (f : Nat) : Bool := bit (s.win! (rSF f 0)) 61
def State.sfDom (s : State) (f : Nat) : Nat := fld (s.win! (rSF f 0x10)) 32 3
def State.sfSeqb (s : State) (f : Nat) : Bool := bit (s.win! (rSF f 8)) 62

/-- Why an enable is refused (R343); 0 when it is not. -/
def State.enableRef (s : State) (d : Nat) (pair : Bool) : Nat :=
  let len := s.cdLen d
  let img := s.win! (rCDIMG d)
  let ioff := fld img 12 12
  let ilen := fld img 32 12
  let x := s.dom d
  let newest : Word32 := if x.area = some img then ((newestSealed (s.ring (imageKey d) 2)).map (·.ver)).getD 0 else 0
  if len < 25000 ∨ 1000000000 < len ∨ len ≤ s.cdLatch d ∨ len ≤ s.cdEgoff d then 1
  else if s.cdT0 d < s.dtime + 100000 then 2
  else if !serialLater (BitVec.ofNat 32 (s.cdBase d)) newest then 3
  else if ilen = 0 ∨ 2048 < ilen ∨ 4096 < ioff + 2 * ilen
      ∨ (List.range 8).any (fun e => e != d && (s.dom e).en &&
          (match (s.dom e).area with
           | some a => decide (ioff < fld a 12 12 + 2 * fld a 32 12) && decide (fld a 12 12 < ioff + 2 * ilen)
           | none => false)) then 4
  else if pair ∧ (List.range 1024).any (fun f => s.sfValid f && !s.sfBulk f && s.sfDom f == d && !s.sfSeqb f) then 5
  else 0

/-- The cycle engine's caches take the lines of an input image's slot from off on (R292). -/
def State.touchSlot (s : State) (key i off n : Nat) (write : Bool) : State :=
  match s.imageSlot key i with
  | some (a, _) => foldNat (fun s j => s.touch ((a + off) / 64 * 64 + 64 * j) .io none write) s 0 (((a + off) % 64 + n + 63) / 64)
  | none => s

/-- Write n bytes into the open version v of a ring (R172, R347). -/
def State.putVersion (s : State) (key : Nat) (v : Word32) (off n x : Nat) : State :=
  let l := s.ring key 2
  match openIdx l v with
  | some i =>
    let y := slotAt l i
    (s.touchSlot key i off n true).setRing key (setAt l i { y with data := SMap.writeLE y.data off n x })
  | none => s

/-- Bytes into the open version v of a ring. -/
def State.putVersionBytes (s : State) (key : Nat) (v : Word32) (off : Nat) : List Byte → State
  | [] => s
  | b :: bs => (s.putVersion key v off 1 b.toNat).putVersionBytes key v (off + 1) bs

/-- SOFF of a filter. -/
def State.sfSoff (s : State) (f : Nat) : Nat := fld (s.win! (rSF f 0x18)) 24 24

/-- R344, R345: version n of the input image opens: every stream status word of the domain is zero. -/
def State.openImage (s : State) (d : Nat) (n : Nat) : State :=
  let v : Word32 := BitVec.ofNat 32 n
  let s := s.openV (imageKey d) 2 v
  (List.range 1024).foldl (fun s f =>
    if s.sfValid f && !s.sfBulk f && s.sfDom f == d then s.putVersion (imageKey d) v (s.sfSoff f) 4 0 else s) s

/-! ### The launch table's checks (R351, R352) -/

/-- The packet of a slot. -/
def State.slotPacket (s : State) (d x : Nat) : Packet :=
  parsePacket ((s.vaBytes (s.slotOwner d x) (s.slotPkt d x) 64).getD [])

/-- Why a slot fails its check when it is written, or its domain enabled: the sub-reason (R352, R382). The capabilities that an instance of its
own holds are not missing (R326; log entry 43). -/
def State.slotFails (s : State) (d x : Nat) : Option Nat :=
  let own := decide (s.slotRule d x = 3) || decide (s.cdLen d ≤ s.slotOffset d x) || !s.pvalid (s.slotPart d x)
  match s.malformed (s.slotOwner d x) (s.slotPart d x) none (s.slotPacket d x) with
  | some n => if n = 8 ∧ (s.inst d x).launch.isSome then (if own then some 10 else none) else some n
  | none => if own then some 10 else none

/-- Why a slot's packet does not pass at an instant against its partition as it stands (R323, R352). -/
def State.slotPartFails (s : State) (d x : Nat) : Option Nat :=
  let t := s.slotOwner d x
  let p := s.slotPart d x
  let pk := s.slotPacket d x
  if s.errqBad t p none pk then some 3
  else if s.crecBad t p pk then some 4
  else if s.pcoreBad p pk then some 6
  else if !s.pvalid p then some 10
  else none

/-- The descriptor an instance of a slot runs: the armed copy, else the one in memory (R352). -/
def State.slotGraph (s : State) (d x : Nat) : Graph := (s.inst d x).graph.getD (s.graphAt (s.slotOwner d x) (s.slotPacket d x))

/-- The service holds the capability of every grant of a slot's graph, as its launch needs (R326). -/
def State.slotGranted (s : State) (d x : Nat) : Bool := s.grantsHeld (s.slotOwner d x) (s.slotPart d x) (s.slotGraph d x)

/-- A slot fails: VALID clears, CHK is 1, and the handler packet goes to the packet's ERRQ where that is usable (R352). -/
def State.failSlot (s : State) (d x sub : Nat) : State :=
  let l := s.untaken (s.slotOwner d x) (.slot d x) (s.slotPkt d x)
  let s := (s.setWinFld (rSLOTA d x) 32 1 0).setWinFld (rSLOTST d x) 4 4 1
  match s.ownRegion (s.slotPart d x) l.tenant l.packet.errq.toNat with
  | some r => if r.kind = kQUEUE ∧ r.base = l.packet.errq.toNat then s.reportLaunch l cMALFORMED sub 0 0xFFFF else s
  | none => s

/-- Records held in the launch buffer of partition p, slot (d, x) apart (R352). -/
def State.bufferUse (s : State) (p d x : Nat) : Nat :=
  s.slotI.foldl (fun n e =>
    if e.1 ≠ 256 * d + x ∧ s.slotPart (e.1 / 256) (e.1 % 256) = p then n + e.2.armed.length else n) 0

/-- A valid slot is checked and armed (R352). -/
def State.checkSlot (s : State) (d x : Nat) : State :=
  let s := s.setInst d x { s.inst d x with armed := [], graph := none }
  match s.slotFails d x with
  | some sub => s.failSlot d x sub
  | none =>
    let pk := s.slotPacket d x
    let t := s.slotOwner d x
    let g := s.graphAt t pk
    let n := Nat.min g.ntask.toNat (8 * s.plen (s.slotPart d x))
    if !bit (s.win! (rSLOTA d x)) 33 then s.setWinFld (rSLOTST d x) 4 4 0
    else if pk.det ∧ s.bufferUse (s.slotPart d x) d x + n ≤ 4096 then
      let recs := (List.range n).map fun i => parseTask ((s.vaBytes t (g.tasks.toNat + 64 * i) 64).getD [])
      (s.setInst d x { s.inst d x with armed := recs, graph := some g }).setWinFld (rSLOTST d x) 4 4 0
    else s.setWinFld (rSLOTST d x) 4 4 2

/-- The number of instants of an offset that have passed at device time now (R353). -/
def State.passed (s : State) (d off : Nat) : Nat :=
  if s.dtime < s.cdT0 d + off ∨ s.cdLen d = 0 then 0 else (s.dtime - (s.cdT0 d + off)) / s.cdLen d + 1

/-- A slot has been written (R351, R352): the new contents apply from the next instant. -/
def State.slotWritten (s : State) (d x : Nat) : State :=
  let s := s.setInst d x { s.inst d x with instants := s.passed d (s.slotOffset d x), armed := [], graph := none }
  if s.slotValid d x then s.checkSlot d x else s

/-- SLOTA written (R351). -/
def State.writeSlota (s : State) (d x : Nat) (v : Word) : State := (s.setWin (rSLOTA d x) (v &&& 0xFF3F03FFFFFFFF)).slotWritten d x

/-- SLOTB written (R351): of a valid slot it is checked, and armed, again (log entry 43). -/
def State.writeSlotb (s : State) (d x : Nat) (v : Word) : State := (s.setWin (rSLOTB d x) (v &&& 0xFFFFFFFFFFFFC0)).slotWritten d x

/-- SLOT_WRITE (R351, R352). -/
def execSlotWrite (d : BitVec 3) (x : BitVec 8) (v : BitVec 64) (s : State) : Out :=
  .next (s.writeSlota d.toNat x.toNat v)

/-- SLOTST_READ (R351): OVR and MISS are returned and cleared. -/
def execSlotstRead (d : BitVec 3) (x : BitVec 8) (s : State) : Out :=
  let r := rSLOTST d.toNat x.toNat
  .next ({ s with bus := s.win! r }.setWinFld r 16 32 0)

/-! ### Enabling and stopping (R343, R344) -/

/-- The input image's ring at an enable (R344): in the area it had, a version left OPEN is freed; in another it is as at creation, and the
windows pinned on it are revoked (R359, R360). -/
def State.imageRing (s : State) (d : Nat) : State :=
  let img := s.win! (rCDIMG d)
  let key := imageKey d
  if (s.dom d).area = some img then
    s.setRing key ((s.ring key 2).map fun x => if x.st == .opened then { x with st := .free } else x)
  else (((s.vwRevoke key 0).vwRevoke key 1).setDom d { s.dom d with area := some img }).setRing key [{ st := .sealed }, {}]

/-- CDCTL.EN = 1 is written (R343, R344): REF stays the reason of the last refused enable (R341). -/
def State.enableDom (s : State) (d : Nat) (pair : Bool) : State :=
  let ref := s.enableRef d pair
  if ref ≠ 0 then (s.setWinFld (rCDCTL d) 0 1 0).setWinFld (rCDSTAT d) 4 4 ref
  else
    let key := imageKey d
    let s := s.imageRing d
    let base := s.cdBase d
    let s := s.setDom d { en := true, ever := true, cyc := word base - 1, latch := word base, egress := word base, area := (s.dom d).area }
    let s := (s.setHolder key .cycle).setWin (rCDCTL d) (word (1 + 2 * b2n pair))
    let s := s.setWinFld (rCDSTAT d) 0 1 1
    let s : State := { s with filters := s.filters.map fun (x : Nat × FilterSt) => (x.1, if s.sfDom x.1 = d then { x.2 with held := [] } else x.2) }
    let s := (List.range 256).foldl (fun s x => if s.slotValid d x then
      (s.setInst d x { s.inst d x with instants := 0 }).checkSlot d x else s) s
    s.openImage d base

/-- CDCTL written (R343): EN = 1 while the domain runs changes nothing; EN = 0 stops it at the next cycle start. -/
def State.writeCdctl (s : State) (d : Nat) (v : Word) : State :=
  if bit (s.win! (rCDCTL d)) 0 then
    if bit v 0 then s else (s.setWinFld (rCDCTL d) 0 1 0).setDom d { s.dom d with stop := true }
  else if bit v 0 then s.enableDom d (bit v 1)
  else s.setWinFld (rCDCTL d) 1 1 (fld v 1 1)

/-- DOMAIN_ENABLE (R343, R344): CDCTL.EN = 1 is written, PAIR as it stands. -/
def execDomainEnable (d : BitVec 3) (s : State) : Out :=
  .next (s.writeCdctl d.toNat (word (1 + 2 * b2n (s.isPair d.toNat))))

/-- DOMAIN_DISABLE (R343): CDCTL.EN = 0 is written. -/
def execDomainDisable (d : BitVec 3) (s : State) : Out :=
  .next (s.writeCdctl d.toNat (word (2 * b2n (s.isPair d.toNat))))

/-! ### Cycle start and latch (R335, R342, R345, R354) -/

/-- The context's BUDGET is filled again, its class restored, its yield and freeze over (R39, R335, R355). -/
def State.refill (s : State) (cid : Nat) : State :=
  let c := s.ctxOf cid
  if c.sched.task.isNone then s
  else
    let was := c.sched
    let s := s.setCtx cid { c with
      ctl := { c.ctl with budget := was.pktBudget }
      sched := { was with exhausted := false, frozen := false, yielded := false, savedCls := none
                          readyAt := if was.yielded || was.frozen then s.clk else was.readyAt
                          handler := was.handler.map fun h => { h with cls := was.savedCls.getD h.cls, yielded := false } } }
    let cls := match was.savedCls, was.handler with
      | some _, some _ => if c.ctl.prioFlr.toNat ≤ 1 then 1 else c.ctl.prioFlr
      | some k, none => k
      | none, _ => c.ctl.prioCls
    let s := if cls = c.ctl.prioCls then s else
      let s := s.setCtl cid { (s.ctxOf cid).ctl with prioCls := cls }
      if was.spine = .attached then s.detach cid else s
    if was.pktBudget = 0 then s.exhaust cid else s

/-- The envelope in force becomes e (R414). -/
def State.setEnvelope (s : State) (e : Nat) (throt : Bool) : State :=
  ({ s with envReq := none }).setWin rPWRST (word (e + 4 * b2n throt))

/-- A context's yield is over: its domain no longer runs (R39). -/
def State.unyield (s : State) (cid : Nat) : State :=
  let x := (s.ctxOf cid).sched
  s.setSched cid { x with
    yielded := false
    readyAt := if x.yielded then s.clk else x.readyAt
    handler := x.handler.map fun h => { h with yielded := false } }

/-- A context holds a task of domain d. -/
def Ctx.inDomain (c : Ctx) (d : Nat) : Bool := c.sched.dom.toNat == d && c.sched.task.isSome

/-- f for every context of domain d, on its slot or saved (R336). -/
def State.eachOfDomain (s : State) (d : Nat) (f : Nat → State → State) : State :=
  let s' := (s.ctxs.filter fun kc => kc.2.inDomain d).foldl (fun s kc => f kc.1 s) s
  (s.slots.filter fun x => x.ctx.inDomain d).foldl (fun s x => s.onOwner x.tenant x.cid (f x.cid)) s'

/-- A tenant that a resynchronisation holds in partition p goes on, unless another request holds it. -/
def State.pairFrees (s : State) (p : Nat) : State :=
  if s.pending p then s else s.setPart p { s.part p with held := false, stopped := false }

/-- R364: domain d has reached cycle n: at its restart cycle its output tenant goes on. -/
def State.pairRestart (s : State) (d : Nat) (n : Word) : State :=
  if s.pair.holding.contains d && s.pair.restart.any fun x => x.1 == d && decide (x.2.toNat ≤ n.toNat) then
    (List.range 64).foldl (fun s p => if s.running p == some (s.cdTenant d) then s.pairFrees p else s)
      { s with pair := { s.pair with holding := s.pair.holding.filter (· != d) } }
  else s

/-- CYCLE_START (R342, R343): device time has reached the start of the next cycle; the latch and egress of the one before are done. -/
def execCycleStart (d : BitVec 3) (s : State) : Out :=
  let n := d.toNat
  let x := s.dom n
  let next := x.cyc + 1
  if !x.en || x.latch != next || x.egress != next || decide (s.dtime < s.cycleAt n (next.toNat)) then .next s
  else if x.stop then
    .next (((s.setDom n { x with en := false, stop := false }).setWinFld (rCDSTAT n) 0 1 0).eachOfDomain n fun cid s => s.unyield cid)
  else
    let s := s.setDom n { x with cyc := next }
    let s := s.eachOfDomain n fun cid s => s.refill cid
    let s := match s.envReq with
      | some e => if n = 0 then s.setEnvelope e.toNat false else s
      | none => s
    .next (s.pairRestart n next)

/-- Held sequence-bound frames of a filter are written (R347); cnt 0 accepted. -/
def State.countSf (s : State) (f lo : Nat) : State :=
  let r := s.win! (rSF f 0x28)
  s.setWin (rSF f 0x28) (putFld r lo 16 (Nat.min 0xFFFF (fld r lo 16 + 1)))

/-- The status word after one more write (R347, R348): the count saturates; FRESH or CARRIED is set. -/
def statusAfter (old : Nat) (carried : Bool) : Nat :=
  let fresh := old / 2 ^ 16 % 2 == 1 || !carried
  let carry := old / 2 ^ 17 % 2 == 1 || carried
  Nat.min 0xFFFF (old % 2 ^ 16 + 1) + 2 ^ 16 * b2n fresh + 2 ^ 17 * b2n carry

/-- R347: a frame's bytes and status word are written into version v, as one act. -/
def State.placeFrame (s : State) (f : Nat) (v : Word32) (payload : List Byte) (carried : Bool) : State :=
  let key := imageKey (s.sfDom f)
  let poff := fld (s.win! (rSF f 0x20)) 0 11
  let len := fld (s.win! (rSF f 0x20)) 16 11
  let doff := fld (s.win! (rSF f 0x18)) 0 24
  let soff := s.sfSoff f
  let s := s.putVersionBytes key v doff ((payload.drop poff).take len)
  let l := s.ring key 2
  match openIdx l v with
  | some i => s.putVersion key v soff 4 (statusAfter (SMap.readLE (slotAt l i).data soff 4) carried)
  | none => s

/-- Frames held for the opening of version v are written (R347). -/
def State.releaseHeld (s : State) (d : Nat) (v : Word32) : State :=
  s.filters.foldl (fun s e =>
    if s.sfDom e.1 ≠ d then s
    else
      let s := e.2.held.foldl (fun s p => (s.placeFrame e.1 v p false).countSf e.1 0) s
      { s with filters := SMap.write {} s.filters e.1 { (SMap.read {} s.filters e.1 : FilterSt) with held := [] } }) s

/-- LATCH (R345): at T(n) + LATCH version n is sealed and n + 1 opened. -/
def execLatch (d : BitVec 3) (s : State) : Out :=
  let n := d.toNat
  let x := s.dom n
  let v : Word32 := x.latch.truncate 32
  if !x.en || x.cyc != x.latch || decide (s.dtime < s.cycleAt n x.latch.toNat + s.cdLatch n) then .next s
  else
    let key := imageKey n
    let s := match openIdx (s.ring key 2) v with
      | some i => s.sealV key 2 (s.imgLen n) i
      | none => s
    let s := (s.openImage n (x.latch.toNat + 1)).setDom n { x with latch := x.latch + 1 }
    let s := s.releaseHeld n (v + 1)
    .next (s.setWinFld (rCDSTAT n) 32 32 (fld (s.win! (rCDSTAT n)) 32 32 + 1))

/-! ### Slot instants (R353, R354) -/

/-- The instance starts (R353). -/
def State.launchSlot (s : State) (d x : Nat) : State :=
  let i := s.inst d x
  let t := s.slotOwner d x
  let id := s.nextId
  let s := s.startLaunch t (s.slotPart d x) (.slot d x) (word (s.slotPkt d x)) (s.slotPacket d x) (some (s.slotRule d x)) (s.slotGraph d x) i.armed
  let r := s.win! (rSLOTST d x)
  (s.setInst d x { i with launch := some id, deferred := false }).setWin (rSLOTST d x) (putFld (putFld r 0 2 1) 48 16 (fld r 48 16 + 1))

/-- A saturating 16-bit count of SLOTST goes up. -/
def State.bumpSlot (s : State) (d x lo : Nat) : State :=
  let r := s.win! (rSLOTST d x)
  s.setWin (rSLOTST d x) (putFld r lo 16 (Nat.min 0xFFFF (fld r lo 16 + 1)))

/-- An instance that is to start: nothing is launched where the packet does not pass against the partition as it stands (R352), or the service does
not hold what it grants (R326): the slot fails, and MISS counts it (log entry 43). -/
def State.tryLaunch (s : State) (d x : Nat) : State :=
  let s' := ((s.setInst d x { s.inst d x with deferred := false }).setWinFld (rSLOTST d x) 0 2 0).bumpSlot d x 32
  match s.slotPartFails d x with
  | some sub => s'.failSlot d x sub
  | none => if s.slotGranted d x then s.launchSlot d x else s'.failSlot d x 8

/-- An overrun instant (R354): OVR counts it, and under DEFER one instance is deferred. -/
def State.overrun (s : State) (d x : Nat) : State :=
  let s := s.bumpSlot d x 16
  match s.slotPartFails d x with
  | some sub => (s.bumpSlot d x 32).failSlot d x sub
  | none =>
    let s := if s.slotRuns d x then s else s.bumpSlot d x 32
    if s.slotRule d x = 1 ∧ fld (s.win! (rSLOTST d x)) 0 2 = 1 then
      (s.setInst d x { s.inst d x with deferred := true }).setWinFld (rSLOTST d x) 0 2 2
    else s

/-- What the launch of a slot's instance reads and is away (R304). -/
def State.slotAway (s : State) (d x : Nat) : Option Nat := s.away (s.slotOwner d x) (s.packetParts (s.slotOwner d x) (s.slotPkt d x))

/-- SLOT_INSTANT (R352 to R354): the instant launches an instance, is an overrun, or is a miss, its tenant not running (R353, R364). What the launch
reads and is away is brought first. -/
def execSlotInstant (d : BitVec 3) (x : BitVec 8) (s : State) : Out :=
  let n := d.toNat
  let k := x.toNat
  if !s.slotDue n k then .next s else
  let i := s.inst n k
  let t := s.setInst n k { i with instants := i.instants + 1 }
  if i.launch.isSome || i.deferred then .next (t.overrun n k)
  else if !s.slotRuns n k then
    .next (match s.slotPartFails n k with
      | some sub => (t.bumpSlot n k 32).failSlot n k sub
      | none => t.bumpSlot n k 32)
  else match s.slotAway n k with
    | some va => .next (s.fetchPage (s.slotOwner n k) va)
    | none => .next (t.tryLaunch n k)

/-- DEFERRED_LAUNCH (R354): the deferred instance starts when the previous one is complete and its tenant runs. -/
def execDeferredLaunch (d : BitVec 3) (x : BitVec 8) (s : State) : Out :=
  let n := d.toNat
  let k := x.toNat
  if !s.deferredDue n k then .next s
  else match s.slotAway n k with
    | some va => .next (s.fetchPage (s.slotOwner n k) va)
    | none => .next (s.tryLaunch n k)

/-! ### Ingress (R346 to R350) -/

/-- SFID written (R346): VALID takes effect only with every field in range. -/
def State.writeSfid (s : State) (f : Nat) (v : Word) : State :=
  let pol := s.win! (rSF f 0x10)
  let dst := s.win! (rSF f 0x18)
  let len := s.win! (rSF f 0x20)
  let il := s.imgLen (fld pol 32 3)
  let doff := fld dst 0 24
  let soff := fld dst 24 24
  let n := fld len 16 11
  let bad := fld pol 35 2 == 3 || decide (soff < 8) || soff % 4 != 0 || decide (doff < 8) || decide (1499 < fld len 0 11)
    || n == 0 || decide (1500 < n) || decide (il < doff + n) || decide (il < soff + 4)
    || (bit (s.win! (rSF f 8)) 62 && !bit v 61)
  s.setWin (rSF f 0) (if bad then putFld v 63 1 0 else v)

/-- FILTER_WRITE (R346). -/
def execFilterWrite (f : BitVec 10) (v : BitVec 64) (s : State) : Out :=
  .next (s.writeSfid f.toNat v)

/-- SFCNT_READ (R346). -/
def execSfcntRead (f : BitVec 10) (s : State) : Out :=
  let r := rSF f.toNat 0x28
  .next ({ s with bus := s.win! r }.setWin r 0)

/-- R346 stage 1: the filter identifies the frame. -/
def State.sfMatches (s : State) (f : Nat) (x : Frame) : Bool :=
  let id := s.win! (rSF f 0)
  s.sfValid f && bit (s.win! (rSF f 0x10)) x.port.toNat && fld id 48 12 == x.vid.toNat
    && fld id 0 48 == (if bit id 60 then x.src.toNat else x.dst.toNat)

def State.filter (s : State) (f : Nat) : FilterSt := SMap.read {} s.filters f
def State.setFilter (s : State) (f : Nat) (x : FilterSt) : State := { s with filters := SMap.write {} s.filters f x }

/-- R346 stage 2: vector recovery of IEEE 802.1CB with a history of 32; none for a duplicate or a number out of the window. -/
def recover (x : FilterSt) (q : BitVec 16) : Option FilterSt :=
  match x.last with
  | none => some { x with last := some q, hist := 1 }
  | some l =>
    let d := (q - l).toNat
    if d = 0 then none
    else if d < 32 then some { x with last := some q, hist := (x.hist <<< d) ||| 1 }
    else if 2 ^ 16 - 32 < d then
      let back := 2 ^ 16 - d
      if bit x.hist back then none else some { x with hist := x.hist ||| BitVec.ofNat 32 (2 ^ back) }
    else none

/-- R346 stage 4: a flow meter of committed rate and burst passes a frame of n bytes, or finds it red (none). Credit is held in
millionths of a bit. -/
def State.meter (s : State) (m n : Nat) : Option State :=
  let c := s.win! (rMTCFG m)
  let x : MeterSt := SMap.read {} s.meters m
  let cap := fld c 32 32 * 8 * 1000000
  let now := if x.fresh then cap else Nat.min cap (x.tokens + fld c 0 32 * (s.dtime - x.asOf))
  let need := 8 * n * 1000000
  if need ≤ now then some { s with meters := SMap.write {} s.meters m { tokens := now - need, asOf := s.dtime, fresh := false } }
  else none

/-- A late frame (R348). -/
def State.lateFrame (s : State) (f : Nat) (payload : List Byte) : State :=
  let s := s.countSf f 16
  let d := s.sfDom f
  if fld (s.win! (rSF f 0x10)) 35 2 = 2 ∧ !s.isPair d then
    s.placeFrame f ((s.dom d).latch.truncate 32) payload true
  else s

/-- R347: the version open at a device time of a domain. -/
def State.openAt (s : State) (d t : Nat) : Nat :=
  let first := s.cdT0 d + s.cdLatch d
  s.cdBase d + (if t < first then 0 else (t - first) / s.cdLen d + 1)

/-- R347: placement of an image frame. -/
def State.imageFrame (s : State) (f : Nat) (x : Frame) : State :=
  let d := s.sfDom f
  let dom := s.dom d
  let len := s.win! (rSF f 0x20)
  let gate := s.win! (rSF f 8)
  let short := decide (x.payload.length < fld len 0 11 + fld len 16 11)
  let n := dom.latch
  if !dom.en then s.countSf f 48
  else if s.sfSeqb f then
    match x.rtag with
    | none => s.countSf f 48
    | some q =>
      let fpc := fld len 48 8 + 1
      let dd := (q - BitVec.ofNat 16 (n.toNat * fpc + fld len 32 16)).toNat
      if dd < fpc then (if short then s.countSf f 48 else (s.placeFrame f (n.truncate 32) x.payload false).countSf f 0)
      else if dd < 2 * fpc then
        (if short then s.countSf f 48 else
          let y := s.filter f
          s.setFilter f { y with held := y.held ++ [x.payload] })
      else if 32768 ≤ dd then (if short then s.countSf f 48 else s.lateFrame f x.payload)
      else s.countSf f 48
  else if stamp8 x.sof < s.cdT0 d then s.countSf f 48
  else
    let phase := (stamp8 x.sof - s.cdT0 d) % s.cdLen d
    if phase < fld gate 0 30 ∨ fld gate 32 30 ≤ phase ∨ short then s.countSf f 48
    else if s.openAt d (stamp8 x.sof) < n.toNat then s.lateFrame f x.payload
    else (s.placeFrame f (n.truncate 32) x.payload false).countSf f 0

/-- The registers of a bulk ring (R349). -/
def State.brTenant (s : State) (r : Nat) : Byte := BitVec.ofNat 8 (fld (s.win! (rBR r 0)) 56 8)
def State.brBase (s : State) (r : Nat) : Nat := fld (s.win! (rBR r 0)) 12 44 * 4096

/-- R349, R350: a bulk frame is stored in its ring, or shed. -/
def State.bulkFrame (s : State) (f : Nat) (x : Frame) : State :=
  let pol := s.win! (rSF f 0x10)
  let r := fld pol 40 6
  let t := s.brTenant r
  let base := s.brBase r
  let cfg := s.win! (rBR r 8)
  let esz := 2 ^ (11 + Nat.min 4 (fld cfg 0 3))
  let nent := fld cfg 8 24
  let head := s.vaRead t base 8
  let tail := s.vaRead t (fld (s.win! (rBR r 0x10)) 3 53 * 8) 8
  let occ := (head + 2 ^ 64 - tail) % 2 ^ 64
  let wm := fld (s.win! (rBR r 0x18)) (8 * fld pol 37 3) 8
  let y := s.filter f
  if esz < x.payload.length + 24 then s.countSf f 48
  else
    let s := s.setFilter f { y with frameNo := y.frameNo + 1 }
    if nent ≤ occ ∨ (wm < 255 ∧ wm * nent ≤ 256 * occ) then s.countSf f 32
    else
      let at' := base + 64 + head % nent * esz
      let bs := bytesOf 4 f ++ bytesOf 4 x.payload.length ++ bytesOf 4 y.frameNo.toNat ++ bytesOf 4 0 ++ bytesOf 8 (stamp8 s.dtime) ++ x.payload
      let s := (List.range bs.length).foldl (fun s i => s.vaWrite t (at' + i) 1 (bs.getD i 0).toNat) s
      (s.vaWrite t base 8 (head + 1)).countSf f 0

/-- FRAME_INGRESS (R346): a frame's last byte has arrived. -/
def execFrameIngress (x : Frame) (s : State) : Out :=
  match findNat (fun f => s.sfMatches f x) 0 1024 with
  | none => .next s
  | some f =>
    let pol := s.win! (rSF f 0x10)
    let maxsdu := fld pol 17 13
    let y := s.filter f
    let rec' := if s.sfRtag f then
        match x.rtag with
        | some q => recover y q
        | none => none
      else some y
    match rec' with
    | none => .next (s.countSf f 48)
    | some y =>
      let s := s.setFilter f y
      if maxsdu ≠ 0 ∧ maxsdu < x.payload.length then .next (s.countSf f 48)
      else
        match (if bit pol 16 then s.meter (fld pol 8 8) x.payload.length else some s) with
        | none => .next (s.countSf f 48)
        | some s => .next (if s.sfBulk f then s.bulkFrame f x else s.imageFrame f x)

/-! ### Egress (R356, R357) -/

/-- An output image: its ring and length. -/
def State.outImage (s : State) (d : Nat) : Option (Nat × Nat) :=
  let base := fld (s.win! (rCDOUT d)) 12 44 * 4096
  (List.range 64).findSome? fun p => match s.ownRegion p (s.cdTenant d) base with
    | some r => if r.kind = kVERSIONED then some (s.regionKey r, r.len) else none
    | none => none

/-- One byte into a CRC-32 register of IEEE 802.3. -/
def fcsStep (c : Word32) (b : Byte) : Word32 :=
  foldNat (fun c _ => if bit c 0 then (c >>> 1) ^^^ 0xEDB88320 else c >>> 1) (c ^^^ b.zeroExtend 32) 0 8

/-- The frame check sequence of a frame, first byte first. -/
def fcs (bs : List Byte) : List Byte := bytesOf 4 (~~~(bs.foldl fcsStep 0xFFFFFFFF)).toNat

/-- A frame of egress stream e with sequence number q and data bs (R357): template, R-TAG before the EtherType, data, FCS. -/
def State.buildFrame (s : State) (e q : Nat) (bs : List Byte) : List Byte :=
  let h := s.win! (rEG e 0x10)
  let hlen := fld h 32 6
  let tpl := s.physBytes (0x10000000000 + fld h 6 18 * 64) hlen
  let tag : List Byte := if bit (s.win! (rEG e 0)) 10 then [0xF1, 0xC1, 0, 0] ++ (bytesOf 2 q).reverse else []
  let body := tpl.take (hlen - 2) ++ tag ++ tpl.drop (hlen - 2) ++ bs
  body ++ fcs body

/-- A count of EGCNT goes up; it saturates. -/
def State.countEg (s : State) (e lo n : Nat) : State :=
  let r := s.win! (rEG e 0x18)
  s.setWin (rEG e 0x18) (putFld r lo n (Nat.min (2 ^ n - 1) (fld r lo n + 1)))

/-- The entries of a port's gate control list: interval and mask. -/
def State.gateList (s : State) (p : Nat) : List (Nat × Byte) :=
  (List.range (Nat.min 256 (fld (s.win! (rGCLCTL p)) 0 9))).map fun i => (fld (s.win! (rGCL p i)) 32 30, BitVec.ofNat 8 (fld (s.win! (rGCL p i)) 0 8))

/-- The list over a cycle of which len is left: intervals past the cycle are cut, and the last entry extends to its end (R357). -/
def gateSpans : Nat → List (Nat × Byte) → List (Nat × Byte)
  | _, [] => []
  | len, [(_, m)] => [(len, m)]
  | len, (i, m) :: l => (Nat.min i len, m) :: gateSpans (len - i) l

/-- Where a phase lies: the number of its entry, what is left of that from the phase on, and the entries that follow. -/
def gateAt : Nat → Nat → List (Nat × Byte) → Option (Nat × List (Nat × Byte))
  | _, _, [] => none
  | k, ph, (d, m) :: l => if ph < d then some (k, (d - ph, m) :: l) else gateAt (k + 1) (ph - d) l

/-- How long the gate of a class stays open from the start of a list of spans. -/
def openFor (cls : Nat) : List (Nat × Byte) → Nat
  | [] => 0
  | (d, m) :: l => if bit m cls then d + openFor cls l else 0

/-- A port's gates now (R357): its list's entry and the spans from now to the end of the next cycle; none, all open, while the list is off or its
domain has not started. -/
def State.gates (s : State) (p : Nat) : Option (Nat × List (Nat × Byte)) :=
  let c := s.win! (rGCLCTL p)
  let d := fld c 9 3
  if !bit c 12 || !(s.dom d).en || decide (s.dtime < s.cdT0 d) then none
  else
    let l := gateSpans (s.cdLen d) (s.gateList p)
    (gateAt 0 ((s.dtime - s.cdT0 d) % s.cdLen d) l).map fun x => (x.1, x.2 ++ l)

/-- The mask a port's gates have now. -/
def State.gateMask (s : State) (p : Nat) : Nat × Byte :=
  match s.gates p with
  | some (i, (_, m) :: _) => (i, m)
  | _ => (0, 0xFF)

def State.port (s : State) (p : Nat) : Port := SMap.read {} s.ports p

/-- A frame may start on a port now: it can finish before its gate closes (R357). -/
def State.mayStart (s : State) (p : Nat) (f : OutFrame) : Bool :=
  match s.gates p with
  | some (_, l) => decide (0 < openFor f.cls.toNat l) && decide (Config.portTime p f.bytes.length ≤ openFor f.cls.toNat l)
  | none => true

/-- The first queued frame of a class. -/
def Port.headOf (x : Port) (cls : Nat) : Option OutFrame := x.queue.find? fun f => f.cls.toNat == cls

/-- The frame a port that is not sending starts: of the classes whose first frame may start, the highest (R357; log entry 25). -/
def State.nextFrame (s : State) (p : Nat) : Option OutFrame :=
  if s.dtime < (s.port p).busy then none
  else (List.range 8).reverse.findSome? fun c => ((s.port p).headOf c).filter (s.mayStart p)

/-- A port's gates move on, and it starts its next frame (R357). -/
def State.sendPort (s : State) (p : Nat) : State :=
  let x := s.port p
  let (i, mask) := s.gateMask p
  match s.nextFrame p with
  | none => { s with ports := SMap.write {} s.ports p { x with entry := i, mask := mask } }
  | some f =>
    let y : Port := { entry := i, mask := mask, busy := s.dtime + Config.portTime p f.bytes.length, queue := x.queue.erase f, sent := x.sent ++ [{ f with stamp := stamp8 s.dtime }] }
    State.countEg { s with ports := SMap.write {} s.ports p y } f.stream 0 32

/-- GCL_INTERVAL (R357). -/
def execGclInterval (p : BitVec 3) (s : State) : Out :=
  .next (s.sendPort p.toNat)

/-- What the pair decides at an egress instant (R362, R363). -/
inductive PairAct where
  | send
  | sendDiverged
  | sendUnverified
  /-- Egress is stopped, or stops now; diverge: DIVERGE is raised. -/
  | suppress (diverge : Bool)
  /-- Equal digests end a resynchronisation (R364). -/
  | sendResumed
deriving DecidableEq, Repr

def State.alone (s : State) : Bool := bit (s.win! rPAIRST) 1
def State.egstop (s : State) : Bool := bit (s.win! rPAIRST) 2

/-- R362: the digest of slot y of domain d's output image against the partner's. -/
def State.pairAct (s : State) (d len : Nat) (y : VSlot) : PairAct :=
  if !s.isPair d || !bit (s.win! rPAIRCTL) 10 then .send
  else
    let mine := sha256 ({ y with data := SMap.writeLE y.data 4 4 0 }.bytes len)
    let theirs := (s.pair.theirs.find? fun g => g.d == d && g.u == y.ver).map (·.h)
    if s.egstop then
      (if theirs == some mine && (s.pair.restart.any fun x => x.1 == d && decide (x.2.toNat ≤ (s.dom d).cyc.toNat)) then .sendResumed
        else .suppress false)
    else if s.alone then .send
    else if s.pair.late.contains d then (if s.preferred then .sendDiverged else .suppress true)
    else match theirs with
      | some h => if h = mine then .send else if s.preferred then .sendDiverged else .suppress true
      | none => .sendUnverified

/-- DIVERGE (R363): the tenant of the output image is terminated; one handler packet goes to the ERRQ of the domain's lowest valid slot
of that tenant. -/
def State.diverge (s : State) (d : Nat) (u : Word32) : State :=
  let t := s.cdTenant d
  let s := s.killTenant t cDIVERGE 0 (word u.toNat) 0xFFFF false
  match findNat (fun x => s.slotValid d x && s.slotOwner d x == t) 0 256 with
  | some x => s.reportLaunch (s.untaken t (.slot d x) (s.slotPkt d x)) cDIVERGE 0 (word u.toNat) 0xFFFF
  | none => s

/-- PAIRST's counts: DIVCNT at 16, UNVER at 32; they saturate. -/
def State.countPair (s : State) (lo n : Nat) : State :=
  let r := s.win! rPAIRST
  s.setWin rPAIRST (putFld r lo n (Nat.min (2 ^ n - 1) (fld r lo n + 1)))

/-- The enabled egress streams of a domain (R357). -/
def State.egStreams (s : State) (d : Nat) : List Nat :=
  (List.range 16384).filter fun e => bit (s.win! (rEG e 0)) 9 && fld (s.win! (rEG e 0)) 6 3 == d

/-- One stream at an egress instant (R356, R357): stale, suppressed or queued. -/
def State.egressOne (s : State) (m : Word) (len : Nat) (u : Option VSlot) (sup : Bool) (e : Nat) : State :=
  let c := s.win! (rEG e 0)
  let src := s.win! (rEG e 8)
  let off := fld src 0 24
  let n := fld src 32 11
  let stale : Bool := match u with
    | none => true
    | some y => serialLater (m.truncate 32 - BitVec.ofNat 32 (fld c 16 8)) y.ver
  if len < off + n then s.countEg e 32 16
  else
    let s := if stale then s.countEg e 32 16 else s
    if stale && bit c 11 then s
    else match u with
      | none => s
      | some y =>
        if sup then s.countEg e 48 16
        else
          let bs := (List.range n).map fun i => SMap.read 0 y.data (off + i)
          let p := fld c 0 3
          let f : OutFrame := { stream := e, cls := BitVec.ofNat 3 (fld c 3 3), bytes := s.buildFrame e (m.toNat % 65536) bs }
          let x := s.port p
          { s with ports := SMap.write {} s.ports p { x with queue := x.queue ++ [f] } }

/-- EGRESS (R356, R357, R362): at T(m) + EGOFF the output of the domain is resolved, compared with the partner's and queued. -/
def execEgress (d : BitVec 3) (s : State) : Out :=
  let n := d.toNat
  let x := s.dom n
  let m := x.egress
  if !x.en || x.cyc != m || decide (s.dtime < s.cycleAt n m.toNat + s.cdEgoff n) then .next s
  else
    let s := s.setDom n { x with egress := m + 1 }
    let (key, len) := (s.outImage n).getD (0, 0)
    let u := if len = 0 then none
      else newestBy (fun y => y.st == .sealed && serialLe y.ver (m.truncate 32)) (s.ring key 2)
    let act := match u with
      | some y => s.pairAct n len y
      | none => if s.egstop && s.isPair n then .suppress false else .send
    let sup := match act with
      | .suppress _ => true
      | _ => false
    let s : State := match act, u with
      | .sendDiverged, _ => { s.countPair 16 16 with pair := { s.pair with late := s.pair.late.filter (· != n) } }
      | .sendUnverified, some y => { s.countPair 32 32 with pair := { s.pair with unver := (n, y.ver) :: s.pair.unver } }
      | .suppress true, _ => ({ s with pair := { s.pair with late := s.pair.late.filter (· != n) } }).setWinFld rPAIRST 2 1 1
      | .sendResumed, _ => (({ s with pair := { s.pair with restart := [] } }).setWinFld rPAIRST 2 2 0).setWinFld rPAIRCTL 12 1 0
      | _, _ => s
    let s := (s.egStreams n).foldl (fun s e => s.egressOne m len u sup e) s
    let s := (List.range 8).foldl (fun s p => s.sendPort p) s
    .next (match act, u with
      | .suppress true, some y => s.diverge n y.ver
      | _, _ => s)

/-- EGCFG, EGSRC and EGHDR of a stream in range (R357). -/
def egOk (src hdr : Word) : Bool :=
  let n := fld src 32 11
  let h := fld hdr 32 6
  decide (46 ≤ n) && decide (n ≤ 1500) && decide (14 ≤ h) && decide (h ≤ 22) && decide (fld hdr 6 18 * 64 + h ≤ 0x1000000)

/-- EGCFG written (R357): EN = 1 takes effect only with the fields in range. -/
def State.writeEgcfg (s : State) (e : Nat) (v : Word) : State :=
  let v := v &&& 0xFF0FFF
  s.setWin (rEG e 0) (if egOk (s.win! (rEG e 8)) (s.win! (rEG e 0x10)) then v else putFld v 9 1 0)

/-- EGSRC or EGHDR written (R357): of an enabled stream, ignored when it would put a field out of range. -/
def State.writeEgfield (s : State) (e off : Nat) (v : Word) : State :=
  let src := if off = 8 then v &&& 0x7FF00FFFFFF else s.win! (rEG e 8)
  let hdr := if off = 8 then s.win! (rEG e 0x10) else v &&& 0x3F00FFFFC0
  if bit (s.win! (rEG e 0)) 9 && !egOk src hdr then s
  else (s.setWin (rEG e 8) src).setWin (rEG e 0x10) hdr

/-- EGRESS_STREAM_ENABLE (R357). -/
def execEgressStreamEnable (e : BitVec 14) (v : BitVec 64) (s : State) : Out :=
  .next (s.writeEgcfg e.toNat v)

/-- EGCNT_READ (R357). -/
def execEgcntRead (e : BitVec 14) (s : State) : Out :=
  let r := rEG e.toNat 0x18
  .next ({ s with bus := s.win! r }.setWin r 0)

/-! ### Version windows (R358, R359) -/

/-- VWOPEN written (R359). -/
def State.vwOpen (s : State) (w : Nat) : State :=
  let b := s.win! (rVW w 0)
  let c := s.win! (rVW w 8)
  let arg := s.win! (rVW w 0x10)
  let t : Byte := BitVec.ofNat 8 (fld b 56 8)
  let base := fld b 12 44 * 4096
  let mode := fld c 0 2
  let r := (List.range 64).findSome? fun p => match s.ownRegion p t base with
    | some r => if r.kind = kVERSIONED ∧ r.base = base then some r else none
    | none => none
  match r with
  | none => s.vwStat w 0 6 0
  | some r =>
    if mode = 3 then s.vwStat w 0 6 0
    else
      let cyc : Word32 := (s.cycleOf (fld c 2 3)).truncate 32
      let a : Word32 := if mode = 2 then cyc - BitVec.ofNat 32 (fld arg 0 31) else BitVec.ofNat 32 (fld arg 0 32)
      let dl := fld c 32 32
      let x : VWin := { ring := s.regionKey r, slot := 0, size := r.len, mode := BitVec.ofNat 2 mode, arg := a, deadline := if dl = 0xFFFFFFFF then none else some (s.dtime + dl), fbk := r.fbk, frec := r.frec }
      let s : State := ({ s with vwins := SMap.write {} s.vwins w x }).vwStat w 1 0 0
      s.vwTry w (s.ring x.ring r.depth)

/-- VWOPEN (R359): any write releases the pin and starts a resolution. -/
def execVwopen (w : BitVec 6) (s : State) : Out :=
  .next (s.vwOpen w.toNat)

/-- VW_DEADLINE (R359): the deadline instant has passed with the window unresolved. -/
def execVwDeadline (w : BitVec 6) (s : State) : Out :=
  let n := w.toNat
  .next (if s.vwBusy n && s.vwPast n then s.vwLate n else s)

/-- n bytes of a window's aperture from o on are a poisoned fallback record's (R299, R375). -/
def State.apertureBad (s : State) (w o n : Nat) : Bool :=
  let x : VWin := SMap.read {} s.vwins w
  s.vwRes w == 2 && decide (o < x.size) && s.isPoisoned (x.frec + o % 64) n

/-- Byte o of a window's aperture (R359). -/
def State.aperture (s : State) (w o : Nat) : Byte :=
  let x : VWin := SMap.read {} s.vwins w
  if x.size ≤ o ∨ s.vwBusy w then 0xFF
  else match s.vwRes w with
    | 1 => SMap.read 0 (slotAt (s.ring x.ring 2) x.slot).data o
    | 2 => s.physByte (x.frec + o % 64)
    | _ => 0xFF

end Sys2Proof.Machine
end

