-- ==== Sys2Proof/Machine/Links.lean ====
section
/-! DEFINITION. The redundant pair's own steps (R361 to R365), die-to-die links (R397 to R401), Enryn ports (R407, R408), power
envelopes (R414) and start-up (R409 to R413). -/

namespace Sys2Proof

/-- The register blocks that exist (R397). -/
def LinkEnd.ok (m : LinkEnd) : Bool := if m.die.toNat < 4 then decide (m.u.toNat ≤ 2) else m.die.toNat == 4 && decide (m.u.toNat ≤ 4)

/-- The end a module joins (R397); none for the CPC. -/
def LinkEnd.other (m : LinkEnd) : Option LinkEnd :=
  if m.die.toNat < 4 then
    match m.u.toNat with
    | 0 => some { die := m.die ^^^ 1, u := 0 }
    | 1 => some { die := m.die ^^^ 2, u := 1 }
    | _ => some { die := 4, u := m.die }
  else if m.u.toNat < 4 then some { die := m.u, u := 2 } else none

/-- Both ends of a link. -/
def LinkEnd.both (m : LinkEnd) : List LinkEnd := m :: m.other.toList

def LinkEnd.reg (m : LinkEnd) (off : Nat) : Nat := Machine.ucReg m.die.toNat m.u.toNat off
def LinkEnd.key (m : LinkEnd) : Nat := 8 * m.die.toNat + m.u.toNat

/-- Two links are the same link. -/
def LinkEnd.sameLink (a b : LinkEnd) : Bool := a == b || a.other == some b

end Sys2Proof

namespace Sys2Proof.Machine

/-! ### The pair (R361 to R365) -/

/-- The PAIR domains that run. -/
def State.pairDoms (s : State) : List Nat := (List.range 8).filter fun d => s.isPair d && (s.dom d).en

/-- A resynchronisation begins: the output tenants of the PAIR domains will be held (R364). -/
def State.startResync (s : State) : State :=
  let s := (s.setWinFld rPAIRST 3 1 1).setWinFld rPAIRCTL 12 1 1
  { s with pair := { s.pair with holding := s.pairDoms, restart := [] } }

/-- RESYNC = 1 is written (R364): the partner is asked. -/
def State.askResync (s : State) : State := State.startResync { s with sent := .pairAsk :: s.sent }

/-- The pair is switched off: what a resynchronisation held goes on, and the pair's history is forgotten (R363). -/
def State.endPair (s : State) : State :=
  let ps := (List.range 64).filter s.pairHolds
  ps.foldl (fun s p => s.pairFrees p) { s with pair := {} }

/-- PAIRCTL written (R361, R363): EN = 0 clears EGSTOP; RESYNC = 1 requests a resynchronisation. -/
def State.writePairctl (s : State) (v : Word) : State :=
  let old := s.win! rPAIRCTL
  let s1 := s.setWin rPAIRCTL ((v &&& 0xFFFF0FFF) ||| (old &&& 0x1000))
  if !bit v 10 then
    (((s.endPair.setWin rPAIRCTL (v &&& 0xFFFF0FFF))).setWinFld rPAIRST 0 4 0).setWinFld rPAIRCTL 12 1 0
  else
    let s : State := if bit old 10 then s1 else { s1 with pair := { s1.pair with heard := s1.dtime } }
    if bit v 12 then s.askResync else s

/-- PAIRCTL_EN_WRITE (R363). -/
def execPairctlEnWrite (v : BitVec 64) (s : State) : Out :=
  .next (s.writePairctl v)

/-- PAIRST_READ (R361): DIVCNT and UNVER are returned and cleared. -/
def execPairstRead (s : State) : Out :=
  .next (({ s with bus := s.win! rPAIRST }.setWinFld rPAIRST 16 16 0).setWinFld rPAIRST 32 32 0)

/-- PAIR_DIGEST (R362): the partner's digest of version u of domain d arrives; a mismatch with a version already sent acts at the next
instant. -/
def execPairDigest (d : BitVec 3) (u : BitVec 32) (h : BitVec 256) (s : State) : Out :=
  let n := d.toNat
  let sent := s.pair.unver.contains (n, u)
  let mine := (s.pair.mine.find? fun g => g.d == n && g.u == u).map (·.h)
  let late := if sent && mine.isSome && mine != some h && !s.pair.late.contains n then n :: s.pair.late else s.pair.late
  let p : PairSt := { s.pair with theirs := { d := n, u := u, h := h } :: s.pair.theirs, unver := s.pair.unver.filter (· != (n, u)), late := late }
  .next (State.heardNow { s with pair := p })

/-- PAIR_LOSS (R365): nothing has arrived from the partner for LOSSTO µs. -/
def execPairLoss (s : State) : Out :=
  let c := s.win! rPAIRCTL
  .next (if bit c 10 && decide (s.pair.heard + 1000 * fld c 16 16 ≤ s.dtime) then s.setWinFld rPAIRST 0 2 2 else s)

/-- RESYNC (R364): on the preferred package the partner asks; on the other RESYNC = 1 is written. -/
def execResync (s : State) : Out :=
  .next (if !bit (s.win! rPAIRCTL) 10 then s else if s.preferred then s.heardNow.startResync else s.askResync)

/-- The first cycle of a domain that starts at device time now or later (R364). -/
def State.nextCycle (s : State) (d : Nat) : Word :=
  if s.dtime ≤ s.cdT0 d ∨ s.cdLen d = 0 then word (s.cdBase d) else word (s.cdBase d + cdiv (s.dtime - s.cdT0 d) (s.cdLen d))

/-- The tenant of a domain is held for a resynchronisation wherever it runs, and nothing of it moves (R202, R364). -/
def State.pairQuiet (s : State) (d : Nat) : Bool :=
  (List.range 64).all fun p => s.running p != some (s.cdTenant d) || (s.pairHolds p && (s.part p).stopped && s.drained p (s.cdTenant d))

/-- A region of the tenant that a PAIRSET register names (R361). -/
def State.pairRegion (s : State) (r : Word) : Option RegionEnt :=
  if fld r 12 44 = 0 then none
  else (List.range 64).findSome? fun p => s.ownRegion p (BitVec.ofNat 8 (fld r 56 8)) (fld r 12 44 * 4096)

/-- A PAIRSET region as it stands (R364). -/
def State.pairData (s : State) (setw : Word) (r : RegionEnt) : PairData :=
  { setw := setw
    bytes := (List.range r.len).map fun i => (s.vaByte r.tenant (r.base + i)).getD 0
    ring := if r.kind = kVERSIONED then s.ring (s.regionKey r) r.depth else []
    seqs := (List.range (r.len / 8)).filterMap fun i => (s.paOf r.tenant (r.base + 8 * i)).bind fun pa =>
      let n := SMap.read 0 s.seqs (pa / 8)
      if n = 0 then none else some (i, n)
    trees := s.trees.filter fun x => x.tenant == r.tenant && decide (r.base ≤ x.tb) && decide (x.tb < r.base + r.len) }

/-- A slot's bytes in the one form of a map. -/
def VSlot.tidy (x : VSlot) : VSlot := { x with data := x.data.foldl (fun m e => SMap.write 0 m e.1 e.2) [] }

/-- A PAIRSET region arrives (R364): its bytes, versions, next(x) values and sum-trees become the sender's. -/
def State.landPair (s : State) (x : PairData) : State :=
  match s.pairRegion x.setw with
  | none => s
  | some r =>
    let word' := fun (i : Nat) => (s.paOf r.tenant (r.base + 8 * i)).map (· / 8)
    let s := (List.range (Nat.min x.bytes.length r.len)).foldl (fun s i => s.vaWrite r.tenant (r.base + i) 1 (x.bytes.getD i 0).toNat) s
    let s := if r.kind = kVERSIONED ∧ x.ring ≠ [] then s.ringChanged (s.regionKey r) (x.ring.map VSlot.tidy) else s
    let seqs := (List.range (r.len / 8)).foldl (fun m i => match word' i with
      | some a => SMap.write 0 m a (((x.seqs.find? fun y => y.1 == i).map (·.2)).getD 0)
      | none => m) s.seqs
    let mine := fun (y : Tree) => y.tenant == r.tenant && decide (r.base ≤ y.tb) && decide (y.tb < r.base + r.len)
    let here := (x.trees.filter mine).filterMap fun y => (s.paOf r.tenant y.tb).map fun pa => { y with key := pa }
    { s with seqs := seqs, trees := s.trees.filter (fun y => !mine y) ++ here }

/-- A region of a resynchronisation arrives from the partner. -/
def State.pairArrives (s : State) (x : PairData) : State :=
  if bit (s.win! rPAIRCTL) 10 ∧ bit (s.win! rPAIRST) 3 ∧ !s.preferred then s.heardNow.landPair x else s

/-- The restart cycles of a resynchronisation arrive from the partner. -/
def State.pairStarts (s : State) (l : List (Nat × Word)) : State :=
  if bit (s.win! rPAIRCTL) 10 ∧ bit (s.win! rPAIRST) 3 ∧ !s.preferred then
    State.heardNow { s with pair := { s.pair with restart := l } }
  else s

/-- Every PAIRSET region, and the restart cycles, as the preferred package sends them (R364). -/
def State.pairCopies (s : State) (l : List (Nat × Word)) : List Outbound :=
  .pairStart l :: (List.range 64).filterMap fun i =>
    (s.pairRegion (s.win! (rPAIRSET i))).map fun r => .pairCopy (s.pairData (s.win! (rPAIRSET i)) r)

/-- RESYNC_COPY_END (R364): the preferred package, its tenants held, has sent every PAIRSET region and restarts each domain from the first cycle
that starts from now on; the other has received them, and its restart cycles with them. -/
def execResyncCopyEnd (s : State) : Out :=
  let ds := s.pair.holding
  let l := if s.preferred then ds.map fun d => (d, s.nextCycle d) else s.pair.restart
  if !bit (s.win! rPAIRST) 3 || (s.preferred && !ds.all s.pairQuiet) || l.isEmpty then .next s
  else
    let s : State := if s.preferred then { s with sent := s.pairCopies l ++ s.sent } else s
    let s : State := { s with pair := { s.pair with restart := l, unver := [], late := [], heard := s.dtime } }
    let s := (s.setWinFld rPAIRST 3 1 0).setWinFld rPAIRST 0 2 1
    .next (if s.egstop then s else s.setWinFld rPAIRCTL 12 1 0)

/-! ### Die-to-die links (R397 to R401) -/

/-- Every link, by one of its ends. -/
def allLinks : List LinkEnd :=
  [⟨0, 0⟩, ⟨2, 0⟩, ⟨0, 1⟩, ⟨1, 1⟩, ⟨4, 0⟩, ⟨4, 1⟩, ⟨4, 2⟩, ⟨4, 3⟩, ⟨4, 4⟩]

/-- Link states (R398). -/
def lACTIVE : Nat := 0
def lPAUSING : Nat := 1
def lPAUSED : Nat := 2
def lTRAINING : Nat := 3
def lDOWN : Nat := 4

def State.linkState (s : State) (m : LinkEnd) : Nat := fld (s.win! (m.reg 0x10)) 0 3
def State.linkSt (s : State) (m : LinkEnd) : LinkSt := SMap.read {} s.links m.key
def State.setLinkSt (s : State) (m : LinkEnd) (x : LinkSt) : State := { s with links := SMap.write {} s.links m.key x }

/-- f at both ends of a link. -/
def State.atBoth (s : State) (m : LinkEnd) (f : State → LinkEnd → State) : State := m.both.foldl f s

/-- A state of the link, at both ends, from now on. -/
def State.setLink (s : State) (m : LinkEnd) (st : Nat) (retrain fromAct : Bool) : State :=
  s.atBoth m fun s e => (s.setWinFld (e.reg 0x10) 0 3 st).setLinkSt e { s.linkSt e with retrain := retrain, fromAct := fromAct, since := s.dtime }

/-- An event bit of UCEVT at both ends (R399). -/
def State.linkEvent (s : State) (m : LinkEnd) (b : Nat) : State := s.atBoth m fun s e => s.setWinFld (e.reg 0x18) b 1 1

/-- A link goes DOWN (R398): DOWNEV or TRFAIL is set; module 4 takes the part with it. -/
def State.linkGone (s : State) (m : LinkEnd) (b : Nat) : State :=
  let s := (s.setLink m lDOWN false false).linkEvent m b
  if m.other.isSome then s else { s with dead := true, sent := .internalError :: s.sent }

/-- Another link is PAUSING, PAUSED or TRAINING (R398). -/
def State.otherBusy (s : State) (m : LinkEnd) : Bool :=
  allLinks.any fun e => !e.sameLink m && (s.linkState e == lPAUSING || s.linkState e == lPAUSED || s.linkState e == lTRAINING)

/-- Without this link, some die would have no ACTIVE link (R398). -/
def State.cutsOff (s : State) (m : LinkEnd) : Bool :=
  (List.range 5).any fun d => !(allLinks.any fun e =>
    !e.sameLink m && s.linkState e == lACTIVE && (e.die.toNat == d || (e.other.map (·.die.toNat)) == some d))

/-- PAUSE written (R398). -/
def State.pauseLink (s : State) (m : LinkEnd) : State :=
  if s.linkState m ≠ lACTIVE ∨ m.other.isNone ∨ s.otherBusy m ∨ s.cutsOff m then s.linkEvent m 0
  else s.setLink m lPAUSING false false

/-- PAUSE (R398). -/
def execPause (m : LinkEnd) (s : State) : Out :=
  .next (if m.ok then s.pauseLink m else s)

/-- Two valid entries of a UCMAP name one lane (R399). -/
def mapClash (v : Word) : Bool :=
  let es := ((List.range 4).filter fun i => bit v (8 * i + 7)).map fun i => fld v (8 * i) 6
  es.eraseDups.length != es.length

/-- An end whose settings refuse a RETRAIN (R399). -/
def State.endRefuses (s : State) (e : LinkEnd) : Bool := mapClash (s.win! (e.reg 0x28)) || fld (s.win! (e.reg 8)) 0 2 == 3

/-- The settings the training applies are those at the RETRAIN (R398, R448). -/
def State.latchEnds (s : State) (m : LinkEnd) : State :=
  s.atBoth m fun s e => s.setLinkSt e { s.linkSt e with wid := fld (s.win! (e.reg 8)) 0 2, umap := s.win! (e.reg 0x28) }

/-- RETRAIN written (R398, R399). -/
def State.retrainLink (s : State) (m : LinkEnd) : State :=
  let st := s.linkState m
  if m.both.any s.endRefuses then s.linkEvent m 0
  else if st = lACTIVE then
    if s.otherBusy m ∨ (m.other.isSome ∧ s.cutsOff m) then s.linkEvent m 0
    else (s.latchEnds m).setLink m lPAUSING true true
  else if st = lPAUSED ∨ st = lDOWN then (s.latchEnds m).setLink m lTRAINING false false
  else s.linkEvent m 0

/-- RETRAIN (R398). -/
def execRetrain (m : LinkEnd) (s : State) : Out :=
  .next (if m.ok then s.retrainLink m else s)

/-- RESUME written (R398). -/
def State.resumeLink (s : State) (m : LinkEnd) : State :=
  if s.linkState m = lPAUSED then s.setLink m lACTIVE false false else s.linkEvent m 0

/-- RESUME (R398). -/
def execResume (m : LinkEnd) (s : State) : Out :=
  .next (if m.ok then s.resumeLink m else s)

/-- UCCMD written (R399). -/
def State.writeUccmd (s : State) (m : LinkEnd) (v : Word) : State :=
  match fld v 0 2 with
  | 0 => s
  | 1 => s.pauseLink m
  | 2 => s.retrainLink m
  | _ => s.resumeLink m

/-- PAUSE_DONE (R398): every sent flit is acknowledged, within 2 µs. -/
def execPauseDone (m : LinkEnd) (s : State) : Out :=
  let x := s.linkSt m
  if !m.ok || s.linkState m != lPAUSING || decide (x.since + 2000 < s.dtime) then .next s
  else .next (if x.retrain then s.setLink m lTRAINING false true else s.setLink m lPAUSED false false)

/-- PAUSE_TIMEOUT (R398): 2 µs have passed with a flit unacknowledged. -/
def execPauseTimeout (m : LinkEnd) (s : State) : Out :=
  if !m.ok || s.linkState m != lPAUSING || decide (s.dtime < (s.linkSt m).since + 2000) then .next s
  else .next (s.linkGone m 2)

/-- The spares in use after training at a width: valid ones that name a lane of the trained half (R399). -/
def sparesUsed (map : Word) (wid : Nat) : Nat :=
  ((List.range 4).filter fun i => bit map (8 * i + 7) &&
    (wid == 0 || (fld map (8 * i) 6 / 32 == (if wid = 1 then 0 else 1)))).length

/-- TRAINING_END (R398, R448): trained at WID within 20 µs, with one WID at both ends, or failed. -/
def execTrainingEnd (m : LinkEnd) (ok : Bool) (s : State) : Out :=
  if !m.ok || s.linkState m != lTRAINING then .next s
  else
    let x := s.linkSt m
    let same := m.both.all fun e => (s.linkSt e).wid == x.wid
    if ok && same && decide (s.dtime ≤ x.since + 20000) then
      let s := s.atBoth m fun s e =>
        let y := s.linkSt e
        (s.setWinFld (e.reg 0x10) 4 2 y.wid).setWinFld (e.reg 0x10) 6 3 (sparesUsed y.umap y.wid)
      .next (s.setLink m (if x.fromAct then lACTIVE else lPAUSED) false false)
    else .next (s.linkGone m 3)

/-- ALERT of an end (R400): the named gathering's kernel core, or hart 0 for module 4. -/
def State.raiseAlert (s : State) (m : LinkEnd) : State :=
  let c := s.win! (m.reg 8)
  let n := (s.linkSt m).count
  if bit (s.win! (m.reg 0x18)) 1 || decide (n < fld c 8 8) then s
  else
    let s := s.setWinFld (m.reg 0x18) 1 1 1
    if m.die.toNat < 4 ∨ m.u.toNat < 4 then
      let d := if m.die.toNat < 4 then m.die.toNat else m.u.toNat
      s.bumpW (mkCid (gathOn d (fld c 16 4)) 8 0) 2
    else
      let h : Hart := SMap.read {} s.harts 0
      { s with harts := SMap.write {} s.harts 0 { h with irq := h.irq + 1 }, sent := .alert 0 :: s.sent }

/-- FLIT_RETRY (R399, R400). -/
def execFlitRetry (m : LinkEnd) (s : State) : Out :=
  if !m.ok then .next s else
  let r := s.win! (m.reg 0x20)
  let s := s.setWin (m.reg 0x20) (word (Nat.min 0xFFFFFFFF (fld r 0 32 + 1)))
  let x := s.linkSt m
  let now := s.dtime / 1000000
  .next ((s.setLinkSt m { x with count := (if x.period = now then x.count else 0) + 1, period := now }).raiseAlert m)

/-- RETRY_INTERVAL (R400): a 1 ms interval ends and the next begins, once the device time is a multiple of 1,000,000 ns past the one that
was counted. -/
def execRetryInterval (m : LinkEnd) (s : State) : Out :=
  let now := s.dtime / 1000000
  if !m.ok || (s.linkSt m).period == now then .next s
  else .next ((s.setLinkSt m { s.linkSt m with count := 0, period := now }).raiseAlert m)

/-- LINK_DOWN (R398): a flit of an ACTIVE link still fails after 16 retries. -/
def execLinkDown (m : LinkEnd) (s : State) : Out :=
  .next (if m.ok && s.linkState m == lACTIVE then s.linkGone m 2 else s)

/-- UCEVT_CLEAR (R399). -/
def execUcevtClear (m : LinkEnd) (v : BitVec 64) (s : State) : Out :=
  .next (if m.ok then s.setWin (m.reg 0x18) (s.win! (m.reg 0x18) &&& ~~~v) else s)

/-- UCRETRY_READ (R399). -/
def execUcretryRead (m : LinkEnd) (s : State) : Out :=
  if m.ok then .next ({ s with bus := s.win! (m.reg 0x20) }.setWin (m.reg 0x20) 0) else .next s

/-- UCLERR_READ (R399). -/
def execUclerrRead (m : LinkEnd) (j : BitVec 4) (s : State) : Out :=
  let r := m.reg (0x100 + 8 * j.toNat)
  if m.ok then .next ({ s with bus := s.win! r }.setWin r 0) else .next s

/-- A receive lane counts an error (R399); spare lanes have no count. -/
def State.countLane (s : State) (m : LinkEnd) (lane : Nat) : State :=
  if !m.ok || decide (64 ≤ lane) then s
  else
    let r := m.reg (0x100 + 8 * (lane / 4))
    let v := s.win! r
    s.setWin r (putFld v (16 * (lane % 4)) 16 (Nat.min 0xFFFF (fld v (16 * (lane % 4)) 16 + 1)))

/-! ### Enryn ports (R407, R408) -/

/-- This package's device number (R408). -/
def State.ownDev (s : State) : Nat := fld (s.win! rENDEV) 0 8

/-- A port with this many lanes: x8, x4 with DEG = 1, or down (R407). -/
def State.enLanes (s : State) (p n : Nat) : Option Nat :=
  if 8 ≤ n then some 8 else if 4 ≤ n ∧ bit (s.win! (rENPCTL p)) 1 then some 4 else none

/-- R408: with no route left, pulls fail (R316) and messages in flight are refused GATE. -/
def State.lostRoutes (s : State) : State :=
  let s := (s.pulls.filter fun x => (s.routeTo (fld (s.win! (rMIGCTL x.2.tenant.toNat)) 0 8)).isNone).foldl
    (fun s x => s.pullFails x.2) s
  { s with flights := s.flights.map fun x =>
      match x.2.remote, x.2.src with
      | some d, some cid =>
        if (s.routeTo d.toNat).isNone && x.2.answer == .pending then
          (x.1, { x.2 with answer := .refused (header kREFUSE rGATE (hH x.2.msg.hdr) (s.pcidOf cid) (s.pcidOf cid) s.ownDev false (hSeq x.2.msg.hdr)) })
        else x
      | _, _ => x }

/-- A port goes down (R407). -/
def State.enDown (s : State) (p : Nat) : State := (s.setWinFld (rENPST p) 0 6 0).lostRoutes

/-- ENRYN_LANE_LOSS (R407): the port is left with so many lanes. -/
def execEnrynLaneLoss (p : BitVec 2) (lanes : BitVec 4) (s : State) : Out :=
  let n := p.toNat
  if !s.enUp n then .next s
  else match s.enLanes n lanes.toNat with
    | some k => .next (s.setWinFld (rENPST n) 2 4 k)
    | none => .next (s.enDown n)

/-- ENRYN_PORT_UP (R408): a port in training comes up, with its lanes and its peer, or fails. -/
def execEnrynPortUp (p : BitVec 2) (lanes : BitVec 4) (peer : BitVec 8) (s : State) : Out :=
  let n := p.toNat
  if fld (s.win! (rENPST n)) 0 2 ≠ 1 then .next s
  else match s.enLanes n lanes.toNat with
    | some k => .next (s.setWin (rENPST n) (word (2 + k * 4 + peer.toNat * 2 ^ 8)))
    | none => .next (s.enDown n)

/-- ENPCTL written (R408). -/
def State.writeEnpctl (s : State) (p : Nat) (v : Word) : State :=
  let was := bit (s.win! (rENPCTL p)) 0
  let s := s.setWin (rENPCTL p) (v &&& 3)
  if bit v 0 = was then s
  else if bit v 0 then s.setWinFld (rENPST p) 0 6 1
  else s.enDown p

/-- ENRT written (R408): traffic that no route is left for fails (R316). -/
def State.writeEnrt (s : State) (dev : Nat) (v : Word) : State := (s.setWin (rENRT dev) (v &&& 0x3F)).lostRoutes

/-- ENRYN_PORT_ENABLE (R408). -/
def execEnrynPortEnable (p : BitVec 2) (v : BitVec 64) (s : State) : Out :=
  .next (s.writeEnpctl p.toNat v)

/-- ENRYN_FLIT_RETRY (R408): a flit is retried, or a codeword corrected. -/
def execEnrynFlitRetry (p : BitVec 2) (fec : Bool) (s : State) : Out :=
  let r := rENPCNT p.toNat
  let lo := if fec then 32 else 0
  .next (s.setWin r (putFld (s.win! r) lo 32 (Nat.min 0xFFFFFFFF (fld (s.win! r) lo 32 + 1))))

/-- ENPCNT_READ (R408). -/
def execEnpcntRead (p : BitVec 2) (s : State) : Out :=
  let r := rENPCNT p.toNat
  .next ({ s with bus := s.win! r }.setWin r 0)

/-! ### Power (R414) -/

/-- PWRENV written (R414): ENV = 3 is ignored. -/
def State.writePwrenv (s : State) (v : Word) : State :=
  if fld v 0 2 = 3 then s
  else ({ s with envReq := some (BitVec.ofNat 2 (fld v 0 2)) }).setWin rPWRENV (word (fld v 0 2))

/-- PWRENV_WRITE (R414). -/
def execPwrenvWrite (v : BitVec 64) (s : State) : Out :=
  .next (s.writePwrenv v)

/-- ENVELOPE_CHANGE (R414): with domain 0 not enabled, a requested change takes effect. -/
def execEnvelopeChange (s : State) : Out :=
  match s.envReq with
  | some e => .next (if (s.dom 0).en then s else s.setEnvelope e.toNat false)
  | none => .next s

/-- THERMAL_THROTTLE (R414): at 105 °C the part moves to the next lower envelope. -/
def execThermalThrottle (s : State) : Out :=
  let e := fld (s.win! rPWRST) 0 2
  .next (s.setWin rPWRST (word (Nat.min 2 (e + 1) + 4)))

/-! ### Start-up (R409 to R413) -/

/-- A firmware image's checks, in order: 0 accepted, 2 format, 3 SVN, 4 signature (R409 to R411). -/
def State.imageError (s : State) (img : List Byte) : Nat :=
  let klen := natAt img 12 4
  let clen := natAt img 16 4
  let n := 64 + klen + clen
  if natAt img 0 4 ≠ 0x4D524946 ∨ natAt img 4 4 ≠ 1 ∨ klen % 4 ≠ 0 ∨ 2 ^ 20 < klen ∨ clen % 4 ≠ 0 ∨ 2 ^ 23 < clen
      ∨ natAt img 20 4 ≠ 16224 ∨ natAt img 24 40 ≠ 0 ∨ img.length < n + 16224 then 2
  else if natAt img 8 4 < s.svnMin then 3
  else if !Config.signatureValid (sha256 (img.take n)) ((img.drop n).take 16224) then 4
  else 0

/-- A field of BOOTST (R409). -/
def State.bootFld (s : State) (lo n v : Nat) : State := s.setWinFld rBOOTST lo n v

/-- The bytes of a digest, first byte first. -/
def digestBytes (h : BitVec 256) : List Byte := (bytesOf 32 h.toNat).reverse

/-- R412, R413: an accepted image runs: MEAS and SVN are set, the micro-kernel is copied, both contexts of every kernel core and every
hart start, and STAGE is 5. -/
def State.runImage (s : State) (img : List Byte) (src : Nat) : State :=
  let klen := natAt img 12 4
  let clen := natAt img 16 4
  let h := digestBytes (sha256 (img.take (64 + klen + clen)))
  let s := (List.range 4).foldl (fun s i => s.setWin (rMEAS i) (word (natAt h (8 * i) 8))) s
  let s := ((s.bootFld 32 32 (natAt img 8 4)).bootFld 8 2 src).bootFld 0 4 5
  let s : State := { s with
    firmware := img
    mem := Memory.putBytes s.mem (Config.kernelPage % 2 ^ 27 * 4096) ((img.drop 64).take klen)
    harts := (List.range 16).map fun i => (i, { (SMap.read {} s.harts i : Hart) with run := true }) }
  (List.range 64).foldl (fun s g => s.kernelReset g) s

/-- An image of the host or a partner is checked in STAGE 4 (R413). -/
def State.tryImage (s : State) (img : List Byte) (src err : Nat) : State :=
  if s.imageError img = 0 then s.runImage img src else (s.bootFld 4 4 err).bootFld 0 4 3

/-- POWER_ON_RESET (R412): everything is as after reset, then the boot ROM reads and checks the flash image. What lies outside the
reset stays: the flash, SVNMIN, and the surroundings' schedule. -/
def execPowerOnReset (s : State) : Out :=
  let r : State := { State.reset with agenda := s.agenda, flash := s.flash, svnMin := s.svnMin }
  let img := s.flash
  if img.length < 64 then .next ((r.bootFld 4 4 1).bootFld 0 4 3)
  else match r.imageError img with
    | 0 => .next (r.runImage img 0)
    | e => .next ((r.bootFld 4 4 e).bootFld 0 4 3)

/-- RCVGO (R413): in recovery wait, the image the host wrote through BAR2 is checked. -/
def execRcvgo (len : BitVec 24) (s : State) : Out :=
  .next (if s.stage = 3 then s.tryImage (Memory.getBytes s.mem 0x10000000000 len.toNat) 1 5 else s)

/-- PARTNER_IMAGE (R413): a partner's running image arrives in recovery wait. -/
def execPartnerImage (img : List (BitVec 8)) (s : State) : Out :=
  .next (if s.stage = 3 then s.tryImage img 2 6 else s)

/-- RECOVERY_IMAGE_REQUEST (R413): this package, running, sends its image on a port that is up. -/
def execRecoveryImageRequest (p : BitVec 2) (s : State) : Out :=
  .next (if s.stage = 5 ∧ s.enUp p.toNat then { s with sent := .image p.toNat s.firmware :: s.sent } else s)

end Sys2Proof.Machine
end

