-- ==== Sys2Proof/Machine/Device.lean ====
section
/-! DEFINITION. The control windows as agents reach them (R394, R452): what each register lets be written, what a read clears, and the
writes that act. -/

namespace Sys2Proof.Machine

/-- A free value (log entry 7). -/
def State.fresh (s : State) : BitVec 512 × State := (Config.freeBits s.draw, { s with draw := s.draw + 1 })

/-- What a register does beyond holding a value. -/
inductive RegAct where
  | plain
  | slotmap (g c : Nat)
  | kresume
  | kcrst (g : Nat)
  | xinv
  | ginv (d : Nat)
  | pcfg (p : Nat)
  | preq (p : Nat)
  | pstat (p : Nat)
  | occnt (g : Nat)
  | domain (d : Nat)
  | cdctl (d : Nat)
  | cdcyc (d : Nat)
  | sfid (f : Nat)
  | slota (d x : Nat)
  | slotb (d x : Nat)
  | enrt (dev : Nat)
  | egcfg (e : Nat)
  | egfield (e off : Nat)
  | vwopen (w : Nat)
  | pairctl
  | lqcfg (q : Nat)
  | enpctl (p : Nat)
  | endev
  | rcvgo
  | pwrenv
  | uccmd (m : LinkEnd)
deriving DecidableEq, Repr

/-- A register: its plainly writable bits, the bits a read clears, the bits a one clears, whether it is write-only, what it does. -/
structure RegInfo where
  mask : Nat := 0
  rc   : Nat := 0
  w1c  : Nat := 0
  wo   : Bool := false
  act  : RegAct := .plain
deriving DecidableEq, Repr

/-- Bits lo to hi. -/
def bits (lo hi : Nat) : Nat := 2 ^ (hi + 1) - 2 ^ lo

/-- A plain register with these writable bits. -/
def rw (m : Nat) : Option RegInfo := some { mask := m }
def ro : Option RegInfo := some {}
def act (a : RegAct) : Option RegInfo := some { act := a }
def wo (a : RegAct) : Option RegInfo := some { wo := true, act := a }

/-- The block of a die-to-die module (R399). -/
def ucInfo (m : LinkEnd) (o : Nat) : Option RegInfo :=
  if o = 0 then wo (.uccmd m)
  else if o = 8 then rw (bits 0 1 + bits 8 19)
  else if o = 0x10 then ro
  else if o = 0x18 then some { w1c := 0xF }
  else if o = 0x20 then some { rc := bits 0 31 }
  else if o = 0x28 then rw 0xBFBFBFBF
  else if 0x100 ≤ o ∧ o < 0x180 then some { rc := bits 0 63 }
  else none

/-- A register of compute die d's window (R301, R320, R371, R385, R399); none where it has none. -/
def dieInfo (d off : Nat) : Option RegInfo :=
  if 0x100000 ≤ off ∧ off < 0x110000 then
    let g := gathOn d (off / 0x1000 % 16)
    let o := off % 0x1000
    if o < 288 then rw 0xFFFF
    else if o = 0x800 then rw (bits 0 17)
    else if o = 0x808 then act (.occnt g)
    else if 0x900 ≤ o ∧ o < 0x940 then act (.slotmap g ((o - 0x900) / 8))
    else if o = 0xA00 then rw (bits 12 51)
    else if o = 0xA08 then ro
    else if o = 0xA10 then wo .kresume
    else if o = 0xA18 then wo (.kcrst g)
    else none
  else if 0x200000 ≤ off ∧ off < 0x200800 then
    match off % 0x100 with
    | 0 => some { rc := bits 0 63 }
    | 8 => some { w1c := 1 }
    | 0x10 => rw 0xFFFF
    | _ => none
  else if off = 0x500000 then wo .xinv
  else if off = 0x500008 then ro
  else if off = 0x500010 then wo (.ginv d)
  else if off = 0x500018 then ro
  else if 0x800000 ≤ off ∧ off < 0x803000 then
    ucInfo { die := BitVec.ofNat 3 d, u := BitVec.ofNat 3 ((off - 0x800000) / 0x1000) } (off % 0x1000)
  else if d ≠ 0 then none
  else if off = 0x300000 ∨ off = 0x300018 ∨ off = 0x300020 then rw (bits 12 51)
  else if off = 0x300008 then rw (bits 16 51)
  else if off = 0x300010 then rw (bits 0 25)
  else if off = 0x300028 then rw (bits 0 22)
  else if 0x400000 ≤ off ∧ off < 0x404000 then
    match off % 0x40 with
    | 0 => rw (bits 12 51)
    | 8 => rw (bits 2 51)
    | 0x10 => rw (bits 0 25)
    | 0x18 => rw (bits 0 8)
    | 0x20 => rw (bits 0 22)
    | 0x28 => ro
    | 0x30 => rw (bits 0 8)
    | 0x38 => rw (bits 0 37 + bits 40 40)
    | _ => none
  else if 0x600000 ≤ off ∧ off < 0x601000 then
    let p := (off - 0x600000) / 0x40
    match off % 0x40 with
    | 0 => act (.pcfg p)
    | 8 => act (.preq p)
    | 0x10 => act (.pstat p)
    | 0x18 => rw (bits 12 51)
    | 0x20 => rw 0xFFFF
    | _ => none
  else if off = 0x601000 then rw 0xFFFF
  else if 0x700000 ≤ off ∧ off < 0x701000 then
    (if off % 0x10 = 0 then rw (bits 12 51) else rw (bits 0 10))
  else none

/-- A register of the I/O die's window (R341, R346, R349, R351, R357, R358, R361, R379, R399, R408, R409, R414). -/
def ioInfo (off : Nat) : Option RegInfo :=
  if off = 0 then rw (bits 0 3 + bits 8 15)
  else if off = 8 then ro
  else if 0x010000 ≤ off ∧ off < 0x010800 then
    let d := (off - 0x010000) / 0x100
    let dm := fun (m : Nat) => some { mask := m, act := .domain d : RegInfo }
    match off % 0x100 with
    | 0 => dm (bits 0 29)
    | 8 => dm (bits 0 63)
    | 0x10 => dm (bits 0 63)
    | 0x18 => dm (bits 0 29 + bits 32 61)
    | 0x20 => dm (bits 12 23 + bits 32 43)
    | 0x28 => dm (bits 12 63)
    | 0x30 => act (.cdctl d)
    | 0x38 => ro
    | 0x40 => act (.cdcyc d)
    | _ => none
  else if 0x100000 ≤ off ∧ off < 0x110000 then
    match off % 0x40 with
    | 0 => act (.sfid ((off - 0x100000) / 0x40))
    | 8 => rw (bits 0 29 + bits 32 62)
    | 0x10 => rw (bits 0 29 + bits 32 45)
    | 0x18 => rw (bits 0 47)
    | 0x20 => rw (bits 0 10 + bits 16 26 + bits 32 55)
    | 0x28 => some { rc := bits 0 63 }
    | _ => none
  else if 0x180000 ≤ off ∧ off < 0x181000 then (if off % 0x10 = 0 then rw (bits 0 63) else none)
  else if 0x1C0000 ≤ off ∧ off < 0x1C0800 then
    match off % 0x20 with
    | 0 => rw (bits 12 63)
    | 8 => rw (bits 0 2 + bits 8 31)
    | 0x10 => rw (bits 3 55)
    | _ => rw (bits 0 63)
  else if 0x200000 ≤ off ∧ off < 0x210000 then
    let d := (off - 0x200000) / 0x2000
    let x := off % 0x2000 / 0x20
    match off % 0x20 with
    | 0 => act (.slota d x)
    | 8 => act (.slotb d x)
    | 0x10 => some { rc := bits 16 47 }
    | _ => none
  else if 0x300000 ≤ off ∧ off < 0x380000 then
    let e := (off - 0x300000) / 0x20
    match off % 0x20 with
    | 0 => act (.egcfg e)
    | 8 => act (.egfield e 8)
    | 0x10 => act (.egfield e 0x10)
    | _ => some { rc := bits 0 63 }
  else if 0x380000 ≤ off ∧ off < 0x388000 then
    let o := off % 0x1000
    if o = 0 then rw (bits 0 12)
    else if 0x100 ≤ o ∧ o < 0x900 then rw (bits 0 7 + bits 32 61)
    else none
  else if 0x400000 ≤ off ∧ off < 0x401000 then
    let w := (off - 0x400000) / 0x40
    match off % 0x40 with
    | 0 => rw (bits 12 63)
    | 8 => rw (bits 0 4 + bits 32 63)
    | 0x10 => rw (bits 0 31)
    | 0x18 => wo (.vwopen w)
    | 0x20 => ro
    | _ => none
  else if off = 0x500000 then act .pairctl
  else if off = 0x500008 then some { rc := bits 16 63 }
  else if 0x500100 ≤ off ∧ off < 0x500300 then rw (bits 12 63)
  else if 0x600000 ≤ off ∧ off < 0x608000 then
    let q := (off - 0x600000) / 0x20
    match off % 0x20 with
    | 0 => rw (bits 12 63)
    | 8 => rw (bits 12 55)
    | 0x10 => act (.lqcfg q)
    | _ => some { rc := bits 0 63 }
  else if 0x700000 ≤ off ∧ off < 0x705000 then
    ucInfo { die := 4, u := BitVec.ofNat 3 ((off - 0x700000) / 0x1000) } (off % 0x1000)
  else if off = 0x780000 then act .endev
  else if 0x780100 ≤ off ∧ off < 0x780200 then
    match off % 0x40 with
    | 0 => act (.enpctl ((off - 0x780100) / 0x40))
    | 8 => ro
    | 0x10 => some { rc := bits 0 63 }
    | _ => none
  else if 0x781000 ≤ off ∧ off < 0x781800 then act (.enrt ((off - 0x781000) / 8))
  else if off = 0x7C0000 then ro
  else if off = 0x7C0008 then wo .rcvgo
  else if 0x7C0020 ≤ off ∧ off < 0x7C0040 then ro
  else if off = 0x7C0100 then act .pwrenv
  else if off = 0x7C0108 then ro
  else none

/-- The register at an 8-byte aligned physical address. -/
def regInfo (pa : Nat) : Option RegInfo :=
  match winAt pa with
  | .die d off => dieInfo d off
  | .io off => ioInfo off
  | _ => none

/-- XINV and XINVST act on the whole device through whichever die they are reached (R314). -/
def regHome (pa : Nat) : Nat :=
  match winAt pa with
  | .die _ off => if off = 0x500000 ∨ off = 0x500008 then dieReg 0 off else pa
  | _ => pa

/-- The bits of a register an access of n bytes at pa reaches (R452). -/
def halfMask (pa n : Nat) : Nat := if n = 8 then bits 0 63 else if pa % 8 = 4 then bits 32 63 else bits 0 31

/-- The value a register shows. -/
def State.regValue (s : State) (i : RegInfo) (pa : Nat) : Word :=
  match i.act with
  | .occnt g => word (s.occnt g)
  | .pstat p =>
    if bit (s.win! (rPREQ p)) 63 then putFld (s.win! pa) 32 32 (Nat.min 0xFFFFFFFF ((s.dtime - (s.part p).reqAt) / 1000)) else s.win! pa
  | .cdcyc d => s.cycleOf d
  | _ => s.win! pa

/-- A read of a register, and what the read clears. -/
def State.readReg (s : State) (pa n : Nat) (free : Unit → Word × State) : Word × State :=
  let a := regHome (pa / 8 * 8)
  match regInfo a with
  | none => free ()
  | some i =>
    if i.wo then free ()
    else
      let v := s.regValue i a
      let m := halfMask pa n
      let s := if i.rc = 0 then s else s.setWin a (v &&& ~~~(BitVec.ofNat 64 (i.rc &&& m)))
      (word ((v.toNat &&& m) / (if m = bits 32 63 then 2 ^ 32 else 1)), s)

/-- A read of n bytes of a control window (R359, R394, R452): n is 4 or 8, or 1, 2, 4, 8 in an aperture. The security block,
write-only registers and places of a window that no table lists return a free value (log entry 7). -/
def State.devRead (s : State) (pa n : Nat) : Word × State :=
  let free := fun (_ : Unit) => let (x, s') := s.fresh; (x.truncate 64, s')
  match winAt pa with
  | .none => (0, s)
  | .security _ => free ()
  | .io off =>
    if 0x1000000 ≤ off then
      let o := off - 0x1000000
      if o / 0x100000 < 64 then (word (natOf ((List.range n).map fun i => s.aperture (o / 0x100000) (o % 0x100000 + i))), s) else free ()
    else s.readReg pa n free
  | .die _ _ => s.readReg pa n free

/-- A write that acts; fromM: it is a hart's in M mode, which alone may write KCRST (R371). None: the write stalls (R314, R386). -/
def State.regAct (s : State) (a : RegAct) (pa : Nat) (v : Word) (mask : Nat) (fromM : Bool) : Option State :=
  match a with
  | .plain => some (s.setWin pa ((s.win! pa &&& ~~~(BitVec.ofNat 64 mask)) ||| (v &&& BitVec.ofNat 64 mask)))
  | .slotmap g c => some (s.writeSlotmap g c v)
  | .kresume => some (s.writeKresume v)
  | .kcrst g => some (if fromM && bit v 0 then s.kernelReset g else s)
  | .xinv => s.xinv v
  | .ginv d => s.ginv d v
  | .pcfg p => some (s.writePcfg p v)
  | .preq p => some (s.writePreq p v)
  | .pstat _ => some s
  | .occnt _ => some s
  | .domain d =>
    some (if bit (s.win! (rCDCTL d)) 0 then s
      else s.setWin pa ((s.win! pa &&& ~~~(BitVec.ofNat 64 mask)) ||| (v &&& BitVec.ofNat 64 mask)))
  | .cdctl d => some (s.writeCdctl d v)
  | .cdcyc _ => some s
  | .sfid f => some (if bit v 63 then s.writeSfid f v else s.setWin pa v)
  | .slota d x => some (s.writeSlota d x v)
  | .slotb d x => some (s.writeSlotb d x v)
  | .enrt dev => some (s.writeEnrt dev v)
  | .egcfg e => some (if bit v 9 then s.writeEgcfg e v else s.setWin pa (v &&& 0xFF0FFF))
  | .egfield e off => some (s.writeEgfield e off v)
  | .vwopen w => some (s.vwOpen w)
  | .pairctl => some (s.writePairctl v)
  | .lqcfg q => some (s.writeLqcfg q v)
  | .enpctl p => some (s.writeEnpctl p v)
  | .endev => some (if (List.range 4).any fun p => bit (s.win! (rENPCTL p)) 0 then s else s.setWin pa (v &&& 0xFF))
  | .rcvgo => some (if s.stage = 3 then s.tryImage (Memory.getBytes s.mem 0x10000000000 (fld v 0 24)) 1 5 else s)
  | .pwrenv => some (s.writePwrenv v)
  | .uccmd m => some (s.writeUccmd m v)

/-- A write of n bytes (4 or 8) to a control window (R394, R452): the half that is not written keeps its value, or acts as zeros for a
write-only or a write-one-to-clear register. None: the write stalls. -/
def State.devWrite (s : State) (pa n : Nat) (v : Word) (fromM : Bool) : Option State :=
  let a := regHome (pa / 8 * 8)
  let m := BitVec.ofNat 64 (halfMask pa n)
  let w := if pa % 8 = 4 then v <<< 32 else v
  match regInfo a with
  | none => some s
  | some i =>
    if i.w1c ≠ 0 then some (s.setWin a (s.win! a &&& ~~~(w &&& m &&& BitVec.ofNat 64 i.w1c)))
    else if i.wo then s.regAct i.act a (w &&& m) i.mask fromM
    else s.regAct i.act a ((s.win! a &&& ~~~m) ||| (w &&& m)) i.mask fromM

/-- REGISTER_WRITE (R452): a kernel-core context's or hart's write of 8 bytes (wide), or of the 4 bytes at pa, reaches a control window.
A write that stalls changes nothing yet. -/
def execRegisterWrite (pa : BitVec 52) (wide : Bool) (v : BitVec 64) (s : State) : Out :=
  let n := if wide then 8 else 4
  .next (if pa.toNat % n = 0 then (s.devWrite pa.toNat n v false).getD s else s)

end Sys2Proof.Machine
end

