-- ==== Sys2Proof/Machine/Access.lean ====
section
/-! DEFINITION. A context's access to memory (R155, R156): alignment, gate, translation, the stash window (R162), then the read or the
write of the place it lands in. -/

namespace Sys2Proof.Machine

/-- Where a checked access lands: memory at a physical address, a filled stash line (its offset and the physical address behind
it), or a control window. -/
inductive Place where
  | mem (pa : Nat)
  | stash (off pa : Nat)
  | device (pa : Nat)
deriving DecidableEq, Repr

/-- What the checks of an access give. -/
inductive Checked where
  | ok (r : RegionEnt) (p : Place) (s : State)
  /-- The access faults or parks: the state after it. -/
  | stop (s : State)
deriving DecidableEq, Repr

/-- The access writes, for the translation and the stash. -/
def Need.writes : Need → Bool
  | .store | .amo | .version | .engStore => true
  | _ => false

/-- The mapping of the context's core that an access of va uses (R162): one that covers it, and for a store a writable one. DESIGN CHOICE: a store
that the gate admits to an address its own core maps read-only goes to memory, as a store by the writer elsewhere does, and the mapped line is
filled again at its next touch; the manual does not say what that store does (log entry 67). -/
def State.mapFor (s : State) (cid va : Nat) (write : Bool) : Option Mapping :=
  if isKernel cid then none
  else (s.coreOf (coreKey cid)).maps.find? fun m => m.covers va && m.tenant == s.tenantOf cid && (m.writable || !write)

/-- The stash offset a mapping gives an address. -/
def Mapping.offset (m : Mapping) (va : Nat) : Nat := m.spage * 4096 + (va - m.base)

/-- Step 4 of R155: where a kernel-core context's address, or a translated one, lies. -/
def placeOf (pa : Nat) : Place := if inDevice pa then .device pa else .mem pa

/-- Steps 2 to 4 of R155: an access of n bytes at va, whose address must be a multiple of al, by a context. The security block's window
is not reached by kernel-core contexts (R394). -/
def State.check (s : State) (cid : Nat) (va : Word) (n al : Nat) (need : Need) (ak : Byte) : Checked :=
  let a := va.toNat
  if a % al ≠ 0 then .stop (s.trapAs cid cMISALIGN va ak)
  else match s.judge cid a n need with
    | .gate d => .stop (s.suspend cid cGATE va 0 (BitVec.ofNat 8 d) ak)
    | .wcap => .stop (s.suspend cid cWCAP va 0 0 ak)
    | .ok r =>
      if isKernel cid then
        if decide (0x20010000000 ≤ a) && decide (a < 0x20010100000) then .stop (s.suspend cid cGATE va 0 5 ak)
        else .ok r (placeOf a) s
      else
        match s.mapFor cid a need.writes with
        | some m =>
          let off := m.offset a
          if m.filled.contains (off / 64) then .ok r (.stash off (m.paOf off)) (s.keepGate cid r a)
          else .stop (s.park cid (.fill (off / 64)))
        | none =>
          match s.tlbLookup (coreKey cid) (s.tenantOf cid) a need.writes with
          | some pa => .ok r (placeOf pa) (s.keepGate cid r a)
          | none => .stop (s.parkWalk cid a need.writes ak)

/-- What a read of a checked place gives. -/
inductive Loaded where
  | val (x : Nat) (s : State)
  | stop (s : State)
deriving DecidableEq, Repr

/-- The ring a read at pa through region r goes to, and the offset in it: that of a VERSIONED region (R158), of a kernel-core context's physical
address too. -/
def State.ringOf (s : State) (cid : Nat) (r : RegionEnt) (va pa : Nat) : Option (RegionEnt × Nat) :=
  if r.kind = kVERSIONED then some (r, va - r.base)
  else if isKernel cid then (s.regionAt pa).filter fun x => x.1.kind == kVERSIONED
  else none

/-- Read n bytes of a checked place (R156, R158, R162, R375). -/
def State.readPlace (s : State) (cid : Nat) (r : RegionEnt) (p : Place) (va : Word) (n : Nat) : Loaded :=
  match p with
  | .stash off _ =>
    if (s.coreOf (coreKey cid)).badAt off n then .stop (s.poisoned cid r va)
    else .val (SMap.readLE (s.coreOf (coreKey cid)).stash off n) s
  | .device pa => let (x, t) := s.devRead pa n
                  .val x.toNat t
  | .mem pa =>
    if s.isPoisoned pa n then .stop (s.poisoned cid r va)
    else match s.ringOf cid r va.toNat pa with
      | some (q, off) => .val (ringRead (s.ring (s.regionKey q) q.depth) off n) (s.touchCtx cid pa false)
      | none => .val (s.physRead pa n) (s.touchCtx cid pa false)

/-- A mapping's line marked dirty (R162). -/
def State.soilLine (s : State) (k line : Nat) : State :=
  let c := s.coreOf k
  s.setMaps k (c.maps.map fun m =>
    if decide (m.spage * 64 ≤ line) && decide (line < (m.spage + m.npg) * 64) && m.writable then
      { m with
        dirty := if m.dirty.contains line then m.dirty else line :: m.dirty
        filled := if m.filled.contains line then m.filled else line :: m.filled }
    else m)

/-- Write n bytes of a checked place (R156, R162); none where a control window stalls the write (R314). -/
def State.writePlace (s : State) (cid : Nat) (p : Place) (n : Nat) (v : Nat) : Option State :=
  match p with
  | .stash off pa =>
    let k := coreKey cid
    let c := s.coreOf k
    some ((((s.setCore k (Core.heal { c with stash := SMap.writeLE c.stash off n v } off n)).soilLine k (off / 64)).dropRO pa).loseResv pa n)
  | .device pa => s.devWrite pa n (word v) false
  | .mem pa => some ((s.touchCtx cid pa true).physWrite pa n v)

/-- A load of n bytes into sd (R157). -/
def State.loadAt (s : State) (d : Reg) (ea : Word) (n : Nat) (signed : Bool) : Out :=
  match s.check s.cur ea n n .load akLoad with
  | .stop t => .next t
  | .ok r p t =>
    match t.readPlace s.cur r p ea n with
    | .stop u => .next u
    | .val x u => .next (u.setS d (if signed then wordI (sintN x (8 * n)) else word x)).advance

/-- A store of n bytes (R157). -/
def State.storeAt (s : State) (ea : Word) (n : Nat) (v : Word) : Out :=
  match s.check s.cur ea n n .store akStore with
  | .stop t => .next t
  | .ok _ p t =>
    match t.writePlace s.cur p n v.toNat with
    | some u => .next u.advance
    | none => .next (s.park s.cur .device)

end Sys2Proof.Machine
end

