-- ==== Sys2Proof/Machine/Flags.lean ====
section
/-! DEFINITION. Floating point: the formats (R101), exact values, RoundFP and its flags (R104), conversions (R105), the
operations of R132 and R133, and the functions of the special-function units (R228). -/

namespace Sys2Proof.Machine

/-! ### Formats and values -/

/-- A format of R101: width, trailing significand bits, bias; e4m3 marks FP8 E4M3, which has no infinity. -/
structure Fmt where
  w    : Nat
  m    : Nat
  bias : Nat
  e4m3 : Bool := false
deriving DecidableEq, Repr

def fp64 : Fmt := { w := 64, m := 52, bias := 1023 }
def fp32 : Fmt := { w := 32, m := 23, bias := 127 }
def fp16 : Fmt := { w := 16, m := 10, bias := 15 }
def bf16 : Fmt := { w := 16, m := 7, bias := 127 }
def e4m3 : Fmt := { w := 8, m := 3, bias := 7, e4m3 := true }
def e5m2 : Fmt := { w := 8, m := 2, bias := 15 }

/-- prec codes: 0 FP32, 1 FP64, 2 FP16, 3 BF16 (R60). -/
def precFmt (p : Nat) : Fmt := if p = 0 then fp32 else if p = 1 then fp64 else if p = 2 then fp16 else bf16

/-- The code with every exponent bit set and a zero significand: infinity, where the format has one (R101). -/
def Fmt.infCode (f : Fmt) : Nat := 2 ^ (f.w - 1) - 2 ^ f.m
/-- The largest finite magnitude's code (R101). -/
def Fmt.maxCode (f : Fmt) : Nat := if f.e4m3 then 0x7E else f.infCode - 1
/-- The canonical NaN (R101). -/
def Fmt.nan (f : Fmt) : Nat := if f.e4m3 then 0x7F else f.infCode + 2 ^ (f.m - 1)
/-- The magnitude part and the sign of a code. -/
def Fmt.mag (f : Fmt) (c : Nat) : Nat := c % 2 ^ (f.w - 1)
def Fmt.neg (f : Fmt) (c : Nat) : Bool := c / 2 ^ (f.w - 1) % 2 == 1
/-- Encode(neg, magnitude code). -/
def Fmt.enc (f : Fmt) (neg : Bool) (mag : Nat) : Nat := b2n neg * 2 ^ (f.w - 1) + mag
/-- emin = 1 - bias (R104). -/
def Fmt.emin (f : Fmt) : Int := 1 - (f.bias : Int)
/-- A NaN code (R101). -/
def Fmt.isNaN (f : Fmt) (c : Nat) : Bool := if f.e4m3 then f.mag c == 0x7F else decide (f.infCode < f.mag c)
/-- A signalling NaN (R102): the E4M3 NaNs are quiet. -/
def Fmt.isSNaN (f : Fmt) (c : Nat) : Bool := f.isNaN c && !f.e4m3 && f.mag c / 2 ^ (f.m - 1) % 2 == 0

/-- An exact operand: NaN, an infinity, or (-1)^neg times n * 2^x. -/
inductive Val where
  | nan
  | inf (neg : Bool)
  | fin (neg : Bool) (n : Nat) (x : Int)
deriving DecidableEq, Repr

/-- The value of a code (R101). -/
def Fmt.val (f : Fmt) (c : Nat) : Val :=
  let mag := f.mag c
  let e := mag / 2 ^ f.m
  if f.isNaN c then .nan
  else if !f.e4m3 && mag == f.infCode then .inf (f.neg c)
  else if e = 0 then .fin (f.neg c) mag (f.emin - f.m)
  else .fin (f.neg c) (2 ^ f.m + mag % 2 ^ f.m) ((e : Int) - f.bias - f.m)

/-- The value is a zero. -/
def Val.isZero : Val → Bool
  | .fin _ n _ => n == 0
  | _ => false

/-- The sign of a value that is not NaN. -/
def Val.sign : Val → Bool
  | .nan => false
  | .inf s => s
  | .fin s _ _ => s

def Val.negate : Val → Val
  | .nan => .nan
  | .inf s => .inf (!s)
  | .fin s n x => .fin (!s) n x

/-- A finite value as a signed multiple of 2^x, x no higher than the value's own exponent. -/
def signedAt (neg : Bool) (n : Nat) (x x0 : Int) : Int :=
  let m := n * 2 ^ (x - x0).toNat
  if neg then -(m : Int) else m

/-! ### Flags (R18: FFLAGS) -/

def fNone : BitVec 5 := 0
def fInexact : BitVec 5 := 1
def fUnderflow : BitVec 5 := 2
def fOverflow : BitVec 5 := 4
def fDivZero : BitVec 5 := 8
def fInvalid : BitVec 5 := 16

/-- The flag when the condition holds. -/
def flagIf (c : Bool) (f : BitVec 5) : BitVec 5 := if c then f else 0

/-- A rounding mode: 0 RNE, 1 RTZ, 2 RDN, 3 RUP (R18: FRM). -/
abbrev Mode := BitVec 2
def rne : Mode := 0

/-- A result and the flags it raises. -/
abbrev Rounded := Nat × BitVec 5

/-! ### Rounding (R104) -/

/-- n / 2^k rounded to an integer: the result, and whether a fraction was lost. neg is the sign of the value. -/
def roundShift (mode : Mode) (neg : Bool) (n k : Nat) : Nat × Bool :=
  let q := n / 2 ^ k
  let r := n % 2 ^ k
  let up :=
    if mode = 0 then decide (2 ^ k < 2 * r) || (2 * r == 2 ^ k && q % 2 == 1)
    else if mode = 1 then false
    else if mode = 2 then r != 0 && neg
    else r != 0 && !neg
  (if up then q + 1 else q, r != 0)

/-- RoundFP (R104). -/
def roundFP (f : Fmt) (mode : Mode) : Val → Rounded
  | .nan => (f.nan, fNone)
  | .inf neg => if f.e4m3 then (f.enc neg f.maxCode, fOverflow ||| fInexact) else (f.enc neg f.infCode, fNone)
  | .fin neg n x =>
    if n = 0 then (f.enc neg 0, fNone) else
    let top := (Nat.log2 n : Int) + x
    let e := max top f.emin
    let tiny := decide (top < f.emin)
    let sh := e - f.m - x
    let (q, lost) := if sh ≤ 0 then (n * 2 ^ (-sh).toNat, false) else roundShift mode neg n sh.toNat
    let code := ((e - f.emin).toNat) * 2 ^ f.m + q
    let fl := flagIf lost fInexact ||| flagIf (tiny && lost) fUnderflow
    if f.maxCode < code then
      let fl := fl ||| fOverflow ||| fInexact
      if f.e4m3 then (f.enc neg f.maxCode, fl)
      else if mode = 0 ∨ (mode = 3 ∧ !neg) ∨ (mode = 2 ∧ neg) then (f.enc neg f.infCode, fl)
      else (f.enc neg f.maxCode, fl)
    else (f.enc neg code, fl)

/-- A finite value rounded to an integer, and whether a fraction was lost. -/
def roundInt (mode : Mode) (neg : Bool) (n : Nat) (x : Int) : Int × Bool :=
  let (q, lost) := if 0 ≤ x then (n * 2 ^ x.toNat, false) else roundShift mode neg n (-x).toNat
  (if neg then -(q : Int) else q, lost)

/-- R105: a value to an integer within lo .. hi. -/
def toIntRange (mode : Mode) (lo hi : Int) : Val → Int × BitVec 5
  | .nan => (0, fInvalid)
  | .inf neg => (if neg then lo else hi, fInvalid)
  | .fin neg n x =>
    let (r, lost) := roundInt mode neg n x
    if r < lo then (lo, fInvalid) else if hi < r then (hi, fInvalid) else (r, flagIf lost fInexact)

/-- The exact value of an integer. -/
def intVal (i : Int) : Val := .fin (decide (i < 0)) i.natAbs 0

/-! ### Exact operations -/

/-- A product, and whether it is invalid (zero times infinity). -/
def vMul : Val → Val → Val × Bool
  | .nan, _ => (.nan, false)
  | _, .nan => (.nan, false)
  | .inf s, b => if b.isZero then (.nan, true) else (.inf (s != b.sign), false)
  | a, .inf s => if a.isZero then (.nan, true) else (.inf (s != a.sign), false)
  | .fin s n x, .fin t m y => (.fin (s != t) (n * m) (x + y), false)

/-- The lowest exponent of a list of finite values. -/
def lowExp : List Val → Int
  | [] => 0
  | [.fin _ _ x] => x
  | .fin _ _ x :: l => min x (lowExp l)
  | _ :: l => lowExp l

/-- The exact sum of finite values as a multiple of 2^x0. -/
def sumAt (x0 : Int) (l : List Val) : Int :=
  l.foldl (fun acc v => match v with
    | .fin s n x => acc + signedAt s n x x0
    | _ => acc) 0

/-- A sum of exact terms, and whether it is invalid (infinities of opposite sign); the sign of an exact zero sum is that of R104. -/
def vSum (mode : Mode) (l : List Val) : Val × Bool :=
  if l.any (· == .nan) then (.nan, false)
  else if l.any (· == .inf true) && l.any (· == .inf false) then (.nan, true)
  else if l.any (· == .inf true) then (.inf true, false)
  else if l.any (· == .inf false) then (.inf false, false)
  else
    let x0 := lowExp l
    let t := sumAt x0 l
    if t ≠ 0 then (.fin (decide (t < 0)) t.natAbs x0, false)
    else if l.all fun v => v.isZero && v.sign then (.fin true 0 0, false)
    else if l.all fun v => v.isZero && !v.sign then (.fin false 0 0, false)
    else (.fin (mode == 2) 0 0, false)

/-- The quotient of two positive magnitudes n * 2^x and m * 2^y as a magnitude whose lowest bit stands for any part beyond it:
with 130 bits kept, it rounds as the exact quotient does in every format of R101. -/
def quotient (n : Nat) (x : Int) (m : Nat) (y : Int) : Nat × Int :=
  let k := 130 + Nat.log2 m
  let q := n * 2 ^ k / m
  let r := n * 2 ^ k % m
  (2 * q + b2n (r != 0), x - y - k - 1)

/-- The integer square root, from its highest possible bit down. -/
def isqrtLoop (n : Nat) : Nat → Nat → Nat
  | 0, r => r
  | k + 1, r => if (r + 2 ^ k) * (r + 2 ^ k) ≤ n then isqrtLoop n k (r + 2 ^ k) else isqrtLoop n k r

def isqrt (n : Nat) : Nat := isqrtLoop n (Nat.log2 n / 2 + 1) 0

/-- The square root of n * 2^x, kept as quotient keeps a quotient. -/
def rootOf (n : Nat) (x : Int) : Nat × Int :=
  let n1 := if x % 2 = 0 then n else 2 * n
  let x1 := if x % 2 = 0 then x else x - 1
  let r := isqrt (n1 * 2 ^ 260)
  (2 * r + b2n (r * r != n1 * 2 ^ 260), x1 / 2 - 130 - 1)

/-- a / b, the divide-by-zero flag and the invalid flag (R132). -/
def vDiv : Val → Val → Val × BitVec 5
  | .nan, _ => (.nan, fNone)
  | _, .nan => (.nan, fNone)
  | .inf s, b => match b with
    | .inf _ => (.nan, fInvalid)
    | _ => (.inf (s != b.sign), fNone)
  | .fin s _ _, .inf t => (.fin (s != t) 0 0, fNone)
  | .fin s n x, .fin t m y =>
    if m = 0 then (if n = 0 then (.nan, fInvalid) else (.inf (s != t), fDivZero))
    else let (q, e) := quotient n x m y
         (.fin (s != t) q e, fNone)

/-- The square root and the invalid flag (R132). -/
def vSqrt : Val → Val × BitVec 5
  | .nan => (.nan, fNone)
  | .inf s => if s then (.nan, fInvalid) else (.inf false, fNone)
  | .fin s n x =>
    if n = 0 then (.fin s 0 0, fNone)
    else if s then (.nan, fInvalid)
    else let (r, e) := rootOf n x
         (.fin false r e, fNone)

/-! ### Operations on codes of one format -/

/-- Invalid when one of the operands is a signalling NaN (R102). -/
def snanFlag (f : Fmt) (cs : List Nat) : BitVec 5 := flagIf (cs.any f.isSNaN) fInvalid

/-- A rounded result with further flags. -/
def withFlags (r : Rounded) (fl : BitVec 5) : Rounded := (r.1, r.2 ||| fl)

/-- RoundFP of a sum of terms; bad says that a product among them is invalid (R132, R215). -/
def fpSum (f : Fmt) (mode : Mode) (l : List Val) (bad : Bool) (fl : BitVec 5) : Rounded :=
  if bad then (f.nan, fInvalid) else
  let (v, inv) := vSum mode l
  withFlags (roundFP f mode v) (fl ||| flagIf inv fInvalid)

/-- FADD and FSUB (R132). -/
def fpAdd (f : Fmt) (mode : Mode) (a b : Nat) : Rounded := fpSum f mode [f.val a, f.val b] false (snanFlag f [a, b])
def fpSub (f : Fmt) (mode : Mode) (a b : Nat) : Rounded := fpSum f mode [f.val a, (f.val b).negate] false (snanFlag f [a, b])

/-- FMUL (R132). -/
def fpMul (f : Fmt) (mode : Mode) (a b : Nat) : Rounded :=
  let (v, bad) := vMul (f.val a) (f.val b)
  withFlags (roundFP f mode v) (snanFlag f [a, b] ||| flagIf bad fInvalid)

/-- FDIV (R132). -/
def fpDiv (f : Fmt) (mode : Mode) (a b : Nat) : Rounded :=
  let (v, fl) := vDiv (f.val a) (f.val b)
  withFlags (roundFP f mode v) (snanFlag f [a, b] ||| fl)

/-- FSQRT (R132). -/
def fpSqrt (f : Fmt) (mode : Mode) (a : Nat) : Rounded :=
  let (v, fl) := vSqrt (f.val a)
  withFlags (roundFP f mode v) (snanFlag f [a] ||| fl)

/-- a * b + d, or d - a * b, rounded once (R132, R215). -/
def fpFma (f : Fmt) (mode : Mode) (minus : Bool) (a b d : Nat) : Rounded :=
  let (v, bad) := vMul (f.val a) (f.val b)
  fpSum f mode [if minus then v.negate else v, f.val d] bad (snanFlag f [a, b, d])

/-- VFDOT2: d + x0 y0 + x1 y1 in FP32, rounded once (R215). -/
def fpDot2 (f : Fmt) (mode : Mode) (x0 y0 x1 y1 d : Nat) : Rounded :=
  let (p, bad0) := vMul (f.val x0) (f.val y0)
  let (q, bad1) := vMul (f.val x1) (f.val y1)
  fpSum fp32 mode [fp32.val d, p, q] (bad0 || bad1) (snanFlag f [x0, y0, x1, y1] ||| snanFlag fp32 [d])

/-- The order of codes that are not NaN, with -0 below +0 (R133). -/
def Fmt.key (f : Fmt) (c : Nat) : Int := if f.neg c then -(f.mag c : Int) - 1 else f.mag c

/-- The order of values that are not NaN, with -0 = +0. -/
def Fmt.num (f : Fmt) (c : Nat) : Int := if f.neg c then -(f.mag c : Int) else f.mag c

/-- FMIN and FMAX (R133). -/
def fpMinMax (f : Fmt) (big : Bool) (a b : Nat) : Rounded :=
  let fl := snanFlag f [a, b]
  if f.isNaN a && f.isNaN b then (f.nan, fl)
  else if f.isNaN a then (b, fl)
  else if f.isNaN b then (a, fl)
  else if decide (f.key a ≤ f.key b) != big then (a, fl) else (b, fl)

/-- FEQ, FLT, FLE and their vector forms (R133, R216): 0 equal, 1 less, 2 less or equal. -/
def fpCompare (f : Fmt) (op : Nat) (a b : Nat) : Bool × BitVec 5 :=
  let nan := f.isNaN a || f.isNaN b
  let r := !nan && (if op = 0 then f.num a == f.num b else if op = 1 then decide (f.num a < f.num b) else decide (f.num a ≤ f.num b))
  (r, if op = 0 then snanFlag f [a, b] else flagIf nan fInvalid)

/-- VFCUN (R216). -/
def fpUnordered (f : Fmt) (a b : Nat) : Bool × BitVec 5 := (f.isNaN a || f.isNaN b, snanFlag f [a, b])

/-- FKIND (R133). -/
def fpKind (f : Fmt) (a : Nat) : Nat :=
  if f.isSNaN a then 9 else if f.isNaN a then 8 else
  let s := if f.neg a then 4 else 0
  let m := f.mag a
  if m = 0 then s else if m < 2 ^ f.m then s + 1 else if !f.e4m3 && m == f.infCode then s + 3 else s + 2

/-- A value copied in its own precision (R134): a signalling NaN becomes the canonical one and raises invalid. -/
def fpCopy (f : Fmt) (a : Nat) : Rounded := if f.isSNaN a then (f.nan, fInvalid) else (a, 0)

/-- FCVTF: RoundFP of the source's exact value (R105, R134). -/
def fpConvert (src dst : Fmt) (mode : Mode) (a : Nat) : Rounded :=
  withFlags (roundFP dst mode (src.val a)) (snanFlag src [a])

/-! ### Special functions (R228)

Each is evaluated in fixed point with 640 fraction bits and its last bit set, which rounds as the exact value does: no FP32
operand's exact result lies within 2^-600 of a value where the rounding changes, results that are exact apart (log entry 17). -/

/-- Fraction bits. -/
def fpBits : Nat := 640
def fxOne : Int := 2 ^ fpBits

/-- Product of two fixed-point values. -/
def fxMul (a b : Int) : Int := a * b / fxOne

/-- 1/3 + 1/(3 * 3^2) ...: atanh(1/q) in fixed point with k terms left; pw = 2^640 / q^(2i+1). -/
def atanhLoop (qq : Int) : Nat → Int → Int → Int → Int
  | 0, _, _, acc => acc
  | k + 1, i, pw, acc => atanhLoop qq k (i + 2) (pw / qq) (acc + pw / i)

/-- ln 2 = 2 atanh(1/3). -/
def fxLn2 : Int := 2 * atanhLoop 9 210 1 (fxOne / 3) 0

/-- atan(1/q), scaled by 2^900. -/
def atanLoop (qq : Int) : Nat → Int → Int → Int → Int
  | 0, _, _, acc => acc
  | k + 1, i, pw, acc => atanLoop qq k (i + 2) (-(pw / qq)) (acc + pw / i)

/-- pi scaled by 2^900, by Machin's formula. -/
def piWide : Int := 16 * atanLoop 25 200 1 (2 ^ 900 / 5) 0 - 4 * atanLoop 57121 60 1 (2 ^ 900 / 239) 0

/-- e^t for fixed-point t by its series with k terms left. -/
def expLoop (t : Int) : Nat → Int → Int → Int → Int
  | 0, _, _, acc => acc
  | k + 1, i, term, acc => expLoop t k (i + 1) (fxMul term t / i) (acc + term)

/-- 2^f for a fixed-point f from 0 to 1. -/
def fxExp2 (f : Int) : Int := expLoop (fxMul f fxLn2) 130 1 fxOne 0

/-- Alternating series in t2 = t^2 for sine (i = 1) and cosine (i = 0). -/
def trigLoop (t2 : Int) : Nat → Int → Int → Int → Int
  | 0, _, _, acc => acc
  | k + 1, i, term, acc => trigLoop t2 k (i + 2) (-(fxMul term t2 / ((i + 1) * (i + 2)))) (acc + term)

def fxSin (t : Int) : Int := trigLoop (fxMul t t) 70 1 t 0
def fxCos (t : Int) : Int := trigLoop (fxMul t t) 70 0 fxOne 0

/-- n * 2^x in fixed point with p fraction bits. -/
def fixedOf (n : Nat) (x : Int) (p : Nat) : Int :=
  let s := x + p
  if 0 ≤ s then (n : Int) * 2 ^ s.toNat else (n : Int) / 2 ^ (-s).toNat

/-- A fixed-point result that is not exact, times 2^k, as a value to round. -/
def inexactVal (r : Int) (k : Int) : Val := .fin (decide (r < 0)) (2 * r.natAbs + 1) (k - fpBits - 1)

/-- atanh(t) = t + t^3/3 + ... for fixed-point t. -/
def atanhSeries (t2 : Int) : Nat → Int → Int → Int → Int
  | 0, _, _, acc => acc
  | k + 1, i, pw, acc => atanhSeries t2 k (i + 2) (fxMul pw t2) (acc + pw / i)

/-- 2^v for finite v = (-1)^neg n 2^x. -/
def exp2Val (neg : Bool) (n : Nat) (x : Int) : Val :=
  let top := (Nat.log2 n : Int) + x
  if 9 ≤ top then (if neg then .fin false 3 (-1000) else .fin false 3 1000)
  else
    let a := fixedOf n x fpBits
    let t := if neg then -a else a
    let k := t / fxOne
    let f := t - k * fxOne
    if f = 0 then .fin false 1 k else inexactVal (fxExp2 f) k

/-- log2 of a positive n * 2^x. -/
def log2Val (n : Nat) (x : Int) : Val :=
  let l := Nat.log2 n
  let e := (l : Int) + x
  if n = 2 ^ l then intVal e
  else
    let t := (fxOne * ((n : Int) - 2 ^ l)) / ((n : Int) + 2 ^ l)
    let ln := 2 * atanhSeries (fxMul t t) 210 1 t 0
    inexactVal (e * fxOne + ln * fxOne / fxLn2) 0

/-- sin or cos of a finite nonzero v (R228): reduced by multiples of pi / 2. -/
def trigVal (cosine : Bool) (neg : Bool) (n : Nat) (x : Int) : Val :=
  let v := fixedOf n x 900
  let half := piWide / 2
  let k := (2 * v + half) / (2 * half)
  let r := (v - k * half) / 2 ^ 260
  let q := (if cosine then k + 1 else k) % 4
  let y := if q = 0 then fxSin r else if q = 1 then fxCos r else if q = 2 then -(fxSin r) else -(fxCos r)
  inexactVal (if neg && !cosine then -y else y) 0

/-- tanh of a finite nonzero v: (1 - u) / (1 + u) with u = e^(-2|v|). -/
def tanhVal (neg : Bool) (n : Nat) (x : Int) : Val :=
  if 6 ≤ (Nat.log2 n : Int) + x then .fin neg (2 ^ 100 - 1) (-100)
  else
    let z := -(2 * fixedOf n x fpBits * fxOne / fxLn2)
    let k := z / fxOne
    let u := fxExp2 (z - k * fxOne) / 2 ^ (-k).toNat
    let r := (fxOne - u) * fxOne / (fxOne + u)
    inexactVal (if neg then -r else r) 0

/-- The exact value of an SFU function at a value that is not NaN, with its flags (R228). -/
def sfuVal (fn : Nat) : Val → Val × BitVec 5
  | .nan => (.nan, fNone)
  | .inf s =>
    match fn with
    | 0 => (.fin s 0 0, fNone)
    | 1 => if s then (.nan, fInvalid) else (.fin false 0 0, fNone)
    | 2 => vSqrt (.inf s)
    | 3 => if s then (.fin false 0 0, fNone) else (.inf false, fNone)
    | 4 => if s then (.nan, fInvalid) else (.inf false, fNone)
    | 7 => (.fin s 1 0, fNone)
    | _ => (.nan, fInvalid)
  | .fin s n x =>
    if n = 0 then
      match fn with
      | 0 | 1 => (.inf s, fDivZero)
      | 3 | 6 => (.fin false 1 0, fNone)
      | 4 => (.inf true, fDivZero)
      | _ => (.fin s 0 0, fNone)
    else
      match fn with
      | 0 => vDiv (.fin false 1 0) (.fin s n x)
      | 1 => if s then (.nan, fInvalid) else
          let (r, e) := rootOf n x
          if r % 2 = 0 then vDiv (.fin false 1 0) (.fin false r e)
          else
            let m := 2 ^ (700 + 2 * Nat.log2 n + 1)
            let (n1, x1) := if x % 2 = 0 then (n, x) else (2 * n, x - 1)
            let q := isqrt (m * m / n1)
            (.fin false (2 * q + 1) (-(x1 / 2) - (700 + 2 * Nat.log2 n + 1) - 1), fNone)
      | 2 => vSqrt (.fin s n x)
      | 3 => (exp2Val s n x, fNone)
      | 4 => if s then (.nan, fInvalid) else (log2Val n x, fNone)
      | 5 => (trigVal false s n x, fNone)
      | 6 => (trigVal true s n x, fNone)
      | _ => (tanhVal s n x, fNone)

/-- One active element of a VSFU instruction (R228). -/
def sfuElem (fn : Nat) (mode : Mode) (c : Nat) : Rounded :=
  let (v, fl) := sfuVal fn (fp32.val c)
  withFlags (roundFP fp32 mode v) (snanFlag fp32 [c] ||| fl)

end Sys2Proof.Machine
end

