-- ==== Sys2Proof/Machine/Memory.lean ====
section
/-! DEFINITION. Memory, versioned and atomic instructions (R155 to R184): LOAD, STORE, the stash window, versions, home-slice atomics,
fences and value waits, with the part's own steps that end their waits. HANDOVER stands with the messages. -/

namespace Sys2Proof.Machine

/-! ### Loads and stores (R157) -/

/-- The address of a plain form: s(a) + SignExtend(off13, 64) * size (R157). -/
def State.ea (s : State) (a : Reg) (o : BitVec 13) (n : Nat) : Word := s.s! a + sx o * word n

/-- LB (R157): loads 1 byte at s(a) + off * 1, sign-extended into st. -/
def execLb (t a : Reg) (o : BitVec 13) (s : State) : Out := s.loadAt t (s.ea a o 1) 1 true

/-- LH (R157): loads 2 bytes at s(a) + off * 2, sign-extended into st. -/
def execLh (t a : Reg) (o : BitVec 13) (s : State) : Out := s.loadAt t (s.ea a o 2) 2 true

/-- LW (R157): loads 4 bytes at s(a) + off * 4, sign-extended into st. -/
def execLw (t a : Reg) (o : BitVec 13) (s : State) : Out := s.loadAt t (s.ea a o 4) 4 true

/-- LD (R157): loads 8 bytes at s(a) + off * 8, sign-extended into st. -/
def execLd (t a : Reg) (o : BitVec 13) (s : State) : Out := s.loadAt t (s.ea a o 8) 8 true

/-- LBU (R157): loads 1 byte at s(a) + off * 1, zero-extended into st. -/
def execLbu (t a : Reg) (o : BitVec 13) (s : State) : Out := s.loadAt t (s.ea a o 1) 1 false

/-- LHU (R157): loads 2 bytes at s(a) + off * 2, zero-extended into st. -/
def execLhu (t a : Reg) (o : BitVec 13) (s : State) : Out := s.loadAt t (s.ea a o 2) 2 false

/-- LWU (R157): loads 4 bytes at s(a) + off * 4, zero-extended into st. -/
def execLwu (t a : Reg) (o : BitVec 13) (s : State) : Out := s.loadAt t (s.ea a o 4) 4 false

/-- LB.ACQ (R157, R159): loads 1 byte at s(a), zero-extended; one core's accesses are performed in order (log entry 5). -/
def execLbAcq (t a : Reg) (_c : BitVec 3) (s : State) : Out := s.loadAt t (s.s! a) 1 false

/-- LH.ACQ (R157, R159): loads 2 bytes at s(a), zero-extended; one core's accesses are performed in order (log entry 5). -/
def execLhAcq (t a : Reg) (_c : BitVec 3) (s : State) : Out := s.loadAt t (s.s! a) 2 false

/-- LW.ACQ (R157, R159): loads 4 bytes at s(a), zero-extended; one core's accesses are performed in order (log entry 5). -/
def execLwAcq (t a : Reg) (_c : BitVec 3) (s : State) : Out := s.loadAt t (s.s! a) 4 false

/-- LD.ACQ (R157, R159): loads 8 bytes at s(a), zero-extended; one core's accesses are performed in order (log entry 5). -/
def execLdAcq (t a : Reg) (_c : BitVec 3) (s : State) : Out := s.loadAt t (s.s! a) 8 false

/-- SB (R157): stores the low 1 byte of st at s(a) + off * 1. -/
def execSb (t a : Reg) (o : BitVec 13) (s : State) : Out := s.storeAt (s.ea a o 1) 1 (s.s! t)

/-- SH (R157): stores the low 2 bytes of st at s(a) + off * 2. -/
def execSh (t a : Reg) (o : BitVec 13) (s : State) : Out := s.storeAt (s.ea a o 2) 2 (s.s! t)

/-- SW (R157): stores the low 4 bytes of st at s(a) + off * 4. -/
def execSw (t a : Reg) (o : BitVec 13) (s : State) : Out := s.storeAt (s.ea a o 4) 4 (s.s! t)

/-- SD (R157): stores the low 8 bytes of st at s(a) + off * 8. -/
def execSd (t a : Reg) (o : BitVec 13) (s : State) : Out := s.storeAt (s.ea a o 8) 8 (s.s! t)

/-- SB.REL (R157, R159): stores the low 1 byte of st at s(a). -/
def execSbRel (t a : Reg) (_c : BitVec 3) (s : State) : Out := s.storeAt (s.s! a) 1 (s.s! t)

/-- SH.REL (R157, R159): stores the low 2 bytes of st at s(a). -/
def execShRel (t a : Reg) (_c : BitVec 3) (s : State) : Out := s.storeAt (s.s! a) 2 (s.s! t)

/-- SW.REL (R157, R159): stores the low 4 bytes of st at s(a). -/
def execSwRel (t a : Reg) (_c : BitVec 3) (s : State) : Out := s.storeAt (s.s! a) 4 (s.s! t)

/-- SD.REL (R157, R159): stores the low 8 bytes of st at s(a). -/
def execSdRel (t a : Reg) (_c : BitVec 3) (s : State) : Out := s.storeAt (s.s! a) 8 (s.s! t)

/-! ### The stash window (R160 to R165) -/

/-- Fill a line of a mapping from memory (R162). -/
def State.fillLine (s : State) (k : Nat) (m : Mapping) (line : Nat) : State :=
  let pa := m.paOf (line * 64)
  let v := natOf (s.physBytes pa 64)
  let s := s.touchFill k (pa / 64) m
  let c := s.coreOf k
  s.setCore k (Core.heal { c with
    stash := SMap.writeLE c.stash (line * 64) 64 v
    maps := c.maps.map fun x => if x == m && !x.filled.contains line then { x with filled := line :: x.filled } else x } (line * 64) 64)

/-- The mapping of a core that holds a stash line. -/
def State.mapOfLine (s : State) (k line : Nat) : Option Mapping :=
  (s.coreOf k).maps.find? fun m => decide (m.spage * 64 ≤ line) && decide (line < (m.spage + m.npg) * 64)

/-- A context brings a line of memory into the caches (R160): by hint 0 to its L1 data cache for reading, by hint 1 in a writable state, by
hint 2 to its home slice. -/
def State.prefetch (s : State) (cid pa : Nat) (hint : Nat) : State :=
  let line := pa / 64
  if inDevice pa then s
  else if hint = 2 ∨ inHost pa then s.l2Touch line (some cid)
  else if hint = 1 ∧ (s.stashAt (line * 64)).isNone then
    let who := ownerOf (coreKey cid)
    (((s.invalidate line (some (coreKey cid)) false).dirPut line { st := .e, owner := who, sharers := who.mask }).l2Touch line (some cid)).l1Touch
      (coreKey cid) line cid false
  else s.touchCtx cid pa false

/-- PREF (R160): hints 0 to 2 bring the line into a cache, hint 3 into the stash; a line the gate refuses, or that misses in translation,
or that is poisoned, is dropped. -/
def execPref (h a : Reg) (s : State) : Out :=
  let va := (s.s! a).toNat / 64 * 64
  match s.judge s.cur va 1 .load with
  | .ok r =>
    if r.kind = kDEVICE then .next s.advance
    else if h = 3 then
      match s.mapFor s.cur va false with
      | some m =>
        let line := m.offset va / 64
        if m.filled.contains line || s.isPoisoned (m.paOf (line * 64)) 64 then .next s.advance
        else .next (s.fillLine (coreKey s.cur) m line).advance
      | none => .next s.advance
    else
      let pa := if isKernel s.cur then some va else s.tlbLookup (coreKey s.cur) (s.tenantOf s.cur) va false
      match pa with
      | some pa => .next (s.prefetch s.cur pa h.toNat).advance
      | none => .next s.advance
  | _ => .next s.advance

/-- The region an address lies in, when the tenant reaches it (R387); for a kernel-core context a kernel region. -/
def State.reached (s : State) (cid va : Nat) : Option RegionEnt :=
  if isKernel cid then s.kernelListed cid va
  else match s.partOf (gathOf cid) with
    | none => none
    | some p => match s.findRegion (coreKey cid) p (s.tenantOf cid) va with
      | some r => if r.ocls = 0 ∨ (r.ocls = 1 ∧ namesService (s.capsOf (coreKey cid) (s.tenantOf cid)) r.svc 0) then some r else none
      | none => none

/-- The context has write permission on a region: the owner of a PRIVATE one, the holder of an OWNED one (R161). -/
def State.mayWrite (s : State) (cid : Nat) (r : RegionEnt) : Bool :=
  (r.kind == kPRIVATE && s.ownerOk cid r .store) || (r.kind == kOWNED && s.holder (s.regionKey r) == .ctx cid)

/-- The gate lets the context load every page of the range of a mapping. -/
def State.mayMap (s : State) (cid va n : Nat) : Bool :=
  match s.judgeAll cid .map (n / 4096) va n with
  | .ok _ => true
  | _ => false

/-- MAP's tests before translation (R161): the status, or none to go on. va, spage, npg (pages), zero. -/
def State.mapStatus (s : State) (cid : Nat) (desc : Word) (va : Nat) : Option Nat :=
  let spage := fld desc 0 6
  let npg := fld desc 8 6 + 1
  let n := npg * 4096
  let maps := (s.coreOf (coreKey cid)).maps
  if fld desc 6 2 ≠ 0 ∨ fld desc 14 2 ≠ 0 ∨ fld desc 18 46 ≠ 0 ∨ 64 < spage + npg then some 1
  else if va % 4096 ≠ 0 then some 2
  else match s.reached cid va with
    | none => some 3
    | some r =>
      if r.base + r.len < va + n then some 2
      else if (r.kind ≠ kPRIVATE ∧ r.kind ≠ kOWNED) ∨ !s.mayMap cid va n ∨ (bit desc 16 ∧ !s.mayWrite cid r) then some 3
      else if maps.any fun m => decide (m.spage < spage + npg) && decide (spage < m.spage + m.npg) then some 4
      else if maps.any fun m => decide (m.base < va + n) && decide (va < m.base + m.npg * 4096) then some 5
      else if 16 ≤ maps.length then some 6
      else none

/-- What translating the pages of a MAP gives. -/
inductive MapWalk where
  | frames (l : List Nat)
  | status (n : Nat)
  /-- The page at this address misses: the instruction parks. -/
  | miss (va : Nat)
deriving DecidableEq, Repr

/-- Translate npg pages from va in turn (R161). -/
def State.mapPages (s : State) (cid : Nat) : Nat → Nat → List Nat → MapWalk
  | _, 0, l => .frames l.reverse
  | va, n + 1, l =>
    match s.tlbLookup (coreKey cid) (s.tenantOf cid) va false with
    | some pa => if inLocal pa then s.mapPages cid (va + 4096) n (pa / 4096 :: l) else .status 3
    | none =>
      match s.walkTables (s.tenantOf cid) va with
      | .bad _ => .status 7
      | _ => .miss va

/-- The stash lines of a run of stash pages. -/
def linesOf (spage npg : Nat) : List Nat := (List.range (npg * 64)).map (spage * 64 + ·)

/-- The lines of a new ZERO mapping become the core's: nobody else keeps a copy, as after a write of them (R162, R266). -/
def State.takeZeros (s : State) (k : Nat) (m : Mapping) : State :=
  m.filled.foldl (fun s line => ((s.dropRO (m.paOf (line * 64))).loseResv (m.paOf (line * 64)) 64).touchFill k (m.paOf (line * 64) / 64) m) s

/-- The mapping is made (R161, R162): the lines of a ZERO mapping are zeros and need no fill. -/
def State.addMapping (s : State) (cid : Nat) (desc : Word) (va : Nat) (frames : List Nat) (writable : Bool) : State :=
  let k := coreKey cid
  let spage := fld desc 0 6
  let npg := fld desc 8 6 + 1
  let m : Mapping := { base := va, spage := spage, npg := npg, zero := bit desc 16, nowb := bit desc 17, writable := writable, owner := cid, graph := s.launchOf cid, tenant := s.tenantOf cid, frames := frames, filled := if bit desc 16 then linesOf spage npg else [], dirty := [] }
  let s := s.takeZeros k m
  let c := s.coreOf k
  let c1 : Core := { c with
    stash := if bit desc 16 then foldNat (fun st i => SMap.write 0 st i 0) c.stash (spage * 4096) (npg * 4096) else c.stash
    maps := c.maps ++ [m] }
  s.setCore k (if bit desc 16 then c1.heal (spage * 4096) (npg * 4096) else c1)

/-- MAP (R161): binds stash pages to the global range at s(a) by the descriptor in s(b), and writes a status. -/
def execMap (d a b : Reg) (s : State) : Out :=
  if isKernel s.cur then s.illegal (encode (.map d a b)) else
  let va := (s.s! a).toNat
  let desc := s.s! b
  match s.mapStatus s.cur desc va with
  | some n => s.done d (word n)
  | none =>
    match s.mapPages s.cur va (fld desc 8 6 + 1) [] with
    | .status n => s.done d (word n)
    | .miss v => .next (s.parkWalk s.cur v false akMap)
    | .frames l =>
      let w := match s.reached s.cur va with
        | some r => s.mayWrite s.cur r
        | none => false
      (s.addMapping s.cur desc va l w).done d 0

/-- The mapping of a core that contains a global address. -/
def State.mapAt (s : State) (cid va : Nat) : Option Mapping :=
  (s.coreOf (coreKey cid)).maps.find? (·.covers va)

/-- UNMAP (R163): ends the mapping that contains s(a), its dirty lines written back. -/
def execUnmap (d a : Reg) (s : State) : Out :=
  if isKernel s.cur then s.illegal (encode (.unmap d a)) else
  match s.mapAt s.cur (s.s! a).toNat with
  | none => s.done d 1
  | some m => if m.owner = s.cur then (s.endMapping (coreKey s.cur) m).done d 0 else s.done d 2

/-- A mapping's dirty lines are written back and it stays, clean; writable becomes w (R164, R167). -/
def State.flushMap (s : State) (k : Nat) (m : Mapping) (w : Bool) : State :=
  let s := s.writeBack k m
  s.setMaps k ((s.coreOf k).maps.map fun x => if x == m then { x with dirty := if m.nowb then x.dirty else [], writable := w } else x)

/-- SFLUSH (R164): writes back the dirty lines of the mapping that contains s(a), at scope 2 or wider. -/
def execSflush (a : Reg) (c : BitVec 3) (s : State) : Out :=
  if isKernel s.cur then s.illegal (encode (.sflush a c))
  else if c.toNat < 2 then .next s.advance
  else match s.mapAt s.cur (s.s! a).toNat with
    | some m => .next (s.flushMap (coreKey s.cur) m m.writable).advance
    | none => .next s.advance

/-- A line of a mapping that context c touches is filled, or its poison is the context's (R162, R375). -/
def State.fillFor (s : State) (c : Nat) (m : Mapping) (line : Nat) : State :=
  if m.filled.contains line then s
  else if s.isPoisoned (m.paOf (line * 64)) 64 then
    let va := m.base + (line - m.spage * 64) * 64
    match s.reached c va with
    | some r => s.poisoned c r (word va)
    | none => s
  else s.fillLine (coreKey c) m line

/-- STASHFILL (R162): the fill that a context's access, or its WAITV, waits for completes. A tenant that is switched out has its stash saved. -/
def execStashFill (cid : BitVec 12) (s : State) : Out :=
  let c := cid.toNat
  if s.switchedOut c then .next s else
  match (s.ctxOf c).sched.wait with
  | .again (.fill line) =>
    let ready := fun (s : State) => s.setSched c { (s.ctxOf c).sched with wait := .none, readyAt := s.clk }
    match s.mapOfLine (coreKey c) line with
    | none => .next (ready s)
    | some m =>
      if !m.filled.contains line && s.isPoisoned (m.paOf (line * 64)) 64 then .next (s.fillFor c m line)
      else .next (ready (s.fillFor c m line))
  | .waitv w =>
    match s.mapFor c w.va.toNat false with
    | some m => .next (s.fillFor c m (m.offset w.va.toNat / 64))
    | none => .next s
  | _ => .next s

/-- CAPQ (R169): describes the region that contains s(a). DESIGN CHOICE: LD and EX are the gate's answers to this context's 8-byte load and 4-byte
fetch there (log entry 68). -/
def State.capqWord (s : State) (cid : Nat) (a : Word) : Word :=
  match s.reached cid a.toNat with
  | none => 7
  | some r =>
    let va := a.toNat
    let ok := fun (x : Nat) (n : Nat) (need : Need) =>
      match s.judge cid x n need with
      | .ok _ => true
      | _ => false
    let held := (r.kind == kPRIVATE && s.ownerOk cid r .store) || ((r.kind == kOWNED || r.kind == kVERSIONED) && s.holds cid r)
    let ver := r.kind == kVERSIONED
    word (r.kind.toNat + b2n held * 2 ^ 3 + b2n (ok (va / 8 * 8) 8 .load) * 2 ^ 4 + b2n (ok (va / 4 * 4) 4 .fetch) * 2 ^ 5
      + b2n (!isKernel cid && (s.mapAt cid va).isSome) * 2 ^ 6 + b2n (ver && r.fbk) * 2 ^ 7 + (if ver then r.depth else 0) * 2 ^ 8
      + r.len / 4096 % 2 ^ 32 * 2 ^ 16)

/-- CAPQ (R169): writes a description of the region that contains s(a); no fault after decode. -/
def execCapq (d a : Reg) (s : State) : Out := s.done d (s.capqWord s.cur (s.s! a))

/-! ### Versions (R172 to R177) -/

/-- CYCLE and device time as the versioned load of the current context samples them at issue (R175, R176): once, also when it then waits for a
translation. -/
def State.sample (s : State) : Word × Nat := s.me.sched.sampled.getD (s.cycleOf (s.domOf s.cur), s.dtime)

/-- A versioned load that has to wait for its translation keeps what it sampled. -/
def State.keepSample (t s : State) : State :=
  match (t.ctxOf s.cur).sched.wait with
  | .again _ => t.setSched s.cur { (t.ctxOf s.cur).sched with sampled := some s.sample }
  | _ => t

/-- A versioned load of mode 0 EXACT, 1 LE or 2 AGE (R175): it delivers, traps VGONE, or parks with its deadline (R176). -/
def State.ldv (s : State) (mode : BitVec 2) (d a b : Reg) (p : BitVec 3) (z : BitVec 2) : Out :=
  let n := 2 ^ z.toNat
  let ea := s.s! a
  match s.check s.cur ea n n .ldv akVersion with
  | .stop t => .next (if ea.toNat % n = 0 then t.keepSample s else t)
  | .ok r pl t =>
    match t.readPlace s.cur r pl ea n with
    | .stop u => .next u
    | .val _ u =>
      let x := s.s! b
      let arg := if mode = 2 then lo32 s.sample.1 - BitVec.ofNat 32 (fld x 0 31) else lo32 x
      let dl := s.me.ctl.vdeadl
      let w : LdvWait := { ring := s.regionKey r, mode := mode, sd := d, pf := p, off := ea.toNat - r.base, size := n, arg := arg, deadline := if dl = 0xFFFFFFFF then none else some (s.sample.2 + dl.toNat), reg := r }
      let l := u.ring w.ring r.depth
      match resolveV l w.mode w.arg with
      | .park => .next (u.setWait s.cur (.ldv w))
      | _ => .next (u.ldvTry s.cur w l)

/-- LDV.EXACT (R175): exactly version s(b)[31:0]. -/
def execLdvExact (d a b : Reg) (p : BitVec 3) (z : BitVec 2) (s : State) : Out := s.ldv 0 d a b p z

/-- LDV.LE (R175): the newest sealed version not later than s(b)[31:0]. -/
def execLdvLe (d a b : Reg) (p : BitVec 3) (z : BitVec 2) (s : State) : Out := s.ldv 1 d a b p z

/-- LDV.AGE (R175): the newest sealed version not earlier than CYCLE - s(b)[30:0]. -/
def execLdvAge (d a b : Reg) (p : BitVec 3) (z : BitVec 2) (s : State) : Out := s.ldv 2 d a b p z

/-- LDVDEADLINE (R176): the deadline instant of a parked load of a running tenant has passed. -/
def execLdvDeadline (cid : BitVec 12) (s : State) : Out :=
  let c := cid.toNat
  match (s.ctxOf c).sched.wait with
  | .ldv w =>
    match w.deadline with
    | some dl => if dl < s.dtime ∧ !s.switchedOut c then .next (s.ldvLate c w) else .next s
    | none => .next s
  | _ => .next s

/-- Bytes written into an open version's slot (R172). -/
def State.slotPut (s : State) (key depth i off n v : Nat) : State :=
  let l := s.ring key depth
  let x := slotAt l i
  s.setRing key (setAt l i { x with data := SMap.writeLE x.data off n v })

/-- STV (R172): writes into version s(b)[31:0], opening it when no version is open and it is later than the newest. -/
def execStv (t a b : Reg) (z : BitVec 2) (s : State) : Out :=
  let n := 2 ^ z.toNat
  let ea := s.s! a
  let v := lo32 (s.s! b)
  match s.check s.cur ea n n .version akVersion with
  | .stop u => .next u
  | .ok r _ u =>
    let key := s.regionKey r
    let l := s.ring key r.depth
    match openIdx l v with
    | some i => .next (u.slotPut key r.depth i (ea.toNat - r.base) n (s.s! t).toNat).advance
    | none =>
      let later := match ringNewest l with
        | some x => serialLater v x.ver
        | none => true
      if !(l.any fun x => x.st == .opened) && later then
        let u := u.openV key r.depth v
        .next (u.slotPut key r.depth (openSlot l) (ea.toNat - r.base) n (s.s! t).toNat).advance
      else s.trap cVGONE (vgoneVal 2 v)

/-- SEALV (R173): seals version s(b)[31:0] of the region that contains s(a). -/
def execSealv (a b : Reg) (s : State) : Out :=
  let v := lo32 (s.s! b)
  match s.check s.cur (s.s! a) 0 1 .version akVersion with
  | .stop u => .next u
  | .ok r _ u =>
    let key := s.regionKey r
    match openIdx (s.ring key r.depth) v with
    | none => s.trap cVGONE (vgoneVal 3 v)
    | some i => .next (u.sealV key r.depth r.len i).advance

/-- RECLV (R174): frees the sealed versions not later than s(b)[31:0], the newest sealed one apart. -/
def execReclv (a b : Reg) (s : State) : Out :=
  match s.check s.cur (s.s! a) 0 1 .version akVersion with
  | .stop u => .next u
  | .ok r _ u => .next (u.reclaimV (s.regionKey r) r.depth (lo32 (s.s! b))).advance

/-! ### Atomics (R178 to R182) -/

/-- What memory becomes under an AMO op (R178): op as R67 numbers them, n bits, the old value, the operand, the expected value of
AMOCAS. -/
def amoNew (op n old b exp : Nat) : Nat :=
  let m := 2 ^ n
  match op with
  | 0 => b % m
  | 1 => (old + b) % m
  | 2 => old &&& (b % m)
  | 3 => old ||| (b % m)
  | 4 => old ^^^ (b % m)
  | 5 => minS n old (b % m)
  | 6 => maxS n old (b % m)
  | 7 => minU old (b % m)
  | 8 => maxU old (b % m)
  | 9 => if old = exp % m then b % m else old
  | _ => (fpAdd fp32 rne old (b % 2 ^ 32)).1

/-- An AMO is applied: memory takes the new value, sd the old one, sign-extended; the context's word completes (R178). -/
def State.amoApply (s : State) (cid : Nat) (q : AmoReq) : State :=
  if s.isPoisoned q.pa q.size then
    match s.judge cid q.va.toNat q.size .amo with
    | .ok r => s.poisoned cid r q.va
    | _ => s
  else
    let old := s.physRead q.pa q.size
    let s := (s.touchCtx cid q.pa true).physWrite q.pa q.size (amoNew q.op.toNat (8 * q.size) old q.val.toNat q.exp.toNat)
    let c := s.ctxOf cid
    s.setCtx cid { c with
      regs := (c.regs.sset q.sd (wordI (sintN old (8 * q.size)))).advance
      sched := { c.sched with wait := .none, readyAt := s.clk } }

/-- next(x) of the 8-byte word of a physical address (R180). -/
def State.nextSeq (s : State) (pa : Nat) : Word32 := SMap.read 0 s.seqs (pa / 8)

/-- The base address a tree command names: w2 : w1 (R256). -/
def Cmd.tb (c : Cmd) : Nat := c.w[1].toNat + 2 ^ 32 * c.w[2].toNat

/-- The tree a tree command names. -/
def State.treeOf (s : State) (c : Cmd) : Option Tree := s.trees.find? fun t => t.tenant == c.tenant && t.tb == c.tb

/-- The AMO a context waits for at its home slice. -/
def Ctx.heldAmo (c : Ctx) : Option AmoReq :=
  match c.sched.wait with
  | .amo q true => some q
  | _ => none

/-- The ordered AMOs that home slices hold: the tenant, the context, the request (R180); of contexts that are saved off their slots too. -/
def State.heldAmos (s : State) : List (Byte × Nat × AmoReq) :=
  (s.ctxs.filterMap fun (kc : Nat × Ctx) => kc.2.heldAmo.map fun q => (s.tenantOf kc.1, kc.1, q))
    ++ s.slots.filterMap fun x => x.ctx.heldAmo.map fun q => (x.tenant, x.cid, q)

/-- The addresses of the held entries of a slice's ordered-atomic buffer, one for each entry: words, and trees apart (R181). -/
def State.heldAt (s : State) (slice : Nat) : List Nat :=
  ((s.heldAmos.filter fun x => homeSlice x.2.2.pa == slice).map fun x => x.2.2.pa / 8)
    ++ (s.treeQ.filterMap fun (x : Nat × TreeCmd) =>
      if x.2.held then
        match s.treeOf x.2.cmd with
        | some t => if homeSlice t.key == slice then some (2 ^ 64 + t.key) else none
        | none => none
      else none)

/-- What the buffer of a home slice answers an ordered request for number q on address x (R180, R181). -/
inductive Admit where
  | apply | hold | retry | stale
deriving DecidableEq, Repr

/-- The admission rule of R181. -/
def State.admission (s : State) (slice x : Nat) (next q : Word32) : Admit :=
  let l := s.heldAt slice
  let used := l.length
  let res := l.eraseDups.length
  let here := l.contains x
  if q = next then (if here ∨ used + res < 256 then .apply else .retry)
  else if serialLater q next then (if used + 1 + res + (if here then 0 else 1) ≤ 256 then .hold else .retry)
  else .stale

/-- After next(x) has moved, the held AMO whose number it is applies, and so on; a held one whose number is now earlier traps (R180). -/
def State.amoDrain (s : State) (x : Nat) : Nat → State
  | 0 => s
  | n + 1 =>
    let mine := s.heldAmos.filter fun h => h.2.2.pa / 8 == x
    match mine.find? fun h => h.2.2.seq == some (SMap.read 0 s.seqs x) with
    | some (t, cid, q) =>
      let s := { s with seqs := SMap.write 0 s.seqs x (SMap.read 0 s.seqs x + 1) }
      (s.onOwner t cid fun s => s.amoApply cid q).amoDrain x n
    | none =>
      mine.foldl (fun s h =>
        match h.2.2.seq with
        | some v => if serialLater (SMap.read 0 s.seqs x) v then s.onOwner h.1 h.2.1 fun s => s.wakeTrapAs h.2.1 cVGONE (vgoneVal 4 v) akAmo else s
        | none => s) s

/-- An AMO of a context arrives at its home slice (R179 to R181): applied, held, refused RETRY, or its number is past. -/
def State.amoArrive (s : State) (cid : Nat) (q : AmoReq) : State :=
  match q.seq with
  | none => s.amoApply cid q
  | some v =>
    match s.admission (homeSlice q.pa) (q.pa / 8) (s.nextSeq q.pa) v with
    | .apply => (({ s with seqs := SMap.write 0 s.seqs (q.pa / 8) (v + 1) }).amoApply cid q).amoDrain (q.pa / 8) (s.heldAmos.length + 1)
    | .hold => s.setWait cid (.amo q true)
    | .retry => s.setWait cid (.amo q false)
    | .stale => s.wakeTrapAs cid cVGONE (vgoneVal 4 v) akAmo

/-- An AMO of size 4 (z = 0) or 8 at s(a) (R178): checked, then sent to its home slice. -/
def State.amo (s : State) (op : BitVec 4) (d a b : Reg) (q z : BitVec 1) : Out :=
  let n := if z = 0 then 4 else 8
  let ea := s.s! a
  match s.check s.cur ea n n .amo akAmo with
  | .stop t => .next t
  | .ok _ (.mem pa) t =>
    .next (t.amoArrive s.cur { op := op, sd := d, va := ea, pa := pa, size := n, val := s.s! b, exp := s.s! d, seq := if q = 1 then some (lo32 (s.s! (b + 1))) else none })
  | .ok _ _ _ => .next (s.suspend s.cur cGATE ea 0 4 akAmo)

/-- AMOARRIVAL (R181): a refused AMO that the core sends again arrives. -/
def execAmoArrival (cid : BitVec 12) (s : State) : Out :=
  match (s.ctxOf cid.toNat).sched.wait with
  | .amo q false => .next (s.amoArrive cid.toNat q)
  | _ => .next s

/-- AMOSWAP (R178): memory becomes s(b); sd receives old. -/
def execAmoswap (d a b : Reg) (q z : BitVec 1) (_c : BitVec 3) (s : State) : Out := s.amo 0 d a b q z

/-- AMOADD (R178): memory becomes old + s(b); sd receives old. -/
def execAmoadd (d a b : Reg) (q z : BitVec 1) (_c : BitVec 3) (s : State) : Out := s.amo 1 d a b q z

/-- AMOAND (R178): memory becomes old AND s(b); sd receives old. -/
def execAmoand (d a b : Reg) (q z : BitVec 1) (_c : BitVec 3) (s : State) : Out := s.amo 2 d a b q z

/-- AMOOR (R178): memory becomes old OR s(b); sd receives old. -/
def execAmoor (d a b : Reg) (q z : BitVec 1) (_c : BitVec 3) (s : State) : Out := s.amo 3 d a b q z

/-- AMOXOR (R178): memory becomes old XOR s(b); sd receives old. -/
def execAmoxor (d a b : Reg) (q z : BitVec 1) (_c : BitVec 3) (s : State) : Out := s.amo 4 d a b q z

/-- AMOMIN (R178): memory becomes the smaller, signed; sd receives old. -/
def execAmomin (d a b : Reg) (q z : BitVec 1) (_c : BitVec 3) (s : State) : Out := s.amo 5 d a b q z

/-- AMOMAX (R178): memory becomes the larger, signed; sd receives old. -/
def execAmomax (d a b : Reg) (q z : BitVec 1) (_c : BitVec 3) (s : State) : Out := s.amo 6 d a b q z

/-- AMOMINU (R178): memory becomes the smaller, unsigned; sd receives old. -/
def execAmominu (d a b : Reg) (q z : BitVec 1) (_c : BitVec 3) (s : State) : Out := s.amo 7 d a b q z

/-- AMOMAXU (R178): memory becomes the larger, unsigned; sd receives old. -/
def execAmomaxu (d a b : Reg) (q z : BitVec 1) (_c : BitVec 3) (s : State) : Out := s.amo 8 d a b q z

/-- AMOCAS (R178): memory becomes s(b) when old equals s(d); sd receives old. -/
def execAmocas (d a b : Reg) (q z : BitVec 1) (_c : BitVec 3) (s : State) : Out := s.amo 9 d a b q z

/-- AMOFADD (R178): memory becomes the FP32 sum rounded to nearest even; sd receives old, FFLAGS keep their value. -/
def execAmofadd (d a b : Reg) (q : BitVec 1) (_c : BitVec 3) (s : State) : Out := s.amo 10 d a b q 0

/-! ### Fences and value waits (R183, R184) -/

/-- FENCE.FULL (R183): the model performs one context's accesses in order at every scope (log entry 5). -/
def execFenceFull (_c : BitVec 3) (s : State) : Out := .next s.advance

/-- FENCE.ACQ (R183). -/
def execFenceAcq (_c : BitVec 3) (s : State) : Out := .next s.advance

/-- FENCE.REL (R183). -/
def execFenceRel (_c : BitVec 3) (s : State) : Out := .next s.advance

/-- A WAITV completes with the value it read. -/
def State.waitvGives (s : State) (cid : Nat) (d : Reg) (m : Nat) : State :=
  let c := s.ctxOf cid
  s.setCtx cid { c with
    regs := (c.regs.sset d (word m)).advance
    sched := { c.sched with wait := .none, readyAt := s.clk } }

/-- The deadline of a WAITV has come (R184). -/
def State.waitvLate (s : State) (w : WaitvWait) : Bool := w.dl != 0xFFFFFFFF && decide (w.dl.toNat ≤ s.dtime - w.t0)

/-- One turn of the loop of R184 for a WAITV that has sampled its time and limit; a line of a stash mapping that it touches is filled first (R162). -/
def State.waitvTurn (s : State) (cid : Nat) (w : WaitvWait) : State :=
  if w.va.toNat % w.size ≠ 0 then s.trapAs cid cMISALIGN w.va akLoad
  else match s.check cid w.va w.size w.size .load akLoad with
  | .stop t =>
    match (t.ctxOf cid).sched.wait with
    | .again _ => t.setSched cid { (t.ctxOf cid).sched with wait := .waitv w }
    | _ => t
  | .ok r p t =>
    match t.readPlace cid r p w.va w.size with
    | .stop u => u
    | .val m u =>
      if m ≠ w.value.toNat % 2 ^ (8 * w.size) ∨ s.waitvLate w then u.waitvGives cid w.sd m
      else u.setSched cid { (u.ctxOf cid).sched with wait := .waitv w }

/-- WAITV (R184): waits for the word at s(a) to differ from s(b), or for VDEADL to pass. -/
def execWaitv (d a b : Reg) (z : BitVec 1) (_c : BitVec 3) (s : State) : Out :=
  let w : WaitvWait := { sd := d, va := s.s! a, size := if z = 0 then 4 else 8, value := s.s! b, t0 := s.dtime, dl := s.me.ctl.vdeadl }
  .next (s.waitvTurn s.cur w)

/-- WAITVDEADLINE (R184): the deadline of a parked WAITV of a running tenant has come; it returns the value it reads. -/
def execWaitvDeadline (cid : BitVec 12) (s : State) : Out :=
  let c := cid.toNat
  match (s.ctxOf c).sched.wait with
  | .waitv w => if s.waitvLate w && !s.switchedOut c then .next (s.waitvTurn c w) else .next s
  | _ => .next s

end Sys2Proof.Machine
end

