-- ==== Sys2Proof/Machine/Engines.lean ====
section
/-! DEFINITION. Engine queues (R77 to R81, R231 to R239): pushing a command, its checks, the engines' access to stash and memory (R241,
R242), completion; the random stream (R240). -/

namespace Sys2Proof.Machine

/-! ### Records (R77 to R80) -/

/-- Word i of a command. -/
def Cmd.at (c : Cmd) (i : Fin 8) : Word32 := c.w[i]
def Cmd.kind (c : Cmd) : Nat := fld c.w[0] 0 8
def Cmd.cnt (c : Cmd) : Bool := bit c.w[0] 11
def Cmd.kflag (c : Cmd) (i : Nat) : Bool := bit c.w[0] i

/-- A word of a command as a number. -/
def Cmd.num (c : Cmd) (i : Fin 8) : Nat := c.w[i].toNat

/-- A KIND is a command of R78. -/
def isCommand (k : Nat) : Bool := (decide (1 ≤ k) && decide (k ≤ 5)) || (decide (0x10 ≤ k) && decide (k ≤ 0x17)) || (decide (0x20 ≤ k) && decide (k ≤ 0x24))

/-- A KIND is served by engine e (R78). -/
def served (k e : Nat) : Bool :=
  if k < 0x10 then e == 0 else if k < 0x20 then e == 1 || e == 2 else e == 3

/-- The KFLAGS bits a kind assigns, as bits of w0 (R247, R253, R254, R258). -/
def kflagMask (k : Nat) : Nat :=
  match k with
  | 0x03 => 0x7000
  | 0x04 => 0x1000
  | 0x10 | 0x11 | 0x15 | 0x17 => 0x3000
  | 0x12 | 0x13 | 0x14 => 0x7000
  | 0x16 => 0x2000
  | 0x20 => 0x2000
  | 0x21 | 0x22 | 0x23 | 0x24 => 0x9000
  | _ => 0

/-- A check of R244: fails with this reason and word number. -/
def chk (bad : Bool) (reason wd : Nat) : List (Nat × Nat) := if bad then [(reason, wd)] else []

/-- The lowest reason, and of it the lowest word number (R80). -/
def firstBad (l : List (Nat × Nat)) : Option (Nat × Nat) :=
  l.foldl (fun acc x => match acc with
    | some y => if x.1 < y.1 ∨ (x.1 = y.1 ∧ x.2 < y.2) then some x else some y
    | none => some x) none

/-- The reserved bits of w1 to w7: the masks of the bits that may be set (0x11). -/
def Cmd.reserved (c : Cmd) (masks : List Nat) : List (Nat × Nat) :=
  (List.range 7).flatMap fun i => chk ((c.w.toList.getD (i + 1) 0).toNat &&& (2 ^ 32 - 1 - masks.getD i 0) != 0) 0x11 (i + 1)

/-- A signed word. -/
def Cmd.sint (c : Cmd) (i : Fin 8) : Int := sintN (c.num i) 32

/-! Checks of the matrix kinds (R245 to R251). -/

/-- Rows of A, columns of B, groups (R247). -/
def Cmd.ra (c : Cmd) : Nat := if c.kind = 4 then fld c.w[5] 0 6 + 1 else fld c.w[3] 0 6 + 1
def Cmd.cb (c : Cmd) : Nat := if c.kind = 4 then fld c.w[5] 8 6 + 1 else fld c.w[3] 8 6 + 1
def Cmd.g (c : Cmd) : Nat := fld c.w[3] 16 6 + 1

/-- Plane counts (R111). -/
def Cmd.pa (c : Cmd) : Nat := fld c.fmta 0 4 + 1
def Cmd.pb (c : Cmd) : Nat := fld c.fmtb 0 4 + 1

/-- N and M of MX.SPMUL (R249). -/
def Cmd.sparseN (c : Cmd) : Nat := 2 ^ fld c.w[0] 13 2
def Cmd.sparseM (c : Cmd) : Nat := if c.kflag 12 then 16 else 8

/-- Physical groups of the compressed operand (R249). -/
def Cmd.h (c : Cmd) : Nat := c.g * c.sparseN / c.sparseM

/-- The bits of an output format (R250). -/
def ofmtBits (f : Nat) : Nat := [32, 16, 16, 8, 8, 32, 16, 8, 4].getD f 0

/-- The bytes of a row of MX.EPI (R250). -/
def Cmd.rowBytes (c : Cmd) : Nat := cdiv (c.cb * ofmtBits (c.num 4 % 16)) 8

/-- A format register that fails the push (R113). -/
def fmtBad (f : BitVec 7) : Bool := fld f 4 2 == 3 || (fld f 4 2 == 2 && fld f 0 4 != 0)

/-- A stash area from off of n bytes, off a multiple of al (0x12). -/
def areaBad (off n al : Nat) : Bool := off % al != 0 || decide (0x40000 < off + n)

/-- The operands of a multiply (R246, R249): planes and scale records. -/
def Cmd.mulBad (c : Cmd) (sparse : Bool) : List (Nat × Nat) :=
  let gb := if sparse then c.h else c.g
  chk (areaBad (c.num 1) (8 * c.pa * c.g * c.ra) 8) 0x12 1
    ++ chk (areaBad (c.num 2) (8 * c.pb * gb * c.cb) 8) 0x12 2
    ++ chk (bit c.fmta 6 && areaBad c.scla.toNat (16 * c.g * c.ra) 16) 0x12 0
    ++ chk (bit c.fmtb 6 && areaBad c.sclb.toNat (16 * c.g * c.cb) 16) 0x12 0
    ++ chk (decide (32 < c.ra) || decide (32 < c.cb)) 0x13 3

/-- The kind checks of the matrix records. -/
def Cmd.mxBad (c : Cmd) : List (Nat × Nat) :=
  chk (fmtBad c.fmta || fmtBad c.fmtb) 0x10 0 ++
  match c.kind with
  | 1 => c.reserved [1, 0, 0, 0, 0, 0, 0]
  | 2 => c.reserved [0x3FFFF, 0x3FFFF, 0x13F3F3F, 0, 0, 0, 0] ++ c.mulBad false
  | 3 => c.reserved [0x3FFFF, 0x3FFFF, 0x13F3F3F, 0x3FFFF, 0, 0, 0] ++ c.mulBad true
      ++ chk (areaBad (c.num 4) (32 * c.h * c.cb) 32) 0x12 4
      ++ chk (fld c.w[0] 13 2 == 3) 0x16 0 ++ chk (fld c.w[0] 13 2 != 3 && c.g * c.sparseN % c.sparseM != 0) 0x16 3
  | 4 => c.reserved [1, 0x3FFFF, 0x3FFFF, 0xF, 0x3F3F, 0, 0]
      ++ chk (areaBad (c.num 2) (c.ra * c.num 3 + 4) 4) 0x12 2
      ++ chk (decide (32 < c.ra) || decide (32 < c.cb) || (c.num 4 == 8 && c.cb % 2 == 1)) 0x13 5
      ++ chk (decide (8 < c.num 4)) 0x13 4
      ++ chk (c.num 3 % 4 != 0 || decide (c.num 3 < c.rowBytes)) 0x13 3
  | _ => c.reserved [1, 0x3FF, 0, 0, 0, 0, 0]

/-! Checks of the copy kinds (R253, R254). -/

/-- The destination and the source of a copy record: a stash offset or an address (R253). -/
def Cmd.dst (c : Cmd) : Nat := if c.kflag 13 ∧ c.kind ≠ 0x17 then c.num 1 else c.num 1 + 2 ^ 32 * c.num 5
def Cmd.src (c : Cmd) : Nat := if c.kflag 12 then c.num 3 else c.num 3 + 2 ^ 32 * c.num 4

/-- An end in its LO and HI words: al is the alignment, lo and hi the least and greatest byte offsets its area reaches when it is in
the stash; area says whether the area is known at issue. -/
def Cmd.endBad (c : Cmd) (stash : Bool) (lw hw : Fin 8) (al : Nat) (area : Bool) (lo hi : Int) : List (Nat × Nat) :=
  if stash then
    chk (c.num hw != 0) 0x11 hw
      ++ chk (c.num lw % al != 0 || decide (0x40000 ≤ c.num lw) || (area && (decide (lo < 0) || decide (0x40000 < hi)))) 0x12 lw
      ++ chk (isKernel c.cid) 0x15 lw
  else chk (c.num lw % al != 0) 0x14 lw

/-- LEN of CP.COPY and CP.FILL. -/
def Cmd.lenBad (c : Cmd) : List (Nat × Nat) :=
  chk (c.num 2 % 4 != 0 || decide (c.num 2 < 4) || decide (2 ^ 24 < c.num 2)) 0x13 2

/-- Rows, groups and planes of CP.PLANE and CP.DECODE. -/
def Cmd.planeR (c : Cmd) : Nat := fld c.w[2] 0 6 + 1
def Cmd.planeG (c : Cmd) : Nat := fld c.w[2] 8 6 + 1
def Cmd.planeP (c : Cmd) : Nat := if c.kind = 0x15 then 12 else fld c.w[2] 16 4 + 1

/-- The area rows r = 0 .. n - 1 at base + r * stride, each of len bytes, reaches. -/
def rowsArea (base : Nat) (n : Nat) (stride : Int) (len : Nat) : Int × Int :=
  let last := ((n - 1 : Nat) : Int) * stride
  ((base : Int) + min 0 last, (base : Int) + max 0 last + len)

/-- The kind checks of the copy records. -/
def Cmd.cpBad (c : Cmd) : List (Nat × Nat) :=
  let all := 0xFFFFFFFF
  let ss := c.kflag 12
  let ds := c.kflag 13
  let n := c.num 2
  match c.kind with
  | 0x10 => c.reserved [all, all, all, all, all, 0, 0] ++ c.lenBad
      ++ c.endBad ds 1 5 4 true c.dst (c.dst + n) ++ c.endBad ss 3 4 4 true c.src (c.src + n)
  | 0x11 =>
    let rb := 4 * (n % 65536 + 1)
    let rows := n / 65536 + 1
    let a := rowsArea c.dst rows (c.sint 7) rb
    let b := rowsArea c.src rows (c.sint 6) rb
    chk (c.sint 6 % 4 != 0) 0x13 6 ++ chk (c.sint 7 % 4 != 0 || decide (c.sint 7 < rb)) 0x13 7
      ++ c.endBad ds 1 5 4 true a.1 a.2 ++ c.endBad ss 3 4 4 true b.1 b.2
  | 0x12 =>
    let es := if c.kflag 14 then 8 else 4
    c.reserved [all, 0xFFFF, all, all, all, 0x3FFFF, 0] ++ chk (areaBad (c.num 6) (4 * (n % 65536 + 1)) 4) 0x12 6
      ++ chk (isKernel c.cid) 0x15 6
      ++ c.endBad ds 1 5 4 true c.dst (c.dst + (n % 65536 + 1) * es) ++ c.endBad ss 3 4 4 false 0 0
  | 0x13 =>
    let es := if c.kflag 14 then 8 else 4
    c.reserved [all, 0xFFFF, all, all, all, 0x3FFFF, 0] ++ chk (areaBad (c.num 6) (4 * (n % 65536 + 1)) 4) 0x12 6
      ++ chk (isKernel c.cid) 0x15 6
      ++ c.endBad ds 1 5 4 false 0 0 ++ c.endBad ss 3 4 4 true c.src (c.src + (n % 65536 + 1) * es)
  | 0x14 =>
    let ew := if c.kflag 14 then 2 else 1
    let b := rowsArea c.src c.planeR (c.sint 6) (64 * c.planeG * ew)
    c.reserved [all, 0xF3F3F, all, all, all, all, 0] ++ chk (!ds) 0x13 0 ++ chk (decide (8 * ew < c.planeP)) 0x13 2
      ++ chk (c.sint 6 % 4 != 0) 0x13 6
      ++ c.endBad ds 1 5 4 true c.dst (c.dst + 8 * c.planeP * c.planeG * c.planeR) ++ c.endBad ss 3 4 4 true b.1 b.2
  | 0x15 =>
    c.reserved [all, 0x3F3F, all, all, all, 0x3FFFF, all] ++ chk (!ds) 0x13 0
      ++ chk (areaBad (c.num 6) (16 * c.planeG * c.planeR) 16) 0x12 6 ++ chk (c.num 7 % 8 != 0) 0x13 7
      ++ c.endBad ds 1 5 4 true c.dst (c.dst + 96 * c.planeG * c.planeR) ++ c.endBad ss 3 4 8 true c.src (c.src + c.num 7)
  | 0x16 => c.reserved [all, all, all, 0, all, 0, 0] ++ c.lenBad ++ c.endBad ds 1 5 4 true c.dst (c.dst + n)
  | _ => c.reserved [all, all, 0, 0, all, 0, 0] ++ chk (decide (n < 1) || decide (65536 < n)) 0x13 2
      ++ chk (c.num 1 % 65536 != 0) 0x14 1

/-! Checks of the tree kinds (R256, R258, R260). -/

/-- RES of a tree command: a stash offset or an address, and its bytes (R258). -/
def Cmd.res (c : Cmd) : Nat := if c.kflag 12 then c.num 3 else c.num 3 + 2 ^ 32 * c.num 4
def Cmd.resBytes (c : Cmd) : Nat :=
  match c.kind with
  | 0x21 => 8
  | 0x22 | 0x23 => 16 * (c.num 5 % 1024 + 1)
  | _ => if c.num 5 % 2 = 1 then 16 else 32

/-- BETA is NaN, infinite or below zero (0x18). -/
def betaBad (b : Nat) : Bool := decide (0x7F800000 ≤ b % 2 ^ 31) || (decide (2 ^ 31 ≤ b) && b % 2 ^ 31 != 0)

/-- The kind checks of the tree records; det says that the graph runs in deterministic mode. -/
def Cmd.trBad (c : Cmd) (det : Bool) : List (Nat × Nat) :=
  let all := 0xFFFFFFFF
  chk (c.num 1 % 4096 != 0) 0x14 1 ++
  if c.kind = 0x20 then
    c.reserved [all, all, all, all, 0x1F, all, 0] ++ chk (decide (c.num 5 % 32 < 1) || decide (28 < c.num 5 % 32)) 0x13 5
      ++ chk (betaBad (c.num 6)) 0x18 6
  else
    let w5 := if c.kind = 0x21 then all else if c.kind = 0x24 then 1 else 0x3FF
    let w6 := if c.kind = 0x22 ∨ (c.kind = 0x24 ∧ c.num 5 % 2 = 1) then all else 0
    c.reserved [all, all, all, all, w5, w6, all] ++ chk (det && !c.kflag 15) 0x17 0
      ++ (if c.kflag 12 then chk (c.num 4 != 0) 0x11 4 ++ chk (areaBad (c.num 3) c.resBytes 8) 0x12 3
          else chk (c.num 3 % 8 != 0) 0x14 3)

/-- Every kind check of a record (R244). -/
def Cmd.bad (c : Cmd) (det : Bool) : Option (Nat × Nat) :=
  firstBad (if c.kind < 0x10 then c.mxBad else if c.kind < 0x20 then c.cpBad else c.trBad det)

/-! ### Pushing (R231) -/

/-- A record of a pool, as a push reads it (R79). -/
inductive PoolRead where
  /-- The pool has no such record (R80). -/
  | absent
  | record (bs : List Byte)
  /-- Its page is away, or has no mapping: the context parks on the walker (R304, R311). -/
  | away (va : Nat)
  /-- It is poisoned (R375). -/
  | lost (va : Nat)
deriving DecidableEq, Repr

/-- The number of records and the address of the pool of the context's graph; a context without a graph has no records (R79, R80). -/
def State.poolOf (s : State) (cid : Nat) : Option (Nat × Nat) :=
  ((s.launchOf cid).bind s.launch?).bind fun l => (s.images.find? (·.id == l.image)).map fun im => (im.nrec, im.poolAt)

/-- Record idx of the pool of the context's graph; of the micro-kernel's for a kernel-core context (log entry 7). -/
def State.poolRec (s : State) (cid idx : Nat) : PoolRead :=
  if isKernel cid then
    (if idx < Config.kernelRecords then .record (s.physBytes (Config.kernelPool + 32 * idx) 32) else .absent)
  else match s.poolOf cid with
    | none => .absent
    | some (n, base) =>
      let va := base + 32 * idx
      if n ≤ idx then .absent
      else match s.paOf (s.tenantOf cid) va with
        | some pa => if s.isPoisoned pa 32 then .lost va else .record (s.physBytes pa 32)
        | none => .away va

/-- The patched copy of a record: each word that PMAP names takes the next register from s(ss) on (R79). -/
def patch (r : Regs) (ss : Nat) (bs : List Byte) : Vector Word32 8 :=
  let w0 : Word32 := BitVec.ofNat 32 (natAt bs 0 4)
  Vector.ofFn fun i =>
    if i.val ≠ 0 ∧ bit w0 (16 + i.val) then
      let j := ((List.range (i.val - 1)).filter fun k => bit w0 (17 + k)).length
      (r.sget (BitVec.ofNat 5 (ss + j))).truncate 32
    else BitVec.ofNat 32 (natAt bs (4 * i.val) 4)

/-- The reasons 0x02 to 0x06 of R80 that a record fails with, in order. -/
def headBad (w0 : Word32) (e ss : Nat) : Option Nat :=
  let k := fld w0 0 8
  let npatch := popc (BitVec.ofNat 7 (fld w0 17 7))
  if !isCommand k then some 2
  else if fld w0 8 3 ≠ e then some 3
  else if !served k e then some 4
  else if fld w0 16 1 ≠ 0 ∨ fld w0 24 8 ≠ 0 ∨ w0.toNat &&& 0xF000 &&& (0xFFFF - kflagMask k) ≠ 0 then some 5
  else if 32 < ss + npatch then some 6
  else none

/-- TVAL of ENGERR at issue (R80). -/
def engVal (idx reason wd : Nat) : Word := word (idx + reason * 2 ^ 16 + wd * 2 ^ 24)

/-- The command enters its engine's queue (R81). -/
def State.enqueue (s : State) (e : Nat) (c : Cmd) : State :=
  let x := s.coreOf (coreKey c.cid)
  let q := x.engine e
  s.setCore (coreKey c.cid) (x.setEngine e { q with queue := q.queue ++ [c] })

/-- The sum-tree port of core k forwards its oldest command to the home slice of its tree, and the entry frees (R233; log entry 26). -/
def State.forwardOne (s : State) (k : Nat) : State :=
  let x := s.coreOf k
  let q := x.engine 3
  match q.queue with
  | [] => s
  | c :: rest => State.setCore { s with
      treeQ := s.treeQ ++ [(s.nextId, { core := k, cmd := c, held := false, refused := 0 })]
      nextId := s.nextId + 1 } k (x.setEngine 3 { q with queue := rest })

/-- In n clocks every port forwards n commands at most. -/
def State.forward (s : State) (n : Nat) : State :=
  s.cores.foldl (fun s kc => foldNat (fun s _ => s.forwardOne kc.1) s 0 (Nat.min n 2)) s

/-- MXQ, CPQ and TRQ (R231): copy and patch the record, sample, check, wait for a queue entry and an inbox entry, and queue. -/
def State.push (s : State) (e : Nat) (ss : Reg) (w : BitVec 2) (m : BitVec 1) (i : BitVec 15) : Out :=
  let c := s.me
  let idx := i.toNat
  match s.poolRec s.cur idx with
  | .absent => s.trap cENGERR (engVal idx 1 0)
  | .away va => .next (s.parkWalk s.cur va false akEngine)
  | .lost va => .next (s.killTenant (s.tenantOf s.cur) cUNCORR 0 (word va) s.cur true)
  | .record bs =>
    match headBad (BitVec.ofNat 32 (natAt bs 0 4)) e ss.toNat with
    | some r => s.trap cENGERR (engVal idx r 0)
    | none =>
      let cmd : Cmd := { w := patch c.regs ss.toNat bs, idx := i, cid := s.cur, tenant := s.tenantOf s.cur, launch := s.launchOf s.cur, ctr := w, msg := m == 1, fmta := c.ctl.fmta, fmtb := c.ctl.fmtb, scla := c.ctl.scla, sclb := c.ctl.sclb, accbase := c.ctl.accbase }
      match cmd.bad (s.deterministic s.cur) with
      | some (r, wd) => s.trap cENGERR (engVal idx r wd)
      | none =>
        if 2 ≤ ((s.coreOf (coreKey s.cur)).engine e).queue.length ∨ (m = 1 ∧ s.inboxFull s.cur) then
          .next (s.park s.cur (.push (BitVec.ofNat 2 e)))
        else .next (s.enqueue e cmd).advance

/-- MXQ (R231): pushes a matrix command. -/
def execMxq (r : Reg) (w : BitVec 2) (m : BitVec 1) (i : BitVec 15) (s : State) : Out :=
  if isKernel s.cur then s.illegal (encode (.mxq r w m i)) else s.push 0 r w m i

/-- CPQ (R231): pushes a command to copy channel c - 1. -/
def execCpq (c : BitVec 2) (r : Reg) (w : BitVec 2) (m : BitVec 1) (i : BitVec 15) (s : State) : Out := s.push c.toNat r w m i

/-- TRQ (R231): pushes a sum-tree command. -/
def execTrq (r : Reg) (w : BitVec 2) (m : BitVec 1) (i : BitVec 15) (s : State) : Out :=
  if isKernel s.cur then s.illegal (encode (.trq r w m i)) else s.push 3 r w m i

/-! ### The ENG group (R238 to R240) -/

/-- WAITC (R238): waits until counter k reaches the target; a pending failure, or a wait that cannot complete, traps ENGERR. -/
def execWaitc (d a : Reg) (k : BitVec 2) (s : State) : Out :=
  let t := lo32 (s.s! a)
  let r := s.me.regs
  let c := r.wget k
  if !serialLater t c then
    if failPending r.failw then (s.setRegs s.cur { r with failw := 0 }).trap cENGERR (zx r.failw)
    else s.done d (zx c)
  else if !((s.cmdsOf s.cur).any fun x => x.2.cnt && x.2.ctr == k) then s.trap cENGERR (word (0x4F * 2 ^ 16))
  else .next (s.park s.cur (.waitc k t))

/-- ENGST (R239): a snapshot of engine e. -/
def execEngst (d : Reg) (e : BitVec 2) (s : State) : Out :=
  let c := s.coreOf (coreKey s.cur)
  let n := Nat.min 255 ((s.cmdsOf s.cur).filter (·.1 == e.toNat)).length
  s.done d (word (c.occ e.toNat % 4 + b2n (s.engBusy (coreKey s.cur) e.toNat) * 4 + n * 2 ^ 8 + s.me.regs.failw.toNat * 2 ^ 32))

/-- RNGINIT (R240): STRM := s(a), POS := s(b). -/
def execRnginit (a b : Reg) (s : State) : Out :=
  .next (s.setRegs s.cur { s.me.regs with strm := s.s! a, pos := s.s! b }).advance

/-- One round of Philox4x32 on words (c0, c1, c2, c3) with key words (k0, k1). -/
def philoxRound (c0 c1 c2 c3 k0 k1 : Word32) : Word32 × Word32 × Word32 × Word32 :=
  let p0 : Word := (c0.zeroExtend 64) * 0xD2511F53
  let p1 : Word := (c2.zeroExtend 64) * 0xCD9E8D57
  (p1.extractLsb' 32 32 ^^^ c1 ^^^ k0, p1.truncate 32, p0.extractLsb' 32 32 ^^^ c3 ^^^ k1, p0.truncate 32)

/-- n rounds, the key raised between them. -/
def philoxLoop : Nat → Word32 → Word32 → Word32 → Word32 → Word32 → Word32 → BitVec 128
  | 0, c0, c1, c2, c3, _, _ => c3 ++ c2 ++ c1 ++ c0
  | n + 1, c0, c1, c2, c3, k0, k1 =>
    let (d0, d1, d2, d3) := philoxRound c0 c1 c2 c3 k0 k1
    philoxLoop n d0 d1 d2 d3 (k0 + 0x9E3779B9) (k1 + 0xBB67AE85)

/-- Philox4x32-10 (R40): word i of key, counter and result at bits [32i+31:32i] (R240). -/
def philox (key : Word) (ctr : BitVec 128) : BitVec 128 :=
  philoxLoop 10 (ctr.extractLsb' 0 32) (ctr.extractLsb' 32 32) (ctr.extractLsb' 64 32) (ctr.extractLsb' 96 32)
    (key.extractLsb' 0 32) (key.extractLsb' 32 32)

/-- RNGNEXT (R240): the next 64 bits of the context's stream; at the last position it traps RNGWRAP. -/
def execRngnext (d : Reg) (s : State) : Out :=
  let r := s.me.regs
  if r.pos = 0xFFFFFFFFFFFFFFFF then s.trap cRNGWRAP r.strm
  else
    let blk := philox s.me.ctl.rngseed (r.strm ++ (r.pos >>> 1))
    let x : Word := if bit r.pos 0 then blk.extractLsb' 64 64 else blk.extractLsb' 0 64
    (s.setRegs s.cur { r with pos := r.pos + 1 }).done d x

/-! ### Engines and memory (R241, R242) -/

/-- Why an engine does not go on. -/
inductive EStop where
  | fail (reason : Nat)
  /-- A page that is tiered, moving or remote: the engine parks on the walker. -/
  | wait (va : Nat) (write : Bool)
  /-- A poisoned byte has been read: the state after R375. -/
  | dead (s : State)

/-- The physical address of an engine access, after the gate and the translation (R241), as its context would be judged on its slot (R336). -/
def State.engPlace (s : State) (c : Cmd) (e va n : Nat) (write : Bool) : Except EStop (RegionEnt × Nat × State) :=
  match (s.ownerView c.tenant c.cid).judge c.cid va n (if write then .engStore else .engLoad) with
  | .ok r =>
    if isKernel c.cid then .ok (r, va, s)
    else match s.xlate (coreKey c.cid) e c.tenant va write with
      | .ok pa t => .ok (r, pa, t)
      | .wait _ => .error (.wait va write)
      | .bad => .error (.fail 0x42)
      | .poisoned => .error (.dead (s.tablesBad (gathOf c.cid)))
  | _ => .error (.fail 0x41)

/-- An engine's read of n bytes of memory. -/
def State.engRead (s : State) (c : Cmd) (e va n : Nat) : Except EStop (Nat × State) := do
  let (r, pa, t) ← s.engPlace c e va n false
  if t.isPoisoned pa n then .error (.dead (t.poisoned c.cid r 0))
  else
    let u := t.touch pa .none (some c.cid) false
    .ok (if r.kind = kVERSIONED then ringRead (t.ring (t.regionKey r) r.depth) (va - r.base) n else t.physRead pa n, u)

/-- An engine's write of n bytes of memory. -/
def State.engWrite (s : State) (c : Cmd) (e va n v : Nat) : Except EStop State := do
  let (_, pa, t) ← s.engPlace c e va n true
  .ok ((t.touch pa .none (some c.cid) true).physWrite pa n v)

/-- A command reads a poisoned word of its core's stash (R299, R300): the stash is the tenant's (R375; log entry 9). -/
def State.stashLost (s : State) (c : Cmd) : State := s.killTenant c.tenant cUNCORR 0 0 c.cid true

/-- A command's read of the stash of its core; outside it the command fails (0x49). -/
def State.stashGet (s : State) (c : Cmd) (off : Int) (n : Nat) : Except EStop Nat :=
  let x := s.coreOf (coreKey c.cid)
  if off < 0 ∨ 0x40000 < off + n then .error (.fail 0x49)
  else if x.badAt off.toNat n then .error (.dead (s.stashLost c))
  else .ok (SMap.readLE x.stash off.toNat n)

/-- An engine's write of the stash (R241): into a read-only mapping it fails; a mapped line becomes filled and dirty. -/
def State.stashPut (s : State) (k : Nat) (off : Int) (n v : Nat) : Except EStop State :=
  if off < 0 ∨ 0x40000 < off + n then .error (.fail 0x49)
  else
    let o := off.toNat
    let c := s.coreOf k
    let d := Core.heal { c with stash := SMap.writeLE c.stash o n v } o n
    match s.mapOfLine k (o / 64) with
    | some m =>
      if !m.writable then .error (.fail 0x41)
      else .ok ((((s.setCore k d).soilLine k (o / 64)).dropRO (m.paOf o)).loseResv (m.paOf o) n)
    | none => .ok (s.setCore k d)

/-- n bytes from a stash offset or an address. -/
def State.getAt (s : State) (c : Cmd) (e : Nat) (stash : Bool) (a : Int) (n : Nat) : Except EStop (Nat × State) :=
  if stash then (s.stashGet c a n).map fun x => (x, s) else s.engRead c e (a % 2 ^ 64).toNat n

/-- n bytes to a stash offset or an address. -/
def State.putAt (s : State) (c : Cmd) (e : Nat) (stash : Bool) (a : Int) (n v : Nat) : Except EStop State :=
  if stash then s.stashPut (coreKey c.cid) a n v else s.engWrite c e (a % 2 ^ 64).toNat n v

/-- A boundary bitmap is well formed (R109). -/
def bitmapWell (b : BitVec 64) : Bool :=
  bit b 0 && fld b 57 7 == 0 && (List.range 57).all fun i => !bit b i || fld b (i + 1) 7 == 0

/-- Perform acts i .. i + n - 1 in order: the state and the number of the act that stopped it, with why. -/
def runActs (f : Nat → State → Except EStop State) : Nat → Nat → State → State × Nat × Option EStop
  | 0, i, s => (s, i, none)
  | n + 1, i, s =>
    match f i s with
    | .ok t => runActs f n (i + 1) t
    | .error e => (s, i, some e)

/-! ### Execution and completion (R233 to R237) -/

/-- The command engine e of core k executes next: the head of its queue, while no earlier one waits for its completion act. -/
def State.headCmd (s : State) (k e : Nat) : Option Cmd :=
  let q := (s.coreOf k).engine e
  if q.done.isEmpty then q.queue.head? else none

/-- The head command's writes are performed: it waits for its completion act (R234). DESIGN CHOICE: until now it held one of the 2 entries of its
queue, which frees here (R81; log entry 71). -/
def State.finishCmd (s : State) (k e : Nat) (c : Cmd) (reason res0 res1 : Nat) : State :=
  let x := s.coreOf k
  let q := x.engine e
  s.setCore k (x.setEngine e { queue := q.queue.erase c, done := q.done ++ [{ cmd := c, reason := BitVec.ofNat 8 reason, res0 := BitVec.ofNat 32 res0, res1 := BitVec.ofNat 32 res1 }] })

/-- The state after a command of engine e stopped for this reason; before: the state before it began. -/
def State.stopCmd (before after : State) (k e : Nat) (c : Cmd) (why : Option EStop) (res0 res1 : Nat) : State :=
  match why with
  | none => after.finishCmd k e c 0 res0 res1
  | some (.fail r) => after.finishCmd k e c r res0 res1
  | some (.wait va w) => before.addWalk (k / 16) c.tenant va w (.engine k e)
  | some (.dead t) => t

/-- FAILW after a command with this status word has failed (R236). -/
def failwAfter (f st : Word32) : Word32 := if fld f 16 8 = 0 then (f &&& 0x8000) ||| st else f ||| 0x8000

/-- The completion act on its context (R234 to R236): the counter, FAILW, MXOVF and the COMPLETE message; me is the context's PCID. -/
def Ctx.complete (c : Ctx) (me e : Nat) (d : Done) : Ctx :=
  let st : Word32 := BitVec.ofNat 32 (d.cmd.idx.toNat + d.reason.toNat * 2 ^ 16 + e * 2 ^ 24)
  let r := c.regs
  let r := if d.cmd.cnt then r.wset d.cmd.ctr (r.wget d.cmd.ctr + 1) else r
  let r := if d.reason = 0 then r else { r with failw := failwAfter r.failw st }
  let ctl := if d.cmd.kind = 4 then { c.ctl with mxovf := BitVec.ofNat 32 (Nat.min 0xFFFFFFFF (c.ctl.mxovf.toNat + d.res0.toNat)) } else c.ctl
  let m : Msg := { hdr := header kCOMPLETE 0 e me me 0 false d.cmd.idx.toNat, payload := BitVec.ofNat 448 (st.toNat + d.res0.toNat * 2 ^ 32 + d.res1.toNat * 2 ^ 64) }
  { c with regs := r, ctl := ctl, inbox := if d.cmd.msg then c.inbox ++ [m] else c.inbox }

/-- The completion act of one command; while its tenant's slot belongs to another tenant it goes into the saved context (R243). -/
def State.completeCmd (s : State) (e : Nat) (d : Done) : State :=
  let cid := d.cmd.cid
  let mine := fun (x : SlotSave) => x.cid == cid && x.tenant == d.cmd.tenant
  if s.slots.any mine then
    { s with slots := s.slots.map fun x => if mine x then { x with ctx := x.ctx.complete (s.pcidOf cid) e d } else x }
  else s.setCtx cid ((s.ctxOf cid).complete (s.pcidOf cid) e d)

/-- ENGINECOMPLETION (R234): the completion act of a command of engine e of core c; the matrix unit and the copy channels complete in
queue order. -/
def execEngineCompletion (g : BitVec 6) (c : BitVec 4) (e : BitVec 2) (n : Nat) (s : State) : Out :=
  let k := g.toNat * 16 + c.toNat
  let x := s.coreOf k
  let q := x.engine e.toNat
  match q.done[n]? with
  | none => .next s
  | some d =>
    if e ≠ 3 ∧ n ≠ 0 then .next s
    else
      let x := x.setEngine e.toNat { q with done := q.done.eraseIdx n }
      let x := if e = 0 then { x with mxSince := s.clk } else x
      .next ((s.setCore k x).completeCmd e.toNat d)

/-- MATRIXPOWERGATE (R252): after MXIDLE clocks in which the matrix unit has executed nothing its sub-arrays are gated; this changes
timing only. -/
def execMatrixPowerGate (g : BitVec 6) (c : BitVec 4) (s : State) : Out :=
  let k := g.toNat * 16 + c.toNat
  let x := s.coreOf k
  let q := x.engine 0
  if x.mxidle ≠ 0 ∧ q.queue.isEmpty ∧ q.done.isEmpty ∧ x.mxSince + x.mxidle.toNat ≤ s.clk then
    .next (s.setCore k { x with mxGated := true })
  else .next s

end Sys2Proof.Machine
end

