-- ==== Sys2Proof/Machine/Copy.lean ====
section
/-! DEFINITION. The copy channels (R253 to R255, R307; R120 to R122 for CP.DECODE). A command is performed act by act: each of its
events carries it on by one memory unit, group or granule, and the last one finishes it. -/

namespace Sys2Proof.Machine

/-- The head command of copy channel ch of core (g, c), when it has this kind. -/
def State.cpHead (s : State) (g : BitVec 6) (c : BitVec 4) (ch : BitVec 1) (kind : Nat) : Option Cmd :=
  match s.headCmd (g.toNat * 16 + c.toNat) (ch.toNat + 1) with
  | some cmd => if cmd.kind = kind then some cmd else none
  | none => none

/-- How far the head command of engine e has come. -/
def State.setProg (s : State) (k e i aux : Nat) : State :=
  let x := s.coreOf k
  s.setCore k (x.setEngine e { x.engine e with prog := i, aux := aux })

/-- After acts up to i of n: the command goes on, ends, fails or waits. res0 is what it reports when it ends (R235). -/
def State.cpStep (s : State) (k e : Nat) (c : Cmd) (n i aux res0 : Nat) (why : Option EStop) : Out :=
  .next (match why with
    | none => if n ≤ i then s.finishCmd k e c 0 res0 0 else s.setProg k e i aux
    | some (.fail r) => s.finishCmd k e c r res0 0
    | some (.wait va w) => (s.setProg k e i aux).addWalk (k / 16) c.tenant va w (.engine k e)
    | some (.dead t) => t)

/-- WP0 or WP1 of the issuing context counts n delivered bytes of channel e - 1 (R255), also while it is off its slot (R336). -/
def State.deliverBytes (s : State) (c : Cmd) (e n : Nat) : State :=
  s.onOwner c.tenant c.cid fun s =>
    let x := s.ctxOf c.cid
    s.setCtx c.cid { x with ctl := if e = 1 then { x.ctl with wp0 := x.ctl.wp0 + word n } else { x.ctl with wp1 := x.ctl.wp1 + word n } }

/-- What a channel has read ahead: 0 nothing, or 1 + v + 2^32 a for the word v at address a, the upper half of a memory unit whose lower half it
has delivered. A unit is read at once (R242). -/
def State.ahead (s : State) (k e : Nat) : Nat := ((s.coreOf k).engine e).aux
def State.setAhead (s : State) (k e x : Nat) : State := s.setProg k e ((s.coreOf k).engine e).prog x

/-- The word at a place, of memory with the unit it stands in: the upper half of one read before, or the lower half of one read now. -/
def Cmd.readWord (c : Cmd) (e : Nat) (src : Int) (s : State) : Except EStop (Nat × State) :=
  let k := coreKey c.cid
  let a := (src % 2 ^ 64).toNat
  let x := s.ahead k e
  if c.kflag 12 then s.getAt c e true src 4
  else if x ≠ 0 ∧ (x - 1) / 2 ^ 32 = a then .ok ((x - 1) % 2 ^ 32, s.setAhead k e 0)
  else if a % 8 = 0 then do
    let (v, t) ← s.engRead c e a 8
    .ok (v % 2 ^ 32, t.setAhead k e (1 + v / 2 ^ 32 + 2 ^ 32 * (a + 4)))
  else do
    let (v, t) ← s.engRead c e a 4
    .ok (v, t.setAhead k e 0)

/-- A word written to a place; the channel sees its own write in what it has read ahead (R254). -/
def Cmd.writeWord (c : Cmd) (e : Nat) (dst : Int) (v : Nat) (s : State) : Except EStop State := do
  let t ← s.putAt c e (c.kflag 13) dst 4 v
  let k := coreKey c.cid
  let a := (dst % 2 ^ 64).toNat
  let x := t.ahead k e
  .ok (if !c.kflag 13 && x != 0 && (x - 1) / 2 ^ 32 == a then t.setAhead k e (1 + v + 2 ^ 32 * a) else t)

/-- One word delivered: the word at src, a stash offset or an address, goes to dst. -/
def Cmd.copyWord (c : Cmd) (e : Nat) (src dst : Int) (s : State) : Except EStop State := do
  let (v, t) ← c.readWord e src s
  let u ← c.writeWord e dst v t
  .ok (u.deliverBytes c e 4)

/-- How many of the words from p on go to the 8-byte memory unit of word p (R242): dst names their places. -/
def unitWords (dst : Nat → Int) (n p : Nat) : Nat := if p + 1 < n ∧ dst p % 8 = 0 ∧ dst (p + 1) = dst p + 4 then 2 else 1

/-- A word copy: n words, word i from the place that src gives to dst i; each event performs those of one memory unit. -/
def State.wordCopy (s : State) (k e : Nat) (c : Cmd) (n : Nat) (src : Nat → State → Except EStop Int) (dst : Nat → Int) : Out :=
  let p := ((s.coreOf k).engine e).prog
  let r := runActs (fun i s => do
    let a ← src i s
    c.copyWord e a (dst i) s) (unitWords dst n p) p s
  r.1.cpStep k e c n r.2.1 (r.1.ahead k e) 0 r.2.2

/-- CP_COPY (R254): each destination word in increasing address order takes the source word read just before it. -/
def execCpCopy (g : BitVec 6) (c : BitVec 4) (ch : BitVec 1) (s : State) : Out :=
  match s.cpHead g c ch 0x10 with
  | none => .next s
  | some cmd =>
    s.wordCopy (g.toNat * 16 + c.toNat) (ch.toNat + 1) cmd (cmd.num 2 / 4) (fun i _ => .ok ((cmd.src + 4 * i : Nat) : Int))
      (fun i => ((cmd.dst + 4 * i : Nat) : Int))

/-- CP_COPY2D (R254): row r copies from SRC + r * SSTR to DST + r * DSTR, rows in order. -/
def execCpCopy2d (g : BitVec 6) (c : BitVec 4) (ch : BitVec 1) (s : State) : Out :=
  match s.cpHead g c ch 0x11 with
  | none => .next s
  | some cmd =>
    let w := cmd.num 2 % 65536 + 1
    let rows := cmd.num 2 / 65536 + 1
    s.wordCopy (g.toNat * 16 + c.toNat) (ch.toNat + 1) cmd (w * rows)
      (fun i _ => .ok ((cmd.src : Int) + ((i / w : Nat) : Int) * cmd.sint 6 + ((4 * (i % w) : Nat) : Int)))
      (fun i => (cmd.dst : Int) + ((i / w : Nat) : Int) * cmd.sint 7 + ((4 * (i % w) : Nat) : Int))

/-- The words of an element of CP.GATHER and CP.SCATTER: 1 or 2. -/
def Cmd.esWords (c : Cmd) : Nat := if c.kflag 14 then 2 else 1

/-- The place index element el names, from base; in the stash the whole element must lie in it (0x49). -/
def State.indexed (s : State) (c : Cmd) (stash : Bool) (base el : Nat) : Except EStop Int := do
  let x ← s.stashGet c ((c.num 6 + 4 * el : Nat) : Int) 4
  let a := (base : Int) + sintN x 32 * ((4 * c.esWords : Nat) : Int)
  if stash && (decide (a < 0) || decide (0x40000 < a + ((4 * c.esWords : Nat) : Int))) then .error (.fail 0x49) else .ok a

/-- CP_GATHER (R254): element e is the one at SRC + SInt(index e) * ES. -/
def execCpGather (g : BitVec 6) (c : BitVec 4) (ch : BitVec 1) (s : State) : Out :=
  let k := g.toNat * 16 + c.toNat
  let e := ch.toNat + 1
  match s.cpHead g c ch 0x12 with
  | none => .next s
  | some cmd =>
    let ew := cmd.esWords
    s.wordCopy k e cmd ((cmd.num 2 % 65536 + 1) * ew)
      (fun i s => (s.indexed cmd (cmd.kflag 12) cmd.src (i / ew)).map (· + ((4 * (i % ew) : Nat) : Int)))
      (fun i => ((cmd.dst + 4 * i : Nat) : Int))

/-- CP_SCATTER (R254): the element at SRC + e * ES goes to DST + SInt(index e) * ES, in element order. -/
def execCpScatter (g : BitVec 6) (c : BitVec 4) (ch : BitVec 1) (s : State) : Out :=
  let k := g.toNat * 16 + c.toNat
  let e := ch.toNat + 1
  match s.cpHead g c ch 0x13 with
  | none => .next s
  | some cmd =>
    let ew := cmd.esWords
    let n := (cmd.num 2 % 65536 + 1) * ew
    let p := ((s.coreOf k).engine e).prog
    let r := runActs (fun i s => do
      let a ← s.indexed cmd (cmd.kflag 13) cmd.dst (i / ew)
      cmd.copyWord e ((cmd.src + 4 * i : Nat) : Int) (a + ((4 * (i % ew) : Nat) : Int)) s) (Nat.min (ew - p % ew) (n - p)) p s
    r.1.cpStep k e cmd n r.2.1 (r.1.ahead k e) 0 r.2.2

/-- CP_FILL (R254): every destination word becomes PATTERN. -/
def execCpFill (g : BitVec 6) (c : BitVec 4) (ch : BitVec 1) (s : State) : Out :=
  let k := g.toNat * 16 + c.toNat
  let e := ch.toNat + 1
  match s.cpHead g c ch 0x16 with
  | none => .next s
  | some cmd =>
    let n := cmd.num 2 / 4
    let p := ((s.coreOf k).engine e).prog
    let (u, i, why) := runActs (fun i s => do
      let t ← s.putAt cmd e (cmd.kflag 13) ((cmd.dst + 4 * i : Nat) : Int) 4 (cmd.num 3)
      .ok (t.deliverBytes cmd e 4)) (unitWords (fun i => ((cmd.dst + 4 * i : Nat) : Int)) n p) p s
    u.cpStep k e cmd n i 0 0 why

/-! ### Planes -/

/-- n words from a place on, in order. -/
def State.getWords (s : State) (c : Cmd) (e : Nat) (stash : Bool) (a : Int) : Nat → Except EStop (List Nat × State)
  | 0 => .ok ([], s)
  | n + 1 => do
    let (x, t) ← s.getAt c e stash a 4
    let (l, u) ← t.getWords c e stash (a + 4) n
    .ok (x :: l, u)

/-- Plane j of 64 element values (R108). -/
def planeOf (qs : List Nat) (j : Nat) : Nat := qs.foldr (fun q acc => q / 2 ^ j % 2 + 2 * acc) 0

/-- The two stash words of each of a list of 64-bit words. -/
def splitWords (l : List Nat) : List Nat := l.flatMap fun w => [w % 2 ^ 32, w / 2 ^ 32]

/-- Write words to the stash from offset o, of which the first cnt count as delivered. -/
def State.putWords (s : State) (k e : Nat) (c : Cmd) (o : Nat) (l : List Nat) (counted : Bool) : State × Nat × Option EStop :=
  runActs (fun i s => do
    let t ← s.stashPut k ((o + 4 * i : Nat) : Int) 4 (l.getD i 0)
    .ok (if counted then t.deliverBytes c e 4 else t)) l.length 0 s

/-- CP_PLANE (R254): the planes of one group of the source's integer elements. -/
def execCpPlane (g : BitVec 6) (c : BitVec 4) (ch : BitVec 1) (s : State) : Out :=
  let k := g.toNat * 16 + c.toNat
  let e := ch.toNat + 1
  match s.cpHead g c ch 0x14 with
  | none => .next s
  | some cmd =>
    let n := cmd.planeR * cmd.planeG
    let i := ((s.coreOf k).engine e).prog
    let gr := i / cmd.planeR
    let r := i % cmd.planeR
    let ew := if cmd.kflag 14 then 2 else 1
    match s.getWords cmd e (cmd.kflag 12) ((cmd.src : Int) + (r : Int) * cmd.sint 6 + ((64 * gr * ew : Nat) : Int)) (16 * ew) with
    | .error why => s.cpStep k e cmd n i 0 0 (some why)
    | .ok (ws, t) =>
      let all := ws.foldr (fun w acc => w + 2 ^ 32 * acc) 0
      let qs := (List.range 64).map fun m => all / 2 ^ (8 * ew * m) % 2 ^ (8 * ew)
      let (u, _, why) := t.putWords k e cmd (cmd.dst + 8 * (cmd.planeP * i)) (splitWords ((List.range cmd.planeP).map (planeOf qs))) true
      u.cpStep k e cmd n (i + 1) 0 0 why

/-! ### Decoding (R120 to R122) -/

/-- The exponent-delta code at the low end of b, of which n bits are known: its delta (none for a zero element) and length; nothing
when the code is longer (R121). -/
def deltaCode (b n : Nat) : Option (Option Nat × Nat) :=
  let ones := ((List.range 5).takeWhile fun i => b / 2 ^ i % 2 = 1).length
  let len := if ones < 4 then ones + 1 else if ones = 4 then 7 else 9
  if n < len then none
  else some (if ones < 4 then some ones else if ones = 4 then some (4 + b / 32 % 4) else if b / 32 % 16 = 0 then none else some (7 + b / 32 % 16), len)

/-- The code of an element, in 12-bit two's complement: nibble nib, delta d (R122). -/
def cbfCode (nib : Nat) (d : Option Nat) : Nat :=
  match d with
  | none => 0
  | some d =>
    let m := 8 + nib % 8
    let q := if d ≤ 7 then m * 2 ^ (7 - d) else (roundShift rne false m (d - 7)).1
    if nib / 8 % 2 = 1 then (4096 - q) % 4096 else q

/-- Word j of the record that begins at stream offset o; past MAXLEN the command fails (0x43). -/
def State.cbfWord (s : State) (c : Cmd) (e o j : Nat) : Except EStop (Nat × State) :=
  if c.num 7 < o + 8 * j + 8 then .error (.fail 0x43)
  else s.getAt c e (c.kflag 12) ((c.src + o + 8 * j : Nat) : Int) 8

/-- The codes of the elements left: b holds n unread code bits, j the next word of the record. Each element may take one more word. -/
def State.cbfCodes (s : State) (c : Cmd) (e o : Nat) : List Nat → Nat → Nat → Nat → Except EStop (List Nat × Nat × State)
  | [], _, _, j => .ok ([], j, s)
  | nib :: l, b, n, j =>
    match deltaCode b n with
    | some (d, len) => do
      let (qs, j', t) ← s.cbfCodes c e o l (b / 2 ^ len) (n - len) j
      .ok (cbfCode nib d :: qs, j', t)
    | none => do
      let (w, t) ← s.cbfWord c e o j
      let b := b + w * 2 ^ n
      match deltaCode b (n + 64) with
      | some (d, len) =>
        let (qs, j', u) ← t.cbfCodes c e o l (b / 2 ^ len) (n + 64 - len) (j + 1)
        .ok (cbfCode nib d :: qs, j', u)
      | none => .error (.fail 0x43)

/-- One group record at stream offset o: bitmap, scale bytes, the 64 codes, and its length in words. -/
def State.cbfGroup (s : State) (c : Cmd) (e o : Nat) : Except EStop (Nat × Nat × List Nat × Nat × State) := do
  let (bm, t) ← s.cbfWord c e o 0
  if !bitmapWell (BitVec.ofNat 64 bm) then .error (.fail 0x40)
  else
    let (sc, t) ← t.cbfWord c e o 1
    let (n0, t) ← t.cbfWord c e o 2
    let (n1, t) ← t.cbfWord c e o 3
    let (n2, t) ← t.cbfWord c e o 4
    let (n3, t) ← t.cbfWord c e o 5
    let all := n0 + n1 * 2 ^ 64 + n2 * 2 ^ 128 + n3 * 2 ^ 192
    let (qs, j, t) ← t.cbfCodes c e o ((List.range 64).map fun i => all / 16 ^ i % 16) 0 0 6
    .ok (bm, sc, qs, j, t)

/-- CP_DECODE (R122, R254): decodes one group record into 12 planes and a scale record. -/
def execCpDecode (g : BitVec 6) (c : BitVec 4) (ch : BitVec 1) (s : State) : Out :=
  let k := g.toNat * 16 + c.toNat
  let e := ch.toNat + 1
  match s.cpHead g c ch 0x15 with
  | none => .next s
  | some cmd =>
    let n := cmd.planeR * cmd.planeG
    let i := ((s.coreOf k).engine e).prog
    let o := ((s.coreOf k).engine e).aux
    match s.cbfGroup cmd e o with
    | .error why => s.cpStep k e cmd n i o o (some why)
    | .ok (bm, sc, qs, j, t) =>
      let (u, _, why) := t.putWords k e cmd (cmd.dst + 96 * i) (splitWords ((List.range 12).map (planeOf qs))) true
      match why with
      | some y => u.cpStep k e cmd n i o o (some y)
      | none =>
        let (v, _, why) := u.putWords k e cmd (cmd.num 6 + 16 * i) (splitWords [bm, sc]) false
        v.cpStep k e cmd n (i + 1) (o + 8 * j) (o + 8 * j) why

/-! ### Tier moves (R254, R307) -/

/-- What CP.TOTIER has to do for a granule (R307). -/
inductive Granule where
  /-- Nothing, or nothing more: it is passed over. -/
  | passed
  /-- Its move joins the queue. -/
  | move (g : Nat)
  /-- Its page is in motion, or its move is queued. -/
  | waits
  | fails (why : EStop)

/-- The granule at va: asked says whether the command has queued its move. A granule with PIN = 1 is never moved down (R302). -/
def State.granule (s : State) (c : Cmd) (va : Nat) (asked : Bool) : Granule :=
  let up := c.kflag 12
  match (s.ownerView c.tenant c.cid).judgeAll c.cid .map 16 va 65536 with
  | .ok _ =>
    if isKernel c.cid then .passed else
    match s.walkTables c.tenant va with
    | .leaf _ _ pa e =>
      if e / 32 % 2 = 0 then .passed
      else
        let g := s.granuleOf pa
        if s.moveQueued g up && asked then .waits
        else if up || asked || s.stashHolds (pa / 65536) || tPin (s.tierEnt g) then .passed
        else .move g
    | .tiered _ g => if !up then .passed else if asked && s.moveQueued g true then .waits else if asked then .passed else .move g
    | .moving _ => .waits
    | .poisoned => .fails (.dead (s.tablesBad (gathOf c.cid)))
    | _ => .passed
  | _ => .fails (.fail 0x41)

/-- The move of a granule that CP.TOTIER names joins the queue, behind every demand up-move (R304). -/
def State.queueMove (s : State) (c : Cmd) (g : Nat) : State :=
  let up := c.kflag 12
  let s := if up then s else s.setTier g (tput (s.tierEnt g) 3 1 (b2n (c.kflag 13)))
  if s.moveQueued g up then s else { s with moves := s.moves ++ [{ gran := g, up := up, demand := false }] }

/-- CP_TOTIER (R254, R307): a down-move or an up-move of the next granule it names joins the queue, or has ended. -/
def execCpTotier (g : BitVec 6) (c : BitVec 4) (ch : BitVec 1) (s : State) : Out :=
  let k := g.toNat * 16 + c.toNat
  let e := ch.toNat + 1
  match s.cpHead g c ch 0x17 with
  | none => .next s
  | some cmd =>
    let q := (s.coreOf k).engine e
    match s.granule cmd ((cmd.dst + 65536 * q.prog) % 2 ^ 64) (q.aux != 0) with
    | .passed => s.cpStep k e cmd (cmd.num 2) (q.prog + 1) 0 0 none
    | .move m => .next ((s.queueMove cmd m).setProg k e q.prog 1)
    | .waits => .next s
    | .fails why => s.cpStep k e cmd (cmd.num 2) q.prog 0 0 (some why)

end Sys2Proof.Machine
end

