-- ==== Sys2Proof/Machine/Float.lean ====
section
/-! DEFINITION. The scalar floating-point group (R131 to R134). -/

namespace Sys2Proof.Machine

/-- The rounding mode an rm field selects (R53, R131). -/
def State.rmode (s : State) (r : BitVec 3) : Mode := if r = 4 then s.me.ctl.frm else r.truncate 2

/-- The low bits of a register as an operand of a format (R131). -/
def State.fp (s : State) (f : Fmt) (i : Reg) : Nat := (s.s! i).toNat % 2 ^ f.w

/-- A rounded result: its flags accumulate, the bits above it are zero, and the word completes (R131). -/
def State.fpDone (s : State) (d : Reg) (r : Rounded) : Out := (s.addFlags r.2).done d (word r.1)

/-- FADD (R132): a + b rounded once. -/
def execFadd (d a b : Reg) (r : BitVec 3) (p : BitVec 2) (s : State) : Out :=
  let f := precFmt p.toNat
  s.fpDone d (fpAdd f (s.rmode r) (s.fp f a) (s.fp f b))

/-- FSUB (R132): a - b rounded once. -/
def execFsub (d a b : Reg) (r : BitVec 3) (p : BitVec 2) (s : State) : Out :=
  let f := precFmt p.toNat
  s.fpDone d (fpSub f (s.rmode r) (s.fp f a) (s.fp f b))

/-- FMUL (R132): a times b rounded once. -/
def execFmul (d a b : Reg) (r : BitVec 3) (p : BitVec 2) (s : State) : Out :=
  let f := precFmt p.toNat
  s.fpDone d (fpMul f (s.rmode r) (s.fp f a) (s.fp f b))

/-- FDIV (R132): a divided by b rounded once. -/
def execFdiv (d a b : Reg) (r : BitVec 3) (p : BitVec 2) (s : State) : Out :=
  let f := precFmt p.toNat
  s.fpDone d (fpDiv f (s.rmode r) (s.fp f a) (s.fp f b))

/-- FSQRT (R132): the square root of a. -/
def execFsqrt (d a : Reg) (r : BitVec 3) (p : BitVec 2) (s : State) : Out :=
  let f := precFmt p.toNat
  s.fpDone d (fpSqrt f (s.rmode r) (s.fp f a))

/-- FMIN (R133): the smaller operand, -0 below +0. -/
def execFmin (d a b : Reg) (p : BitVec 2) (s : State) : Out :=
  let f := precFmt p.toNat
  s.fpDone d (fpMinMax f false (s.fp f a) (s.fp f b))

/-- FMAX (R133): the larger operand, -0 below +0. -/
def execFmax (d a b : Reg) (p : BitVec 2) (s : State) : Out :=
  let f := precFmt p.toNat
  s.fpDone d (fpMinMax f true (s.fp f a) (s.fp f b))

/-- FMAC (R132): a times b plus sd, rounded once. -/
def execFmac (d a b : Reg) (r : BitVec 3) (p : BitVec 2) (s : State) : Out :=
  let f := precFmt p.toNat
  s.fpDone d (fpFma f (s.rmode r) false (s.fp f a) (s.fp f b) (s.fp f d))

/-- FNMAC (R132): sd minus a times b, rounded once. -/
def execFnmac (d a b : Reg) (r : BitVec 3) (p : BitVec 2) (s : State) : Out :=
  let f := precFmt p.toNat
  s.fpDone d (fpFma f (s.rmode r) true (s.fp f a) (s.fp f b) (s.fp f d))

/-- FCPYS (R133): a with the sign of b; bits are copied and no flag is raised. -/
def execFcpys (d a b : Reg) (p : BitVec 2) (s : State) : Out :=
  let f := precFmt p.toNat
  s.done d (word (f.enc (f.neg (s.fp f b)) (f.mag (s.fp f a))))

/-- FCPYSN (R133): a with the inverse of the sign of b; bits are copied and no flag is raised. -/
def execFcpysn (d a b : Reg) (p : BitVec 2) (s : State) : Out :=
  let f := precFmt p.toNat
  s.done d (word (f.enc (!f.neg (s.fp f b)) (f.mag (s.fp f a))))

/-- FCPYSX (R133): a with the XOR of both signs; bits are copied and no flag is raised. -/
def execFcpysx (d a b : Reg) (p : BitVec 2) (s : State) : Out :=
  let f := precFmt p.toNat
  s.done d (word (f.enc (f.neg (s.fp f a) != f.neg (s.fp f b)) (f.mag (s.fp f a))))

/-- FEQ (R133): 1 when a = b, else 0. -/
def execFeq (d a b : Reg) (p : BitVec 2) (s : State) : Out :=
  let f := precFmt p.toNat
  let (c, fl) := fpCompare f 0 (s.fp f a) (s.fp f b)
  (s.addFlags fl).done d (flag c)

/-- FLT (R133): 1 when a < b, else 0. -/
def execFlt (d a b : Reg) (p : BitVec 2) (s : State) : Out :=
  let f := precFmt p.toNat
  let (c, fl) := fpCompare f 1 (s.fp f a) (s.fp f b)
  (s.addFlags fl).done d (flag c)

/-- FLE (R133): 1 when a <= b, else 0. -/
def execFle (d a b : Reg) (p : BitVec 2) (s : State) : Out :=
  let f := precFmt p.toNat
  let (c, fl) := fpCompare f 2 (s.fp f a) (s.fp f b)
  (s.addFlags fl).done d (flag c)

/-- FKIND (R133): the class code of a; no flag. -/
def execFkind (d a : Reg) (p : BitVec 2) (s : State) : Out :=
  let f := precFmt p.toNat
  s.done d (word (fpKind f (s.fp f a)))

/-- FCVTL (R134): a converted to int64. -/
def execFcvtl (d a : Reg) (r : BitVec 3) (p : BitVec 2) (s : State) : Out :=
  let f := precFmt p.toNat
  let (x, fl) := toIntRange (s.rmode r) (-(2 ^ 63)) (2 ^ 63 - 1) (f.val (s.fp f a))
  (s.addFlags fl).done d (wordI x)

/-- FCVTLU (R134): a converted to uint64. -/
def execFcvtlu (d a : Reg) (r : BitVec 3) (p : BitVec 2) (s : State) : Out :=
  let f := precFmt p.toNat
  let (x, fl) := toIntRange (s.rmode r) 0 (2 ^ 64 - 1) (f.val (s.fp f a))
  (s.addFlags fl).done d (wordI x)

/-- FCVTFL (R134): SInt(a) rounded. -/
def execFcvtfl (d a : Reg) (r : BitVec 3) (p : BitVec 2) (s : State) : Out :=
  s.fpDone d (roundFP (precFmt p.toNat) (s.rmode r) (intVal (s.s! a).toInt))

/-- FCVTFLU (R134): UInt(a) rounded. -/
def execFcvtflu (d a : Reg) (r : BitVec 3) (p : BitVec 2) (s : State) : Out :=
  s.fpDone d (roundFP (precFmt p.toNat) (s.rmode r) (intVal (s.s! a).toNat))

/-- FCVTF (R134): the value of a in the source precision c, rounded to the destination precision, or copied where that is the same. -/
def execFcvtf (d a : Reg) (c : BitVec 5) (r : BitVec 3) (p : BitVec 2) (s : State) : Out :=
  let src := precFmt c.toNat
  s.fpDone d (if c.toNat = p.toNat then fpCopy src (s.fp src a) else fpConvert src (precFmt p.toNat) (s.rmode r) (s.fp src a))

end Sys2Proof.Machine
end

