-- ==== Sys2Proof/Machine/Outside.lean ====
section
/-! DEFINITION. Accesses from outside the compute dies: the host through the functions' BARs (R389, R403, R404) and the harts of the
control processor chiplet (R280, R375, R394, R395). -/

namespace Sys2Proof.Machine

/-- The partition a tenant belongs to: the one it runs in, else the one TSLICE names (R320). -/
def State.homePart (s : State) (t : Byte) : Nat := (s.runsIn t).getD (fld (s.win! (rTSLICE t.toNat)) 32 6)

/-- Steps 1 to 3 of R388 for a host access of a tenant (R389): the region it lies in. -/
def State.hostRegion (s : State) (t : Byte) (va n : Nat) (wr : Bool) : Option RegionEnt :=
  let rs := s.regionTable (s.homePart t)
  let cs := s.capTable t
  let need : Need := if wr then .store else .load
  rs.find? fun r => r.covers va && decide (va + n ≤ r.base + r.len) && rightsOk cs r va n need &&
    ((r.ocls == 0 && r.tenant == t) || (r.ocls == 1 && namesService cs r.svc 0))

/-- What a function's access completed with; none for an Unsupported Request or a poisoned transfer (R375, R389). -/
def State.vfAnswer (s : State) (fn : Nat) (x : Option Word) : State :=
  { s with vfs := SMap.write {} s.vfs fn { (SMap.read {} s.vfs fn : VFun) with data := x } }

/-- A physical-function access to BAR2 (R403): the image SRAM while STAGE is 3, otherwise reads zero and writes are dropped. -/
def State.pfAccess (s : State) (off n : Nat) (wr : Option Word) : State :=
  let pa := 0x10000000000 + off
  let live := s.stage = 3 ∧ off + n ≤ 0x1000000
  match wr with
  | some v => if live then (s.touch pa .io none true).physWrite pa n v.toNat else s
  | none =>
    if !live then s.vfAnswer 0 (some 0)
    else if s.isPoisoned pa n then (s.touch pa .io none false).vfAnswer 0 none
    else (s.touch pa .io none false).vfAnswer 0 (some (word (s.physRead pa n)))

/-- The host reads 8 bytes of a function's BAR0 (R403): the boot registers in the physical one, VWIN and VINT in a virtual one. VDBELL is
write-only, and what the runtime's mailbox or a place without a register holds the manual does not say: free (log entry 7). -/
def State.bar0Read (s : State) (fn off : Nat) : State :=
  let x : VFun := SMap.read {} s.vfs fn
  let free := let y := s.fresh; y.2.vfAnswer fn (some (y.1.truncate 64))
  if fn = 0 then
    if off = 0 ∨ (0x20 ≤ off ∧ off < 0x40 ∧ off % 8 = 0) then s.vfAnswer 0 (some (s.win! (ioReg (0x7C0000 + off)))) else free
  else if off = 8 then s.vfAnswer fn (some x.vwin)
  else if off = 0x10 then s.vfAnswer fn (some x.vint)
  else free

/-- The host writes VWIN of a virtual function (R403): bits 55 to 36, the tenant virtual base of its BAR2. -/
def State.writeVwin (s : State) (fn : Nat) (v : Word) : State :=
  if fn = 0 ∨ 128 < fn then s
  else { s with vfs := SMap.write {} s.vfs fn { (SMap.read {} s.vfs fn : VFun) with vwin := v &&& word (bits 36 55) } }

/-- HOST_ACCESS (R389, R403, R404): an aligned host access of at most 8 bytes at an offset of a function's BAR2. -/
def execHostAccess (fn : BitVec 8) (off : BitVec 36) (sz : BitVec 2) (wr : Option (BitVec 64)) (s : State) : Out :=
  let n := 2 ^ sz.toNat
  let f := fn.toNat
  if off.toNat % n ≠ 0 then .next s
  else if f = 0 then .next (s.pfAccess off.toNat n wr)
  else
    let x : VFun := SMap.read {} s.vfs f
    match x.tenant with
    | none => .next (s.vfAnswer f none)
    | some t =>
      let va := x.vwin.toNat + off.toNat
      match s.hostRegion t va n wr.isSome, s.walkTables t va with
      | some r, .leaf ea log2 base e =>
        let pa := base + va % 2 ^ log2
        let s := (s.markLeaf t ea base e wr.isSome).touch pa .io none wr.isSome
        match wr with
        | some v => .next (s.physWrite pa n v.toNat)
        | none =>
          if s.isPoisoned pa n then .next (s.vfAnswer f none)
          else if r.kind = kVERSIONED then .next (s.vfAnswer f (some (word (ringRead (s.ring (s.regionKey r) r.depth) (va - r.base) n))))
          else .next (s.vfAnswer f (some (word (s.physRead pa n))))
      | _, _ => .next (s.vfAnswer f none)

/-! ### Harts (R280, R394) -/

/-- An 8-byte word at a physical address lies in an ATOMIC region of some partition's table. -/
def State.atomicAt (s : State) (pa : Nat) : Bool := s.atomicWord (pa / 8)

/-- The value a hart's AMO writes: old and operand of n bytes (R280). -/
def hartAmo (op : HartOp) (n : Nat) (old v : Nat) : Nat :=
  let m := 2 ^ (8 * n)
  let a := sintN old (8 * n)
  let b := sintN v (8 * n)
  match op with
  | .amoSwap => v % m
  | .amoAdd => (old + v) % m
  | .amoAnd => old &&& (v % m)
  | .amoOr => old ||| (v % m)
  | .amoXor => old ^^^ (v % m)
  | .amoMin => if a ≤ b then old else v % m
  | .amoMax => if b ≤ a then old else v % m
  | .amoMinu => Nat.min old (v % m)
  | .amoMaxu => Nat.max old (v % m)
  | .load | .store | .lr | .sc | .fence => old

def State.setHart (s : State) (h : Nat) (x : Hart) : State := { s with harts := SMap.write {} s.harts h x }
def State.hart (s : State) (h : Nat) : Hart := SMap.read {} s.harts h

/-- A hart's access faults with a code, and does nothing (R32, R158, R394). -/
def State.hartFault (s : State) (h : Nat) (code : Byte) : State := s.setHart h { s.hart h with fault := code }

/-- A hart's read completes with a value, or with poison as a hardware error interrupt (R375). -/
def State.hartReads (s : State) (h : Nat) (v : Word) (bad : Bool) : State :=
  s.setHart h (if bad then { s.hart h with irq := (s.hart h).irq + 1 } else { s.hart h with val := v })

/-- Why the regions in memory refuse a hart's store or AMO at pa (R32, R158, R280): the code of the fault. Memory that no region covers is the
control processor's. -/
def State.hartRefused (s : State) (amo : Bool) (pa : Nat) : Option Byte :=
  match s.regionAt pa with
  | none => none
  | some (r, _) =>
    if amo then (if r.kind = kATOMIC then none else some cGATE)
    else match storeJudged r (s.holder (s.regionKey r) == .service) with
      | .ok _ => none
      | .wcap => some cWCAP
      | .gate _ => some cGATE

/-- What a hart's plain load of n bytes at pa returns: in a VERSIONED region the newest sealed version (R158, R280). -/
def State.hartLoads (s : State) (pa n : Nat) : Nat :=
  match s.regionAt pa with
  | some (r, off) => if r.kind = kVERSIONED then ringRead (s.ring (s.regionKey r) r.depth) off n else s.physRead pa n
  | none => s.physRead pa n

/-- A hart's access to memory (R280, R375). -/
def State.hartMem (s : State) (h : Nat) (op : HartOp) (pa n : Nat) (v : Word) : State :=
  let x := s.hart h
  let bad := s.isPoisoned pa n
  match op with
  | .fence => s
  | .load => (s.touch pa .cpc none false).hartReads h (word (s.hartLoads pa n)) bad
  | .lr =>
    let s := (s.touch pa .cpc none false).hartReads h (word (s.hartLoads pa n)) bad
    s.setHart h { s.hart h with resv := if !bad && s.atomicAt pa then some (pa / 8) else none }
  | .store =>
    match s.hartRefused false pa with
    | some code => s.hartFault h code
    | none => (s.touch pa .cpc none true).physWrite pa n v.toNat
  | .sc =>
    if x.resv = some (pa / 8) then
      ((s.touch pa .cpc none true).physWrite pa n v.toNat).setHart h { x with val := 0, resv := none }
    else s.setHart h { x with val := 1, resv := none }
  | _ =>
    match s.hartRefused true pa with
    | some code => s.hartFault h code
    | none =>
      let s := s.touch pa .cpc none true
      if bad then s.hartReads h 0 true
      else (s.physWrite pa n (hartAmo op n (s.physRead pa n) v.toNat)).hartReads h (word (s.physRead pa n)) false

/-- A hart's mode reaches a control window (R394). -/
def windowFor (mode : HartMode) (pa : Nat) : Bool :=
  match winAt pa with
  | .die _ _ | .security _ => mode == .m
  | .io _ => mode != .u
  | .none => true

/-- An aperture byte range that a hart's load would find poisoned. -/
def State.windowBad (s : State) (pa n : Nat) : Bool :=
  match winAt pa with
  | .io off => decide (0x1000000 ≤ off) && s.apertureBad ((off - 0x1000000) / 0x100000) ((off - 0x1000000) % 0x100000) n
  | _ => false

/-- A hart's access of n bytes to a control window (R359, R394, R452): 1 and 2 bytes reach an aperture alone, and a mode that does not reach the
window faults GATE. A write that stalls changes nothing yet. -/
def State.hartWindow (s : State) (h : Nat) (op : HartOp) (a n : Nat) (v : Word) : State :=
  let x := s.hart h
  let aperture := decide (0x20009000000 ≤ a) && decide (a < 0x2000D000000)
  if !windowFor x.mode a || (decide (n < 4) && !aperture) then s.hartFault h cGATE
  else match op with
    | .load => (s.devRead a n).2.hartReads h (s.devRead a n).1 (s.windowBad a n)
    | .store => if n < 4 then s.hartFault h cGATE else (s.devWrite a n v (x.mode == .m)).getD s
    | _ => s.hartFault h cGATE

/-- HART_ACCESS (R280, R359, R394): a hart that the boot ROM has started acts on memory, a control window or a version-window
aperture. The fault its last access recorded is forgotten. -/
def execHartAccess (h : BitVec 4) (op : HartOp) (pa : BitVec 52) (sz : BitVec 2) (v : BitVec 64) (s : State) : Out :=
  let n := 2 ^ sz.toNat
  let a := pa.toNat
  let x := s.hart h.toNat
  if !x.run then .next s
  else if op = .fence then .next s
  else
    let s := s.setHart h.toNat { x with fault := 0 }
    if a % n ≠ 0 ∨ !inMap a n then .next s
    else if inDevice a then .next (s.hartWindow h.toNat op a n v)
    else .next (s.hartMem h.toNat op a n v)

/-- A hart changes its privilege (R395). -/
def State.setHartMode (s : State) (h : Nat) (mode : HartMode) : State := s.setHart h { s.hart h with mode := mode }

end Sys2Proof.Machine
end

