-- ==== Sys2Proof/Machine/Folio.lean ====
section
/-! DEFINITION. The folio loader (R89, R93 to R98): checking a folio, relocating it, mapping it for a tenant, and unmapping an image. -/

namespace Sys2Proof.Machine

/-- A section-table entry (R94). -/
structure Section where
  typ   : Nat
  foff  : Nat
  fsize : Nat
  loff  : Nat
  msize : Nat
  rest  : Nat
deriving DecidableEq, Repr

/-- Section i of a folio. -/
def sectionAt (bs : List Byte) (i : Nat) : Section :=
  let o := 64 + 40 * i
  { typ := natAt bs o 1, rest := natAt bs (o + 1) 7, foff := natAt bs (o + 8) 8, fsize := natAt bs (o + 16) 8, loff := natAt bs (o + 24) 8, msize := natAt bs (o + 32) 8 }

def sections (bs : List Byte) : List Section := (List.range 6).map (sectionAt bs)

/-- A section's bytes in the file. -/
def sectionBytes (bs : List Byte) (i : Nat) : List Byte := ((bs.drop (sectionAt bs i).foff).take (sectionAt bs i).fsize)

/-- R93. A file too short for the header and the section table, and reserved bytes that are not zero, count as a wrong header (log entry 24). -/
def headerOk (bs : List Byte) : Bool :=
  decide (304 ≤ bs.length) && natAt bs 0 4 == 0x494C4F46 && natAt bs 4 2 == 1 && natAt bs 6 2 == 6 && natAt bs 8 8 == 64
    && natAt bs 16 48 == 0

/-- R94. -/
def tableOk (bs : List Byte) : Bool :=
  let ss := sections bs
  let s := fun i => sectionAt bs i
  ((List.range 6).all fun i => (s i).typ == i && (s i).rest == 0 && (s i).foff % 8 == 0
      && ((s i).fsize == 0 || decide ((s i).foff + (s i).fsize ≤ bs.length)))
    && ((List.range 6).all fun i => (List.range 6).all fun j =>
      i == j || (s i).fsize == 0 || (s j).fsize == 0 || decide ((s i).foff + (s i).fsize ≤ (s j).foff) || decide ((s j).foff + (s j).fsize ≤ (s i).foff))
    && (s 0).loff == 0
    && ([1, 2, 3].all fun i => (s i).loff % 65536 == 0 && decide ((s (i - 1)).loff + (s (i - 1)).msize ≤ (s i).loff))
    && ([0, 1, 2].all fun i => (s i).fsize == (s i).msize)
    && (s 3).fsize == 0
    && ([4, 5].all fun i => (s i).loff == 0 && (s i).msize == 0)
    && (s 0).msize % 4 == 0 && (s 1).msize % 32 == 0 && (s 4).fsize % 16 == 0 && ss.length == 6

/-- R96. -/
def colophonOk (bs : List Byte) : Bool :=
  let c := sectionBytes bs 5
  let nserv := natAt c 8 2
  let nent := natAt c 10 2
  let text := (sectionAt bs 0).msize
  decide (64 ≤ c.length) && natAt c 0 4 == 0x4F4C4F43 && (natAt c 5 1 == 0 || natAt c 5 1 == 32)
    && natAt c 6 1 != 0 && decide (natAt c 6 1 < 4) && natAt c 7 1 == 0 && natAt c 12 4 == 0 && natAt c 48 16 == 0
    && decide (nserv ≤ 256) && decide (64 + 4 * nserv + 32 * nent ≤ c.length)
    && (List.range nent).all fun i =>
      let o := 64 + 4 * nserv + 32 * i
      decide (natAt c (o + 4) 1 ≤ 2) && decide (natAt c (o + 5) 1 ≤ 63) && natAt c (o + 6) 2 == 0
        && (natAt c (o + 4) 1 == 2 || (natAt c o 4 % 4 == 0 && decide (natAt c o 4 < text)))

/-- The bytes DIGEST covers (R96). -/
def coveredBytes (bs : List Byte) : List Byte :=
  bs.take 304 ++ sectionBytes bs 0 ++ sectionBytes bs 1 ++ sectionBytes bs 2 ++ sectionBytes bs 4

/-- The digest of a byte list, as 32 bytes. -/
def shaBytes (bs : List Byte) : List Byte := (bytesOf 32 (sha256 bs).toNat).reverse

/-! ### Relocation (R95) -/

/-- The images of text, pool and data. -/
structure Linking where
  text : List Byte
  pool : List Byte
  data : List Byte
deriving DecidableEq, Repr

/-- Bytes of a list replaced from offset o. -/
def splice (bs : List Byte) (o : Nat) (x : List Byte) : List Byte := bs.take o ++ x ++ bs.drop (o + x.length)

/-- hi(V) (R88). -/
def hiOf (v : Int) : Int := (v + 0x8000) / 0x10000

/-- A value placed in pool or data at link offset loc; none where it does not lie inside one of them. -/
def Linking.put (l : Linking) (ps ds : Section) (inPool : Bool) (loc : Nat) (x : List Byte) : Option Linking :=
  if ds.loff ≤ loc ∧ loc + x.length ≤ ds.loff + ds.msize then some { l with data := splice l.data (loc - ds.loff) x }
  else if inPool ∧ ps.loff ≤ loc ∧ loc + x.length ≤ ps.loff + ps.msize then some { l with pool := splice l.pool (loc - ps.loff) x }
  else none

/-- One relocation entry applied at base b; none when it is malformed (R95). -/
def relocate (bs : List Byte) (b : Nat) (l : Linking) (e : List Byte) : Option Linking :=
  let loc := natAt e 0 4
  let v : Int := (b : Int) + sintN (natAt e 8 8) 64
  let w := (wordI v).toNat
  let ps := sectionAt bs 1
  let ds := sectionAt bs 2
  if natAt e 5 3 ≠ 0 then none
  else match natAt e 4 1 with
    | 1 => l.put ps ds false loc (bytesOf 8 w)
    | 2 => l.put ps ds true loc (bytesOf 4 (w % 2 ^ 32))
    | 3 => l.put ps ds true loc (bytesOf 4 (w / 2 ^ 32))
    | 4 =>
      let old := natAt l.text loc 4
      let h := hiOf v
      if loc % 4 ≠ 0 ∨ l.text.length < loc + 4 ∨ old / 2 ^ 26 ≠ 0x0E ∨ h < -(2 ^ 20 : Int) ∨ (2 ^ 20 : Int) ≤ h then none
      else some { l with text := splice l.text loc (bytesOf 4 (old / 2 ^ 21 * 2 ^ 21 + (wordI h).toNat % 2 ^ 21)) }
    | _ => none

/-- Every relocation entry in order; LOC rises strictly (R95). -/
def relocateAll (bs : List Byte) (b : Nat) : Nat → Option Nat → List Byte → Linking → Option Linking
  | 0, _, _, l => some l
  | n + 1, last, es, l =>
    let loc := natAt es 0 4
    let rises : Bool := match last with
      | some p => decide (p < loc)
      | none => true
    if !rises then none
    else match relocate bs b l (es.take 16) with
      | some l => relocateAll bs b n (some loc) (es.drop 16) l
      | none => none

/-! ### Mapping (R97, R98) -/

/-- Take one free frame, its bytes zero; none when there is none. -/
def State.allocFrame (s : State) : Option (Nat × State) :=
  if s.ffcnt = 0 then none
  else
    let f := s.topFrame
    let s := s.setWinFld rFFCNT 0 23 (s.ffcnt - 1)
    some (f * 65536, { s with
      mem := s.mem.filter fun e => e.1 / 65536 != f
      poison := s.poison.filter fun l => l / 1024 != f })

/-- The address of the next level's table, made when the entry is zero. kind 0 a table, 2 a table of 64 KiB entries. -/
def State.nextTable (s : State) (ea kind : Nat) : Option (Nat × State) :=
  let e := s.physRead ea 8
  if e = 0 then
    match s.allocFrame with
    | some (pa, s) => some (pa, s.putEntry ea (1 + 2 * kind + pa))
    | none => none
  else if e % 2 = 1 ∧ e / 2 % 4 = kind then some (e % 2 ^ 52 / 4096 * 4096, s)
  else none

/-- Map one 64 KiB page of a tenant (R308 to R310). -/
def State.mapPage (s : State) (t : Byte) (va pa : Nat) : Option State := do
  let root := fld (s.win! (rXROOT t.toNat)) 12 40 * 4096
  let (t3, s) ← s.nextTable (root + 8 * (va / 2 ^ 48 % 256)) 0
  let (t2, s) ← s.nextTable (t3 + 8 * (va / 2 ^ 39 % 512)) 0
  let (t1, s) ← s.nextTable (t2 + 8 * (va / 2 ^ 30 % 512)) 0
  let (tk, s) ← s.nextTable (t1 + 8 * (va / 2 ^ 21 % 512)) 2
  some (s.putEntry (tk + 8 * (va / 2 ^ 16 % 32)) (3 + pa))

/-- Map and fill n 64 KiB pages from va with bytes; the rest is zero. The tenant holds the frames, within its quota (R301, R306). -/
def State.mapBytes (s : State) (t : Byte) (va : Nat) (bs : List Byte) : Nat → Option State
  | 0 => some s
  | n + 1 =>
    if s.overQuota t 1 then none else
    match s.allocFrame with
    | none => none
    | some (pa, s) =>
      match s.mapPage t va pa with
      | none => none
      | some s => (State.addFrames { s with mem := Memory.putBytes s.mem pa (bs.take 65536) } t 1 true).mapBytes t (va + 65536) (bs.drop 65536) n

/-- The 32 bytes of a region entry of tenant t (R383). -/
def regionBytes (t : Byte) (base pages : Nat) (x : Bool) : List Byte :=
  bytesOf 8 base ++ bytesOf 4 pages ++ bytesOf 1 (1 + 8 * b2n x) ++ [0, t, 1] ++ bytesOf 16 0

/-- Entries rise by tenant, then by base (R383). -/
def regionBefore (a b : List Byte) : Bool :=
  decide (natAt a 14 1 < natAt b 14 1) || (natAt a 14 1 == natAt b 14 1 && decide (natAt a 0 8 ≤ natAt b 0 8))

/-- Put an entry in its place. -/
def insertRegion (e : List Byte) : List (List Byte) → List (List Byte)
  | [] => [e]
  | x :: xs => if regionBefore e x then e :: x :: xs else x :: insertRegion e xs

/-- A partition's region table as raw entries, and its replacement (R383, R385). -/
def State.rawRegions (s : State) (p : Nat) : List (List Byte) :=
  let base := fld (s.win! (rRTBASE p)) 12 40 * 4096
  (List.range (fld (s.win! (rRTLEN p)) 0 16)).map fun i => s.physBytes (base + 32 * i) 32
def State.putRegions (s : State) (p : Nat) (es : List (List Byte)) : State :=
  (s.physWriteBytes (fld (s.win! (rRTBASE p)) 12 40 * 4096) es.flatten).setWinFld (rRTLEN p) 0 16 es.length

/-- The 16 bytes of an extent (R384). -/
def extentBytes (base pages rights : Nat) : List Byte :=
  [2] ++ bytesOf 1 rights ++ bytesOf 2 0 ++ bytesOf 4 pages ++ bytesOf 8 base

/-- A tenant's capability table as raw entries, and its replacement (R384, R385). -/
def State.rawCaps (s : State) (t : Byte) : List (List Byte) :=
  let base := fld (s.win! (rCTBASE t.toNat)) 12 40 * 4096
  (List.range (Nat.min 1024 (fld (s.win! (rCTLEN t.toNat)) 0 11))).map fun i => s.physBytes (base + 16 * i) 16
def State.putCaps (s : State) (t : Byte) (es : List (List Byte)) : State :=
  (s.physWriteBytes (fld (s.win! (rCTBASE t.toNat)) 12 40 * 4096) es.flatten).setWinFld (rCTLEN t.toNat) 0 11 es.length

/-- One section mapped for a tenant in partition p: its pages, region and extent (R97; log entry 24). -/
def State.mapSection (s : State) (t : Byte) (p va msize : Nat) (bs : List Byte) (x : Bool) (rights : Nat) : Option State :=
  if msize = 0 then some s
  else
    let pages := cdiv msize 4096
    match s.mapBytes t va bs (cdiv msize 65536) with
    | none => none
    | some s =>
      let caps := s.rawCaps t
      if 1024 ≤ caps.length ∨ 65535 ≤ (s.rawRegions p).length then none
      else some ((s.putRegions p (insertRegion (regionBytes t va pages x) (s.rawRegions p))).putCaps t (caps ++ [extentBytes va pages rights]))

/-- The 64 KiB page at va of a tenant can be mapped: no entry maps it, and none on its way is of another page size (R308). -/
def State.pageFree (s : State) (t : Byte) (va : Nat) : Bool := s.walkTables t va == .bad 1 && decide (16 ≤ s.pageLog2 t va)

/-- A base is free for an image of n bytes with these 64 KiB pages: below 2^35, clear of the tenant's regions and of mapped pages (R97). -/
def State.baseFree (s : State) (t : Byte) (p n : Nat) (pages : List Nat) (b : Nat) : Bool :=
  b % 65536 == 0 && decide (b < 2 ^ 35) && decide (b + n ≤ 2 ^ 56) && pages.all (fun o => s.pageFree t (b + o)) &&
    (s.regionTable p).all fun r => !(r.ocls == 0 && r.tenant == t) && r.ocls != 1 || decide (b + n ≤ r.base) || decide (r.base + r.len ≤ b)

/-- The base the loader takes: the manual names none, so it is a free value where that is free, else the lowest free one (log
entry 24). -/
def State.pickBase (s : State) (t : Byte) (p n : Nat) (pages : List Nat) : Option Nat × State :=
  let (x, s) := s.fresh
  let b := x.toNat % 2 ^ 19 * 65536
  (if s.baseFree t p n pages b then some b else (findNat (fun i => s.baseFree t p n pages (i * 65536)) 0 (2 ^ 19)).map (· * 65536), s)

/-- The offsets of the 64 KiB pages of an image's sections. -/
def imagePages (bs : List Byte) : List Nat :=
  (List.range 4).flatMap fun i => (List.range (cdiv (sectionAt bs i).msize 65536)).map fun k => (sectionAt bs i).loff + 65536 * k

/-- An image's four sections mapped at base b (R97); none where memory does not suffice. -/
def State.mapImage (s : State) (t : Byte) (p b : Nat) (bs : List Byte) (l : Linking) : Option State := do
  let sec := fun i => sectionAt bs i
  let s ← s.mapSection t p b (sec 0).msize l.text true 5
  let s ← s.mapSection t p (b + (sec 1).loff) (sec 1).msize l.pool false 1
  let s ← s.mapSection t p (b + (sec 2).loff) (sec 2).msize l.data false 11
  s.mapSection t p (b + (sec 3).loff) (sec 3).msize [] false 11

/-- Status of a load, and the state after it (R97): what memory the image takes is looked at before the relocations. -/
def State.loadFolio (s : State) (t : Byte) (bs : List Byte) : Nat × State :=
  let c := sectionBytes bs 5
  let nserv := natAt c 8 2
  if !headerOk bs then (1, s)
  else if !tableOk bs then (2, s)
  else if !colophonOk bs then (9, s)
  else if shaBytes (coveredBytes bs) ≠ (c.drop 16).take 32 then (3, s)
  else if 1 < natAt c 4 1 then (4, s)
  else if natAt c 5 1 ≠ 0 ∧ natAt c 5 1 ≠ 32 then (5, s)
  else if !((List.range nserv).all fun i => namesService (s.capTable t) (BitVec.ofNat 32 (natAt c (64 + 4 * i) 4)) 0) then (6, s)
  else
    let sec := fun i => sectionAt bs i
    let size := (sec 3).loff + (sec 3).msize
    let p := s.homePart t
    let (b, s) := s.pickBase t p size (imagePages bs)
    let raw : Linking := { text := sectionBytes bs 0, pool := sectionBytes bs 1, data := sectionBytes bs 2 }
    match b with
    | none => (7, s)
    | some b =>
      if (s.mapImage t p b bs raw).isNone then (7, s) else
      match relocateAll bs b ((sec 4).fsize / 16) none (sectionBytes bs 4) raw with
      | none => (8, s)
      | some l =>
        match s.mapImage t p b bs l with
        | none => (7, s)
        | some s =>
          let parts := ((List.range 4).filter fun i => (sec i).msize != 0).map fun i => ((sec i).loff, cdiv (sec i).msize 4096)
          let im : Image := { id := s.nextId, tenant := t, base := b, size := size, text := (sec 0).msize, poolAt := b + (sec 1).loff, nrec := (sec 1).msize / 32, modes := BitVec.ofNat 8 (natAt c 6 1), parts := parts }
          (0, { s with images := s.images ++ [im], nextId := s.nextId + 1 })

/-- FOLIO_LOAD (R97): the loader's status is what the bus returns; on any failure nothing is mapped. -/
def execFolioLoad (t : BitVec 8) (folio : List (BitVec 8)) (s : State) : Out :=
  let (st, s') := s.loadFolio t folio
  .next { (if st = 0 then s' else { s with draw := s'.draw }) with bus := word st }

/-- A graph from an image is queued: in a launch queue of its tenant, or as the deferred instance of a slot (R98, R354). -/
def State.imageQueued (s : State) (im : Image) : Bool :=
  (s.slotI.any fun i => i.2.deferred && s.slotOwner (i.1 / 256) (i.1 % 256) == im.tenant &&
    (let g := (s.slotPacket (i.1 / 256) (i.1 % 256)).graph.toNat
     decide (im.base ≤ g) && decide (g < im.base + im.size))) ||
  (List.range 1024).any fun q => s.lqEn q && s.lqTenant q == im.tenant &&
    (let w := s.vaRead im.tenant (s.lqBase q) 8
     let r := s.vaRead im.tenant (s.lqBase q + 8) 8
     let n := Nat.min ((w + 2 ^ 64 - r) % 2 ^ 64) (2 ^ s.lqLog2 q)
     (List.range n).any fun i =>
       let g := s.vaRead im.tenant (s.lqEntry q (r + i)) 8
       decide (im.base ≤ g) && decide (g < im.base + im.size))

/-- The 64 KiB page at va is unmapped and its frame freed. -/
def State.unmapPage (s : State) (t : Byte) (va : Nat) : State :=
  match s.walkTables t va with
  | .leaf ea _ pa _ => ((((s.putEntry ea 0).dropPage t va 16).recallFrame (pa / 65536)).pushFrame (pa / 65536)).addFrames t 1 false
  | _ => s

/-- An image goes: its pages, regions, extents and cached entries, the instruction lines among them (R98, R288). -/
def State.unmapImage (s : State) (im : Image) : State :=
  let t := im.tenant
  let p := s.homePart t
  let mine := fun (base : Nat) => im.parts.any fun x => im.base + x.1 == base
  let s := im.parts.foldl (fun s x => (List.range (cdiv x.2 16)).foldl (fun s i => s.unmapPage t (im.base + x.1 + 65536 * i)) s) s
  let s := s.putRegions p ((s.rawRegions p).filter fun e => !(natAt e 13 1 == 0 && natAt e 14 1 == t.toNat && mine (natAt e 0 8)))
  let s := s.putCaps t ((s.rawCaps t).filter fun e => !(natAt e 0 1 == 2 && mine (natAt e 8 8)))
  State.dropCode { s with
    images := s.images.filter (·.id != im.id)
    unmaps := s.unmaps.filter (· != im.id)
    cores := s.cores.map fun kc => (kc.1, { kc.2 with
      gateR := kc.2.gateR.filter fun r => !(r.tenant == t && r.ocls == 0 && mine r.base)
      gateC := kc.2.gateC.filter fun e => !(e.tenant == t && e.typ == 2 && mine e.w8.toNat) }) } t im.base im.size

/-- IMAGE_UNMAP (R98): image n goes when no graph of it is queued or running; a request made earlier waits until then. -/
def execImageUnmap (n : Nat) (s : State) : Out :=
  match s.images.find? (·.id == n) with
  | none => .next s
  | some im =>
    if s.launches.any (·.image == n) || s.imageQueued im then .next (if s.unmaps.contains n then s else { s with unmaps := s.unmaps ++ [n] })
    else .next (s.unmapImage im)

end Sys2Proof.Machine
end

