-- ==== Sys2Proof/Machine/Matrix.lean ====
section
/-! DEFINITION. Matrix commands (R108 to R116, R245 to R252): reading operands from the stash, block-integer accumulation, the epilogue
conversion, and the five commands of the matrix unit. -/

namespace Sys2Proof.Machine

/-! ### Operands in the stash (R108 to R110, R246) -/

/-- An operand: planes at x, scale records at sc, p planes, rn rows (or columns), its encoding and whether it has blocks. -/
structure Operand where
  x   : Nat
  sc  : Nat
  p   : Nat
  rn  : Nat
  enc : Nat
  blk : Bool
deriving DecidableEq, Repr

/-- Operands A and B of a command (R246). -/
def Cmd.opA (c : Cmd) : Operand := { x := c.num 1, sc := c.scla.toNat, p := c.pa, rn := c.ra, enc := fld c.fmta 4 2, blk := bit c.fmta 6 }
def Cmd.opB (c : Cmd) : Operand := { x := c.num 2, sc := c.sclb.toNat, p := c.pb, rn := c.cb, enc := fld c.fmtb 4 2, blk := bit c.fmtb 6 }

/-- n bytes of the stash as a number. -/
def stashNum (st : SMap Byte) (off n : Nat) : Nat := SMap.readLE st off n

/-- The value of a p-bit code (R110). -/
def codeVal (enc p q : Nat) : Int := if enc = 0 then sintN q p else if enc = 1 then q else 2 * (q : Int) - 1

/-- The plane words of row r, group g, plane 0 first (R246). -/
def Operand.planes (o : Operand) (st : SMap Byte) (r g : Nat) : List Word :=
  (List.range o.p).map fun j => word (stashNum st (o.x + 8 * (o.p * (g * o.rn + r) + j)) 8)

/-- The integer codes of the 64 elements those planes hold (R108). -/
def Operand.codes (o : Operand) (st : SMap Byte) (r g : Nat) : List Int :=
  let ps := o.planes st r g
  (List.range 64).map fun i => codeVal o.enc o.p (ps.foldr (fun w acc => b2n (bit w i) + 2 * acc) 0)

/-- The boundary bitmap of row r, group g. -/
def Operand.bitmap (o : Operand) (st : SMap Byte) (r g : Nat) : BitVec 64 :=
  if o.blk then word (stashNum st (o.sc + 16 * (g * o.rn + r)) 8) else 1

/-- Block number and scale code of each of the 64 elements (R108, R110). -/
def Operand.scales (o : Operand) (st : SMap Byte) (r g : Nat) : List (Nat × Nat) :=
  let b := o.bitmap st r g
  (List.range 64).map fun i =>
    let n := ((List.range i).filter fun k => bit b (k + 1)).length
    (n, if o.blk then stashNum st (o.sc + 16 * (g * o.rn + r) + 8 + n) 1 else 127)

/-- Every bitmap of the operand is well formed. -/
def Operand.wellFormed (o : Operand) (st : SMap Byte) (groups : Nat) : Bool :=
  (List.range (groups * o.rn)).all fun n => bitmapWell (o.bitmap st (n % o.rn) (n / o.rn))

/-! ### Accumulation (R114) -/

/-- An element of an operand as the product sees it: code, block number, scale code. -/
abbrev Elem := Int × Nat × Nat

/-- floor(p * 2^sh). -/
def shiftFloor (p sh : Int) : Int := if 0 ≤ sh then p * 2 ^ sh.toNat else p / 2 ^ (-sh).toNat

/-- The contribution of a block pair with scale codes xa and xb and exact product sum p. -/
def pairTerm (base : Int) (xa xb : Nat) (p : Int) : Int :=
  if xa = 255 ∨ xb = 255 then 0 else shiftFloor p (((xa : Int) - 127) + ((xb : Int) - 127) - base)

/-- The contributions of one group: block pairs are maximal runs in which neither block changes. cur is the pair in progress. -/
def groupTerms (base : Int) : List (Elem × Elem) → (Nat × Nat) → (Nat × Nat) → Int → Int
  | [], _, x, p => pairTerm base x.1 x.2 p
  | ((qa, na, xa), (qb, nb, xb)) :: l, n, x, p =>
    if n = (na, nb) then groupTerms base l n x (p + qa * qb)
    else pairTerm base x.1 x.2 p + groupTerms base l (na, nb) (xa, xb) (qa * qb)

/-- The contributions of group elements a and b of one row and one column. -/
def groupSum (base : Int) (a b : List Elem) : Int :=
  match a, b with
  | (_, na, xa) :: _, (_, nb, xb) :: _ => groupTerms base (a.zip b) (na, nb) (xa, xb) 0
  | _, _ => 0

/-- The elements of a dense operand. -/
def Operand.elems (o : Operand) (st : SMap Byte) (r g : Nat) : List Elem := (o.codes st r g).zip (o.scales st r g)

/-- Add to every element (i, j), i < ra and j < cb, of the tile the contributions over all groups. -/
def accumulate (tile ra cb g : Nat) (base : Int) (fa fb : Nat → Nat → List Elem) (r : Regs) : Regs :=
  let as := (List.range ra).map fun i => (List.range g).map (fa i)
  let bs := (List.range cb).map fun j => (List.range g).map (fb j)
  (as.zipIdx).foldl (fun r ai => (bs.zipIdx).foldl (fun r bj =>
    let t := (ai.1.zip bj.1).foldl (fun acc ab => acc + groupSum base ab.1 ab.2) 0
    r.accSet tile ai.2 bj.2 (r.accGet tile ai.2 bj.2 + BitVec.ofInt 96 t)) r) r

/-- The tile a command names, and the sampled BASE as an integer (R112, R247). -/
def Cmd.tile (c : Cmd) : Nat := if c.kind = 2 ∨ c.kind = 3 then b2n (bit c.w[3] 24) else b2n (bit c.w[1] 0)
def Cmd.base (c : Cmd) : Int := c.accbase.toInt

/-! ### The sparse operand (R249) -/

/-- The index of kept code t of column j. -/
def Cmd.keptIdx (c : Cmd) (st : SMap Byte) (j t : Nat) : Nat :=
  stashNum st (c.num 4 + 32 * (t / 64 * c.cb + j) + t % 64 / 2) 1 / 16 ^ (t % 2) % 16

/-- Indices strictly increase within every run and lie below M (R244, reason 0x44). -/
def Cmd.keptOk (c : Cmd) (st : SMap Byte) : Bool :=
  (List.range c.cb).all fun j => (List.range (64 * c.h)).all fun t =>
    decide (c.keptIdx st j t < c.sparseM) && (t % c.sparseN == 0 || decide (c.keptIdx st j (t - 1) < c.keptIdx st j t))

/-- The expanded B: the code at logical position pos of column j is the kept code that stands there, or 0. -/
def Cmd.expanded (c : Cmd) (st : SMap Byte) (j g : Nat) : List Elem :=
  let kept := (List.range c.h).map (c.opB.codes st j)
  let code := fun (t : Nat) => (kept.getD (t / 64) []).getD (t % 64) 0
  let qs := (List.range 64).map fun i =>
    let pos := 64 * g + i
    ((List.range c.sparseN).map fun n =>
      let t := pos / c.sparseM * c.sparseN + n
      if c.keptIdx st j t = pos % c.sparseM then code t else 0).foldl (· + ·) (0 : Int)
  qs.zip (c.opB.scales st j g)

/-! ### The epilogue (R116, R250) -/

/-- The floating-point format of an output code, none for the integer formats. -/
def ofmtFp (f : Nat) : Option Fmt :=
  match f with
  | 0 => some fp32
  | 1 => some fp16
  | 2 => some bf16
  | 3 => some e4m3
  | 4 => some e5m2
  | _ => none

/-- One accumulator element in output format f, and whether it saturates (R116). -/
def epiElem (f : Nat) (base : Int) (a : AccElem) : Nat × Bool :=
  let v := a.toInt
  match ofmtFp f with
  | some x =>
    let (code, fl) := roundFP x rne (.fin (decide (v < 0)) v.natAbs base)
    if fl &&& fOverflow != 0 then (x.enc (decide (v < 0)) x.maxCode, true) else (code, false)
  | none =>
    let w := ofmtBits f
    let (n, _) := roundInt rne (decide (v < 0)) v.natAbs base
    let y := clampI (-(2 ^ (w - 1))) (2 ^ (w - 1) - 1) n
    (ofInt w y, n != y)

/-- Row i of the output as one number, element j at element offset j, and its saturations. -/
def Cmd.epiRow (c : Cmd) (r : Regs) (i : Nat) : Nat × Nat :=
  let w := ofmtBits (c.num 4)
  (List.range c.cb).foldl (fun acc j =>
    let (x, sat) := epiElem (c.num 4) c.base (r.accGet c.tile i j)
    (acc.1 + x * 2 ^ (w * j), acc.2 + b2n sat)) (0, 0)

/-! ### The commands -/

/-- The head command of the matrix unit of core (g, c), when it has this kind. -/
def State.mxHead (s : State) (g : BitVec 6) (c : BitVec 4) (kind : Nat) : Option Cmd :=
  match s.headCmd (g.toNat * 16 + c.toNat) 0 with
  | some cmd => if cmd.kind = kind then some cmd else none
  | none => none

/-- The matrix unit executes a command: it is not gated (R252). -/
def State.mxRun (s : State) (k : Nat) : State := s.setCore k { s.coreOf k with mxGated := false }

/-- The stash areas a multiply reads, as offset and length (R246, R249). -/
def Cmd.mulAreas (c : Cmd) : List (Nat × Nat) :=
  let gb := if c.kind = 3 then c.h else c.g
  [(c.num 1, 8 * c.pa * c.g * c.ra), (c.num 2, 8 * c.pb * gb * c.cb)]
    ++ (if bit c.fmta 6 then [(c.scla.toNat, 16 * c.g * c.ra)] else [])
    ++ (if bit c.fmtb 6 then [(c.sclb.toNat, 16 * c.g * c.cb)] else [])
    ++ (if c.kind = 3 then [(c.num 4, 32 * c.h * c.cb)] else [])

/-- A multiply would read a poisoned stash word (R300). -/
def State.mulLost (s : State) (k : Nat) (c : Cmd) : Bool := c.mulAreas.any fun a => (s.coreOf k).badAt a.1 a.2

/-- The registers of a command's context, on its slot or saved off it (R336), become r. -/
def State.setAcc (s : State) (c : Cmd) (r : Regs) : State := s.onOwner c.tenant c.cid fun s => s.setRegs c.cid r

/-- A matrix command that rewrites the tile registers and ends well. -/
def State.mxDone (s : State) (k : Nat) (c : Cmd) (r : Regs) : Out :=
  .next (((s.mxRun k).setAcc c r).finishCmd k 0 c 0 0 0)

/-- A matrix command that fails before it writes anything (R236). -/
def State.mxFail (s : State) (k : Nat) (c : Cmd) (reason : Nat) : Out := .next ((s.mxRun k).finishCmd k 0 c reason 0 0)

/-- The registers whose accumulators a command uses. -/
def State.accOf (s : State) (c : Cmd) : Regs := ((s.ownerView c.tenant c.cid).ctxOf c.cid).regs

/-- Every element a of a tile becomes f a. -/
def mapTile (tile : Nat) (f : AccElem → AccElem) (r : Regs) : Regs :=
  foldNat (fun r n => r.accSet tile (n / 32) (n % 32) (f (r.accGet tile (n / 32) (n % 32)))) r 0 1024

/-- MX_ZERO (R251): every element of the tile becomes 0. -/
def execMxZero (g : BitVec 6) (c : BitVec 4) (s : State) : Out :=
  match s.mxHead g c 1 with
  | none => .next s
  | some cmd => s.mxDone (g.toNat * 16 + c.toNat) cmd (mapTile cmd.tile (fun _ => 0) (s.accOf cmd))

/-- MX_MUL (R248): adds the contributions of groups 0 to G - 1 to the tile; an ill-formed bitmap fails it (0x40). -/
def execMxMul (g : BitVec 6) (c : BitVec 4) (s : State) : Out :=
  let k := g.toNat * 16 + c.toNat
  match s.mxHead g c 2 with
  | none => .next s
  | some cmd =>
    let st := (s.coreOf k).stash
    if s.mulLost k cmd then .next (s.stashLost cmd)
    else if !(cmd.opA.wellFormed st cmd.g && cmd.opB.wellFormed st cmd.g) then s.mxFail k cmd 0x40
    else s.mxDone k cmd (accumulate cmd.tile cmd.ra cmd.cb cmd.g cmd.base (cmd.opA.elems st) (cmd.opB.elems st) (s.accOf cmd))

/-- MX_SPMUL (R249): as MX.MUL on the expanded B; bad indices fail it (0x44). -/
def execMxSpmul (g : BitVec 6) (c : BitVec 4) (s : State) : Out :=
  let k := g.toNat * 16 + c.toNat
  match s.mxHead g c 3 with
  | none => .next s
  | some cmd =>
    let st := (s.coreOf k).stash
    if s.mulLost k cmd then .next (s.stashLost cmd)
    else if !(cmd.opA.wellFormed st cmd.g && cmd.opB.wellFormed st cmd.g) then s.mxFail k cmd 0x40
    else if !cmd.keptOk st then s.mxFail k cmd 0x44
    else s.mxDone k cmd (accumulate cmd.tile cmd.ra cmd.cb cmd.g cmd.base (cmd.opA.elems st) (cmd.expanded st) (s.accOf cmd))

/-- MX_EPI (R250): writes the converted rows and the saturation count to the stash, and with CLR zeroes the tile. -/
def execMxEpi (g : BitVec 6) (c : BitVec 4) (s : State) : Out :=
  let k := g.toNat * 16 + c.toNat
  match s.mxHead g c 4 with
  | none => .next s
  | some cmd =>
    let r := s.accOf cmd
    let rows := (List.range cmd.ra).map (cmd.epiRow r)
    let sat := rows.foldl (fun n (x : Nat × Nat) => n + x.2) 0
    let wr := cdiv cmd.rowBytes 4
    let t := if cmd.kflag 12 then s.setAcc cmd (mapTile cmd.tile (fun _ => 0) r) else s
    let (u, _, why) := runActs (fun n (x : State) =>
      if n < cmd.ra * wr then
        let i := n / wr
        let o := 4 * (n % wr)
        x.stashPut k ((cmd.num 2 + i * cmd.num 3 + o : Nat) : Int) (Nat.min 4 (cmd.rowBytes - o)) ((rows.getD i (0, 0)).1 / 2 ^ (8 * o))
      else x.stashPut k ((cmd.num 2 + cmd.ra * cmd.num 3 : Nat) : Int) 4 sat) (cmd.ra * wr + 1) 0 (t.mxRun k)
    .next ((s.mxRun k).stopCmd u k 0 cmd why sat 0)

/-- MX_BASE (R251): every element becomes floor(SInt(a) * 2^(B - N)) modulo 2^96. -/
def execMxBase (g : BitVec 6) (c : BitVec 4) (s : State) : Out :=
  match s.mxHead g c 5 with
  | none => .next s
  | some cmd =>
    let n : BitVec 10 := (cmd.w[2]).truncate 10
    s.mxDone (g.toNat * 16 + c.toNat) cmd
      (mapTile cmd.tile (fun a => BitVec.ofInt 96 (shiftFloor a.toInt (cmd.base - n.toInt))) (s.accOf cmd))

end Sys2Proof.Machine
end

