-- ==== Sys2Proof/Machine/Messages.lean ====
section
/-! DEFINITION. Messages (R185 to R195), the handler table (R196 to R199), HANDOVER (R167, R168), barriers (R200 to R202), tasks (R203,
R204) and reduction servers (R205 to R209). -/

namespace Sys2Proof.Machine

/-! ### Sending -/

/-- The payload of a vector register: bytes [55:0] (R187). -/
def payloadOf (v : VReg) : BitVec 448 := v.truncate 448

/-- The REFUSE header the sender receives (R185, R189): SRC the refusing PCID, DST the sender. -/
def refusal (rsn : Nat) (m : Msg) (refuser : Nat) : Word :=
  header kREFUSE rsn (hH m.hdr) refuser (hSrc m.hdr) 0 false (hSeq m.hdr)

/-- The PCID a message's destination is judged by (R188): for ACTIVE, whose bits [1:0] are ignored (R189), that of the core's handler context; on
another device and on a kernel core, which has none this package knows, the core's first context (log entry 69). -/
def State.judged (s : State) (cid kind pcid : Nat) (dev : Option Byte) : Nat :=
  if kind ≠ kACTIVE then pcid
  else
    let first := pcid / 4 * 4
    match dev, (s.partOf (gathOf cid)).bind fun p => s.cidOfPcid p first with
    | none, some x => if isKernel x then first else first + (s.coreOf (coreKey x)).htSlot.toNat
    | _, _ => first

/-- Step 1 of R188: the destination is an assigned CID inside the sender's connections, and has a route (R408). Kernel-core contexts
need no connection (R36; log entry 8). -/
def State.gateSends (s : State) (cid pcid : Nat) (dev : Option Byte) (right : Nat) : Bool :=
  (isKernel cid || s.connected (coreKey cid) (s.tenantOf cid) pcid dev right) &&
    match dev with
    | some d => assigned (pcid % 64) && (s.routeTo d.toNat).isSome
    | none => match s.partOf (gathOf cid) with
      | some p => (s.cidOfPcid p pcid).isSome
      | none => false

/-- A message leaves the sender's gate (R188); to another device it goes out over Enryn (R407). -/
def State.launch (s : State) (cid : Nat) (m : Msg) (dev : Option Byte) (why : Purpose) : State :=
  let f : Flight := { src := some cid, tenant := s.tenantOf cid, part := (s.partOf (gathOf cid)).getD 0, launch := s.launchOf cid, msg := m, remote := dev, purpose := why, answer := .pending, resends := 0, dead := false }
  { s with
    flights := s.flights ++ [(s.nextId, f)]
    nextId := s.nextId + 1
    sent := match dev with
      | some d => .message d m :: s.sent
      | none => s.sent }

/-- SEND, SENDA and REPLY (R189): refused GATE at the sender's own gate, or launched. -/
def State.sendMsg (s : State) (d : Reg) (kind h pcid : Nat) (dev : Option Byte) (seq right : Nat) (v : VReg) : Out :=
  let me := s.pcidOf s.cur
  let m : Msg := { hdr := header kind 0 h me pcid (if dev.isSome then s.ownDev else 0) dev.isSome seq, payload := payloadOf v }
  if s.gateSends s.cur (s.judged s.cur kind pcid dev) dev right then .next ((s.launch s.cur m dev (.send d)).setWait s.cur (.send d))
  else s.done d (refusal rGATE m me)

/-- The device of a destination operand (R186). -/
def opDev (x : Word) : Option Byte := if bit x 20 then some (BitVec.ofNat 8 (fld x 12 8)) else none

/-- SEND (R189): sends a DATA message. -/
def execSend (d a b : Reg) (s : State) : Out :=
  let x := s.s! a
  s.sendMsg d kDATA 0 (fld x 0 12) (opDev x) (fld x 32 16) 1 (s.v! b)

/-- SENDA (R189): sends an ACTIVE message for handler h. -/
def execSenda (d a b : Reg) (h : BitVec 6) (s : State) : Out :=
  let x := s.s! a
  s.sendMsg d kACTIVE h.toNat (fld x 0 12) (opDev x) (fld x 32 16) 2 (s.v! b)

/-- REPLY (R189): sends a DATA message to the reply target; with none it is refused GATE. -/
def execReply (d b : Reg) (s : State) : Out :=
  match s.me.sched.reply with
  | some t => s.sendMsg d kDATA 0 t.pcid.toNat (if t.rmt then some t.dev else none) t.seq.toNat 1 (s.v! b)
  | none =>
    let me := s.pcidOf s.cur
    s.done d (refusal rGATE { hdr := header kDATA 0 0 me 0 0 false 0, payload := 0 } me)

/-! ### Reduction servers (R205 to R209) -/

/-- The reduction server a context runs, or has running under a handler (R206). -/
def State.server (s : State) (cid : Nat) : Option RedSrv :=
  let x := (s.ctxOf cid).sched
  match x.wait, x.handler with
  | .redsrv r, _ => some r
  | _, some h => match h.wait with
    | .redsrv r => some r
    | _ => none
  | _, none => none

/-- The server's state replaced. -/
def State.setServer (s : State) (cid : Nat) (r : RedSrv) : State :=
  let x := (s.ctxOf cid).sched
  match x.wait, x.handler with
  | .redsrv _, _ => s.setSched cid { x with wait := .redsrv r }
  | _, some h => s.setSched cid { x with handler := some { h with wait := .redsrv r } }
  | _, none => s

def RedSrv.nch (r : RedSrv) : Nat := fld r.cfg 0 6
def RedSrv.mask (r : RedSrv) (b : Nat) : BitVec 64 := if b = 0 then r.mask0 else r.mask1
def RedSrv.setMask (r : RedSrv) (b : Nat) (m : BitVec 64) : RedSrv := if b = 0 then { r with mask0 := m } else { r with mask1 := m }
/-- The stash offset of a staging bank (R206). -/
def RedSrv.page (r : RedSrv) (b : Nat) : Nat := (fld r.cfg 8 6 + b) % 64 * 4096

/-- R207: a REDUCE message at a server: none when it is accepted, or the reason it is refused. -/
def State.reduceIn (s : State) (cid : Nat) (r : RedSrv) (m : Msg) : Option Nat × State :=
  let j := hH m.hdr
  let d := (hSeq m.hdr + 65536 - r.round.toNat) % 65536
  let b := (r.round.toNat + d) % 2
  if r.nch < j then (some rNOHANDLER, s)
  else if d ≤ 1 then
    if bit (r.mask b) j then (some rNOHANDLER, s)
    else
      let k := coreKey cid
      let c := s.coreOf k
      let s := s.setCore k { c with stash := SMap.writeLE c.stash (r.page b + 64 * j) 56 m.payload.toNat }
      (none, s.setServer cid (r.setMask b (r.mask b ||| BitVec.ofNat 64 (2 ^ j))))
  else if d < 32768 then (some rRETRY, s)
  else (some rNOHANDLER, s)

/-- One lane's sum of two partials (R208). -/
def laneSum (ty x y : Nat) : Nat :=
  match ty with
  | 0 => (fpAdd fp32 rne x y).1
  | 1 => (x + y) % 2 ^ 32
  | 2 => (x + y) % 2 ^ 64
  | _ => (fpAdd fp64 rne x y).1

/-- The sum of the slots of a bank, lane by lane in child order (R208). -/
def State.bankSum (s : State) (cid : Nat) (r : RedSrv) (b : Nat) : BitVec 448 :=
  let ty := fld r.cfg 6 2
  let w := if ty ≤ 1 then 4 else 8
  let st := (s.coreOf (coreKey cid)).stash
  let lane := fun (j e : Nat) => SMap.readLE st (r.page b + 64 * j + w * e) w
  BitVec.ofNat 448 (build (8 * w) (fun e => foldNat (fun x j => laneSum ty x (lane j e)) (lane 0 e) 1 r.nch) (56 / w))

/-- A server faults GATE at its REDSRV with the refusal header; its state is kept through the suspension (R206, R209). -/
def State.serverFault (s : State) (cid : Nat) (hdr : Word) : State :=
  let w := (s.ctxOf cid).sched.wait
  let s := s.suspend cid cGATE hdr 0 7 akMessage
  let x := (s.ctxOf cid).sched
  if x.susp.isSome then s.setSched cid { x with wait := w } else s

/-- The tenant of a context may send: it runs, and issue has not stopped for it (R202). -/
def State.maySend (s : State) (cid : Nat) : Bool :=
  match s.partOf (gathOf cid) with
  | some p => s.mayIssue p (s.tenantOf cid)
  | none => false

/-- A server whose current bank is full sums it and sends the result (R208, R209). A result that its own gate refuses stays to be sent when
the instruction executes again. -/
def State.serve (s : State) (cid : Nat) : State :=
  let c := s.ctxOf cid
  match c.sched.wait with
  | .redsrv r =>
    let b := r.round.toNat % 2
    let full := (List.range (r.nch + 1)).all fun j => bit (r.mask b) j
    if r.sending ∨ !full ∨ c.sched.susp.isSome ∨ !s.maySend cid then s
    else
      let t := c.ctl.tree
      let sum := s.bankSum cid r b
      let dev := if bit t 20 then some (BitVec.ofNat 8 (fld t 12 8)) else none
      let m : Msg := { hdr := header (if bit t 27 then kDATA else kREDUCE) 0 (fld t 21 6) (s.pcidOf cid) (fld t 0 12) (if dev.isSome then s.ownDev else 0) dev.isSome r.round.toNat, payload := sum }
      if s.gateSends cid (fld t 0 12) dev 1 then (s.setServer cid { r.setMask b 0 with sending := true }).launch cid m dev .reduce
      else s.serverFault cid (refusal rGATE m (s.pcidOf cid))
  | _ => s

/-- REDSRV (R206): the context becomes a reduction server configured by s(a). -/
def execRedsrv (a : Reg) (s : State) : Out :=
  if isKernel s.cur then s.illegal (encode (.redsrv a)) else
  let x := s.s! a
  .next (s.setWait s.cur (.redsrv { cfg := x, round := BitVec.ofNat 16 (fld x 32 16), done := 0, mask0 := 0, mask1 := 0, sending := false }))

/-- The result of a round has been accepted (R209): after the last one REDSRV completes, of a server under a handler when the handler ends. -/
def State.roundDone (s : State) (cid : Nat) : State :=
  match s.server cid with
  | none => s
  | some r =>
    let r := { r with round := r.round + 1, done := r.done + 1, sending := false }
    let n := fld r.cfg 16 16
    let s := s.setServer cid r
    let c := s.ctxOf cid
    if n = 0 ∨ r.done ≠ n then s
    else match c.sched.wait, c.sched.handler with
      | .redsrv _, _ => s.setCtx cid { c with regs := c.regs.advance, sched := { c.sched with wait := .none, readyAt := s.clk } }
      | _, some h => s.setSched cid { c.sched with handler := some { h with wait := .none, pc := h.pc + 4 } }
      | _, none => s

/-! ### Arrival (R188, R194) -/

/-- The switched-out tenant a destination belongs to (R194). -/
def State.descheduled (s : State) (cid : Nat) : Option Byte :=
  if (s.ctxOf cid).sched.task.isSome ∨ (s.slotTenant cid).isSome then (if s.switchedOut cid then some (s.tenantOf cid) else none) else none

/-- The context whose inbox receives: for ACTIVE the handler context of the core (R189). -/
def State.receiver (s : State) (cid : Nat) (m : Msg) : Nat :=
  if hKind m.hdr = kACTIVE ∧ !isKernel cid then mkCid (gathOf cid) (coreNo cid) (s.coreOf (coreKey cid)).htSlot.toNat else cid

/-- A message enters an inbox behind every earlier one, or meets a server; the reason when it is refused (steps 3 to 5 of R188). -/
def State.intoInbox (s : State) (cid : Nat) (m : Msg) : Option Nat × State :=
  match s.server cid with
  | some r =>
    if hKind m.hdr = kREDUCE then s.reduceIn cid r m
    else if s.inboxFull cid then (some rFULL, s)
    else (none, s.setCtx cid { s.ctxOf cid with inbox := (s.ctxOf cid).inbox ++ [m] })
  | none =>
    if s.inboxFull cid then (some rFULL, s)
    else (none, s.setCtx cid { s.ctxOf cid with inbox := (s.ctxOf cid).inbox ++ [m] })

/-- A message at its destination on this device (steps 2 to 5 of R188, R194): the reason when it is refused. -/
def State.deliver (s : State) (cid : Nat) (m : Msg) : Option Nat × State :=
  let c := s.coreOf (coreKey cid)
  let to' := s.receiver cid m
  match s.descheduled to' with
  | some t =>
    if 65536 ≤ (s.meminbox.filter (·.tenant == t)).length then (some rFULL, s)
    else (none, { s with meminbox := s.meminbox ++ [{ tenant := t, cid := to', msg := m }] })
  | none =>
    let ent := (c.handler (hH m.hdr)).st
    if hKind m.hdr = kACTIVE ∧ (isKernel cid ∨ !c.htEn ∨ ent = .empty) then (some rNOHANDLER, s)
    else if hKind m.hdr = kACTIVE ∧ ent = .writing then (some rRETRY, s)
    else if s.meminbox.any fun x => x.cid == to' && x.tenant == s.tenantOf to' then
      if 65536 ≤ (s.meminbox.filter (·.tenant == s.tenantOf to')).length then (some rFULL, s)
      else (none, { s with meminbox := s.meminbox ++ [{ tenant := s.tenantOf to', cid := to', msg := m }] })
    else s.intoInbox to' m

/-- A flight replaced. -/
def State.setFlight (s : State) (n : Nat) (f : Flight) : State :=
  { s with flights := s.flights.map fun (x : Nat × Flight) => if x.1 == n then (n, f) else x }

/-- A flight by number. -/
def State.flight? (s : State) (n : Nat) : Option Flight := (s.flights.find? (·.1 == n)).map (·.2)

/-- MESSAGEARRIVAL (R188): a message in flight on this device is accepted or refused; a terminated sender's is answered, and dropped without
entering an inbox (R373). -/
def execMessageArrival (n : Nat) (s : State) : Out :=
  match s.flight? n with
  | none => .next s
  | some f =>
    if f.remote.isSome ∨ f.answer ≠ .pending then .next s
    else if f.dead then .next (s.setFlight n { f with answer := .refused 0 })
    else match s.cidOfPcid f.part (hDst f.msg.hdr) with
      | none => .next (s.setFlight n { f with answer := .refused (refusal rGATE f.msg (hDst f.msg.hdr)) })
      | some cid =>
        let (x, t) := s.deliver cid f.msg
        .next (t.setFlight n { f with answer := match x with
          | none => .accepted
          | some rsn => .refused (refusal rsn f.msg (hDst f.msg.hdr)) })

/-- A message of another device reaches this package (R185, R407): accepted, or its REFUSE goes back. -/
def State.inbound (s : State) (f : Flight) : State :=
  let s := s.hear (hDev f.msg.hdr)
  let dev := BitVec.ofNat 8 (hDev f.msg.hdr)
  let back := fun (t : State) (rsn : Nat) =>
    { t with sent := .message dev { hdr := header kREFUSE rsn (hH f.msg.hdr) (hDst f.msg.hdr) (hSrc f.msg.hdr) s.ownDev true (hSeq f.msg.hdr), payload := f.msg.payload.truncate 192 |>.zeroExtend 448 } :: t.sent }
  match s.cidOfPcid f.part (hDst f.msg.hdr) with
  | none => back s rGATE
  | some cid =>
    match s.deliver cid f.msg with
    | (none, t) => t
    | (some rsn, t) => back t rsn

/-- The answer of another device to a message in flight (R189). -/
def State.remoteAnswer (s : State) (n : Nat) (a : Answer) : State :=
  match s.flight? n with
  | some f => match f.remote with
    | some d => if f.answer = .pending then (s.hear d.toNat).setFlight n { f with answer := a } else s
    | none => s
  | none => s

/-! ### Answers and resends (R189, R190) -/

/-- The clocks before the n-th resend (R190). -/
def backoff (n : Nat) : Nat := 64 * 2 ^ Nat.min (n - 1) 7

/-- A message waits to be sent again. -/
def State.later (s : State) (n : Nat) (f : Flight) : State :=
  s.setFlight n { f with answer := .backoff (s.clk + backoff (f.resends + 1)), resends := f.resends + 1 }

/-- The sender's word completes with its answer in sd (R189). -/
def State.sendDone (s : State) (cid : Nat) (d : Reg) (x : Word) : State :=
  let c := s.ctxOf cid
  match c.sched.wait with
  | .send _ => s.setCtx cid { c with regs := (c.regs.sset d x).advance, sched := { c.sched with wait := .none, readyAt := s.clk } }
  | _ => s

/-- A HANDOVER message of a terminated issuer that no inbox took is dropped: the capability goes to the service (R33, R168). -/
def State.dropFlight (s : State) (f : Flight) : State :=
  match f.purpose with
  | .handover _ key => s.setHolder key .service
  | _ => s

/-- The context's HANDOVER completes: its message has been accepted (R167). -/
def State.handed (s : State) (cid : Nat) : State :=
  let c := s.ctxOf cid
  s.setCtx cid { c with regs := c.regs.advance, sched := { c.sched with wait := .none, readyAt := s.clk } }

/-- SENDANSWER (R189, R167, R209): the acceptance or refusal of a message reaches its sender. -/
def execSendAnswer (n : Nat) (s : State) : Out :=
  match s.flight? n with
  | none => .next s
  | some f =>
    let gone : State := { s with flights := s.flights.filter (·.1 != n) }
    let lands := fun (t : State) (cid : Nat) (g : State → State) => t.onOwner f.tenant cid g
    match f.src, f.answer with
    | none, _ => .next gone
    | _, .pending => .next s
    | _, .backoff _ => .next (if f.dead then gone.dropFlight f else s)
    | some cid, .accepted =>
      if f.dead then .next gone
      else match f.purpose with
        | .send d => .next (lands gone cid fun t => t.sendDone cid d 0)
        | .handover _ _ => .next (lands gone cid fun t => t.handed cid)
        | .reduce => .next (lands gone cid fun t => t.roundDone cid)
    | some cid, .refused hdr =>
      if f.dead then .next (gone.dropFlight f)
      else match f.purpose with
        | .send d => .next (lands gone cid fun t => t.sendDone cid d hdr)
        | .handover _ key =>
          if hRsn hdr = rFULL ∨ hRsn hdr = rRETRY then .next (s.later n f)
          else .next (lands (gone.setHolder key .service) cid fun t => t.suspend cid cGATE hdr 0 7 akMessage)
        | .reduce =>
          if hRsn hdr = rFULL ∨ hRsn hdr = rRETRY then .next (s.later n f)
          else .next (lands (s.setFlight n { f with answer := .backoff s.clk }) cid fun t => t.serverFault cid hdr)

/-- The sender of a flight is there to send it again: it stands on its slot, its tenant may send, and it is not suspended (R168, R202). -/
def State.mayResend (s : State) (f : Flight) (cid : Nat) : Bool :=
  !f.dead && (s.ctxOf cid).sched.susp.isNone && (isKernel cid || (s.tenantOf cid == f.tenant && s.maySend cid))

/-- RESEND (R190): after its back-off the message is sent again, as a new flight. -/
def execResend (n : Nat) (s : State) : Out :=
  match s.flight? n with
  | none => .next s
  | some f =>
    match f.answer, f.src with
    | .backoff at', some cid =>
      if s.clk < at' ∨ !s.mayResend f cid then .next s
      else
        let s := s.setFlight n { f with answer := .pending }
        .next { s with sent := match f.remote with
          | some d => .message d f.msg :: s.sent
          | none => s.sent }
    | _, _ => .next s

/-- MEMORYINBOXDRAIN (R194): the oldest message held for a context of a resumed tenant passes on, when its inbox or its server takes
it. DESIGN CHOICE: a REDUCE message that the server refuses keeps the later ones behind it (log entry 70). -/
def execMemoryInboxDrain (cid : BitVec 12) (s : State) : Out :=
  let c := cid.toNat
  match s.meminbox.find? fun x => x.cid == c && x.tenant == s.tenantOf c with
  | none => .next s
  | some h =>
    if s.switchedOut c then .next s
    else match s.intoInbox c h.msg with
      | (none, t) => .next { t with meminbox := s.meminbox.erase h }
      | (some _, _) => .next s

/-! ### Receiving (R191) -/

/-- An entry is taken: sd := the header, vb := the payload, then the dequeue's effects (R187, R191). -/
def State.take (s : State) (d b : Reg) (m : Msg) : State :=
  let s := s.dequeue s.cur m
  let s := s.setSched s.cur { s.me.sched with edge := none, wait := .none }
  ((s.setS d m.hdr).setV b (payloadV m)).advance

/-- The oldest receivable entry that p admits. -/
def State.receivable (s : State) (p : Msg → Bool) : Option Msg := s.me.inbox.find? fun m => !s.heldFor s.cur m && p m

/-- RECV (R191): takes the oldest receivable entry, parking while there is none. -/
def execRecv (d b : Reg) (s : State) : Out :=
  match s.receivable fun _ => true with
  | some m => .next (s.take d b m)
  | none => .next (s.park s.cur .recv)

/-- RECVP (R191): takes the oldest receivable entry if there is one; otherwise sd := 0. -/
def execRecvp (d b : Reg) (s : State) : Out :=
  match s.receivable fun _ => true with
  | some m => .next (s.take d b m)
  | none => s.done d 0

/-- The entry comes from the named sender (R186, R191). -/
def fromSender (x : Word) (m : Msg) : Bool :=
  hSrc m.hdr == fld x 0 12 && hRmt m.hdr == bit x 20 && (!hRmt m.hdr || hDev m.hdr == fld x 12 8)
    && (!bit x 48 || hSeq m.hdr == fld x 32 16)

/-- RECVF (R191): takes the oldest receivable entry from the named sender, parking while none matches. -/
def execRecvf (d a b : Reg) (s : State) : Out :=
  match s.receivable (fromSender (s.s! a)) with
  | some m => .next (s.take d b m)
  | none => .next (s.park s.cur (.recvf (s.s! a)))

/-! ### Deadlock detection (R195) -/

/-- WAITFOREDGE (R195): a RECVF parked for 1 µs records its edge. -/
def execWaitForEdge (cid : BitVec 12) (s : State) : Out :=
  let c := cid.toNat
  let x := (s.ctxOf c).sched
  match x.wait with
  | .again (.recvf op) => if x.edge.isNone ∧ x.since + 1000 ≤ s.dtime then .next (s.setSched c { x with edge := some op }) else .next s
  | _ => .next s

/-- What following recorded edges finds. -/
inductive Chase where
  /-- The chain comes back to its start; the lowest CID on it. -/
  | closed (least : Nat)
  /-- The chain leaves this device; the lowest CID on it. -/
  | remote (least : Nat)
  | ends
deriving DecidableEq, Repr

/-- Follow the edges from cid (R195). -/
def State.chase (s : State) (start : Nat) : Nat → Nat → Nat → Chase
  | 0, _, _ => .ends
  | n + 1, cid, least =>
    match (s.ctxOf cid).sched.edge, s.partOf (gathOf cid) with
    | some op, some p =>
      if bit op 20 then .remote least
      else match s.cidOfPcid p (fld op 0 12) with
        | none => .ends
        | some c => if c = start then .closed least else s.chase start n c (Nat.min least c)
    | _, _ => .ends

/-- DEADLOCK (R195): recorded edges close a cycle and this context is its lowest: it is suspended at its RECVF. A chain that leaves the
device closes as the probes from outside say. -/
def execDeadlock (cid : BitVec 12) (s : State) : Out :=
  let c := cid.toNat
  match (s.ctxOf c).sched.edge, s.chase c 4096 c c with
  | some op, .closed least => if least = c then .next (s.suspend c cDEADLOCK op 0 0 akMessage) else .next s
  | some op, .remote _ => .next (s.suspend c cDEADLOCK op 0 0 akMessage)
  | _, _ => .next s

/-! ### The handler table (R196 to R198) -/

/-- The context's tenant owns the handler context's slot (R197). -/
def State.ownsHandlers (s : State) : Bool :=
  s.slotTenant (mkCid (gathOf s.cur) (coreNo s.cur) (s.coreOf (coreKey s.cur)).htSlot.toNat) == some (s.tenantOf s.cur)

/-- An HTAB word of a context of another tenant faults GATE with TVAL = h; the manual names no DETAIL (log entry 7). -/
def State.htabFault (s : State) (h : BitVec 6) : Out :=
  let (x, s) := s.fresh
  .next (s.suspend s.cur cGATE (zx h) 0 (1 + BitVec.ofNat 8 (fld x 0 3 % 7)) akNone)

/-- Entry h of the core's handler table written. -/
def State.setHandler (s : State) (h : BitVec 6) (e : HEntry) : State :=
  let k := coreKey s.cur
  let c := s.coreOf k
  s.setCore k { c with handlers := SMap.write {} c.handlers h.toNat e }

/-- HSET (R197): entry h becomes WRITING with entry PC s(a). -/
def execHset (a : Reg) (h : BitVec 6) (s : State) : Out :=
  if isKernel s.cur then s.illegal (encode (.hset a h))
  else if !s.ownsHandlers then s.htabFault h
  else if !entryOk (s.s! a) then s.trap cMISALIGN (s.s! a)
  else .next (s.setHandler h { st := .writing, pc := s.s! a, tenant := s.tenantOf s.cur }).advance

/-- HEND (R197): a WRITING entry becomes VALID. -/
def execHend (h : BitVec 6) (s : State) : Out :=
  if isKernel s.cur then s.illegal (encode (.hend h))
  else if !s.ownsHandlers then s.htabFault h
  else
    let e := (s.coreOf (coreKey s.cur)).handler h.toNat
    .next (if e.st = .writing then s.setHandler h { e with st := .valid } else s).advance

/-- HCLR (R197): entry h becomes EMPTY. -/
def execHclr (h : BitVec 6) (s : State) : Out :=
  if isKernel s.cur then s.illegal (encode (.hclr h))
  else if !s.ownsHandlers then s.htabFault h
  else .next (s.setHandler h {}).advance

/-- HANDLERDISPATCH (R198): the oldest held entry is dispatched on the core's handler context. -/
def execHandlerDispatch (g : BitVec 6) (c : BitVec 4) (s : State) : Out :=
  let cid := mkCid g.toNat c.toNat (s.coreOf (g.toNat * 16 + c.toNat)).htSlot.toNat
  .next (if s.mayDispatch cid && !s.switchedOut cid then s.dispatch cid else s)

/-! ### HANDOVER (R167) -/

/-- The payload of a HANDOVER message (R167). -/
def State.handoverPayload (s : State) (r : RegionEnt) : BitVec 448 :=
  let v := if r.kind = kVERSIONED then ((newestSealed (s.ring (s.regionKey r) r.depth)).map (·.ver.toNat)).getD 0 else 0
  BitVec.ofNat 448 (r.base + r.len * 2 ^ 64 + v * 2 ^ 128)

/-- Every writable mapping of the context on a region is flushed and becomes read-only (R167). -/
def State.flushRegion (s : State) (cid : Nat) (r : RegionEnt) : State :=
  ((s.coreOf (coreKey cid)).maps.filter fun m => m.writable && m.owner == cid && r.covers m.base).foldl
    (fun s m => s.flushMap (coreKey cid) m false) s

/-- The region a HANDOVER names; of an address that no kernel region covers, a kernel-core context names the region whose bytes stand there, which
it hands over as the tenant's service (R33, R36; log entry 8). -/
def State.named (s : State) (va : Nat) : Option RegionEnt :=
  (s.reached s.cur va).or (if isKernel s.cur then (s.regionAt va).map (·.1) else none)

/-- HANDOVER (R167): passes the writer capability of the region that contains s(a) to PCID s(b)[11:0]. -/
def execHandover (a b : Reg) (s : State) : Out :=
  let va := s.s! a
  let dst := fld (s.s! b) 0 12
  match s.named va.toNat with
  | none => .next (s.suspend s.cur cGATE va 0 1 akMessage)
  | some r =>
    let key := s.regionKey r
    if r.kind ≠ kOWNED ∧ r.kind ≠ kVERSIONED then .next (s.suspend s.cur cGATE va 0 4 akMessage)
    else if !s.holds s.cur r then .next (s.suspend s.cur cWCAP va 0 0 akMessage)
    else if dst = s.pcidOf s.cur then .next s.advance
    else if !s.gateSends s.cur dst none 1 then .next (s.suspend s.cur cGATE (word dst) 0 7 akMessage)
    else if !(s.cmdsOf s.cur).isEmpty then .next (s.park s.cur .engines)
    else
      let s := s.flushRegion s.cur r
      let to' := match s.partOf (gathOf s.cur) with
        | some p => (s.cidOfPcid p dst).getD 0
        | none => 0
      let m : Msg := { hdr := header kHANDOVER 0 0 (s.pcidOf s.cur) dst 0 false 0, payload := s.handoverPayload r }
      .next (((s.setHolder key (.moving to')).launch s.cur m none (.handover va key)).setWait s.cur .handover)

/-! ### Barriers (R200 to R202) -/

/-- ARRIVE (R201): moves the channel from IDLE to ARRIVED. -/
def execArrive (c : BitVec 5) (s : State) : Out :=
  if s.isMember s.cur c.toNat then .next (s.advance.arrive s.cur c.toNat true false false) else .next s.advance

/-- A generation that is DONE is left for IDLE, and the word completes (R201). -/
def State.leaveBar (s : State) (c : Nat) : State := (s.setBar s.cur c {}).advance

/-- WAITB (R201): waits while ARRIVED, and leaves DONE for IDLE. -/
def execWaitb (c : BitVec 5) (s : State) : Out :=
  if !s.isMember s.cur c.toNat then .next s.advance
  else
    match (s.barOf s.cur c.toNat).st.toNat with
    | 0 => .next s.advance
    | 1 => .next (s.park s.cur (.bar c))
    | _ => .next (s.leaveBar c.toNat)

/-- A vote (R201): arrives with the bit s(a)[0], waits, and writes the AND (isAnd) or the OR over the generation. -/
def State.vote (s : State) (d a : Reg) (c : BitVec 5) (isAnd : Bool) : Out :=
  let v := bit (s.s! a) 0
  if !s.isMember s.cur c.toNat then s.done d (flag v)
  else
    let s := s.arrive s.cur c.toNat v v false
    let b := s.barOf s.cur c.toNat
    if b.st = 2 then .next ((s.setS d (flag (if isAnd then b.andB else b.orB))).leaveBar c.toNat)
    else .next (s.park s.cur (.bar c))

/-- VOTE.AND (R201). -/
def execVoteAnd (d a : Reg) (c : BitVec 5) (s : State) : Out := s.vote d a c true

/-- VOTE.OR (R201). -/
def execVoteOr (d a : Reg) (c : BitVec 5) (s : State) : Out := s.vote d a c false

/-- The context's partition holds its tenant at a superstep boundary (R202). -/
def State.heldHere (s : State) (cid : Nat) : Bool :=
  match s.partOf (gathOf cid) with
  | some p => (SMap.read {} s.parts p : PartSt).held
  | none => false

/-- SSTEP (R202): arrives and waits on channel 0; at a boundary with a request pending the members stay held. -/
def execSstep (s : State) : Out :=
  if !s.isMember s.cur 0 then .next s.advance
  else
    let s := s.arrive s.cur 0 true false true
    if (s.barOf s.cur 0).st = 2 ∧ !s.heldHere s.cur then .next (s.leaveBar 0)
    else .next (s.park s.cur (.bar 0))

/-! ### Tasks (R203, R204) -/

/-- SPAWN (R203): pushes the task record at s(a) onto the core's deque, unless the graph is deterministic or the deque is full. -/
def execSpawn (d a : Reg) (s : State) : Out :=
  if isKernel s.cur then s.illegal (encode (.spawn d a)) else
  let ea := s.s! a
  match s.check s.cur ea 64 64 .load akLoad with
  | .stop t => .next t
  | .ok r p t =>
    match t.readPlace s.cur r p ea 64 with
    | .stop u => .next u
    | .val x u =>
      let rec' := parseTask (bytesOf 64 x)
      if !entryOk rec'.entry then s.trap cMISALIGN rec'.entry
      else
        let k := coreKey s.cur
        let c := u.coreOf k
        match s.launchOf s.cur with
        | some n =>
          if s.deterministic s.cur ∨ 64 ≤ c.deque.length then u.done d 1
          else (u.setCore k { c with deque := c.deque ++ [{ launch := n, index := none, trec := rec', age := s.clk }] }).done d 0
        | none => u.done d 1

/-- YIELD (R39, R199): ends the task's run for this cycle: the context waits for the next start of its domain when that domain is
enabled; inside a handler it has no effect. -/
def execYield (s : State) : Out :=
  if isKernel s.cur then s.illegal (encode .yield)
  else if s.me.sched.handler.isSome then .next s.advance
  else
    let s := s.advance.detach s.cur
    let x := s.me.sched
    .next (s.setSched s.cur { x with yielded := (SMap.read {} s.doms (s.domOf s.cur) : Dom).en, stealOff := false })

/-- FINISH (R204): waits for the context's engine commands and ends the task or the handler. -/
def execFinish (s : State) : Out :=
  if isKernel s.cur then s.illegal (encode .finish) else s.finish

/-- STEALOFF (R204): the core refuses steal requests until the task ends or yields; no effect in deterministic mode. -/
def execStealoff (s : State) : Out :=
  if isKernel s.cur then s.illegal (encode .stealoff)
  else if s.deterministic s.cur then .next s.advance
  else .next (s.setSched s.cur { s.me.sched with stealOff := true }).advance

end Sys2Proof.Machine
end

