-- ==== Sys2Proof/Machine/Scalar.lean ====
section
/-! DEFINITION. The scalar integer groups (R123 to R129): INT, CMP/SEL, BITS, MULDIV and the immediate groups. Each writes sd
and completes; none sets a flag or traps. -/

namespace Sys2Proof.Machine

/-- ADD (R125): writes a + b. -/
def execAdd (d a b : Reg) (s : State) : Out := s.done d (s.s! a + s.s! b)

/-- SUB (R125): writes a - b. -/
def execSub (d a b : Reg) (s : State) : Out := s.done d (s.s! a - s.s! b)

/-- AND (R125): writes a AND b. -/
def execAnd (d a b : Reg) (s : State) : Out := s.done d (s.s! a &&& s.s! b)

/-- OR (R125): writes a OR b. -/
def execOr (d a b : Reg) (s : State) : Out := s.done d (s.s! a ||| s.s! b)

/-- XOR (R125): writes a XOR b. -/
def execXor (d a b : Reg) (s : State) : Out := s.done d (s.s! a ^^^ s.s! b)

/-- ANDN (R125): writes a AND NOT b. -/
def execAndn (d a b : Reg) (s : State) : Out := s.done d (s.s! a &&& ~~~(s.s! b))

/-- ORN (R125): writes a OR NOT b. -/
def execOrn (d a b : Reg) (s : State) : Out := s.done d (s.s! a ||| ~~~(s.s! b))

/-- XNOR (R125): writes NOT (a XOR b). -/
def execXnor (d a b : Reg) (s : State) : Out := s.done d (~~~(s.s! a ^^^ s.s! b))

/-- SLL (R125): writes a shifted left. -/
def execSll (d a b : Reg) (s : State) : Out := s.done d (s.s! a <<< cnt64 (s.s! b))

/-- SRL (R125): writes a shifted right with zeros. -/
def execSrl (d a b : Reg) (s : State) : Out := s.done d (s.s! a >>> cnt64 (s.s! b))

/-- SRA (R125): writes a shifted right with copies of a[63]. -/
def execSra (d a b : Reg) (s : State) : Out := s.done d ((s.s! a).sshiftRight (cnt64 (s.s! b)))

/-- ROL (R125): writes a rotated left. -/
def execRol (d a b : Reg) (s : State) : Out := s.done d ((s.s! a).rotateLeft (cnt64 (s.s! b)))

/-- ROR (R125): writes a rotated right. -/
def execRor (d a b : Reg) (s : State) : Out := s.done d ((s.s! a).rotateRight (cnt64 (s.s! b)))

/-- ADDW (R125): writes the 32-bit sum, sign-extended. -/
def execAddw (d a b : Reg) (s : State) : Out := s.done d (wform (lo32 (s.s! a + s.s! b)))

/-- SUBW (R125): writes the 32-bit difference, sign-extended. -/
def execSubw (d a b : Reg) (s : State) : Out := s.done d (wform (lo32 (s.s! a - s.s! b)))

/-- SLLW (R125): writes a[31:0] shifted left, sign-extended. -/
def execSllw (d a b : Reg) (s : State) : Out := s.done d (wform (lo32 (s.s! a) <<< cnt32 (s.s! b)))

/-- SRLW (R125): writes a[31:0] shifted right with zeros, sign-extended. -/
def execSrlw (d a b : Reg) (s : State) : Out := s.done d (wform (lo32 (s.s! a) >>> cnt32 (s.s! b)))

/-- SRAW (R125): writes a[31:0] shifted right with sign copies, sign-extended. -/
def execSraw (d a b : Reg) (s : State) : Out := s.done d (wform ((lo32 (s.s! a)).sshiftRight (cnt32 (s.s! b))))

/-- MIN (R125): writes the signed minimum. -/
def execMin (d a b : Reg) (s : State) : Out := s.done d (if (s.s! a).toInt ≤ (s.s! b).toInt then s.s! a else s.s! b)

/-- MAX (R125): writes the signed maximum. -/
def execMax (d a b : Reg) (s : State) : Out := s.done d (if (s.s! a).toInt ≤ (s.s! b).toInt then s.s! b else s.s! a)

/-- MINU (R125): writes the unsigned minimum. -/
def execMinu (d a b : Reg) (s : State) : Out := s.done d (if (s.s! a).toNat ≤ (s.s! b).toNat then s.s! a else s.s! b)

/-- MAXU (R125): writes the unsigned maximum. -/
def execMaxu (d a b : Reg) (s : State) : Out := s.done d (if (s.s! a).toNat ≤ (s.s! b).toNat then s.s! b else s.s! a)

/-- ADDSAT (R125): writes the signed sum clamped to 64 bits. -/
def execAddsat (d a b : Reg) (s : State) : Out := s.done d (satS ((s.s! a).toInt + (s.s! b).toInt))

/-- SUBSAT (R125): writes the signed difference clamped to 64 bits. -/
def execSubsat (d a b : Reg) (s : State) : Out := s.done d (satS ((s.s! a).toInt - (s.s! b).toInt))

/-- SEQ (R126): writes 1 when a = b, else 0. -/
def execSeq (d a b : Reg) (s : State) : Out := s.done d (flag (s.s! a == s.s! b))

/-- SNE (R126): writes 1 when a differs from b, else 0. -/
def execSne (d a b : Reg) (s : State) : Out := s.done d (flag (s.s! a != s.s! b))

/-- SLT (R126): writes 1 when SInt(a) < SInt(b), else 0. -/
def execSlt (d a b : Reg) (s : State) : Out := s.done d (flag (decide ((s.s! a).toInt < (s.s! b).toInt)))

/-- SLTU (R126): writes 1 when UInt(a) < UInt(b), else 0. -/
def execSltu (d a b : Reg) (s : State) : Out := s.done d (flag (decide ((s.s! a).toNat < (s.s! b).toNat)))

/-- SGE (R126): writes 1 when SInt(a) >= SInt(b), else 0. -/
def execSge (d a b : Reg) (s : State) : Out := s.done d (flag (decide ((s.s! b).toInt ≤ (s.s! a).toInt)))

/-- SGEU (R126): writes 1 when UInt(a) >= UInt(b), else 0. -/
def execSgeu (d a b : Reg) (s : State) : Out := s.done d (flag (decide ((s.s! b).toNat ≤ (s.s! a).toNat)))

/-- CMOVZ (R126): writes a when b = 0, else sd as it is. -/
def execCmovz (d a b : Reg) (s : State) : Out := s.done d (if s.s! b = 0 then s.s! a else s.s! d)

/-- CMOVNZ (R126): writes a when b is not 0, else sd as it is. -/
def execCmovnz (d a b : Reg) (s : State) : Out := s.done d (if s.s! b = 0 then s.s! d else s.s! a)

/-- CLZ (R127): writes the leading zeros of a. -/
def execClz (d a : Reg) (s : State) : Out := s.done d (word (clz64 (s.s! a)))

/-- CTZ (R127): writes the trailing zeros of a. -/
def execCtz (d a : Reg) (s : State) : Out := s.done d (word (ctz64 (s.s! a)))

/-- POPC (R127): writes the one bits of a. -/
def execPopc (d a : Reg) (s : State) : Out := s.done d (word (popc (s.s! a)))

/-- BREV (R127): writes the bits of a reversed. -/
def execBrev (d a : Reg) (s : State) : Out := s.done d (brev64 (s.s! a))

/-- BSWAP (R127): writes the bytes of a reversed. -/
def execBswap (d a : Reg) (s : State) : Out := s.done d (bswap64 (s.s! a))

/-- EXTR (R127): writes the field of a that b names, zero-extended. -/
def execExtr (d a b : Reg) (s : State) : Out := s.done d (extr (s.s! a) (s.s! b))

/-- EXTRS (R127): writes the field of a that b names, sign-extended. -/
def execExtrs (d a b : Reg) (s : State) : Out := s.done d (extrs (s.s! a) (s.s! b))

/-- INSR (R127): writes sd with the field that b names replaced from a. -/
def execInsr (d a b : Reg) (s : State) : Out := s.done d (insr (s.s! d) (s.s! a) (s.s! b))

/-- MUL (R128): writes the low 64 bits of the product. -/
def execMul (d a b : Reg) (s : State) : Out := s.done d (s.s! a * s.s! b)

/-- MULH (R128): writes bits [127:64] of the signed product. -/
def execMulh (d a b : Reg) (s : State) : Out := s.done d (wordI ((s.s! a).toInt * (s.s! b).toInt / 2 ^ 64))

/-- MULHU (R128): writes bits [127:64] of the unsigned product. -/
def execMulhu (d a b : Reg) (s : State) : Out := s.done d (word ((s.s! a).toNat * (s.s! b).toNat / 2 ^ 64))

/-- MULHM (R128): writes bits [127:64] of SInt(a) times UInt(b). -/
def execMulhm (d a b : Reg) (s : State) : Out := s.done d (wordI ((s.s! a).toInt * ((s.s! b).toNat : Int) / 2 ^ 64))

/-- MULW (R128): writes the 32-bit product, sign-extended. -/
def execMulw (d a b : Reg) (s : State) : Out := s.done d (wform (lo32 (s.s! a) * lo32 (s.s! b)))

/-- DIV (R128): writes the signed quotient. -/
def execDiv (d a b : Reg) (s : State) : Out := s.done d (wordI (divS 64 (s.s! a).toInt (s.s! b).toInt))

/-- DIVU (R128): writes the unsigned quotient. -/
def execDivu (d a b : Reg) (s : State) : Out := s.done d (word (divU 64 (s.s! a).toNat (s.s! b).toNat))

/-- REM (R128): writes the signed remainder. -/
def execRem (d a b : Reg) (s : State) : Out := s.done d (wordI (remS 64 (s.s! a).toInt (s.s! b).toInt))

/-- REMU (R128): writes the unsigned remainder. -/
def execRemu (d a b : Reg) (s : State) : Out := s.done d (word (remU (s.s! a).toNat (s.s! b).toNat))

/-- DIVW (R128): writes the signed 32-bit quotient, sign-extended. -/
def execDivw (d a b : Reg) (s : State) : Out := s.done d (wform (BitVec.ofInt 32 (divS 32 (lo32 (s.s! a)).toInt (lo32 (s.s! b)).toInt)))

/-- DIVUW (R128): writes the unsigned 32-bit quotient, sign-extended. -/
def execDivuw (d a b : Reg) (s : State) : Out := s.done d (wform (BitVec.ofNat 32 (divU 32 (lo32 (s.s! a)).toNat (lo32 (s.s! b)).toNat)))

/-- REMW (R128): writes the signed 32-bit remainder, sign-extended. -/
def execRemw (d a b : Reg) (s : State) : Out := s.done d (wform (BitVec.ofInt 32 (remS 32 (lo32 (s.s! a)).toInt (lo32 (s.s! b)).toInt)))

/-- REMUW (R128): writes the unsigned 32-bit remainder, sign-extended. -/
def execRemuw (d a b : Reg) (s : State) : Out := s.done d (wform (BitVec.ofNat 32 (remU (lo32 (s.s! a)).toNat (lo32 (s.s! b)).toNat)))

/-- ADDI (R129): writes a + SignExtend(imm16). -/
def execAddi (d a : Reg) (i : BitVec 16) (s : State) : Out := s.done d (s.s! a + sx i)

/-- ANDI (R129): writes a AND SignExtend(imm16). -/
def execAndi (d a : Reg) (i : BitVec 16) (s : State) : Out := s.done d (s.s! a &&& sx i)

/-- ORI (R129): writes a OR ZeroExtend(imm16). -/
def execOri (d a : Reg) (i : BitVec 16) (s : State) : Out := s.done d (s.s! a ||| zx i)

/-- XORI (R129): writes a XOR ZeroExtend(imm16). -/
def execXori (d a : Reg) (i : BitVec 16) (s : State) : Out := s.done d (s.s! a ^^^ zx i)

/-- SLLI (R129): writes a shifted left by n. -/
def execSlli (d a : Reg) (n : BitVec 6) (s : State) : Out := s.done d (s.s! a <<< n.toNat)

/-- SRLI (R129): writes a shifted right by n with zeros. -/
def execSrli (d a : Reg) (n : BitVec 6) (s : State) : Out := s.done d (s.s! a >>> n.toNat)

/-- SRAI (R129): writes a shifted right by n with sign copies. -/
def execSrai (d a : Reg) (n : BitVec 6) (s : State) : Out := s.done d ((s.s! a).sshiftRight n.toNat)

/-- RORI (R129): writes a rotated right by n. -/
def execRori (d a : Reg) (n : BitVec 6) (s : State) : Out := s.done d ((s.s! a).rotateRight n.toNat)

/-- SLLIW (R129): writes a[31:0] shifted left by n, sign-extended. -/
def execSlliw (d a : Reg) (n : BitVec 5) (s : State) : Out := s.done d (wform (lo32 (s.s! a) <<< n.toNat))

/-- SRLIW (R129): writes a[31:0] shifted right by n with zeros, sign-extended. -/
def execSrliw (d a : Reg) (n : BitVec 5) (s : State) : Out := s.done d (wform (lo32 (s.s! a) >>> n.toNat))

/-- SRAIW (R129): writes a[31:0] shifted right by n with sign copies, sign-extended. -/
def execSraiw (d a : Reg) (n : BitVec 5) (s : State) : Out := s.done d (wform ((lo32 (s.s! a)).sshiftRight n.toNat))

/-- SLTI (R129): writes 1 when SInt(a) < SInt(i), else 0. -/
def execSlti (d a : Reg) (i : BitVec 15) (s : State) : Out := s.done d (flag (decide ((s.s! a).toInt < (sx i).toInt)))

/-- SLTIU (R129): writes 1 when UInt(a) < UInt(i), i sign-extended, else 0. -/
def execSltiu (d a : Reg) (i : BitVec 15) (s : State) : Out := s.done d (flag (decide ((s.s! a).toNat < (sx i).toNat)))

/-- LUI (R61): writes SignExtend(imm21 : Zeros(16)). -/
def execLui (d : Reg) (i : BitVec 21) (s : State) : Out := s.done d (upper i)

/-- ADDPC (R61): writes PC + SignExtend(imm21 : Zeros(16)), PC the address of this word (R42). -/
def execAddpc (d : Reg) (i : BitVec 21) (s : State) : Out := s.done d (s.ia + upper i)

end Sys2Proof.Machine
end

