-- ==== Sys2Proof/Machine/Stream.lean ====
section
/-! DEFINITION. The spine's own steps (R22 to R28, R136 to R143): delivering the next position of a stream, joining, and the two time-outs. -/

namespace Sys2Proof.Machine

/-- The next PC of a word depends on data (R24): a conditional branch, an indirect jump, TRET, or FINISH or HALT, which in a handler go on
at the saved PC (R199). -/
def isControl (w : Word32) : Bool :=
  fld w 26 6 == 0x10 || fld w 26 6 == 0x11 || fld w 26 6 == 0x13 || w == 0xFC040000 || w == 0xBC000200 || w == 0xFC070000

/-- A word is a join point: ATTACH or JOIN (R137); and what it gives JOINTO, in clocks. -/
def isJoinPoint (w : Word32) : Bool := fld w 26 6 == 0x14 && (fld w 13 8 == 1 || fld w 13 8 == 2)
def joinClocks (w : Word32) : Nat := (fld w 0 13 + 1) * 64

/-- The word is GANG (R143). -/
def isGang (w : Word32) : Bool := fld w 26 6 == 0x14 && fld w 0 21 == 0xA000

/-- The address after a word whose next PC does not depend on data: JAL jumps (R135). -/
def nextWord (w : Word32) (a : Word) : Word :=
  if fld w 26 6 = 0x12 then a + (((w.truncate 26 : BitVec 26).signExtend 64) * 4) else a + 4

/-- The streams the spine has decoded for in this clock (R22). -/
def State.decoded (s : State) (g : Nat) : List Nat := if (s.gathSt g).decAt = s.clk then (s.gathSt g).decs else []

/-- R22: the spine delivers for at most two streams in a clock, one instruction each. -/
def State.mayDecode (s : State) (g k : Nat) : Bool := !(s.decoded g).contains k && decide ((s.decoded g).length < 2)

/-- Stream k takes one of the spine's two places in this clock (R22). -/
def State.decode! (s : State) (g k : Nat) : State := s.setGath g { s.gathSt g with decAt := s.clk, decs := k :: s.decoded g }

/-- The word a stream delivers next, when it may (R22 to R24, R138): the spine can decode for it, it runs and does not hold, the outcome it
follows is known, and every attached context has accepted position n - 32. -/
def State.nextDelivery (s : State) (g k : Nat) : Option Word32 :=
  let st := s.stream g k
  let known := match st.outcomes with
    | (_, none) :: _ => false
    | _ => true
  let near := (s.attached g k).all fun cid => decide (st.pos < 32) || (match (s.ctxOf cid).sched.accepted with
    | some p => decide (st.pos - 32 ≤ p)
    | none => false)
  match s.leader g k with
  | some l => if s.mayDecode g k && st.running && st.holdTo.isNone && known && near then s.peekWord l st.nextPc else none
  | none => none

/-- Position n is delivered: the word goes to the drift buffer of every attached context. -/
def State.multicast (s : State) (g k : Nat) (d : Drift) : State :=
  (s.attached g k).foldl (fun s cid =>
    let x := (s.ctxOf cid).sched
    s.setSched cid { x with drift := x.drift ++ [d] }) s

/-- STREAM_DELIVER (R22 to R24, R137, R138, R143): stream k of gathering g delivers its next position. At a join point the JOINING
contexts that match attach, and the stream holds while a straggler is out. -/
def execStreamDeliver (g : BitVec 6) (k : BitVec 2) (s : State) : Out :=
  let g := g.toNat
  let k := k.toNat
  match s.nextDelivery g k with
  | none => .next s
  | some w =>
    let st := s.stream g k
    let a := st.nextPc
    let s := match s.leader g k with
      | some l => s.takeLine l (s.lineFor l a.toNat) false
      | none => s
    let s := (s.decode! g k).multicast g k { pos := st.pos, addr := a, word := w }
    let old := st.status.filter fun x => decide (st.pos ≤ x.1 + 33)
    let out := st.outcomes.filter fun x => decide (st.pos ≤ x.1 + 33)
    let s := s.setStream g k { st with
      pos := st.pos + 1
      nextPc := nextWord w a
      atJoin := if isJoinPoint w then some a else none
      outcomes := if isControl w then (st.pos, none) :: out else out
      status := if isGang w then (st.pos, s.gangValue g k) :: old else old }
    if isJoinPoint w then
      let s := ((List.range 8).map fun c => mkCid g c k).foldl (fun (s : State) cid => s.tryAttach cid) s
      let st2 := s.stream g k
      .next (s.setStream g k (if st2.strag = 0 then { st2 with status := (st.pos, 0) :: st2.status }
        else { st2 with holdTo := some (s.clk + joinClocks w) }))
    else .next s

/-- JOINING_ATTACHED (R137, R139): a JOINING context whose stream is at its join point and whose class agrees attaches. -/
def execJoiningAttached (cid : BitVec 12) (s : State) : Out := .next (s.tryAttach cid.toNat)

/-- JOIN_TIMEOUT (R137): a JOINING context whose JOINTO has passed becomes PRIVATE with status TIMEOUT. -/
def execJoinTimeout (cid : BitVec 12) (s : State) : Out :=
  let c := s.ctxOf cid.toNat
  match c.sched.wait with
  | .join w => if c.sched.spine = .joining ∧ w.stopAt ≤ s.clk then .next (s.joinEnds cid.toNat 1) else .next s
  | _ => .next s

/-- STREAM_HOLD_TIMEOUT (R28, R138): a held stream whose JOINTO has passed proceeds. -/
def execStreamHoldTimeout (g : BitVec 6) (k : BitVec 2) (s : State) : Out :=
  match (s.stream g.toNat k.toNat).holdTo with
  | some t => if t ≤ s.clk then .next (s.endHold g.toNat k.toNat) else .next s
  | none => .next s

end Sys2Proof.Machine
end

