-- ==== Sys2Proof/Machine/Tree.lean ====
section
/-! DEFINITION. The sum-tree engines of the home slices (R256 to R262): a tree's storage and registers, ordering at the tree, and the
five commands. -/

namespace Sys2Proof.Machine

/-! ### Storage (R256) -/

/-- The TREE region that the issuing context's gate admits TB in for engine access (R256, R388). -/
def State.treeRegion (s : State) (c : Cmd) : Option RegionEnt :=
  match s.partOf (gathOf c.cid) with
  | none => none
  | some p =>
    match s.findRegion (coreKey c.cid) p c.tenant c.tb with
    | some r =>
      let ok := r.kind == kTREE && r.ocls == 0 &&
        (s.capsOf (coreKey c.cid) c.tenant).any fun x => extentCovers [x] c.tb 1 8 && extentCovers [x] c.tb 1 3
      if ok then some r else none
    | none => none

/-- The physical address of byte off of the storage of the tree a command names. -/
def State.treePa (s : State) (c : Cmd) (off : Nat) (write : Bool) : Except EStop (Nat × State) :=
  let va := c.tb + off
  match s.walkTables c.tenant va with
  | .leaf ea n pa e => .ok (pa + va % 2 ^ n, s.markLeaf c.tenant ea pa e write)
  | .poisoned => .error (.dead (s.tablesBad (gathOf c.cid)))
  | .bad _ => .error (.fail 0x42)
  | _ => .error (.wait va write)

/-- n bytes of a tree's storage. -/
def State.treeGet (s : State) (c : Cmd) (off n : Nat) : Except EStop (Nat × State) := do
  let (pa, t) ← s.treePa c off false
  if t.isPoisoned pa n then
    match t.treeRegion c with
    | some r => .error (.dead (t.poisoned c.cid r 0))
    | none => .error (.fail 0x41)
  else .ok (t.physRead pa n, t.touch pa .none (some c.cid) false)

/-- n bytes into a tree's storage. -/
def State.treePut (s : State) (c : Cmd) (off n v : Nat) : Except EStop State := do
  let (pa, t) ← s.treePa c off true
  .ok ((t.touch pa .none (some c.cid) true).physWrite pa n v)

/-- Where heap node h of a tree with 2^l leaves stands: its offset and the bytes of its sum. -/
def nodeOff (l h : Nat) : Nat := if 2 ^ l ≤ h then 16 * (h - 2 ^ l) else 16 * 2 ^ l + 16 * h
def sumBytes (l h : Nat) : Nat := if 2 ^ l ≤ h then 4 else 8

/-- Sum of heap node h; of a leaf, its priority. -/
def State.nodeSum (s : State) (c : Cmd) (l h : Nat) : Except EStop (Nat × State) := s.treeGet c (nodeOff l h) (sumBytes l h)

/-- The least nonzero priority below heap node h; 0 when there is none. -/
def State.nodeMin (s : State) (c : Cmd) (l h : Nat) : Except EStop (Nat × State) :=
  s.treeGet c (nodeOff l h + (if 2 ^ l ≤ h then 0 else 8)) 4

/-- The lesser of two priorities of which 0 means none. -/
def leastPrio (a b : Nat) : Nat := if a = 0 then b else if b = 0 then a else Nat.min a b

/-- The sums and least priorities of the n nodes above heap node h. -/
def State.fixUp (s : State) (c : Cmd) (l : Nat) : Nat → Nat → Except EStop State
  | 0, _ => .ok s
  | n + 1, h => do
    let p := h / 2
    let (a, s) ← s.nodeSum c l (2 * p)
    let (b, s) ← s.nodeSum c l (2 * p + 1)
    let (x, s) ← s.nodeMin c l (2 * p)
    let (y, s) ← s.nodeMin c l (2 * p + 1)
    let s ← s.treePut c (nodeOff l p) 8 (a + b)
    let s ← s.treePut c (nodeOff l p + 8) 8 (leastPrio x y)
    s.fixUp c l n p

/-- The tree's registers in the device. -/
def State.setTree (s : State) (t : Tree) : State :=
  { s with trees := s.trees.map fun x => if x.tenant == t.tenant && x.tb == t.tb then t else x }

/-- A slot takes a priority and a generation; the sums, PMIN and TOTAL follow (R257, R260). -/
def State.setLeaf (s : State) (c : Cmd) (t : Tree) (slot prio gen : Nat) : Except EStop (Tree × State) := do
  let s ← s.treePut c (16 * slot) 8 (prio % 2 ^ 32 + 2 ^ 32 * (gen % 2 ^ 32))
  let s ← s.treePut c (16 * slot + 8) 8 0
  let s ← s.fixUp c t.l t.l (2 ^ t.l + slot)
  let (tot, s) ← s.nodeSum c t.l 1
  let (pm, s) ← s.nodeMin c t.l 1
  .ok ({ t with total := tot, pmin := BitVec.ofNat 32 pm }, s)

/-- n storage lines of 64 bytes, from line i on, become zero. -/
def State.zeroTree (s : State) (c : Cmd) : Nat → Nat → Except EStop State
  | 0, _ => .ok s
  | n + 1, i => do
    let (pa, t) ← s.treePa c (64 * i) true
    ((t.touch pa .none (some c.cid) true).physWriteBytes pa (List.replicate 64 0)).zeroTree c n (i + 1)

/-! ### RES (R258) -/

/-- The saved stash that a command's RES names, when its tenant is switched out (R243). -/
def State.savedRes (s : State) (c : Cmd) : Option StashSave :=
  if c.kflag 12 then s.stashes.find? fun x => x.tenant == c.tenant && x.core == coreKey c.cid else none

/-- The mapping of a saved stash that a line lies in. -/
def StashSave.mapOf (x : StashSave) (line : Nat) : Option Mapping :=
  x.maps.find? fun m => decide (m.spage * 64 ≤ line) && decide (line < (m.spage + m.npg) * 64)

/-- A saved stash with n bytes written, and the line they lie in filled and dirty where it is mapped (R241). -/
def StashSave.put (x : StashSave) (a n v : Nat) : StashSave :=
  let line := a / 64
  { x with
    stash := SMap.writeLE x.stash a n v
    bad := x.bad.filter fun w => !(decide (a ≤ w * 4) && decide (w * 4 + 4 ≤ a + n))
    maps := x.maps.map fun m => if x.mapOf line = some m then
      { m with
        filled := if m.filled.contains line then m.filled else line :: m.filled
        dirty := if m.dirty.contains line then m.dirty else line :: m.dirty } else m }

/-- n bytes of RES: memory, the stash, or the saved stash of a tenant that is switched out, where a read-only mapping fails the command too
(R241, R243). -/
def State.resPut (s : State) (c : Cmd) (a n v : Nat) : Except EStop State :=
  match s.savedRes c with
  | some x =>
    if (x.mapOf (a / 64)).any fun m => !m.writable then .error (.fail 0x41)
    else .ok { s with stashes := s.stashes.map fun y => if y = x then x.put a n v else y }
  | none => s.putAt c 3 (c.kflag 12) (a : Int) n v

/-- 8 bytes of RES, or of an update array. -/
def State.resGet (s : State) (c : Cmd) (a : Nat) : Except EStop (Nat × State) :=
  match s.savedRes c with
  | some x =>
    if x.bad.any fun w => decide (w * 4 < a + 8) && decide (a < w * 4 + 4) then .error (.dead (s.stashLost c))
    else .ok (SMap.readLE x.stash a 8, s)
  | none => s.getAt c 3 (c.kflag 12) (a : Int) 8

/-- 8-byte units written to RES in order: the state, with why it stopped. -/
def State.resPuts (s : State) (c : Cmd) (l : List Nat) : State × Option EStop :=
  let (t, _, why) := runActs (fun i s => s.resPut c (c.res + 8 * i) 8 (l.getD i 0)) l.length 0 s
  (t, why)

/-- n 8-byte units read from RES on. -/
def State.resGets (s : State) (c : Cmd) : Nat → Nat → Except EStop (List Nat × State)
  | 0, _ => .ok ([], s)
  | n + 1, a => do
    let (x, t) ← s.resGet c a
    let (l, u) ← t.resGets c n (a + 8)
    .ok (x :: l, u)

/-! ### Ordering at the tree (R259) -/

/-- What running a command gave: the state, why it stopped, RES0 and RES1. -/
structure TreeRun where
  after : State
  why   : Option EStop := none
  res0  : Nat := 0
  res1  : Nat := 0

/-- A command whose reading and updating of the tree either happens whole or stops it. -/
def treeRun (s : State) (x : Except EStop TreeRun) : TreeRun :=
  match x with
  | .ok r => r
  | .error e => { after := s, why := some e }

/-- A tree command leaves the tree's engine and waits for its completion act. -/
def State.finishTree (s : State) (n : Nat) (x : TreeCmd) (reason res0 res1 : Nat) : State :=
  let c := s.coreOf x.core
  let q := c.engine 3
  let d : Done := { cmd := x.cmd, reason := BitVec.ofNat 8 reason, res0 := BitVec.ofNat 32 res0, res1 := BitVec.ofNat 32 res1 }
  ({ s with treeQ := s.treeQ.filter (·.1 != n) }).setCore x.core (c.setEngine 3 { q with done := q.done ++ [d] })

/-- The logical sequence number of a command, and whether it is ordered. -/
def Cmd.lsn (c : Cmd) : Word32 := c.w[7]
def Cmd.ord (c : Cmd) : Bool := c.kflag 15

/-- NEXTLSN after command c has applied. -/
def State.passLsn (s : State) (c : Cmd) : State :=
  match s.treeOf c with
  | some t => if c.ord then s.setTree { t with nextlsn := c.lsn + 1 } else s
  | none => s

/-- A command applies as one act: it completes, fails, or waits for a page with nothing done. -/
def State.applyTree (s : State) (n : Nat) (x : TreeCmd) (r : TreeRun) : Out :=
  .next (match r.why with
    | none => (r.after.passLsn x.cmd).finishTree n x 0 r.res0 r.res1
    | some (.fail e) => (r.after.passLsn x.cmd).finishTree n x e r.res0 r.res1
    | some (.wait va w) => s.addWalk (x.core / 16) x.cmd.tenant va w (.engine x.core 3)
    | some (.dead t) => t)

/-- A forwarded command by its id. -/
def State.treeCmd? (s : State) (n : Nat) : Option TreeCmd := (s.treeQ.find? (·.1 == n)).map (·.2)

/-- The command arrives next: the port forwards in queue order to each tree; a refused one is sent again after its back-off (R190,
R233). -/
def State.arrivesNow (s : State) (n : Nat) (x : TreeCmd) : Bool :=
  if x.refused ≠ 0 then decide (x.ready ≤ s.clk)
  else
    match s.treeQ.find? fun y => y.2.core == x.core && y.2.cmd.tenant == x.cmd.tenant && y.2.cmd.tb == x.cmd.tb && !y.2.held && y.2.refused == 0 with
    | some y => y.1 == n
    | none => false

/-- A command other than TR.CFG at its tree: on arrival, or while it is held. -/
def State.treeEvent (s : State) (n kind : Nat) (run : State → Cmd → Tree → TreeRun) : Out :=
  match s.treeCmd? n with
  | none => .next s
  | some x =>
    if x.cmd.kind ≠ kind then .next s
    else if x.held then
      match s.treeOf x.cmd with
      | none => .next s
      | some t =>
        if x.cmd.lsn = t.nextlsn then s.applyTree n x (run s x.cmd t)
        else if !serialLater x.cmd.lsn t.nextlsn then .next (s.finishTree n x 0x48 0 0)
        else .next s
    else if !s.arrivesNow n x then .next s
    else if (s.treeRegion x.cmd).isNone then .next (s.finishTree n x 0x41 0 0)
    else
      match s.treeOf x.cmd with
      | none => .next (s.finishTree n x 0x45 0 0)
      | some t =>
        if !x.cmd.ord then s.applyTree n x (run s x.cmd t)
        else
          match s.admission (homeSlice t.key) (2 ^ 64 + t.key) t.nextlsn x.cmd.lsn with
          | .apply => s.applyTree n x (run s x.cmd t)
          | .hold => .next { s with treeQ := s.treeQ.map fun (y : Nat × TreeCmd) => if y.1 == n then (n, { x with held := true }) else y }
          | .retry => .next { s with treeQ := s.treeQ.map fun (y : Nat × TreeCmd) =>
              if y.1 == n then (n, { x with refused := x.refused + 1, ready := s.clk + 64 * 2 ^ Nat.min x.refused 7 }) else y }
          | .stale => .next (s.finishTree n x 0x48 0 0)

/-! ### The commands (R260) -/

/-- The configuration a TR.CFG makes of a tree. -/
def Cmd.newTree (c : Cmd) (key : Nat) : Tree :=
  { key := key, tenant := c.tenant, tb := c.tb, l := c.num 5 % 32, total := 0, pmin := 0, ncount := 0
    beta := if c.num 6 = 0x80000000 then 0 else c.w[6], tstale := 0, cursor := 0, nextlsn := 0
    seed := word (c.num 3 + 2 ^ 32 * c.num 4), used := 0 }

/-- The held commands of a tree fail with 0x48 (R259). -/
def State.failHeld (s : State) (c : Cmd) : State :=
  s.treeQ.foldl (fun (s : State) (y : Nat × TreeCmd) =>
    if y.2.held && y.2.cmd.tenant == c.tenant && y.2.cmd.tb == c.tb then s.finishTree y.1 y.2 0x48 0 0 else s) s

/-- TR_CFG (R259, R260): configures the tree at TB, or with BONLY sets its BETA. -/
def execTrCfg (n : Nat) (s : State) : Out :=
  match s.treeCmd? n with
  | none => .next s
  | some x =>
    let c := x.cmd
    if c.kind ≠ 0x20 ∨ !s.arrivesNow n x then .next s
    else
      match s.treeRegion c with
      | none => .next (s.finishTree n x 0x41 0 0)
      | some r =>
        let old := s.treeOf c
        if c.kflag 13 then
          match old with
          | none => .next (s.finishTree n x 0x45 0 0)
          | some t => .next ((s.setTree { t with beta := (c.newTree 0).beta }).finishTree n x 0 0 0)
        else if decide (r.base + r.len < c.tb + 32 * 2 ^ (c.num 5 % 32)) || (old.isNone && decide (64 ≤ s.trees.length)) then
          .next (s.finishTree n x 0x45 0 0)
        else
          s.applyTree n x (treeRun s (do
            let (pa, t) ← s.treePa c 0 true
            let t ← t.zeroTree c (2 ^ (c.num 5 % 32) / 2) 0
            let t := t.failHeld c
            let keep := t.trees.filter fun y => !(y.tenant == c.tenant && y.tb == c.tb)
            .ok { after := { t with trees := keep ++ [c.newTree pa] } }))

/-- TR_INS (R260): the slot at CURSOR takes the priority and its next generation. -/
def execTrIns (n : Nat) (s : State) : Out :=
  s.treeEvent n 0x21 fun s c t => treeRun s (do
    let slot := t.cursor.toNat
    let (g0, s) ← s.treeGet c (16 * slot + 4) 4
    let g := (g0 + 1) % 2 ^ 32
    let (t, s) ← s.setLeaf c t slot (c.num 5) g
    let t := { t with
      cursor := BitVec.ofNat 32 ((slot + 1) % 2 ^ t.l)
      ncount := BitVec.ofNat 32 (Nat.min (t.ncount.toNat + 1) (2 ^ t.l))
      used := Nat.min (t.used + 1) (2 ^ t.l) }
    let (u, why) := (s.setTree t).resPuts c [slot + 2 ^ 32 * g]
    .ok { after := u, why := why, res0 := slot, res1 := g })

/-- Weight(P) (R262). -/
def drawWeight (beta pmin p : Nat) : Nat :=
  let (q, e) := quotient pmin 0 p 0
  let a := (roundFP fp32 rne (.fin false q e)).1
  let lg := (sfuElem 4 rne a).1
  let m := (fpMul fp32 rne beta lg).1
  (sfuElem 3 rne m).1

/-- From a heap node down n levels to the leaf that holds offset x of the node's sum (R261). -/
def State.descend (s : State) (c : Cmd) (l : Nat) : Nat → Nat → Nat → Except EStop (Nat × State)
  | 0, h, _ => .ok (h - 2 ^ l, s)
  | n + 1, h, x => do
    let (a, s) ← s.nodeSum c l (2 * h)
    if x < a then s.descend c l n (2 * h) x else s.descend c l n (2 * h + 1) (x - a)

/-- Records j on of a draw of k, n of them, each as two 8-byte units (R261). -/
def State.drawRecs (s : State) (c : Cmd) (t : Tree) (k : Nat) : Nat → Nat → Except EStop (List Nat × State)
  | 0, _ => .ok ([], s)
  | n + 1, j => do
    let lo := j * t.total / k
    let wd := (j + 1) * t.total / k - lo
    let r := (philox t.seed (zx c.w[6] ++ word j)).toNat
    let (slot, s) ← s.descend c t.l t.l 1 (if wd = 0 then lo else lo + r % wd)
    let (rc, s) ← s.treeGet c (16 * slot) 8
    let p := rc % 2 ^ 32
    let (l, s) ← s.drawRecs c t k n (j + 1)
    .ok ((slot + rc / 2 ^ 32 * 2 ^ 32) :: (p + drawWeight t.beta.toNat t.pmin.toNat p * 2 ^ 32) :: l, s)

/-- TR_DRAW (R261): k stratified draws; TOTAL = 0 fails it (0x46). -/
def execTrDraw (n : Nat) (s : State) : Out :=
  s.treeEvent n 0x22 fun s c t =>
    if t.total = 0 then { after := s, why := some (.fail 0x46) }
    else treeRun s (do
      let k := c.num 5 % 1024 + 1
      let (l, s) ← s.drawRecs c t k k 0
      let (u, why) := s.resPuts c l
      .ok { after := u, why := why })

/-- Entries applied in array order: the tree and how many were discarded (R260). -/
def State.applyUpd (s : State) (c : Cmd) (t : Tree) : List (Nat × Nat × Nat) → Nat → Except EStop (Tree × Nat × State)
  | [], d => .ok (t, d, s)
  | (slot, gen, prio) :: l, d => do
    let (g, s) ← s.treeGet c (16 * slot + 4) 4
    if t.used ≤ slot ∨ g ≠ gen then s.applyUpd c t l (d + 1)
    else
      let (t, s) ← s.setLeaf c t slot prio gen
      s.applyUpd c t l d

/-- The entries of an update array from its 8-byte units. -/
def updEntries : List Nat → List (Nat × Nat × Nat)
  | a :: b :: l => (a % 2 ^ 32, a / 2 ^ 32, b % 2 ^ 32) :: updEntries l
  | _ => []

/-- TR_UPD (R260): applies n entries; a slot at or above 2^L fails it with nothing applied (0x47). -/
def execTrUpd (n : Nat) (s : State) : Out :=
  s.treeEvent n 0x23 fun s c t => treeRun s (do
    let (ws, s) ← s.resGets c (2 * (c.num 5 % 1024 + 1)) c.res
    let es := updEntries ws
    if es.any fun x => decide (2 ^ t.l ≤ x.1) then .error (.fail 0x47)
    else
      let (t, d, s) ← s.applyUpd c t es 0
      .ok { after := s.setTree { t with tstale := t.tstale + BitVec.ofNat 32 d }, res0 := d })

/-- TR_QRY (R260): the tree's registers, or the leaf record of slot w6. -/
def execTrQry (n : Nat) (s : State) : Out :=
  s.treeEvent n 0x24 fun s c t =>
    if c.num 5 % 2 = 0 then
      let (u, why) := s.resPuts c [t.total, t.pmin.toNat + t.ncount.toNat * 2 ^ 32, t.beta.toNat + t.tstale.toNat * 2 ^ 32,
        t.cursor.toNat + t.nextlsn.toNat * 2 ^ 32]
      { after := u, why := why }
    else if 2 ^ t.l ≤ c.num 6 then { after := s, why := some (.fail 0x47) }
    else treeRun s (do
      let (a, s) ← s.treeGet c (16 * c.num 6) 8
      let (b, s) ← s.treeGet c (16 * c.num 6 + 8) 8
      let (u, why) := s.resPuts c [a, b]
      .ok { after := u, why := why })

end Sys2Proof.Machine
end

