-- ==== Sys2Proof/Machine/Vector.lean ====
section
/-! DEFINITION. The vector groups VINT, VFP, VCMP, VPERM, VCVT and PRED (R210 to R221). Every source is read at issue, and
inactive elements are zeroed or kept by z (R15). -/

namespace Sys2Proof.Machine

/-- A vector result completes the word. -/
def State.vdone (s : State) (d : Reg) (x : VReg) : Out := .next (s.setV d x).advance

/-- A predicate result completes the word. -/
def State.pdone (s : State) (d : BitVec 3) (x : PReg) : Out := .next (s.setP d x).advance

/-- An element-wise integer form: f takes the width, x, y and the old d (R213). -/
def State.vint (s : State) (d a b : Reg) (p : BitVec 3) (e : BitVec 2) (z : BitVec 1) (f : Nat → Nat → Nat → Nat → Nat) : Out :=
  let w := ewidth e
  let va := s.v! a
  let vb := s.v! b
  let vd := s.v! d
  s.vdone d (merge w (s.p! p) (z == 1) vd fun i => f w (elem va w i) (elem vb w i) (elem vd w i))

/-- An integer reduction (R214). -/
def State.vred (s : State) (d a : Reg) (p : BitVec 3) (e : BitVec 2) (f : Nat → Nat → Nat → Nat) : Out :=
  let w := ewidth e
  s.vdone d (reduceTo (pairTree (f w) 6 (nodes (s.v! a) w (s.p! p))) w)

/-- VADD (R213): x + y. -/
def execVadd (d a b : Reg) (p : BitVec 3) (e : BitVec 2) (z : BitVec 1) (s : State) : Out :=
  s.vint d a b p e z fun _ x y _ => x + y

/-- VSUB (R213): x - y. -/
def execVsub (d a b : Reg) (p : BitVec 3) (e : BitVec 2) (z : BitVec 1) (s : State) : Out :=
  s.vint d a b p e z fun w x y _ => x + 2 ^ w - y

/-- VMUL (R213): the low half of the product. -/
def execVmul (d a b : Reg) (p : BitVec 3) (e : BitVec 2) (z : BitVec 1) (s : State) : Out :=
  s.vint d a b p e z fun _ x y _ => x * y

/-- VMULH (R213): the high half of the signed product. -/
def execVmulh (d a b : Reg) (p : BitVec 3) (e : BitVec 2) (z : BitVec 1) (s : State) : Out :=
  s.vint d a b p e z fun w x y _ => ofInt w (sintN x w * sintN y w / (2 ^ w : Nat))

/-- VMULHU (R213): the high half of the unsigned product. -/
def execVmulhu (d a b : Reg) (p : BitVec 3) (e : BitVec 2) (z : BitVec 1) (s : State) : Out :=
  s.vint d a b p e z fun w x y _ => x * y / 2 ^ w

/-- VMIN (R213): the signed minimum. -/
def execVmin (d a b : Reg) (p : BitVec 3) (e : BitVec 2) (z : BitVec 1) (s : State) : Out :=
  s.vint d a b p e z fun w x y _ => minS w x y

/-- VMAX (R213): the signed maximum. -/
def execVmax (d a b : Reg) (p : BitVec 3) (e : BitVec 2) (z : BitVec 1) (s : State) : Out :=
  s.vint d a b p e z fun w x y _ => maxS w x y

/-- VMINU (R213): the unsigned minimum. -/
def execVminu (d a b : Reg) (p : BitVec 3) (e : BitVec 2) (z : BitVec 1) (s : State) : Out :=
  s.vint d a b p e z fun _ x y _ => minU x y

/-- VMAXU (R213): the unsigned maximum. -/
def execVmaxu (d a b : Reg) (p : BitVec 3) (e : BitVec 2) (z : BitVec 1) (s : State) : Out :=
  s.vint d a b p e z fun _ x y _ => maxU x y

/-- VAND (R213): bitwise AND. -/
def execVand (d a b : Reg) (p : BitVec 3) (e : BitVec 2) (z : BitVec 1) (s : State) : Out :=
  s.vint d a b p e z fun _ x y _ => x &&& y

/-- VOR (R213): bitwise OR. -/
def execVor (d a b : Reg) (p : BitVec 3) (e : BitVec 2) (z : BitVec 1) (s : State) : Out :=
  s.vint d a b p e z fun _ x y _ => x ||| y

/-- VXOR (R213): bitwise XOR. -/
def execVxor (d a b : Reg) (p : BitVec 3) (e : BitVec 2) (z : BitVec 1) (s : State) : Out :=
  s.vint d a b p e z fun _ x y _ => x ^^^ y

/-- VSLL (R213): x shifted left by UInt(y) mod w. -/
def execVsll (d a b : Reg) (p : BitVec 3) (e : BitVec 2) (z : BitVec 1) (s : State) : Out :=
  s.vint d a b p e z fun w x y _ => x * 2 ^ (y % w)

/-- VSRL (R213): x shifted right with zeros. -/
def execVsrl (d a b : Reg) (p : BitVec 3) (e : BitVec 2) (z : BitVec 1) (s : State) : Out :=
  s.vint d a b p e z fun w x y _ => x / 2 ^ (y % w)

/-- VSRA (R213): x shifted right with sign copies. -/
def execVsra (d a b : Reg) (p : BitVec 3) (e : BitVec 2) (z : BitVec 1) (s : State) : Out :=
  s.vint d a b p e z fun w x y _ => ofInt w (sintN x w / (2 ^ (y % w) : Nat))

/-- VADDS (R213): the signed sum, clamped. -/
def execVadds (d a b : Reg) (p : BitVec 3) (e : BitVec 2) (z : BitVec 1) (s : State) : Out :=
  s.vint d a b p e z fun w x y _ => ofInt w (clampI (-(2 ^ (w - 1) : Nat)) ((2 ^ (w - 1) : Nat) - 1) (sintN x w + sintN y w))

/-- VADDSU (R213): the unsigned sum, clamped. -/
def execVaddsu (d a b : Reg) (p : BitVec 3) (e : BitVec 2) (z : BitVec 1) (s : State) : Out :=
  s.vint d a b p e z fun w x y _ => Nat.min (x + y) (2 ^ w - 1)

/-- VSUBS (R213): the signed difference, clamped. -/
def execVsubs (d a b : Reg) (p : BitVec 3) (e : BitVec 2) (z : BitVec 1) (s : State) : Out :=
  s.vint d a b p e z fun w x y _ => ofInt w (clampI (-(2 ^ (w - 1) : Nat)) ((2 ^ (w - 1) : Nat) - 1) (sintN x w - sintN y w))

/-- VSUBSU (R213): the unsigned difference, clamped at 0. -/
def execVsubsu (d a b : Reg) (p : BitVec 3) (e : BitVec 2) (z : BitVec 1) (s : State) : Out :=
  s.vint d a b p e z fun _ x y _ => x - y

/-- VABS (R213): the magnitude modulo 2^w. -/
def execVabs (d a : Reg) (p : BitVec 3) (e : BitVec 2) (z : BitVec 1) (s : State) : Out :=
  s.vint d a a p e z fun w x _ _ => (sintN x w).natAbs

/-- VMAC (R213): d + x y. -/
def execVmac (d a b : Reg) (p : BitVec 3) (e : BitVec 2) (z : BitVec 1) (s : State) : Out :=
  s.vint d a b p e z fun _ x y acc => acc + x * y

/-- VDOT4 (R213): each 32-bit lane of d plus the four signed byte products. -/
def execVdot4 (d a b : Reg) (p : BitVec 3) (z : BitVec 1) (s : State) : Out :=
  let va := s.v! a
  let vb := s.v! b
  let vd := s.v! d
  s.vdone d (merge 32 (s.p! p) (z == 1) vd fun i =>
    ofInt 32 ((elem vd 32 i : Int) + foldNat (fun t k => t + sintN (elem va 8 k) 8 * sintN (elem vb 8 k) 8) 0 (4 * i) 4))

/-- VREDADD (R214): the sum of the active elements, to element 0. -/
def execVredadd (d a : Reg) (p : BitVec 3) (e : BitVec 2) (s : State) : Out :=
  s.vred d a p e (fun w x y => (x + y) % 2 ^ w)

/-- VREDMIN (R214): the signed minimum of the active elements, to element 0. -/
def execVredmin (d a : Reg) (p : BitVec 3) (e : BitVec 2) (s : State) : Out :=
  s.vred d a p e (minS)

/-- VREDMAX (R214): the signed maximum of the active elements, to element 0. -/
def execVredmax (d a : Reg) (p : BitVec 3) (e : BitVec 2) (s : State) : Out :=
  s.vred d a p e (maxS)

/-- VREDMINU (R214): the unsigned minimum of the active elements, to element 0. -/
def execVredminu (d a : Reg) (p : BitVec 3) (e : BitVec 2) (s : State) : Out :=
  s.vred d a p e (fun _ => minU)

/-- VREDMAXU (R214): the unsigned maximum of the active elements, to element 0. -/
def execVredmaxu (d a : Reg) (p : BitVec 3) (e : BitVec 2) (s : State) : Out :=
  s.vred d a p e (fun _ => maxU)

/-- VBCAST (R213): s(va) to every element. -/
def execVbcast (d a : Reg) (e : BitVec 2) (s : State) : Out :=
  let x := (s.s! a).toNat
  s.vdone d (ofElems (ewidth e) fun _ => x)

/-! ### Floating point (R215) -/

/-- The format of a VFP word: et 00 FP32, et 01 FP16 or BF16 (R69). -/
def vfmt (e f : BitVec 1) : Fmt := if e = 0 then fp32 else if f = 1 then bf16 else fp16

/-- The flags of the active elements (R212). -/
def activeFlags (p : PReg) (w : Nat) (f : Nat → BitVec 5) : BitVec 5 :=
  foldNat (fun acc i => if active p w i then acc ||| f i else acc) 0 0 (ecount w)

/-- An element-wise result with flags: r gives element i, rounded (R212, R215). -/
def State.vfp (s : State) (d : Reg) (w : Nat) (p : PReg) (z : Bool) (old : VReg) (r : Nat → Rounded) : Out :=
  (s.addFlags (activeFlags p w fun i => (r i).2)).vdone d (merge w p z old fun i => (r i).1)

/-- A two-operand VFP form. -/
def State.vfp2 (s : State) (d a b : Reg) (p : BitVec 3) (e z f : BitVec 1) (op : Fmt → Mode → Nat → Nat → Nat → Rounded) : Out :=
  let fm := vfmt e f
  let va := s.v! a
  let vb := s.v! b
  let vd := s.v! d
  let mode := s.me.ctl.frm
  s.vfp d fm.w (s.p! p) (z == 1) vd fun i => op fm mode (elem va fm.w i) (elem vb fm.w i) (elem vd fm.w i)

/-- An FP reduction: every Combine rounds and raises flags on its own (R214). -/
def State.vfred (s : State) (d a : Reg) (p : BitVec 3) (e f : BitVec 1) (op : Fmt → Mode → Nat → Nat → Rounded) : Out :=
  let fm := vfmt e f
  let mode := s.me.ctl.frm
  let leaves := (nodes (s.v! a) fm.w (s.p! p)).map fun o => o.map fun c => ((c, fNone) : Rounded)
  let r := (pairTree (fun (x y : Rounded) => withFlags (op fm mode x.1 y.1) (x.2 ||| y.2)) 6 leaves).getD (0, fNone)
  (s.addFlags r.2).vdone d (reduceTo (some r.1) fm.w)

/-- VFADD (R215): x + y, each active element rounded once. -/
def execVfadd (d a b : Reg) (p : BitVec 3) (e z f : BitVec 1) (s : State) : Out :=
  s.vfp2 d a b p e z f (fun fm m x y _ => fpAdd fm m x y)

/-- VFSUB (R215): x - y, each active element rounded once. -/
def execVfsub (d a b : Reg) (p : BitVec 3) (e z f : BitVec 1) (s : State) : Out :=
  s.vfp2 d a b p e z f (fun fm m x y _ => fpSub fm m x y)

/-- VFMUL (R215): x times y, each active element rounded once. -/
def execVfmul (d a b : Reg) (p : BitVec 3) (e z f : BitVec 1) (s : State) : Out :=
  s.vfp2 d a b p e z f (fun fm m x y _ => fpMul fm m x y)

/-- VFMA (R215): x times y plus d, each active element rounded once. -/
def execVfma (d a b : Reg) (p : BitVec 3) (e z f : BitVec 1) (s : State) : Out :=
  s.vfp2 d a b p e z f (fun fm m x y acc => fpFma fm m false x y acc)

/-- VFMS (R215): d minus x times y, each active element rounded once. -/
def execVfms (d a b : Reg) (p : BitVec 3) (e z f : BitVec 1) (s : State) : Out :=
  s.vfp2 d a b p e z f (fun fm m x y acc => fpFma fm m true x y acc)

/-- VFMIN (R215): as FMIN, each active element rounded once. -/
def execVfmin (d a b : Reg) (p : BitVec 3) (e z f : BitVec 1) (s : State) : Out :=
  s.vfp2 d a b p e z f (fun fm _ x y _ => fpMinMax fm false x y)

/-- VFMAX (R215): as FMAX, each active element rounded once. -/
def execVfmax (d a b : Reg) (p : BitVec 3) (e z f : BitVec 1) (s : State) : Out :=
  s.vfp2 d a b p e z f (fun fm _ x y _ => fpMinMax fm true x y)

/-- VFABS (R215): x with its sign bit cleared; no flag. -/
def execVfabs (d a : Reg) (p : BitVec 3) (e z f : BitVec 1) (s : State) : Out :=
  let fm := vfmt e f
  let va := s.v! a
  s.vdone d (merge fm.w (s.p! p) (z == 1) (s.v! d) fun i => let x := elem va fm.w i; fm.enc (false) (fm.mag x))

/-- VFNEG (R215): x with its sign bit inverted; no flag. -/
def execVfneg (d a : Reg) (p : BitVec 3) (e z f : BitVec 1) (s : State) : Out :=
  let fm := vfmt e f
  let va := s.v! a
  s.vdone d (merge fm.w (s.p! p) (z == 1) (s.v! d) fun i => let x := elem va fm.w i; fm.enc (!fm.neg x) (fm.mag x))

/-- VFREDADD (R214): the sum of the active elements, to element 0. -/
def execVfredadd (d a : Reg) (p : BitVec 3) (e f : BitVec 1) (s : State) : Out :=
  s.vfred d a p e f (fpAdd)

/-- VFREDMAX (R214): the maximum of the active elements, to element 0. -/
def execVfredmax (d a : Reg) (p : BitVec 3) (e f : BitVec 1) (s : State) : Out :=
  s.vfred d a p e f (fun fm _ => fpMinMax fm true)

/-- VFREDMIN (R214): the minimum of the active elements, to element 0. -/
def execVfredmin (d a : Reg) (p : BitVec 3) (e f : BitVec 1) (s : State) : Out :=
  s.vfred d a p e f (fun fm _ => fpMinMax fm false)

/-- VFDOT2 (R215): each FP32 lane of d plus two products, rounded once. -/
def execVfdot2 (d a b : Reg) (p : BitVec 3) (z f : BitVec 1) (s : State) : Out :=
  let fm := vfmt 1 f
  let va := s.v! a
  let vb := s.v! b
  let vd := s.v! d
  let mode := s.me.ctl.frm
  s.vfp d 32 (s.p! p) (z == 1) vd fun i =>
    fpDot2 fm mode (elem va 16 (2 * i)) (elem vb 16 (2 * i)) (elem va 16 (2 * i + 1)) (elem vb 16 (2 * i + 1)) (elem vd 32 i)

/-! ### Compares and predicates (R216, R217) -/

/-- An integer compare writes predicate pd. -/
def State.vcmp (s : State) (d : BitVec 3) (a b : Reg) (p : BitVec 3) (e : BitVec 2) (z : BitVec 1) (c : Nat → Nat → Nat → Bool) : Out :=
  let w := ewidth e
  let va := s.v! a
  let vb := s.v! b
  s.pdone d (mergeP w (s.p! p) (z == 1) (s.p! d) (cmpBit w fun i => c w (elem va w i) (elem vb w i)))

/-- An FP compare writes predicate pd and raises the flags of the active elements. -/
def State.vfcmp (s : State) (d : BitVec 3) (a b : Reg) (p : BitVec 3) (z : BitVec 1) (fm : Fmt) (c : Nat → Nat → Bool × BitVec 5) : Out :=
  let w := fm.w
  let va := s.v! a
  let vb := s.v! b
  let r := fun i => c (elem va w i) (elem vb w i)
  (s.addFlags (activeFlags (s.p! p) w fun i => (r i).2)).pdone d (mergeP w (s.p! p) (z == 1) (s.p! d) (cmpBit w fun i => (r i).1))

/-- VCEQ (R216): pd bits say where x = y. -/
def execVceq (d : BitVec 3) (a b : Reg) (p : BitVec 3) (e : BitVec 2) (z : BitVec 1) (s : State) : Out :=
  s.vcmp d a b p e z (fun _ x y => x == y)

/-- VCNE (R216): pd bits say where x differs from y. -/
def execVcne (d : BitVec 3) (a b : Reg) (p : BitVec 3) (e : BitVec 2) (z : BitVec 1) (s : State) : Out :=
  s.vcmp d a b p e z (fun _ x y => x != y)

/-- VCLT (R216): pd bits say where SInt(x) < SInt(y). -/
def execVclt (d : BitVec 3) (a b : Reg) (p : BitVec 3) (e : BitVec 2) (z : BitVec 1) (s : State) : Out :=
  s.vcmp d a b p e z (fun w x y => decide (sintN x w < sintN y w))

/-- VCLE (R216): pd bits say where SInt(x) <= SInt(y). -/
def execVcle (d : BitVec 3) (a b : Reg) (p : BitVec 3) (e : BitVec 2) (z : BitVec 1) (s : State) : Out :=
  s.vcmp d a b p e z (fun w x y => decide (sintN x w ≤ sintN y w))

/-- VCLTU (R216): pd bits say where UInt(x) < UInt(y). -/
def execVcltu (d : BitVec 3) (a b : Reg) (p : BitVec 3) (e : BitVec 2) (z : BitVec 1) (s : State) : Out :=
  s.vcmp d a b p e z (fun _ x y => decide (x < y))

/-- VCLEU (R216): pd bits say where UInt(x) <= UInt(y). -/
def execVcleu (d : BitVec 3) (a b : Reg) (p : BitVec 3) (e : BitVec 2) (z : BitVec 1) (s : State) : Out :=
  s.vcmp d a b p e z (fun _ x y => decide (x ≤ y))

/-- VFCEQ (R216): pd bits say where x = y. -/
def execVfceq (d : BitVec 3) (a b : Reg) (p : BitVec 3) (e z : BitVec 1) (s : State) : Out :=
  let fm := vfmt e 0
  s.vfcmp d a b p z fm (fpCompare fm 0)

/-- VFCLT (R216): pd bits say where x < y. -/
def execVfclt (d : BitVec 3) (a b : Reg) (p : BitVec 3) (e z : BitVec 1) (s : State) : Out :=
  let fm := vfmt e 0
  s.vfcmp d a b p z fm (fpCompare fm 1)

/-- VFCLE (R216): pd bits say where x <= y. -/
def execVfcle (d : BitVec 3) (a b : Reg) (p : BitVec 3) (e z : BitVec 1) (s : State) : Out :=
  let fm := vfmt e 0
  s.vfcmp d a b p z fm (fpCompare fm 2)

/-- VFCUN (R216): pd bits say where x or y is NaN. -/
def execVfcun (d : BitVec 3) (a b : Reg) (p : BitVec 3) (e z : BitVec 1) (s : State) : Out :=
  let fm := vfmt e 0
  s.vfcmp d a b p z fm (fpUnordered fm)

/-- VFCEQBF (R216): pd bits say where x = y in BF16. -/
def execVfceqBf (d : BitVec 3) (a b : Reg) (p : BitVec 3) (z : BitVec 1) (s : State) : Out :=
  s.vfcmp d a b p z bf16 (fpCompare bf16 0)

/-- VFCLTBF (R216): pd bits say where x < y in BF16. -/
def execVfcltBf (d : BitVec 3) (a b : Reg) (p : BitVec 3) (z : BitVec 1) (s : State) : Out :=
  s.vfcmp d a b p z bf16 (fpCompare bf16 1)

/-- VFCLEBF (R216): pd bits say where x <= y in BF16. -/
def execVfcleBf (d : BitVec 3) (a b : Reg) (p : BitVec 3) (z : BitVec 1) (s : State) : Out :=
  s.vfcmp d a b p z bf16 (fpCompare bf16 2)

/-- VFCUNBF (R216): pd bits say where x or y is NaN in BF16. -/
def execVfcunBf (d : BitVec 3) (a b : Reg) (p : BitVec 3) (z : BitVec 1) (s : State) : Out :=
  s.vfcmp d a b p z bf16 (fpUnordered bf16)

/-- PAND (R217): pa AND pb. -/
def execPand (d a b : BitVec 3) (s : State) : Out :=
  s.pdone d (s.p! a &&& s.p! b)

/-- POR (R217): pa OR pb. -/
def execPor (d a b : BitVec 3) (s : State) : Out :=
  s.pdone d (s.p! a ||| s.p! b)

/-- PXOR (R217): pa XOR pb. -/
def execPxor (d a b : BitVec 3) (s : State) : Out :=
  s.pdone d (s.p! a ^^^ s.p! b)

/-- PANDN (R217): pa AND NOT pb. -/
def execPandn (d a b : BitVec 3) (s : State) : Out :=
  s.pdone d (s.p! a &&& ~~~(s.p! b))

/-- PNOT (R217): NOT pa. -/
def execPnot (d a : BitVec 3) (s : State) : Out :=
  s.pdone d (~~~(s.p! a))

/-- PFIRST (R217): the lowest set bit of pa alone. -/
def execPfirst (d a : BitVec 3) (s : State) : Out :=
  s.pdone d (s.p! a &&& (0 - s.p! a))

/-- PCNT (R217): the number of set bits of pa. -/
def execPcnt (d : Reg) (a : BitVec 3) (s : State) : Out :=
  s.done d (word (popc (s.p! a)))

/-- PSET (R217): s(a)[15:0] to pd. -/
def execPset (d : BitVec 3) (a : Reg) (s : State) : Out :=
  s.pdone d ((s.s! a).truncate 16)

/-- PGET (R217): pa, zero-extended. -/
def execPget (d : Reg) (a : BitVec 3) (s : State) : Out :=
  s.done d (zx (s.p! a))

/-! ### Permutes (R218) -/

/-- A permute: element i of the result from src i, merged by the predicate. -/
def State.vperm (s : State) (d : Reg) (p : BitVec 3) (e : BitVec 2) (z : BitVec 1) (src : Nat → Nat → Nat) : Out :=
  let w := ewidth e
  s.vdone d (merge w (s.p! p) (z == 1) (s.v! d) (src w))

/-- VPERM (R218): element i is element UInt(y) mod n of va. -/
def execVperm (d a b : Reg) (p : BitVec 3) (e : BitVec 2) (z : BitVec 1) (s : State) : Out :=
  let va := s.v! a
  let vb := s.v! b
  s.vperm d p e z fun w i => elem va w (elem vb w i % ecount w)

/-- VSLDUP (R218): elements slide up by s(vb). -/
def execVsldup (d a b : Reg) (p : BitVec 3) (e : BitVec 2) (z : BitVec 1) (s : State) : Out :=
  let va := s.v! a
  let k := (s.s! b).toNat
  s.vperm d p e z fun w i => if k ≤ i then elem va w (i - k) else 0

/-- VSLDDN (R218): elements slide down by s(vb). -/
def execVslddn (d a b : Reg) (p : BitVec 3) (e : BitVec 2) (z : BitVec 1) (s : State) : Out :=
  let va := s.v! a
  let k := (s.s! b).toNat
  s.vperm d p e z fun w i => if i + k < ecount w then elem va w (i + k) else 0

/-- VZIPLO (R218): the lower halves interleave. -/
def execVziplo (d a b : Reg) (p : BitVec 3) (e : BitVec 2) (z : BitVec 1) (s : State) : Out :=
  let va := s.v! a
  let vb := s.v! b
  s.vperm d p e z fun w i => if i % 2 = 0 then elem va w (i / 2) else elem vb w (i / 2)

/-- VZIPHI (R218): the upper halves interleave. -/
def execVziphi (d a b : Reg) (p : BitVec 3) (e : BitVec 2) (z : BitVec 1) (s : State) : Out :=
  let va := s.v! a
  let vb := s.v! b
  s.vperm d p e z fun w i => let k := ecount w / 2 + i / 2; if i % 2 = 0 then elem va w k else elem vb w k

/-- VUZPE (R218): the even elements of va, then of vb. -/
def execVuzpe (d a b : Reg) (p : BitVec 3) (e : BitVec 2) (z : BitVec 1) (s : State) : Out :=
  let va := s.v! a
  let vb := s.v! b
  s.vperm d p e z fun w i => let h := ecount w / 2; if i < h then elem va w (2 * i) else elem vb w (2 * (i - h))

/-- VUZPO (R218): the odd elements of va, then of vb. -/
def execVuzpo (d a b : Reg) (p : BitVec 3) (e : BitVec 2) (z : BitVec 1) (s : State) : Out :=
  let va := s.v! a
  let vb := s.v! b
  s.vperm d p e z fun w i => let h := ecount w / 2; if i < h then elem va w (2 * i + 1) else elem vb w (2 * (i - h) + 1)

/-- VCOMPR (R218): the active elements of va packed to the bottom, the rest zero. -/
def execVcompr (d a : Reg) (p : BitVec 3) (e : BitVec 2) (s : State) : Out :=
  let w := ewidth e
  let va := s.v! a
  let sel := (List.range (ecount w)).filter (active (s.p! p) w)
  s.vdone d (ofElems w fun i => match sel[i]? with
    | some k => elem va w k
    | none => 0)

/-- VEXPND (R218): the j-th active element of vd is element j of va. -/
def execVexpnd (d a : Reg) (p : BitVec 3) (e : BitVec 2) (z : BitVec 1) (s : State) : Out :=
  let va := s.v! a
  let pr := s.p! p
  s.vperm d p e z fun w i => elem va w (((List.range i).filter (active pr w)).length)

/-- VINS (R218): element s(vb) of vd := s(a); none when it is not below n. -/
def execVins (d a b : Reg) (e : BitVec 2) (s : State) : Out :=
  let w := ewidth e
  let k := (s.s! b).toNat
  let x := (s.s! a).toNat
  let vd := s.v! d
  s.vdone d (ofElems w fun i => if i = k then x else elem vd w i)

/-- VEXT (R218): element k of va, zero-extended. -/
def execVext (d a : Reg) (k : BitVec 4) (e : BitVec 2) (s : State) : Out :=
  s.done d (word (elem (s.v! a) (ewidth e) k.toNat))

/-! ### Conversions (R219 to R221) -/

/-- VCVTFI (R219): FP32 to int32, or FP16 to int16. -/
def execVcvtfi (d a : Reg) (p : BitVec 3) (e z : BitVec 1) (s : State) : Out :=
  let fm := vfmt e 0
  let va := s.v! a
  let mode := s.me.ctl.frm
  s.vfp d fm.w (s.p! p) (z == 1) (s.v! d) fun i =>
    let (x, fl) := toIntRange mode (-(2 ^ (fm.w - 1) : Nat)) ((2 ^ (fm.w - 1) : Nat) - 1) (fm.val (elem va fm.w i))
    (ofInt fm.w x, fl)

/-- VCVTIF (R219): int32 to FP32, or int16 to FP16. -/
def execVcvtif (d a : Reg) (p : BitVec 3) (e z : BitVec 1) (s : State) : Out :=
  let fm := vfmt e 0
  let va := s.v! a
  let mode := s.me.ctl.frm
  s.vfp d fm.w (s.p! p) (z == 1) (s.v! d) fun i => roundFP fm mode (intVal (sintN (elem va fm.w i) fm.w))

/-- A widening conversion from part k of va, 16 elements of the narrow format, to FP32 lanes (R219). -/
def State.vwiden (s : State) (d a : Reg) (src : Fmt) (k : Nat) (p : BitVec 3) (z : BitVec 1) : Out :=
  let va := s.v! a
  let mode := s.me.ctl.frm
  s.vfp d 32 (s.p! p) (z == 1) (s.v! d) fun i => fpConvert src fp32 mode (elem va src.w (16 * k + i))

/-- A narrowing conversion of the FP32 lanes into part k of vd; the rest of vd keeps its value (R71, R219). -/
def State.vnarrow (s : State) (d a : Reg) (dst : Fmt) (k : Nat) (p : BitVec 3) (z : BitVec 1) : Out :=
  let va := s.v! a
  let vd := s.v! d
  let pr := s.p! p
  let r := fun i => fpConvert fp32 dst s.me.ctl.frm (elem va 32 i)
  (s.addFlags (activeFlags pr 32 fun i => (r i).2)).vdone d (ofElems dst.w fun j =>
    if j / 16 = k then (if active pr 32 (j % 16) then (r (j % 16)).1 else if z = 1 then 0 else elem vd dst.w j)
    else elem vd dst.w j)

/-- VCVTWH (R219): half h of FP16 elements widened. -/
def execVcvtwh (d a : Reg) (h : BitVec 1) (p : BitVec 3) (z : BitVec 1) (s : State) : Out :=
  s.vwiden d a fp16 h.toNat p z

/-- VCVTWB (R219): half h of BF16 elements widened. -/
def execVcvtwb (d a : Reg) (h : BitVec 1) (p : BitVec 3) (z : BitVec 1) (s : State) : Out :=
  s.vwiden d a bf16 h.toNat p z

/-- VCVTNH (R219): FP32 lanes rounded to FP16 in half h of vd. -/
def execVcvtnh (d a : Reg) (h : BitVec 1) (p : BitVec 3) (z : BitVec 1) (s : State) : Out :=
  s.vnarrow d a fp16 h.toNat p z

/-- VCVTNB (R219): FP32 lanes rounded to BF16 in half h of vd. -/
def execVcvtnb (d a : Reg) (h : BitVec 1) (p : BitVec 3) (z : BitVec 1) (s : State) : Out :=
  s.vnarrow d a bf16 h.toNat p z

/-- VCVTW8E4 (R219): quarter q of E4M3 bytes widened. -/
def execVcvtw8e4 (d a : Reg) (q : BitVec 2) (p : BitVec 3) (z : BitVec 1) (s : State) : Out :=
  s.vwiden d a e4m3 q.toNat p z

/-- VCVTW8E5 (R219): quarter q of E5M2 bytes widened. -/
def execVcvtw8e5 (d a : Reg) (q : BitVec 2) (p : BitVec 3) (z : BitVec 1) (s : State) : Out :=
  s.vwiden d a e5m2 q.toNat p z

/-- VCVTN8E4 (R219): FP32 lanes rounded to E4M3 in quarter q of vd. -/
def execVcvtn8e4 (d a : Reg) (q : BitVec 2) (p : BitVec 3) (z : BitVec 1) (s : State) : Out :=
  s.vnarrow d a e4m3 q.toNat p z

/-- VCVTN8E5 (R219): FP32 lanes rounded to E5M2 in quarter q of vd. -/
def execVcvtn8e5 (d a : Reg) (q : BitVec 2) (p : BitVec 3) (z : BitVec 1) (s : State) : Out :=
  s.vnarrow d a e5m2 q.toNat p z

/-- floor(log2 |y|) of a finite nonzero value (R117). -/
def Val.ex : Val → Option Int
  | .fin _ n x => if n = 0 then none else some ((Nat.log2 n : Int) + x)
  | _ => none

/-- The largest and smallest exponent of a set, with one more element. -/
def spread (acc : Option (Int × Int)) (v : Val) : Option (Int × Int) :=
  match acc, v.ex with
  | some (lo, hi), some e => some (min lo e, max hi e)
  | none, some e => some (e, e)
  | acc, none => acc

/-- R117: the block starts of a group: elements from k on, with the current block's start and exponents. -/
def blockStarts (r : Int) : Nat → Nat → Option (Int × Int) → List Val → List Nat
  | _, _, _, [] => []
  | k, start, acc, v :: l =>
    let acc' := spread acc v
    let cut := decide (start + 8 ≤ k) && decide (k ≤ 56) && (match acc' with
      | some (lo, hi) => decide (r < hi - lo)
      | none => false)
    if cut then k :: blockStarts r (k + 1) k (spread none v) l
    else blockStarts r (k + 1) start acc' l

/-- S of a block (R117). -/
def blockScale (p : Nat) (l : List Val) : Int :=
  match l.foldl spread none with
  | none => -127
  | some (_, hi) => max (hi - ((p : Int) - 2)) (-127)

/-- The code of one element at scale S and the flag it raises (R117). -/
def blockCode (p : Nat) (sc : Int) : Val → Int × BitVec 5
  | .nan => (0, fInvalid)
  | .inf neg => (if neg then -(2 ^ (p - 1) : Nat) else (2 ^ (p - 1) : Nat) - 1, fOverflow)
  | .fin neg n x =>
    let (q, lost) := roundInt rne neg n (x - sc)
    let c := clampI (-(2 ^ (p - 1) : Nat)) ((2 ^ (p - 1) : Nat) - 1) q
    (c, flagIf (lost || c != q) fInexact)

/-- The FP32 lanes of n registers from a on, in order. -/
def State.lanesFrom (s : State) (a : Reg) (n : Nat) : List Nat :=
  (List.range (16 * n)).map fun k => elem (s.v! (a + BitVec.ofNat 5 (k / 16))) 32 (k % 16)

/-- Plane word j of 64 codes: bit i is bit j of code i (R108). -/
def planeWord (qs : List Int) (j : Nat) : Nat :=
  build 1 (fun i => ofInt 64 (qs.getD i 0) / 2 ^ j) 64

/-- VQBLK (R117, R220): one group of 64 FP32 elements to plane words in vd and vd + 1 and the scale record in vd + 2. -/
def execVqblk (d a r : Reg) (s : State) : Out :=
  let p := Nat.max (fld s.me.ctl.fmta 0 4 + 1) 2
  let vs := (s.lanesFrom a 4).map fp32.val
  let starts := 0 :: blockStarts (r.toNat : Int) 1 0 (spread none (vs.headD .nan)) (vs.drop 1)
  let ends := starts.drop 1 ++ [64]
  let blocks := (starts.zip ends).map fun (b, e) => (b, (vs.drop b).take (e - b))
  let scales := blocks.map fun b => blockScale p b.2
  let coded := (blocks.zip scales).flatMap fun b => b.1.2.map (blockCode p b.2)
  let qs := coded.map (·.1)
  let fl := coded.foldl (fun f c => f ||| c.2) fNone
  let bitmap := starts.foldl (fun n k => n + 2 ^ k) 0
  let rec64 := bitmap + 2 ^ 64 * natOf (scales.map fun sc => BitVec.ofNat 8 (sc + 127).toNat)
  let plane := fun j => if j < p then planeWord qs j else 0
  let s1 := (s.setV d (ofElems 64 plane)).setV (d + 1) (ofElems 64 fun j => plane (j + 8))
  .next ((s1.setV (d + 2) (BitVec.ofNat 512 rec64)).addFlags fl).advance

/-- The element format of a VQMX target, its emaxe, and the code of its largest finite magnitude (R119, R221); 2 is MXINT8. -/
def mxEmax (t : Nat) : Int := if t = 0 then 8 else if t = 1 then 15 else 0

/-- The code of one element of an MX block with scale exponent sc, and its flags (R119): those of RoundFP for MXFP8 (R104), overflow for an
infinity. -/
def mxCode (t : Nat) (sc : Int) : Val → Nat × BitVec 5
  | .nan => (0, 0)
  | .inf neg =>
    if t = 2 then (if neg then 0x81 else 0x7F, fOverflow)
    else let f := if t = 0 then e4m3 else e5m2
         (f.enc neg f.maxCode, fOverflow)
  | .fin neg n x =>
    if t = 2 then
      let (q, lost) := roundInt rne neg n (x + 6 - sc)
      let c := clampI (-127) 127 q
      (ofInt 8 c, flagIf (lost || c != q) fInexact)
    else
      let f := if t = 0 then e4m3 else e5m2
      let (c, fl) := roundFP f rne (.fin neg n (x - sc))
      (if f.maxCode < f.mag c then f.enc neg f.maxCode else c, fl)

/-- The largest exponent among the finite nonzero values. -/
def topExp (l : List Val) : Option Int := (l.foldl spread none).map (·.2)

/-- VQMX (R119, R221): one 32-element MX block to bytes 0 to 31 of vd and its scale to byte 32; each infinity counts in MXOVF. DESIGN CHOICE: in a
block that holds a NaN no infinity counts or raises overflow (log entry 72). -/
def execVqmx (d a : Reg) (t : BitVec 2) (s : State) : Out :=
  let vs := (s.lanesFrom a 2).map fp32.val
  let infs := (vs.filter fun v => v == .inf true || v == .inf false).length
  if vs.any (· == .nan) then
    .next ((s.setV d (BitVec.ofNat 512 (0xFF * 2 ^ 256))).addFlags fInvalid).advance
  else
    let x : Nat := match topExp vs with
      | none => 0
      | some e => (max (e - mxEmax t.toNat) (-127) + 127).toNat
    let cs := vs.map (mxCode t.toNat ((x : Int) - 127))
    let v := natOf (cs.map fun c => BitVec.ofNat 8 c.1) + x * 2 ^ 256
    let s1 := (s.setV d (BitVec.ofNat 512 v)).addFlags (cs.foldl (fun f c => f ||| c.2) 0)
    let n := Nat.min 0xFFFFFFFF (s1.me.ctl.mxovf.toNat + infs)
    .next (s1.setCtl s1.cur { s1.me.ctl with mxovf := BitVec.ofNat 32 n }).advance

end Sys2Proof.Machine
end

