-- ==== Sys2Proof/Machine/VectorMem.lean ====
section
/-! DEFINITION. Vector loads and stores (R222 to R224) and the special-function units (R228, R229). -/

namespace Sys2Proof.Machine

/-! ### Addresses and checks (R222, R223) -/

/-- The addresses of the active elements of w bits, in increasing element order. -/
def vAddrs (w : Nat) (p : PReg) (f : Nat → Word) : List (Nat × Word) :=
  ((List.range (ecount w)).filter (active p w)).map fun i => (i, f i)

/-- The contiguous form: b + i * w/8. -/
def contigAddr (b : Word) (w i : Nat) : Word := b + word (i * (w / 8))

/-- The indexed form: b + SInt(y) * w/8 with y the element of the index vector. -/
def indexAddr (b : Word) (x : VReg) (w i : Nat) : Word := b + wordI (sintN (elem x w i) w * (w / 8 : Nat))

/-- The chunk length of the strided forms (R222). -/
def chunkLen (x : Word) (w : Nat) : Nat :=
  let c := match fld x 32 2 with
    | 1 => 2
    | 2 => 4
    | _ => 1
  if 128 < c * w then 128 / w else c

/-- The strided form: b + (i div c) * SInt(x[31:0]) + (i mod c) * w/8. -/
def strideAddr (b x : Word) (w i : Nat) : Word :=
  let c := chunkLen x w
  b + wordI (((i / c : Nat) : Int) * sintN (fld x 0 32) 32) + word (i % c * (w / 8))

/-- What checking every element gives. -/
inductive VChecked where
  | ok (l : List (Nat × Word × RegionEnt × Place)) (s : State)
  | stop (s : State)

/-- Check element accesses of n bytes in order; the first that faults or parks ends it (R223). -/
def State.checkAll (s : State) (n : Nat) (need : Need) (ak : Byte) :
    List (Nat × Word) → List (Nat × Word × RegionEnt × Place) → VChecked
  | [], acc => .ok acc.reverse s
  | (i, va) :: l, acc =>
    match s.check s.cur va n n need ak with
    | .stop t => .stop t
    | .ok r p t => t.checkAll n need ak l ((i, va, r, p) :: acc)

/-- What reading every element gives: the values by element. -/
inductive VLoaded where
  | vals (l : List (Nat × Nat)) (s : State)
  | stop (s : State)

/-- Read the checked elements in increasing order: a place is read once, for every element that names it (R224). seen holds what has been read. -/
def State.readAll (s : State) (n : Nat) : List (Nat × Word × RegionEnt × Place) → List (Place × Nat) → List (Nat × Nat) → VLoaded
  | [], _, acc => .vals acc s
  | (i, va, r, p) :: l, seen, acc =>
    match seen.lookup p with
    | some x => s.readAll n l seen ((i, x) :: acc)
    | none =>
      match s.readPlace s.cur r p va n with
      | .stop t => .stop t
      | .val x t => t.readAll n l ((p, x) :: seen) ((i, x) :: acc)

/-- Write the checked elements in increasing order (R224); none where a control window stalls. -/
def State.writeAll (s : State) (n : Nat) (f : Nat → Nat) : List (Nat × Word × RegionEnt × Place) → Option State
  | [] => some s
  | (i, _, _, p) :: l =>
    match s.writePlace s.cur p n (f i) with
    | some t => t.writeAll n f l
    | none => none

/-- A vector load of the elements at these addresses into vd (R222 to R224). DESIGN CHOICE: with z = 1 and no active element it still zeroes vd, as
R15 and R211 say of inactive elements (log entry 74). -/
def State.vload (s : State) (d : Reg) (p : PReg) (w : Nat) (z : Bool) (l : List (Nat × Word)) : Out :=
  match s.checkAll (w / 8) .load akLoad l [] with
  | .stop t => .next t
  | .ok m t =>
    match t.readAll (w / 8) m [] [] with
    | .stop u => .next u
    | .vals xs u => .next (u.setV d (merge w p z (s.v! d) fun i => (xs.lookup i).getD 0)).advance

/-- A vector store of elements of vt to these addresses (R222 to R224). -/
def State.vstore (s : State) (t : Reg) (w : Nat) (l : List (Nat × Word)) : Out :=
  match s.checkAll (w / 8) .store akStore l [] with
  | .stop u => .next u
  | .ok m u =>
    match u.writeAll (w / 8) (elem (s.v! t) w) m with
    | some x => .next x.advance
    | none => .next (s.park s.cur .device)

/-! ### VMEM -/

/-- VLD (R222): element i from b + i * w/8. -/
def execVld (d a : Reg) (p : BitVec 3) (e : BitVec 2) (z : BitVec 1) (s : State) : Out :=
  let w := ewidth e
  s.vload d (s.p! p) w (z == 1) (vAddrs w (s.p! p) (contigAddr (s.s! a) w))

/-- VST (R222): element i to b + i * w/8. -/
def execVst (d a : Reg) (p : BitVec 3) (e : BitVec 2) (s : State) : Out :=
  let w := ewidth e
  s.vstore d w (vAddrs w (s.p! p) (contigAddr (s.s! a) w))

/-- VLDX (R222): element i from b + SInt(y) * w/8. -/
def execVldx (d a b : Reg) (p : BitVec 3) (e : BitVec 2) (z : BitVec 1) (s : State) : Out :=
  let w := ewidth e
  s.vload d (s.p! p) w (z == 1) (vAddrs w (s.p! p) (indexAddr (s.s! a) (s.v! b) w))

/-- VSTX (R222): element i to b + SInt(y) * w/8; the higher element's bytes remain (R224). -/
def execVstx (d a b : Reg) (p : BitVec 3) (e : BitVec 2) (s : State) : Out :=
  let w := ewidth e
  s.vstore d w (vAddrs w (s.p! p) (indexAddr (s.s! a) (s.v! b) w))

/-- VLDB (R222): one access at b, its value in every active element. -/
def execVldb (d a : Reg) (p : BitVec 3) (e : BitVec 2) (z : BitVec 1) (s : State) : Out :=
  let w := ewidth e
  let q := s.p! p
  let one := (vAddrs w q fun _ => s.s! a).take 1
  match s.checkAll (w / 8) .load akLoad one [] with
  | .stop t => .next t
  | .ok m t =>
    match t.readAll (w / 8) m [] [] with
    | .stop u => .next u
    | .vals xs u => .next (u.setV d (merge w q (z == 1) (s.v! d) fun _ => (xs.head?.map (·.2)).getD 0)).advance

/-- VLDS (R222): chunks of elements at a stride. -/
def execVlds (d a b : Reg) (p : BitVec 3) (e : BitVec 2) (z : BitVec 1) (s : State) : Out :=
  let w := ewidth e
  s.vload d (s.p! p) w (z == 1) (vAddrs w (s.p! p) (strideAddr (s.s! a) (s.s! b) w))

/-- VSTS (R222): chunks of elements at a stride. -/
def execVsts (d a b : Reg) (p : BitVec 3) (e : BitVec 2) (s : State) : Out :=
  let w := ewidth e
  s.vstore d w (vAddrs w (s.p! p) (strideAddr (s.s! a) (s.s! b) w))

/-! ### Special-function units (R228, R229) -/

/-- The SFU that serves a context: 0 for cores 0 to 3, 1 for cores 4 to 7 and the kernel core (R229). -/
def sfuOf (cid : Nat) : Nat := if coreNo cid < 4 then 0 else 1

/-- The requests of a gathering's SFU u. -/
def State.sfuReqs (s : State) (g u : Nat) : List SfuReq := if u = 0 then (s.gathSt g).sfu0 else (s.gathSt g).sfu1

def State.setSfu (s : State) (g u : Nat) (l : List SfuReq) : State :=
  if u = 0 then s.setGath g { s.gathSt g with sfu0 := l } else s.setGath g { s.gathSt g with sfu1 := l }

/-- A VSFU instruction sends its operands to its SFU and parks (R229). -/
def State.sfuSend (s : State) (fn : BitVec 3) (d a : Reg) (p : BitVec 3) (z : BitVec 1) : Out :=
  let g := gathOf s.cur
  let u := sfuOf s.cur
  let r : SfuReq := { cid := s.cur, tenant := s.tenantOf s.cur, fn := fn, vd := d, ops := s.v! a, pred := s.p! p, z := z == 1, frm := s.me.ctl.frm, arrival := s.clk, started := none }
  .next ((s.setSfu g u (s.sfuReqs g u ++ [r])).setWait s.cur .sfu)

/-- VRCP (R228, R229): 1/x of the active FP32 lanes, at the SFU. -/
def execVrcp (d a : Reg) (p : BitVec 3) (z : BitVec 1) (s : State) : Out := s.sfuSend 0 d a p z

/-- VRSQRT (R228, R229): 1/sqrt x of the active FP32 lanes, at the SFU. -/
def execVrsqrt (d a : Reg) (p : BitVec 3) (z : BitVec 1) (s : State) : Out := s.sfuSend 1 d a p z

/-- VSQRT (R228, R229): sqrt x of the active FP32 lanes, at the SFU. -/
def execVsqrt (d a : Reg) (p : BitVec 3) (z : BitVec 1) (s : State) : Out := s.sfuSend 2 d a p z

/-- VEXP2 (R228, R229): 2^x of the active FP32 lanes, at the SFU. -/
def execVexp2 (d a : Reg) (p : BitVec 3) (z : BitVec 1) (s : State) : Out := s.sfuSend 3 d a p z

/-- VLOG2 (R228, R229): log2 x of the active FP32 lanes, at the SFU. -/
def execVlog2 (d a : Reg) (p : BitVec 3) (z : BitVec 1) (s : State) : Out := s.sfuSend 4 d a p z

/-- VSIN (R228, R229): sin x of the active FP32 lanes, at the SFU. -/
def execVsin (d a : Reg) (p : BitVec 3) (z : BitVec 1) (s : State) : Out := s.sfuSend 5 d a p z

/-- VCOS (R228, R229): cos x of the active FP32 lanes, at the SFU. -/
def execVcos (d a : Reg) (p : BitVec 3) (z : BitVec 1) (s : State) : Out := s.sfuSend 6 d a p z

/-- VTANH (R228, R229): tanh x of the active FP32 lanes, at the SFU. -/
def execVtanh (d a : Reg) (p : BitVec 3) (z : BitVec 1) (s : State) : Out := s.sfuSend 7 d a p z

/-- The oldest request not yet started: by arrival clock, then by CID (R229). -/
def oldestReq (l : List SfuReq) : Option SfuReq :=
  l.foldl (fun acc (x : SfuReq) => if x.started.isSome then acc else
    match acc with
    | some y => if x.arrival < y.arrival ∨ (x.arrival = y.arrival ∧ x.cid < y.cid) then some x else some y
    | none => some x) none

/-- SFUSTART (R229): an SFU that no request has held for less than 4 clocks starts its oldest request. -/
def execSfuStart (g : BitVec 6) (u : BitVec 1) (s : State) : Out :=
  let l := s.sfuReqs g.toNat u.toNat
  let busy := l.any fun r => match r.started with
    | some t => decide (s.clk < t + 4)
    | none => false
  match oldestReq l with
  | some r =>
    if busy then .next s
    else .next (s.setSfu g.toNat u.toNat (l.map fun x => if x == r then { x with started := some s.clk } else x))
  | none => .next s

/-- The result of a request merged into the destination, and its flags (R228). -/
def SfuReq.result (r : SfuReq) (old : VReg) : VReg × BitVec 5 :=
  (merge 32 r.pred r.z old fun i => (sfuElem r.fn.toNat r.frm (elem r.ops 32 i)).1,
   (List.range 16).foldl (fun f i => if active r.pred 32 i then f ||| (sfuElem r.fn.toNat r.frm (elem r.ops 32 i)).2 else f) 0)

/-- The return token of a request has come: 20 clocks after its start (R229). -/
def SfuReq.back (r : SfuReq) (clk : Nat) : Bool :=
  match r.started with
  | some t => decide (t + 20 ≤ clk)
  | none => false

/-- The token of a request reaches its context: vd and the flags are written, and the instruction is complete (R210, R229). -/
def State.sfuLand (s : State) (cid : Nat) (r : SfuReq) : State :=
  let x := s.ctxOf cid
  let y := r.result (x.regs.vget r.vd)
  s.setCtx cid { x with
    regs := (x.regs.vset r.vd y.1).advance
    ctl := { x.ctl with fflags := x.ctl.fflags ||| y.2 }
    sched := { x.sched with wait := .none, readyAt := s.clk } }

/-- SFURETURN (R229): 20 clocks after the start the token writes vd, adds the flags and wakes the context. -/
def execSfuReturn (cid : BitVec 12) (s : State) : Out :=
  let c := cid.toNat
  let g := gathOf c
  let l := s.sfuReqs g (sfuOf c)
  match l.find? fun r => r.cid == c && r.back s.clk with
  | none => .next s
  | some r => .next ((s.setSfu g (sfuOf c) (l.erase r)).onOwner r.tenant c fun s => s.sfuLand c r)

end Sys2Proof.Machine
end

