-- ==== Sys2Proof/Machine/Dispatch.lean ====
section
/-! DEFINITION. What each instruction, and each of the part's own steps, does: one arm for each constructor of Instr. -/

namespace Sys2Proof.Machine

/-- The meaning of an instruction at a state: an instruction word acts for the context s.cur (R40). -/
def exec (i : Instr) (s : State) : Host.Outcome State Fault Refusal :=
  match i with
  | .add d a b => Sys2Proof.Machine.execAdd d a b s
  | .sub d a b => Sys2Proof.Machine.execSub d a b s
  | .and d a b => Sys2Proof.Machine.execAnd d a b s
  | .or d a b => Sys2Proof.Machine.execOr d a b s
  | .xor d a b => Sys2Proof.Machine.execXor d a b s
  | .andn d a b => Sys2Proof.Machine.execAndn d a b s
  | .orn d a b => Sys2Proof.Machine.execOrn d a b s
  | .xnor d a b => Sys2Proof.Machine.execXnor d a b s
  | .sll d a b => Sys2Proof.Machine.execSll d a b s
  | .srl d a b => Sys2Proof.Machine.execSrl d a b s
  | .sra d a b => Sys2Proof.Machine.execSra d a b s
  | .rol d a b => Sys2Proof.Machine.execRol d a b s
  | .ror d a b => Sys2Proof.Machine.execRor d a b s
  | .addw d a b => Sys2Proof.Machine.execAddw d a b s
  | .subw d a b => Sys2Proof.Machine.execSubw d a b s
  | .sllw d a b => Sys2Proof.Machine.execSllw d a b s
  | .srlw d a b => Sys2Proof.Machine.execSrlw d a b s
  | .sraw d a b => Sys2Proof.Machine.execSraw d a b s
  | .min d a b => Sys2Proof.Machine.execMin d a b s
  | .max d a b => Sys2Proof.Machine.execMax d a b s
  | .minu d a b => Sys2Proof.Machine.execMinu d a b s
  | .maxu d a b => Sys2Proof.Machine.execMaxu d a b s
  | .addsat d a b => Sys2Proof.Machine.execAddsat d a b s
  | .subsat d a b => Sys2Proof.Machine.execSubsat d a b s
  | .seq d a b => Sys2Proof.Machine.execSeq d a b s
  | .sne d a b => Sys2Proof.Machine.execSne d a b s
  | .slt d a b => Sys2Proof.Machine.execSlt d a b s
  | .sltu d a b => Sys2Proof.Machine.execSltu d a b s
  | .sge d a b => Sys2Proof.Machine.execSge d a b s
  | .sgeu d a b => Sys2Proof.Machine.execSgeu d a b s
  | .cmovz d a b => Sys2Proof.Machine.execCmovz d a b s
  | .cmovnz d a b => Sys2Proof.Machine.execCmovnz d a b s
  | .clz d a => Sys2Proof.Machine.execClz d a s
  | .ctz d a => Sys2Proof.Machine.execCtz d a s
  | .popc d a => Sys2Proof.Machine.execPopc d a s
  | .brev d a => Sys2Proof.Machine.execBrev d a s
  | .bswap d a => Sys2Proof.Machine.execBswap d a s
  | .extr d a b => Sys2Proof.Machine.execExtr d a b s
  | .extrs d a b => Sys2Proof.Machine.execExtrs d a b s
  | .insr d a b => Sys2Proof.Machine.execInsr d a b s
  | .mul d a b => Sys2Proof.Machine.execMul d a b s
  | .mulh d a b => Sys2Proof.Machine.execMulh d a b s
  | .mulhu d a b => Sys2Proof.Machine.execMulhu d a b s
  | .mulhm d a b => Sys2Proof.Machine.execMulhm d a b s
  | .mulw d a b => Sys2Proof.Machine.execMulw d a b s
  | .div d a b => Sys2Proof.Machine.execDiv d a b s
  | .divu d a b => Sys2Proof.Machine.execDivu d a b s
  | .rem d a b => Sys2Proof.Machine.execRem d a b s
  | .remu d a b => Sys2Proof.Machine.execRemu d a b s
  | .divw d a b => Sys2Proof.Machine.execDivw d a b s
  | .divuw d a b => Sys2Proof.Machine.execDivuw d a b s
  | .remw d a b => Sys2Proof.Machine.execRemw d a b s
  | .remuw d a b => Sys2Proof.Machine.execRemuw d a b s
  | .fadd d a b r p => Sys2Proof.Machine.execFadd d a b r p s
  | .fsub d a b r p => Sys2Proof.Machine.execFsub d a b r p s
  | .fmul d a b r p => Sys2Proof.Machine.execFmul d a b r p s
  | .fdiv d a b r p => Sys2Proof.Machine.execFdiv d a b r p s
  | .fsqrt d a r p => Sys2Proof.Machine.execFsqrt d a r p s
  | .fmin d a b p => Sys2Proof.Machine.execFmin d a b p s
  | .fmax d a b p => Sys2Proof.Machine.execFmax d a b p s
  | .fmac d a b r p => Sys2Proof.Machine.execFmac d a b r p s
  | .fnmac d a b r p => Sys2Proof.Machine.execFnmac d a b r p s
  | .fcpys d a b p => Sys2Proof.Machine.execFcpys d a b p s
  | .fcpysn d a b p => Sys2Proof.Machine.execFcpysn d a b p s
  | .fcpysx d a b p => Sys2Proof.Machine.execFcpysx d a b p s
  | .feq d a b p => Sys2Proof.Machine.execFeq d a b p s
  | .flt d a b p => Sys2Proof.Machine.execFlt d a b p s
  | .fle d a b p => Sys2Proof.Machine.execFle d a b p s
  | .fkind d a p => Sys2Proof.Machine.execFkind d a p s
  | .fcvtl d a r p => Sys2Proof.Machine.execFcvtl d a r p s
  | .fcvtlu d a r p => Sys2Proof.Machine.execFcvtlu d a r p s
  | .fcvtfl d a r p => Sys2Proof.Machine.execFcvtfl d a r p s
  | .fcvtflu d a r p => Sys2Proof.Machine.execFcvtflu d a r p s
  | .fcvtf d a c r p => Sys2Proof.Machine.execFcvtf d a c r p s
  | .addi d a im => Sys2Proof.Machine.execAddi d a im s
  | .andi d a im => Sys2Proof.Machine.execAndi d a im s
  | .ori d a im => Sys2Proof.Machine.execOri d a im s
  | .xori d a im => Sys2Proof.Machine.execXori d a im s
  | .slli d a n => Sys2Proof.Machine.execSlli d a n s
  | .srli d a n => Sys2Proof.Machine.execSrli d a n s
  | .srai d a n => Sys2Proof.Machine.execSrai d a n s
  | .rori d a n => Sys2Proof.Machine.execRori d a n s
  | .slliw d a n => Sys2Proof.Machine.execSlliw d a n s
  | .srliw d a n => Sys2Proof.Machine.execSrliw d a n s
  | .sraiw d a n => Sys2Proof.Machine.execSraiw d a n s
  | .slti d a im => Sys2Proof.Machine.execSlti d a im s
  | .sltiu d a im => Sys2Proof.Machine.execSltiu d a im s
  | .lui d im => Sys2Proof.Machine.execLui d im s
  | .addpc d im => Sys2Proof.Machine.execAddpc d im s
  | .lb t a o => Sys2Proof.Machine.execLb t a o s
  | .lh t a o => Sys2Proof.Machine.execLh t a o s
  | .lw t a o => Sys2Proof.Machine.execLw t a o s
  | .ld t a o => Sys2Proof.Machine.execLd t a o s
  | .lbu t a o => Sys2Proof.Machine.execLbu t a o s
  | .lhu t a o => Sys2Proof.Machine.execLhu t a o s
  | .lwu t a o => Sys2Proof.Machine.execLwu t a o s
  | .lbAcq t a sc => Sys2Proof.Machine.execLbAcq t a sc s
  | .lhAcq t a sc => Sys2Proof.Machine.execLhAcq t a sc s
  | .lwAcq t a sc => Sys2Proof.Machine.execLwAcq t a sc s
  | .ldAcq t a sc => Sys2Proof.Machine.execLdAcq t a sc s
  | .pref h a => Sys2Proof.Machine.execPref h a s
  | .sb t a o => Sys2Proof.Machine.execSb t a o s
  | .sh t a o => Sys2Proof.Machine.execSh t a o s
  | .sw t a o => Sys2Proof.Machine.execSw t a o s
  | .sd t a o => Sys2Proof.Machine.execSd t a o s
  | .sbRel t a sc => Sys2Proof.Machine.execSbRel t a sc s
  | .shRel t a sc => Sys2Proof.Machine.execShRel t a sc s
  | .swRel t a sc => Sys2Proof.Machine.execSwRel t a sc s
  | .sdRel t a sc => Sys2Proof.Machine.execSdRel t a sc s
  | .vadd d a b p e z => Sys2Proof.Machine.execVadd d a b p e z s
  | .vsub d a b p e z => Sys2Proof.Machine.execVsub d a b p e z s
  | .vmul d a b p e z => Sys2Proof.Machine.execVmul d a b p e z s
  | .vmulh d a b p e z => Sys2Proof.Machine.execVmulh d a b p e z s
  | .vmulhu d a b p e z => Sys2Proof.Machine.execVmulhu d a b p e z s
  | .vmin d a b p e z => Sys2Proof.Machine.execVmin d a b p e z s
  | .vmax d a b p e z => Sys2Proof.Machine.execVmax d a b p e z s
  | .vminu d a b p e z => Sys2Proof.Machine.execVminu d a b p e z s
  | .vmaxu d a b p e z => Sys2Proof.Machine.execVmaxu d a b p e z s
  | .vand d a b p e z => Sys2Proof.Machine.execVand d a b p e z s
  | .vor d a b p e z => Sys2Proof.Machine.execVor d a b p e z s
  | .vxor d a b p e z => Sys2Proof.Machine.execVxor d a b p e z s
  | .vsll d a b p e z => Sys2Proof.Machine.execVsll d a b p e z s
  | .vsrl d a b p e z => Sys2Proof.Machine.execVsrl d a b p e z s
  | .vsra d a b p e z => Sys2Proof.Machine.execVsra d a b p e z s
  | .vadds d a b p e z => Sys2Proof.Machine.execVadds d a b p e z s
  | .vaddsu d a b p e z => Sys2Proof.Machine.execVaddsu d a b p e z s
  | .vsubs d a b p e z => Sys2Proof.Machine.execVsubs d a b p e z s
  | .vsubsu d a b p e z => Sys2Proof.Machine.execVsubsu d a b p e z s
  | .vabs d a p e z => Sys2Proof.Machine.execVabs d a p e z s
  | .vmac d a b p e z => Sys2Proof.Machine.execVmac d a b p e z s
  | .vdot4 d a b p z => Sys2Proof.Machine.execVdot4 d a b p z s
  | .vredadd d a p e => Sys2Proof.Machine.execVredadd d a p e s
  | .vredmin d a p e => Sys2Proof.Machine.execVredmin d a p e s
  | .vredmax d a p e => Sys2Proof.Machine.execVredmax d a p e s
  | .vredminu d a p e => Sys2Proof.Machine.execVredminu d a p e s
  | .vredmaxu d a p e => Sys2Proof.Machine.execVredmaxu d a p e s
  | .vbcast d a e => Sys2Proof.Machine.execVbcast d a e s
  | .vfadd d a b p e z f => Sys2Proof.Machine.execVfadd d a b p e z f s
  | .vfsub d a b p e z f => Sys2Proof.Machine.execVfsub d a b p e z f s
  | .vfmul d a b p e z f => Sys2Proof.Machine.execVfmul d a b p e z f s
  | .vfma d a b p e z f => Sys2Proof.Machine.execVfma d a b p e z f s
  | .vfms d a b p e z f => Sys2Proof.Machine.execVfms d a b p e z f s
  | .vfmin d a b p e z f => Sys2Proof.Machine.execVfmin d a b p e z f s
  | .vfmax d a b p e z f => Sys2Proof.Machine.execVfmax d a b p e z f s
  | .vfabs d a p e z f => Sys2Proof.Machine.execVfabs d a p e z f s
  | .vfneg d a p e z f => Sys2Proof.Machine.execVfneg d a p e z f s
  | .vfredadd d a p e f => Sys2Proof.Machine.execVfredadd d a p e f s
  | .vfredmax d a p e f => Sys2Proof.Machine.execVfredmax d a p e f s
  | .vfredmin d a p e f => Sys2Proof.Machine.execVfredmin d a p e f s
  | .vfdot2 d a b p z f => Sys2Proof.Machine.execVfdot2 d a b p z f s
  | .vceq d a b p e z => Sys2Proof.Machine.execVceq d a b p e z s
  | .vcne d a b p e z => Sys2Proof.Machine.execVcne d a b p e z s
  | .vclt d a b p e z => Sys2Proof.Machine.execVclt d a b p e z s
  | .vcle d a b p e z => Sys2Proof.Machine.execVcle d a b p e z s
  | .vcltu d a b p e z => Sys2Proof.Machine.execVcltu d a b p e z s
  | .vcleu d a b p e z => Sys2Proof.Machine.execVcleu d a b p e z s
  | .vfceq d a b p e z => Sys2Proof.Machine.execVfceq d a b p e z s
  | .vfclt d a b p e z => Sys2Proof.Machine.execVfclt d a b p e z s
  | .vfcle d a b p e z => Sys2Proof.Machine.execVfcle d a b p e z s
  | .vfcun d a b p e z => Sys2Proof.Machine.execVfcun d a b p e z s
  | .vfceqBf d a b p z => Sys2Proof.Machine.execVfceqBf d a b p z s
  | .vfcltBf d a b p z => Sys2Proof.Machine.execVfcltBf d a b p z s
  | .vfcleBf d a b p z => Sys2Proof.Machine.execVfcleBf d a b p z s
  | .vfcunBf d a b p z => Sys2Proof.Machine.execVfcunBf d a b p z s
  | .vperm d a b p e z => Sys2Proof.Machine.execVperm d a b p e z s
  | .vsldup d a b p e z => Sys2Proof.Machine.execVsldup d a b p e z s
  | .vslddn d a b p e z => Sys2Proof.Machine.execVslddn d a b p e z s
  | .vziplo d a b p e z => Sys2Proof.Machine.execVziplo d a b p e z s
  | .vziphi d a b p e z => Sys2Proof.Machine.execVziphi d a b p e z s
  | .vuzpe d a b p e z => Sys2Proof.Machine.execVuzpe d a b p e z s
  | .vuzpo d a b p e z => Sys2Proof.Machine.execVuzpo d a b p e z s
  | .vcompr d a p e => Sys2Proof.Machine.execVcompr d a p e s
  | .vexpnd d a p e z => Sys2Proof.Machine.execVexpnd d a p e z s
  | .vins d a b e => Sys2Proof.Machine.execVins d a b e s
  | .vext d a k e => Sys2Proof.Machine.execVext d a k e s
  | .vcvtfi d a p e z => Sys2Proof.Machine.execVcvtfi d a p e z s
  | .vcvtif d a p e z => Sys2Proof.Machine.execVcvtif d a p e z s
  | .vcvtwh d a h p z => Sys2Proof.Machine.execVcvtwh d a h p z s
  | .vcvtwb d a h p z => Sys2Proof.Machine.execVcvtwb d a h p z s
  | .vcvtnh d a h p z => Sys2Proof.Machine.execVcvtnh d a h p z s
  | .vcvtnb d a h p z => Sys2Proof.Machine.execVcvtnb d a h p z s
  | .vcvtw8e4 d a q p z => Sys2Proof.Machine.execVcvtw8e4 d a q p z s
  | .vcvtw8e5 d a q p z => Sys2Proof.Machine.execVcvtw8e5 d a q p z s
  | .vcvtn8e4 d a q p z => Sys2Proof.Machine.execVcvtn8e4 d a q p z s
  | .vcvtn8e5 d a q p z => Sys2Proof.Machine.execVcvtn8e5 d a q p z s
  | .vqblk d a r => Sys2Proof.Machine.execVqblk d a r s
  | .vqmx d a t => Sys2Proof.Machine.execVqmx d a t s
  | .vld d a p e z => Sys2Proof.Machine.execVld d a p e z s
  | .vst d a p e => Sys2Proof.Machine.execVst d a p e s
  | .vldx d a b p e z => Sys2Proof.Machine.execVldx d a b p e z s
  | .vstx d a b p e => Sys2Proof.Machine.execVstx d a b p e s
  | .vldb d a p e z => Sys2Proof.Machine.execVldb d a p e z s
  | .vlds d a b p e z => Sys2Proof.Machine.execVlds d a b p e z s
  | .vsts d a b p e => Sys2Proof.Machine.execVsts d a b p e s
  | .vrcp d a p z => Sys2Proof.Machine.execVrcp d a p z s
  | .vrsqrt d a p z => Sys2Proof.Machine.execVrsqrt d a p z s
  | .vsqrt d a p z => Sys2Proof.Machine.execVsqrt d a p z s
  | .vexp2 d a p z => Sys2Proof.Machine.execVexp2 d a p z s
  | .vlog2 d a p z => Sys2Proof.Machine.execVlog2 d a p z s
  | .vsin d a p z => Sys2Proof.Machine.execVsin d a p z s
  | .vcos d a p z => Sys2Proof.Machine.execVcos d a p z s
  | .vtanh d a p z => Sys2Proof.Machine.execVtanh d a p z s
  | .pand d a b => Sys2Proof.Machine.execPand d a b s
  | .por d a b => Sys2Proof.Machine.execPor d a b s
  | .pxor d a b => Sys2Proof.Machine.execPxor d a b s
  | .pandn d a b => Sys2Proof.Machine.execPandn d a b s
  | .pnot d a => Sys2Proof.Machine.execPnot d a s
  | .pfirst d a => Sys2Proof.Machine.execPfirst d a s
  | .pcnt d a => Sys2Proof.Machine.execPcnt d a s
  | .pset d a => Sys2Proof.Machine.execPset d a s
  | .pget d a => Sys2Proof.Machine.execPget d a s
  | .attach d t => Sys2Proof.Machine.execAttach d t s
  | .join d t => Sys2Proof.Machine.execJoin d t s
  | .donate d a => Sys2Proof.Machine.execDonate d a s
  | .takew d a => Sys2Proof.Machine.execTakew d a s
  | .gang d => Sys2Proof.Machine.execGang d s
  | .map d a b => Sys2Proof.Machine.execMap d a b s
  | .unmap d a => Sys2Proof.Machine.execUnmap d a s
  | .sflush a sc => Sys2Proof.Machine.execSflush a sc s
  | .mxq sc w m im => Sys2Proof.Machine.execMxq sc w m im s
  | .trq sc w m im => Sys2Proof.Machine.execTrq sc w m im s
  | .hset a h => Sys2Proof.Machine.execHset a h s
  | .hclr h => Sys2Proof.Machine.execHclr h s
  | .hend h => Sys2Proof.Machine.execHend h s
  | .spawn d a => Sys2Proof.Machine.execSpawn d a s
  | .redsrv a => Sys2Proof.Machine.execRedsrv a s
  | .rep c m sc => Sys2Proof.Machine.execRep c m sc s
  | .beq a b o => Sys2Proof.Machine.execBeq a b o s
  | .bne a b o => Sys2Proof.Machine.execBne a b o s
  | .blt a b o => Sys2Proof.Machine.execBlt a b o s
  | .bge a b o => Sys2Proof.Machine.execBge a b o s
  | .bltu a b o => Sys2Proof.Machine.execBltu a b o s
  | .bgeu a b o => Sys2Proof.Machine.execBgeu a b o s
  | .beqz a o => Sys2Proof.Machine.execBeqz a o s
  | .bnez a o => Sys2Proof.Machine.execBnez a o s
  | .bltz a o => Sys2Proof.Machine.execBltz a o s
  | .bgez a o => Sys2Proof.Machine.execBgez a o s
  | .bgtz a o => Sys2Proof.Machine.execBgtz a o s
  | .blez a o => Sys2Proof.Machine.execBlez a o s
  | .jal o => Sys2Proof.Machine.execJal o s
  | .jalr d a im => Sys2Proof.Machine.execJalr d a im s
  | .ldvExact d a b p z => Sys2Proof.Machine.execLdvExact d a b p z s
  | .ldvLe d a b p z => Sys2Proof.Machine.execLdvLe d a b p z s
  | .ldvAge d a b p z => Sys2Proof.Machine.execLdvAge d a b p z s
  | .stv t a b z => Sys2Proof.Machine.execStv t a b z s
  | .sealv a b => Sys2Proof.Machine.execSealv a b s
  | .reclv a b => Sys2Proof.Machine.execReclv a b s
  | .handover a b => Sys2Proof.Machine.execHandover a b s
  | .capq d a => Sys2Proof.Machine.execCapq d a s
  | .amoswap d a b q z sc => Sys2Proof.Machine.execAmoswap d a b q z sc s
  | .amoadd d a b q z sc => Sys2Proof.Machine.execAmoadd d a b q z sc s
  | .amoand d a b q z sc => Sys2Proof.Machine.execAmoand d a b q z sc s
  | .amoor d a b q z sc => Sys2Proof.Machine.execAmoor d a b q z sc s
  | .amoxor d a b q z sc => Sys2Proof.Machine.execAmoxor d a b q z sc s
  | .amomin d a b q z sc => Sys2Proof.Machine.execAmomin d a b q z sc s
  | .amomax d a b q z sc => Sys2Proof.Machine.execAmomax d a b q z sc s
  | .amominu d a b q z sc => Sys2Proof.Machine.execAmominu d a b q z sc s
  | .amomaxu d a b q z sc => Sys2Proof.Machine.execAmomaxu d a b q z sc s
  | .amocas d a b q z sc => Sys2Proof.Machine.execAmocas d a b q z sc s
  | .amofadd d a b q sc => Sys2Proof.Machine.execAmofadd d a b q sc s
  | .fenceFull sc => Sys2Proof.Machine.execFenceFull sc s
  | .fenceAcq sc => Sys2Proof.Machine.execFenceAcq sc s
  | .fenceRel sc => Sys2Proof.Machine.execFenceRel sc s
  | .waitv d a b z sc => Sys2Proof.Machine.execWaitv d a b z sc s
  | .cpq c sc w m im => Sys2Proof.Machine.execCpq c sc w m im s
  | .waitc d a k => Sys2Proof.Machine.execWaitc d a k s
  | .engst d e => Sys2Proof.Machine.execEngst d e s
  | .rnginit a b => Sys2Proof.Machine.execRnginit a b s
  | .rngnext d => Sys2Proof.Machine.execRngnext d s
  | .send d a b => Sys2Proof.Machine.execSend d a b s
  | .senda d a b h => Sys2Proof.Machine.execSenda d a b h s
  | .recv d b => Sys2Proof.Machine.execRecv d b s
  | .recvp d b => Sys2Proof.Machine.execRecvp d b s
  | .recvf d a b => Sys2Proof.Machine.execRecvf d a b s
  | .reply d b => Sys2Proof.Machine.execReply d b s
  | .arrive c => Sys2Proof.Machine.execArrive c s
  | .waitb c => Sys2Proof.Machine.execWaitb c s
  | .voteAnd d a c => Sys2Proof.Machine.execVoteAnd d a c s
  | .voteOr d a c => Sys2Proof.Machine.execVoteOr d a c s
  | .ctlr d a => Sys2Proof.Machine.execCtlr d a s
  | .ctlw sc a => Sys2Proof.Machine.execCtlw sc a s
  | .trap im => Sys2Proof.Machine.execTrap im s
  | .brk im => Sys2Proof.Machine.execBrk im s
  | .illegal => Sys2Proof.Machine.execIllegal s
  | .detach => Sys2Proof.Machine.execDetach s
  | .sstep => Sys2Proof.Machine.execSstep s
  | .yield => Sys2Proof.Machine.execYield s
  | .finish => Sys2Proof.Machine.execFinish s
  | .stealoff => Sys2Proof.Machine.execStealoff s
  | .nop => Sys2Proof.Machine.execNop s
  | .tret => Sys2Proof.Machine.execTret s
  | .idle => Sys2Proof.Machine.execIdle s
  | .halt => Sys2Proof.Machine.execHalt s
  | .mxovfRead d => Sys2Proof.Machine.execMxovfRead d s
  | .wpRead d ch => Sys2Proof.Machine.execWpRead d ch s
  | .prioWrite a => Sys2Proof.Machine.execPrioWrite a s
  | .htabWrite a => Sys2Proof.Machine.execHtabWrite a s
  | .mxidleWrite a => Sys2Proof.Machine.execMxidleWrite a s
  | .mxZero g c => Sys2Proof.Machine.execMxZero g c s
  | .mxMul g c => Sys2Proof.Machine.execMxMul g c s
  | .mxSpmul g c => Sys2Proof.Machine.execMxSpmul g c s
  | .mxEpi g c => Sys2Proof.Machine.execMxEpi g c s
  | .mxBase g c => Sys2Proof.Machine.execMxBase g c s
  | .cpCopy g c ch => Sys2Proof.Machine.execCpCopy g c ch s
  | .cpCopy2d g c ch => Sys2Proof.Machine.execCpCopy2d g c ch s
  | .cpGather g c ch => Sys2Proof.Machine.execCpGather g c ch s
  | .cpScatter g c ch => Sys2Proof.Machine.execCpScatter g c ch s
  | .cpPlane g c ch => Sys2Proof.Machine.execCpPlane g c ch s
  | .cpDecode g c ch => Sys2Proof.Machine.execCpDecode g c ch s
  | .cpFill g c ch => Sys2Proof.Machine.execCpFill g c ch s
  | .cpTotier g c ch => Sys2Proof.Machine.execCpTotier g c ch s
  | .trCfg n => Sys2Proof.Machine.execTrCfg n s
  | .trIns n => Sys2Proof.Machine.execTrIns n s
  | .trDraw n => Sys2Proof.Machine.execTrDraw n s
  | .trUpd n => Sys2Proof.Machine.execTrUpd n s
  | .trQry n => Sys2Proof.Machine.execTrQry n s
  | .engineCompletion g c e n => Sys2Proof.Machine.execEngineCompletion g c e n s
  | .streamDeliver g k => Sys2Proof.Machine.execStreamDeliver g k s
  | .joiningAttached cid => Sys2Proof.Machine.execJoiningAttached cid s
  | .joinTimeout cid => Sys2Proof.Machine.execJoinTimeout cid s
  | .streamHoldTimeout g k => Sys2Proof.Machine.execStreamHoldTimeout g k s
  | .budgetExhausted cid => Sys2Proof.Machine.execBudgetExhausted cid s
  | .cycleStart d => Sys2Proof.Machine.execCycleStart d s
  | .latch d => Sys2Proof.Machine.execLatch d s
  | .slotInstant d x => Sys2Proof.Machine.execSlotInstant d x s
  | .deferredLaunch d x => Sys2Proof.Machine.execDeferredLaunch d x s
  | .egress d => Sys2Proof.Machine.execEgress d s
  | .gclInterval p => Sys2Proof.Machine.execGclInterval p s
  | .frameIngress f => Sys2Proof.Machine.execFrameIngress f s
  | .ptpSync t => Sys2Proof.Machine.execPtpSync t s
  | .holdover => Sys2Proof.Machine.execHoldover s
  | .domainEnable d => Sys2Proof.Machine.execDomainEnable d s
  | .domainDisable d => Sys2Proof.Machine.execDomainDisable d s
  | .slotWrite d x v => Sys2Proof.Machine.execSlotWrite d x v s
  | .filterWrite f v => Sys2Proof.Machine.execFilterWrite f v s
  | .egressStreamEnable e v => Sys2Proof.Machine.execEgressStreamEnable e v s
  | .vwopen w => Sys2Proof.Machine.execVwopen w s
  | .vwDeadline w => Sys2Proof.Machine.execVwDeadline w s
  | .pairDigest d u h => Sys2Proof.Machine.execPairDigest d u h s
  | .pairLoss => Sys2Proof.Machine.execPairLoss s
  | .resync => Sys2Proof.Machine.execResync s
  | .pairstRead => Sys2Proof.Machine.execPairstRead s
  | .slotstRead d x => Sys2Proof.Machine.execSlotstRead d x s
  | .sfcntRead f => Sys2Proof.Machine.execSfcntRead f s
  | .egcntRead e => Sys2Proof.Machine.execEgcntRead e s
  | .queueEnable q v => Sys2Proof.Machine.execQueueEnable q v s
  | .lqstRead q => Sys2Proof.Machine.execLqstRead q s
  | .vdbell fn q => Sys2Proof.Machine.execVdbell fn q s
  | .queuePoll q => Sys2Proof.Machine.execQueuePoll q s
  | .taskStart cid => Sys2Proof.Machine.execTaskStart cid s
  | .stealRequest g c => Sys2Proof.Machine.execStealRequest g c s
  | .stealRoundWait g c => Sys2Proof.Machine.execStealRoundWait g c s
  | .loadAverage g => Sys2Proof.Machine.execLoadAverage g s
  | .launchComplete n => Sys2Proof.Machine.execLaunchComplete n s
  | .handlerDispatch g c => Sys2Proof.Machine.execHandlerDispatch g c s
  | .messageArrival n => Sys2Proof.Machine.execMessageArrival n s
  | .sendAnswer n => Sys2Proof.Machine.execSendAnswer n s
  | .resend n => Sys2Proof.Machine.execResend n s
  | .memoryInboxDrain cid => Sys2Proof.Machine.execMemoryInboxDrain cid s
  | .waitForEdge cid => Sys2Proof.Machine.execWaitForEdge cid s
  | .deadlock cid => Sys2Proof.Machine.execDeadlock cid s
  | .amoArrival cid => Sys2Proof.Machine.execAmoArrival cid s
  | .sfuStart g u => Sys2Proof.Machine.execSfuStart g u s
  | .sfuReturn cid => Sys2Proof.Machine.execSfuReturn cid s
  | .stashFill cid => Sys2Proof.Machine.execStashFill cid s
  | .ldvDeadline cid => Sys2Proof.Machine.execLdvDeadline cid s
  | .waitvDeadline cid => Sys2Proof.Machine.execWaitvDeadline cid s
  | .walk n => Sys2Proof.Machine.execWalk n s
  | .walkEnd n => Sys2Proof.Machine.execWalkEnd n s
  | .downMove n => Sys2Proof.Machine.execDownMove n s
  | .upMove n => Sys2Proof.Machine.execUpMove n s
  | .tenantSwitch p => Sys2Proof.Machine.execTenantSwitch p s
  | .sliceExpiry p => Sys2Proof.Machine.execSliceExpiry p s
  | .switchRequest p v => Sys2Proof.Machine.execSwitchRequest p v s
  | .resizeRequest p v => Sys2Proof.Machine.execResizeRequest p v s
  | .partitionResize p => Sys2Proof.Machine.execPartitionResize p s
  | .pcfgWrite p v => Sys2Proof.Machine.execPcfgWrite p v s
  | .slotmapWrite g c v => Sys2Proof.Machine.execSlotmapWrite g c v s
  | .pullResponse n page => Sys2Proof.Machine.execPullResponse n page s
  | .backgroundPull t => Sys2Proof.Machine.execBackgroundPull t s
  | .pullTimeout n => Sys2Proof.Machine.execPullTimeout n s
  | .scrub ch => Sys2Proof.Machine.execScrub ch s
  | .matrixPowerGate g c => Sys2Proof.Machine.execMatrixPowerGate g c s
  | .xinv v => Sys2Proof.Machine.execXinv v s
  | .xinvDone => Sys2Proof.Machine.execXinvDone s
  | .ginv die v => Sys2Proof.Machine.execGinv die v s
  | .ginvDone die => Sys2Proof.Machine.execGinvDone die s
  | .mecntRead ch => Sys2Proof.Machine.execMecntRead ch s
  | .melastClear ch => Sys2Proof.Machine.execMelastClear ch s
  | .kresumeRetry cid => Sys2Proof.Machine.execKresumeRetry cid s
  | .kresumeAbort cid => Sys2Proof.Machine.execKresumeAbort cid s
  | .kresumeKill cid => Sys2Proof.Machine.execKresumeKill cid s
  | .kernelCoreReset g => Sys2Proof.Machine.execKernelCoreReset g s
  | .pause m => Sys2Proof.Machine.execPause m s
  | .retrain m => Sys2Proof.Machine.execRetrain m s
  | .resume m => Sys2Proof.Machine.execResume m s
  | .pauseDone m => Sys2Proof.Machine.execPauseDone m s
  | .pauseTimeout m => Sys2Proof.Machine.execPauseTimeout m s
  | .trainingEnd m ok => Sys2Proof.Machine.execTrainingEnd m ok s
  | .flitRetry m => Sys2Proof.Machine.execFlitRetry m s
  | .retryInterval m => Sys2Proof.Machine.execRetryInterval m s
  | .linkDown m => Sys2Proof.Machine.execLinkDown m s
  | .ucevtClear m v => Sys2Proof.Machine.execUcevtClear m v s
  | .ucretryRead m => Sys2Proof.Machine.execUcretryRead m s
  | .uclerrRead m j => Sys2Proof.Machine.execUclerrRead m j s
  | .enrynLaneLoss p lanes => Sys2Proof.Machine.execEnrynLaneLoss p lanes s
  | .enpcntRead p => Sys2Proof.Machine.execEnpcntRead p s
  | .hostAccess fn off sz wr => Sys2Proof.Machine.execHostAccess fn off sz wr s
  | .vintClear fn v => Sys2Proof.Machine.execVintClear fn v s
  | .functionLevelReset fn => Sys2Proof.Machine.execFunctionLevelReset fn s
  | .powerOnReset => Sys2Proof.Machine.execPowerOnReset s
  | .rcvgo len => Sys2Proof.Machine.execRcvgo len s
  | .partnerImage img => Sys2Proof.Machine.execPartnerImage img s
  | .pwrenvWrite v => Sys2Proof.Machine.execPwrenvWrite v s
  | .envelopeChange => Sys2Proof.Machine.execEnvelopeChange s
  | .thermalThrottle => Sys2Proof.Machine.execThermalThrottle s
  | .folioLoad t folio => Sys2Proof.Machine.execFolioLoad t folio s
  | .imageUnmap n => Sys2Proof.Machine.execImageUnmap n s
  | .registerWrite pa wide v => Sys2Proof.Machine.execRegisterWrite pa wide v s
  | .reservedEncoding w => Sys2Proof.Machine.execReservedEncoding w s
  | .pullRequest dev pa sz => Sys2Proof.Machine.execPullRequest dev pa sz s
  | .resyncCopyEnd => Sys2Proof.Machine.execResyncCopyEnd s
  | .recoveryImageRequest p => Sys2Proof.Machine.execRecoveryImageRequest p s
  | .enrynPortUp p lanes peer => Sys2Proof.Machine.execEnrynPortUp p lanes peer s
  | .enrynPortEnable p v => Sys2Proof.Machine.execEnrynPortEnable p v s
  | .enrynFlitRetry p fec => Sys2Proof.Machine.execEnrynFlitRetry p fec s
  | .pairctlEnWrite v => Sys2Proof.Machine.execPairctlEnWrite v s
  | .hartAccess h op pa sz v => Sys2Proof.Machine.execHartAccess h op pa sz v s

end Sys2Proof.Machine
end

