-- ==== Sys2Proof/Machine/Issue.lean ====
section
/-! DEFINITION. One step of the part: a context issues its next word (R22, R41, R56, R334, R335), or one of the part's own steps
happens. What comes next is the head of the agenda; with an empty agenda the part goes on by itself (log entry 1). -/

namespace Sys2Proof.Machine

/-! ### Time (R2, R414) -/

/-- A clock in 1/24 ns: 1.6, 1.2 or 0.8 GHz by the envelope in force (R414). -/
def State.clockUnits (s : State) : Nat :=
  match fld (s.win! rPWRST) 0 2 with
  | 0 => 15
  | 1 => 20
  | _ => 30

/-! ### Which context may issue (R334) -/

/-- A context may issue as far as its tenant and its task go: it holds a task or a handler, its tenant runs, and it is not suspended,
frozen, waiting for a cycle or halted (R39, R202, R306, R334, R355, R367). A kernel-core context issues once it
has started (R377, R412). -/
def State.runnable (s : State) (cid : Nat) : Bool :=
  let x := (s.ctxOf cid).sched
  x.susp.isNone && !x.frozen && !x.yielded && !x.halted &&
    if isKernel cid then x.spine == .priv
    else (x.task.isSome || x.handler.isSome) &&
      match s.partOf (gathOf cid) with
      | some p => s.mayIssue p (s.tenantOf cid)
      | none => false

/-- The walk a parked context waits for has not ended (R311). -/
def State.walking (s : State) (cid : Nat) : Bool := s.walks.any fun w => w.2.reqs.contains (.ctx cid)

/-! ### The next word (R22, R25, R41, R56) -/

/-- The word at the head of an attached context's drift buffer, when it is the one the context issues next. -/
def State.driftHead (s : State) (cid : Nat) (ia : Word) : Option Drift :=
  match (s.ctxOf cid).sched.drift with
  | d :: _ => if d.addr = ia then some d else none
  | [] => none

/-- Where the next word of a context comes from. -/
inductive NextWord where
  /-- Its stream has not delivered it yet (R23). -/
  | none
  | word (w : Word32)
  /-- The fetch faults or parks: the state after it. -/
  | stop (t : State)
deriving DecidableEq, Repr

/-- The next word of context s.cur: from the drift buffer while it is attached, by private fetch otherwise. An attached context whose
stream cannot fetch the word it has come to takes the fault itself. -/
def State.nextIssue (s : State) : NextWord :=
  let fetch := match s.fetchAt s.cur s.ia with
    | .word w => NextWord.word w
    | .stop t => .stop t
  if s.isAttached s.cur then
    match s.driftHead s.cur s.ia with
    | some d => .word d.word
    | none =>
      let st := s.stream (gathOf s.cur) (slotNo s.cur)
      let lost : Bool := match s.leader (gathOf s.cur) (slotNo s.cur) with
        | some l => (s.peekWord l st.nextPc).isNone
        | none => true
      if st.nextPc = s.ia ∧ s.me.sched.drift = [] ∧ lost = true then fetch else .none
  else fetch

/-- The word that executes: in a REP the governed word with its fields stepped by the repeat index (R56). -/
def State.governed (s : State) (w : Word32) : Word32 :=
  match s.me.regs.rep with
  | some r => stepWord w r.mask (r.stride.toNat + 1) s.me.regs.ri.toNat
  | none => w

/-- An issue of this word accepts its position: every word, and of a REP's repeats the last (R22). -/
def State.accepts (s : State) : Bool :=
  match s.me.regs.rep with
  | some r => decide (r.count.toNat + 1 ≤ s.me.regs.ri.toNat + 1)
  | none => true

/-! ### Issuing (R334, R335) -/

/-- The repeat index with which a fetched word issues: outside a REP it is 0, unless the word is the prefix (R56, R144). -/
def Regs.indexFor (r : Regs) (w : Word32) : BitVec 6 := if r.rep.isNone && !isRepWord w then 0 else r.ri

/-- The state in which the fetched word w executes: the context no longer waits, and an attached one has accepted the position. -/
def State.begin (s : State) (w : Word32) : State :=
  let c := s.me
  let acc := if c.sched.spine = .attached ∧ s.accepts then (c.sched.drift.head?.map (·.pos)).or c.sched.accepted else c.sched.accepted
  s.setCtx s.cur { c with
    regs := { c.regs with ri := c.regs.indexFor w }
    sched := { c.sched with wait := .none, accepted := acc } }

/-- A word that waits for room in a queue has not issued (R81, R334); any other that parks has. -/
def Why.stalls : Why → Bool
  | .push _ => true
  | _ => false

/-- The core of a context has issued in this clock (R334). -/
def State.markIssue (s : State) (cid : Nat) : State :=
  s.setCore (coreKey cid) { s.coreOf (coreKey cid) with issuedAt := some s.clk }

/-- The word parked and will be executed again: what it waited for before stays as it was, and the position is not accepted yet. -/
def State.unissued (s t : State) (y : Why) : State :=
  let old := (s.ctxOf s.cur).sched
  let x := (t.ctxOf s.cur).sched
  let same := decide (old.wait = .again y)
  let t := t.setSched s.cur { x with
    since := if same then old.since else x.since
    edge := if same then old.edge else x.edge
    accepted := if x.spine = .attached then old.accepted else x.accepted }
  if same || y.stalls then t else t.markIssue s.cur

/-- The word has issued: one clock of BUDGET (R335), the position leaves the drift buffer, and the next word may issue in the next clock,
by private fetch in the second (R25, R334). A word fetched privately leaves its line in the instruction caches (R288). -/
def State.issued (s t : State) : State :=
  let x := (t.ctxOf s.cur).sched
  let keep := match x.spine, x.accepted with
    | .attached, some p => x.drift.filter fun d => decide (p < d.pos)
    | .attached, none => x.drift
    | _, _ => []
  let next := t.clk + (if x.spine = .attached then 1 else 2)
  ((((t.setSched s.cur { x with drift := keep, readyAt := next, l0At := t.clk + 2, sampled := none }).charge s.cur).markIssue s.cur).takeLine s.cur
    (if s.isAttached s.cur then none else s.lineFor s.cur s.ia.toNat) true)

/-- What follows an executed word: s is the state before the word, t after it. -/
def State.finishIssue (s t : State) : State :=
  let u := match (t.ctxOf s.cur).sched.wait with
    | .again y => s.unissued t y
    | _ => s.issued t
  if isKernel s.cur then u else u.settle (gathOf s.cur) (slotNo s.cur)

/-- The next state an outcome holds, changed. -/
def onNext (o : Out) (f : State → State) : Out :=
  match o with
  | .next t => .next (f t)
  | .fault r => .fault r
  | .refused r => .refused r

/-- Context s.cur issues its next word and executes it (R41). -/
noncomputable def State.issueWord (s : State) : Out :=
  match s.nextIssue with
  | .none => .next s
  | .stop t => .next t
  | .word w => onNext (exec (decodeStep (s.governed w)) (s.begin w)) s.finishIssue

/-- IDLE completes when the inbox has an entry, a wait counter has moved, or CYCLE has changed (R149). -/
def State.idleTurn (s : State) (cid : Nat) (cyc : Word) (w : Vector Word32 4) : State :=
  let c := s.ctxOf cid
  if !c.inbox.isEmpty || c.regs.w != w || s.cycleOf (s.domOf cid) != cyc then
    s.setCtx cid { c with regs := c.regs.advance, sched := { c.sched with wait := .none, readyAt := s.clk } }
  else s

/-- A turn of a context that may issue: it issues, looks again at what it waits for, or stays parked. -/
noncomputable def State.turn (s : State) (cid : Nat) : Out :=
  let s : State := { s with cur := cid }
  if !s.runnable cid then
    .next (match s.me.sched.wait with
      | .redsrv _ => s.serve cid
      | _ => s)
  else
    match s.me.sched.wait with
    | .none => s.issueWord
    | .again (.walk _ _) => if s.walking cid then .next s else s.issueWord
    | .again _ => s.issueWord
    | .waitv w => if s.walking cid then .next s else .next (s.waitvTurn cid w)
    | .idle cyc w => .next (s.idleTurn cid cyc w)
    | .redsrv _ => .next (s.serve cid)
    | .ldv _ | .join _ | .hold _ _ | .amo _ _ | .send _ | .handover | .sfu => .next s

/-- The context's next turn is an issue: it waits for nothing, or for its word to be executed again. -/
def Wait.issues : Wait → Bool
  | .none | .again _ => true
  | _ => false

/-- The context waits for room in a queue. -/
def State.stalled (s : State) (cid : Nat) : Bool :=
  match (s.ctxOf cid).sched.wait with
  | .again y => y.stalls
  | _ => false

/-- A context's next instruction is ready, its clock apart (R334): it may issue, and its turn changes something and does not stall. -/
noncomputable def State.able (s : State) (cid : Nat) : Bool :=
  s.runnable cid && (s.ctxOf cid).sched.wait.issues &&
    match s.turn cid with
    | .next t => decide (t ≠ { s with cur := cid }) && !t.stalled cid
    | _ => true

/-- The clock from which a context may issue has come: by private fetch one instruction in two clocks (R25). -/
def State.inTime (s : State) (cid : Nat) : Bool :=
  let x := (s.ctxOf cid).sched
  decide (x.readyAt ≤ s.clk) && (x.spine == .attached || decide (x.l0At ≤ s.clk))

/-- A context is ready in this clock (R334). -/
noncomputable def State.ready (s : State) (cid : Nat) : Bool := s.inTime cid && s.able cid

/-- Of two ready contexts of a core, x goes first (R9, R334): by class, then by the clock its next instruction became ready, then by slot. -/
def State.before (s : State) (x y : Nat) : Bool :=
  let a := s.ctxOf x
  let b := s.ctxOf y
  decide (a.ctl.prioCls.toNat < b.ctl.prioCls.toNat)
    || (a.ctl.prioCls == b.ctl.prioCls && (decide (a.sched.readyAt < b.sched.readyAt) || (a.sched.readyAt == b.sched.readyAt && decide (x < y))))

/-- A context may issue in this clock (R334): its core has not issued in it, and no other context of the core that goes first is ready. -/
noncomputable def State.wins (s : State) (cid : Nat) : Bool :=
  (s.coreOf (coreKey cid)).issuedAt != some s.clk && s.inTime cid
    && !((coreCids (coreKey cid)).any fun x => x != cid && s.before x cid && s.ready x)

/-- The context a core issues from in this clock (R334). -/
noncomputable def State.issuer (s : State) (k : Nat) : Option Nat := (coreCids k).find? fun cid => s.wins cid && s.able cid

/-- The turn of a context on the agenda: an issue happens only where the context may issue in this clock. -/
noncomputable def State.issueTurn (s : State) (cid : Nat) : Out :=
  if (s.ctxOf cid).sched.wait.issues && !s.wins cid then .next s else s.turn cid

/-- n clocks pass, in which device time follows gPTP (R340) and the sum-tree ports forward (R233). The next instruction of a context that is not able to issue meanwhile becomes ready after them at the earliest (R334). -/
noncomputable def State.elapse (s : State) (n : Nat) : State :=
  let s := s.forward n
  let t := s.frac + n * s.clockUnits * s.rate
  let late := fun (kc : Nat × Ctx) => if kc.2.sched.spine = .free ∨ s.able kc.1 = true then kc else
    (kc.1, { kc.2 with sched := { kc.2.sched with readyAt := Nat.max kc.2.sched.readyAt (s.clk + n) } })
  { s with clk := s.clk + n, dtime := s.dtime + t / 24000000, frac := t % 24000000, ctxs := s.ctxs.map late }

/-! ### The agenda -/

/-- A constructor that is one of the part's own steps, and not a word or what a word does. -/
def ownStep (i : Instr) : Bool :=
  match i with
  | .illegal | .mxovfRead _ | .wpRead _ _ | .prioWrite _ | .htabWrite _ | .mxidleWrite _ | .reservedEncoding _ => false
  | i => encode i == 0

/-- The host or an expander writes a byte of its own memory (R286). -/
def State.hostWrites (s : State) (pa : Nat) (b : Byte) : State := if inHost pa then s.physWrite pa 1 b.toNat else s

/-- The kernel-core service binds a function to a tenant, or unbinds it (R389). -/
def State.bindVf (s : State) (fn : Nat) (t : Option Byte) : State :=
  { s with vfs := SMap.write {} s.vfs fn { (SMap.read {} s.vfs fn : VFun) with tenant := t } }

/-- What the head of the agenda does. -/
noncomputable def State.takeTurn (s : State) (t : Turn) : Out :=
  match t with
  | .issue cid => s.issueTurn cid
  | .event i => if ownStep i then exec i s else .next s
  | .elapse n => .next (s.elapse n)
  | .inbound f => .next (s.inbound f)
  | .answer n a => .next (s.remoteAnswer n a)
  | .poison line => .next (s.poisonLine line)
  | .cacheError line => .next (s.cacheError line)
  | .stashError k w => .next (s.stashError k w)
  | .eccError ch line uncorr => .next (s.countError ch line uncorr)
  | .laneError m lane => .next (s.countLane m lane)
  | .hostByte pa b => .next (s.hostWrites pa b)
  | .hostLink down => .next { s with tierDown := down }
  | .pairData x => .next (s.pairArrives x)
  | .pairStart l => .next (s.pairStarts l)
  | .hartMode h mode => .next (s.setHartMode h mode)
  | .bar0Read fn off => .next (s.bar0Read fn off)
  | .vwin fn v => .next (s.writeVwin fn v)
  | .flash img => .next { s with flash := img }
  | .bindVf fn t => .next (s.bindVf fn t)
  | .raiseSvn n => .next { s with svnMin := Nat.max s.svnMin n }

/-- The part must be reset: an essential module of the I/O die is DOWN (R398), or STAGE is 6 (R409). -/
def State.stuck! (s : State) : Bool := s.dead || s.stage == 6

/-! ### The part by itself (log entry 1) -/

/-- The steps an engine of a core may take. -/
def engineSteps (k : Nat) : List (State → Out) :=
  let g : BitVec 6 := BitVec.ofNat 6 (k / 16)
  let c : BitVec 4 := BitVec.ofNat 4 (k % 16)
  [execMxZero g c, execMxMul g c, execMxSpmul g c, execMxEpi g c, execMxBase g c,
   execCpCopy g c 0, execCpCopy2d g c 0, execCpGather g c 0, execCpScatter g c 0, execCpPlane g c 0, execCpDecode g c 0, execCpFill g c 0, execCpTotier g c 0,
   execCpCopy g c 1, execCpCopy2d g c 1, execCpGather g c 1, execCpScatter g c 1, execCpPlane g c 1, execCpDecode g c 1, execCpFill g c 1, execCpTotier g c 1,
   execEngineCompletion g c 0 0, execEngineCompletion g c 1 0, execEngineCompletion g c 2 0, execEngineCompletion g c 3 0,
   execHandlerDispatch g c, execStealRequest g c, execStealRoundWait g c, execMatrixPowerGate g c]

/-- DEADLOCK of a cycle of edges on this device; one that leaves it is for the surroundings (R195). -/
def ownDeadlock (cid : Nat) (s : State) : Out :=
  match s.chase cid 4096 cid cid with
  | .closed _ => execDeadlock (BitVec.ofNat 12 cid) s
  | _ => .next s

/-- A context that waits for something other than its issue looks at it again. -/
noncomputable def State.look (cid : Nat) (s : State) : Out := if (s.ctxOf cid).sched.wait.issues then .next s else s.turn cid

/-- The steps about one context. -/
noncomputable def ctxSteps (cid : Nat) : List (State → Out) :=
  let x : BitVec 12 := BitVec.ofNat 12 cid
  [State.look cid, execSfuReturn x, execStashFill x, execLdvDeadline x, execWaitvDeadline x, execJoiningAttached x, execJoinTimeout x, execMemoryInboxDrain x,
   execWaitForEdge x, ownDeadlock cid, execAmoArrival x, execBudgetExhausted x]

/-- The steps of a gathering. -/
def gathSteps (g : Nat) : List (State → Out) :=
  let x : BitVec 6 := BitVec.ofNat 6 g
  [execSfuStart x 0, execSfuStart x 1, execStreamHoldTimeout x 0, execStreamHoldTimeout x 1, execStreamHoldTimeout x 2, execStreamHoldTimeout x 3,
   execStreamDeliver x 0, execStreamDeliver x 1, execStreamDeliver x 2, execStreamDeliver x 3, execLoadAverage x]

/-- The steps of the cycle engine. -/
def cycleSteps (s : State) : List (State → Out) :=
  ((List.range 8).filter fun d => (SMap.read {} s.doms d : Dom).en).flatMap fun d =>
    let x : BitVec 3 := BitVec.ofNat 3 d
    [execCycleStart x, execLatch x]
      ++ ((List.range 256).flatMap fun n => [execSlotInstant x (BitVec.ofNat 8 n), execDeferredLaunch x (BitVec.ofNat 8 n)])
      ++ [execEgress x]

/-- The launch unit's steps: queues, tasks of launches, completion. -/
def launchSteps (s : State) : List (State → Out) :=
  (((List.range 1024).filter s.lqEn).map fun q => execQueuePoll (BitVec.ofNat 10 q))
    ++ (if s.launches.isEmpty then [] else (List.range 4096).filterMap fun cid =>
        if (s.freeFor cid).isSome then some (execTaskStart (BitVec.ofNat 12 cid)) else none)
    ++ (s.launches.map fun l => execLaunchComplete l.id) ++ s.unmaps.map fun n => execImageUnmap n

/-- The steps of the memory system, of messages and of trees that are under way. -/
def flowSteps (s : State) : List (State → Out) :=
  (s.flights.flatMap fun f => [execMessageArrival f.1, execSendAnswer f.1, execResend f.1])
    ++ (s.walks.flatMap fun w => [execWalk w.1, execWalkEnd w.1])
    ++ (s.moves.flatMap fun m => [execUpMove (BitVec.ofNat 26 m.gran), execDownMove (BitVec.ofNat 26 m.gran)])
    ++ (s.pulls.flatMap fun p => [execPullTimeout p.1] ++ if p.2.page.isSome then [execPullResponse p.1 []] else [])
    ++ (s.treeQ.flatMap fun t => [execTrCfg t.1, execTrIns t.1, execTrDraw t.1, execTrUpd t.1, execTrQry t.1])

/-- The steps of partitions, windows and links. -/
def deviceSteps (s : State) : List (State → Out) :=
  (((List.range 64).filter s.pvalid).flatMap fun p =>
      [execTenantSwitch (BitVec.ofNat 6 p), execPartitionResize (BitVec.ofNat 6 p), execSliceExpiry (BitVec.ofNat 6 p)])
    ++ (s.vwins.map fun w => execVwDeadline (BitVec.ofNat 6 w.1))
    ++ (s.ports.map fun p => execGclInterval (BitVec.ofNat 3 p.1))
    ++ [execXinvDone, execGinvDone 0, execGinvDone 1, execGinvDone 2, execGinvDone 3, execHoldover, execPairLoss, execResyncCopyEnd]

/-- Every step that may be due, in the order in which they are tried. -/
noncomputable def State.dueSteps (s : State) : List (State → Out) :=
  cycleSteps s ++ flowSteps s ++ (s.cores.flatMap fun k => engineSteps k.1) ++ (s.ctxs.flatMap fun c => ctxSteps c.1)
    ++ (s.gaths.flatMap fun g => gathSteps g.1) ++ launchSteps s ++ deviceSteps s

/-- The first step of a list that changes the state. -/
def firstChange (s : State) : List (State → Out) → Option State
  | [] => none
  | f :: l =>
    match f s with
    | .next t => if t = s then firstChange s l else some t
    | _ => firstChange s l

/-- The first core that has a context to issue from; and that context. -/
noncomputable def State.nextIssuer (s : State) : List Nat → Option Nat
  | [] => none
  | k :: l => (s.issuer k).or (s.nextIssuer l)

/-- With an empty agenda: a step that is due, else one issue of a core that has a ready context, else a clock passes. -/
noncomputable def State.byItself (s : State) : Out :=
  match firstChange s s.dueSteps with
  | some t => .next t
  | none =>
    match s.nextIssuer (s.ctxs.map fun c => coreKey c.1).eraseDups with
    | some cid => s.turn cid
    | none => .next (s.elapse 1)

end Sys2Proof.Machine
end

