-- ==== Sys2Proof/Machine/Step.lean ====
section
/-! DEFINITION. The step of the part, and placing one instruction where the next step fetches it. -/

namespace Sys2Proof.Machine

/-- One step: the head of the agenda, or with an empty agenda what the part does by itself (log entry 1). A part that must be reset
(R398, R409) takes no step but POWER_ON_RESET. -/
noncomputable def step (s : State) : Host.Outcome State Fault Refusal :=
  match s.agenda with
  | .event .powerOnReset :: rest => exec .powerOnReset { s with agenda := rest }
  | t :: rest => if s.stuck! then .fault .mustBeReset else { s with agenda := rest }.takeTurn t
  | [] => if s.stuck! then .fault .mustBeReset else s.byItself

/-- s with the instruction of these bits as the word that context 0 fetches in the next step (log entry 3): context 0 holds a task of
tenant 0, which runs in partition 0; the word stands in its instruction memory at its PC, in a region and an
extent of the tenant that let the fetch pass, with its translation at hand; and the context's turn comes next. -/
def State.withFetchWord (s : State) (nbits w : Nat) : State :=
  let c := s.ctxOf 0
  let pc := c.regs.pc.toNat % 2 ^ 56
  let page := pc / 4096 * 4096
  let pa := pc % 4096
  let r : RegionEnt := { part := 0, base := page, len := 4096, kind := kOWNED, x := true, fbk := false, depth := 2, ocls := 0, tenant := 0, owner := 0, svc := 0, frec := 0 }
  let e : CapEnt := { tenant := 0, typ := 2, rights := 4, w4 := 1, w8 := word page }
  let k := s.coreOf 0
  let s := s.setCtx 0 { c with
    regs := { c.regs with rep := none }
    ctl := { c.ctl with prioCls := 0 }
    sched := { c.sched with
      spine := .priv, readyAt := 0, l0At := 0, wait := .none, susp := none, handler := none, frozen := false, yielded := false, halted := false
      task := some { launch := 0, index := none, trec := { entry := c.regs.pc, args := [] } }
      tenant := 0
      code := Memory.writeLE c.sched.code pa 4 (w % 2 ^ nbits) } }
  let x := s.gathSt 0
  let s := s.setGath 0 { x with l1i := x.l1i.filter fun y => y.tag != { kern := false, tenant := 0, line := pc / 64 } }
  let s := s.setCore 0 { k with
    gateR := r :: k.gateR, gateC := e :: k.gateC
    tlb := { tenant := 0, va := page, log2 := 12, pa := 0, written := false } :: k.tlb, issuedAt := none }
  let s := (s.setWin (rPCFG 0) (word (2 ^ 8 + 2 ^ 63))).setWin (rPSTAT 0) 0
  { s with agenda := .issue 0 :: s.agenda }

end Sys2Proof.Machine
end

