-- ==== Sys2Proof/Safety.lean ====
section
/-! DEFINITION. What counts as a safe run, and the terms claims say a step's effect and its frame in. -/

namespace Sys2Proof

/-- n steps from a state all answer a next state. -/
def SafeFor (n : Nat) (s : Machine.State) : Prop := ∃ t, core.run n s = .next t

namespace Machine

/-- The contexts of t are those of s, but that context cid has become c. -/
def CtxIs (s t : State) (cid : Nat) (c : Ctx) : Prop := ∀ k, t.ctxOf k = if k = cid then c else s.ctxOf k

/-- The cores of t are those of s, but that core k has become c. -/
def CoreIs (s t : State) (k : Nat) (c : Core) : Prop := ∀ j, t.coreOf j = if j = k then c else s.coreOf j

/-- The gatherings of t are those of s, but that gathering g has become x. -/
def GathIs (s t : State) (g : Nat) (x : Gath) : Prop := ∀ j, t.gathSt j = if j = g then x else s.gathSt j

/-- t is s, but that context cid has become c: every other context and every other field of the state is as before, all of memory
among them. -/
def OnlyCtx (s t : State) (cid : Nat) (c : Ctx) : Prop := { t with ctxs := s.ctxs } = s ∧ CtxIs s t cid c

/-- t is s, but that core k has become c. -/
def OnlyCore (s t : State) (k : Nat) (c : Core) : Prop := { t with cores := s.cores } = s ∧ CoreIs s t k c

/-- t is s, but that gathering g has become x. -/
def OnlyGath (s t : State) (g : Nat) (x : Gath) : Prop := { t with gaths := s.gaths } = s ∧ GathIs s t g x

/-- t is s, but that the issuing context's registers have become r. -/
def OnlyRegs (s t : State) (r : Regs) : Prop := OnlyCtx s t s.cur { s.me with regs := r }

/-- Instruction i completes at s in a state that meets P. -/
def Completes (i : Instr) (s : State) (P : State → Prop) : Prop := ∃ t, exec i s = .next t ∧ P t

/-- i completes, and all it changes are the issuing context's registers: to r, with the PC moved on (R41, R56). -/
def Sets (i : Instr) (s : State) (r : Regs) : Prop := Completes i s fun t => OnlyRegs s t r.advance

/-- i completes, and all it changes are scalar register d, which takes x (s0 discards it), and the PC. -/
def SetsS (i : Instr) (s : State) (d : Reg) (x : Word) : Prop := Sets i s (s.me.regs.sset d x)

/-- i completes, and all it changes are vector register d, which takes x, and the PC. -/
def SetsV (i : Instr) (s : State) (d : Reg) (x : VReg) : Prop := Sets i s (s.me.regs.vset d x)

/-- i completes, and all it changes are predicate d, which takes x (p0 discards it), and the PC. -/
def SetsP (i : Instr) (s : State) (d : BitVec 3) (x : PReg) : Prop := Sets i s (s.me.regs.pset d x)

/-- i completes; all it changes are the issuing context's registers, to r with the PC moved on, and FFLAGS, where it sets the flags f
beside those that stand (R104). -/
def SetsF (i : Instr) (s : State) (r : Regs) (f : BitVec 5) : Prop :=
  Completes i s fun t => OnlyCtx s t s.cur { s.me with regs := r.advance, ctl := { s.me.ctl with fflags := s.me.ctl.fflags ||| f } }

/-- i leaves the state as it is: a step of the part that is not due. -/
def Idles (i : Instr) (s : State) : Prop := exec i s = .next s

end Machine

end Sys2Proof
end

