-- ==== Sys2Proof/Certificates/Slice0/Obligations.lean ====
section
/-! DEFINITION. The statements for the provers. What Completes, Sets, SetsS, SetsV, SetsP, SetsF, OnlyCtx and the like say stands in
Sys2Proof/Safety.lean: each says the whole next state, so that the frame of every instruction is part of its statement. -/

section Statements

open Sys2Proof Sys2Proof.Machine

/-! ### Scalar integers -/

/-- R125: what each INT instruction writes to sd, on every operand; s0 as sd discards the result. Nothing else changes but the PC. -/
def Sys2Proof.Claims.IntegerGroupResults : Prop := ∀ (s : State) (d a b : Reg),
  let x := s.s! a
  let y := s.s! b
  let n := y.toNat % 64
  let m := y.toNat % 32
  SetsS (.add d a b) s d (word (x.toNat + y.toNat))
  ∧ SetsS (.sub d a b) s d (wordI (x.toInt - y.toInt))
  ∧ SetsS (.and d a b) s d (word (x.toNat &&& y.toNat))
  ∧ SetsS (.or d a b) s d (word (x.toNat ||| y.toNat))
  ∧ SetsS (.xor d a b) s d (word (x.toNat ^^^ y.toNat))
  ∧ SetsS (.andn d a b) s d (x &&& (y ^^^ -1))
  ∧ SetsS (.orn d a b) s d (x ||| (y ^^^ -1))
  ∧ SetsS (.xnor d a b) s d (x ^^^ y ^^^ -1)
  ∧ SetsS (.sll d a b) s d (word (x.toNat * 2 ^ n))
  ∧ SetsS (.srl d a b) s d (word (x.toNat / 2 ^ n))
  ∧ SetsS (.sra d a b) s d (wordI (x.toInt / 2 ^ n))
  ∧ SetsS (.rol d a b) s d (x <<< n ||| x >>> (64 - n))
  ∧ SetsS (.ror d a b) s d (x >>> n ||| x <<< (64 - n))
  ∧ SetsS (.addw d a b) s d (wordI (sintN (x.toNat + y.toNat) 32))
  ∧ SetsS (.subw d a b) s d (wordI (sintN (x.toNat + 2 ^ 64 - y.toNat) 32))
  ∧ SetsS (.sllw d a b) s d (wordI (sintN (x.toNat * 2 ^ m) 32))
  ∧ SetsS (.srlw d a b) s d (wordI (sintN (x.toNat % 2 ^ 32 / 2 ^ m) 32))
  ∧ SetsS (.sraw d a b) s d (wordI (sintN x.toNat 32 / 2 ^ m))
  ∧ SetsS (.min d a b) s d (wordI (min x.toInt y.toInt))
  ∧ SetsS (.max d a b) s d (wordI (max x.toInt y.toInt))
  ∧ SetsS (.minu d a b) s d (word (min x.toNat y.toNat))
  ∧ SetsS (.maxu d a b) s d (word (max x.toNat y.toNat))
  ∧ SetsS (.addsat d a b) s d (wordI (max (-2 ^ 63) (min (2 ^ 63 - 1) (x.toInt + y.toInt))))
  ∧ SetsS (.subsat d a b) s d (wordI (max (-2 ^ 63) (min (2 ^ 63 - 1) (x.toInt - y.toInt))))

/-- R126: the compares write 1 or 0; CMOVZ writes a only when b = 0, CMOVNZ only when b is not 0, and otherwise sd stays. -/
def Sys2Proof.Claims.CompareAndSelectResults : Prop := ∀ (s : State) (d a b : Reg),
  let x := s.s! a
  let y := s.s! b
  SetsS (.seq d a b) s d (if x.toNat = y.toNat then 1 else 0)
  ∧ SetsS (.sne d a b) s d (if x.toNat = y.toNat then 0 else 1)
  ∧ SetsS (.slt d a b) s d (if x.toInt < y.toInt then 1 else 0)
  ∧ SetsS (.sltu d a b) s d (if x.toNat < y.toNat then 1 else 0)
  ∧ SetsS (.sge d a b) s d (if x.toInt < y.toInt then 0 else 1)
  ∧ SetsS (.sgeu d a b) s d (if x.toNat < y.toNat then 0 else 1)
  ∧ Sets (.cmovz d a b) s (if y.toNat = 0 then s.me.regs.sset d x else s.me.regs)
  ∧ Sets (.cmovnz d a b) s (if y.toNat = 0 then s.me.regs else s.me.regs.sset d x)

/-- R125, R126: the INT group, and the compares and conditional moves. -/
def Obligations.IntegerAndCompareResults : Prop :=
  Sys2Proof.Claims.IntegerGroupResults ∧ Sys2Proof.Claims.CompareAndSelectResults

/-- R127: counts, reversals and fields. Bit i of a result is said where the rule says it so; pos and wid are the field's. -/
def Sys2Proof.Claims.BitGroupResults : Prop := ∀ (s : State) (d a b : Reg),
  let x := s.s! a
  let y := s.s! b
  let pos := y.toNat % 64
  let wid := min (y.toNat / 2 ^ 8 % 64 + 1) (64 - pos)
  (∃ n : Nat, SetsS (.clz d a) s d (word n) ∧ (if x = 0 then n = 64 else n < 64 ∧ x.getLsbD (63 - n) ∧ ∀ i, 63 - n < i → x.getLsbD i = false))
  ∧ (∃ n : Nat, SetsS (.ctz d a) s d (word n) ∧ (if x = 0 then n = 64 else n < 64 ∧ x.getLsbD n ∧ ∀ i, i < n → x.getLsbD i = false))
  ∧ SetsS (.popc d a) s d (word ((List.range 64).countP fun i => x.getLsbD i))
  ∧ (∃ r : Word, SetsS (.brev d a) s d r ∧ ∀ i, i < 64 → r.getLsbD i = x.getLsbD (63 - i))
  ∧ (∃ r : Word, SetsS (.bswap d a) s d r ∧ ∀ i, i < 64 → r.getLsbD i = x.getLsbD (56 - i / 8 * 8 + i % 8))
  ∧ SetsS (.extr d a b) s d (word (x.toNat / 2 ^ pos % 2 ^ wid))
  ∧ SetsS (.extrs d a b) s d (wordI (sintN (x.toNat / 2 ^ pos) wid))
  ∧ (∃ r : Word, SetsS (.insr d a b) s d r ∧ ∀ i, i < 64 → r.getLsbD i = if pos ≤ i ∧ i < pos + wid then x.getLsbD (i - pos) else (s.s! d).getLsbD i)

namespace Sys2Proof.Claims

/-- The quotient of R128 and its corner cases, for signed operands of n bits. -/
def quotS (n : Nat) (x y : Int) : Int :=
  if y = 0 then (if x < 0 then -2 ^ (n - 1) else 2 ^ (n - 1) - 1)
  else if x = -2 ^ (n - 1) ∧ y = -1 then 2 ^ (n - 1) - 1
  else Int.tdiv x y

/-- The remainder of R128 and its corner cases, for signed operands of n bits. -/
def modS (n : Nat) (x y : Int) : Int :=
  if y = 0 ∨ (x = -2 ^ (n - 1) ∧ y = -1) then 0 else x - y * Int.tdiv x y

end Sys2Proof.Claims

open Sys2Proof.Claims

/-- R128: products, quotients and remainders, with the corner cases of its table; no flag is set and nothing traps. -/
def Sys2Proof.Claims.MultiplyDivideResults : Prop := ∀ (s : State) (d a b : Reg),
  let x := s.s! a
  let y := s.s! b
  let xw := sintN x.toNat 32
  let yw := sintN y.toNat 32
  let xu := x.toNat % 2 ^ 32
  let yu := y.toNat % 2 ^ 32
  SetsS (.mul d a b) s d (word (x.toNat * y.toNat))
  ∧ SetsS (.mulh d a b) s d (wordI (x.toInt * y.toInt / 2 ^ 64))
  ∧ SetsS (.mulhu d a b) s d (word (x.toNat * y.toNat / 2 ^ 64))
  ∧ SetsS (.mulhm d a b) s d (wordI (x.toInt * y.toNat / 2 ^ 64))
  ∧ SetsS (.mulw d a b) s d (wordI (sintN (x.toNat * y.toNat) 32))
  ∧ SetsS (.div d a b) s d (wordI (quotS 64 x.toInt y.toInt))
  ∧ SetsS (.rem d a b) s d (wordI (modS 64 x.toInt y.toInt))
  ∧ SetsS (.divu d a b) s d (word (if y.toNat = 0 then 2 ^ 64 - 1 else x.toNat / y.toNat))
  ∧ SetsS (.remu d a b) s d (word (if y.toNat = 0 then 0 else x.toNat % y.toNat))
  ∧ SetsS (.divw d a b) s d (wordI (quotS 32 xw yw))
  ∧ SetsS (.remw d a b) s d (wordI (modS 32 xw yw))
  ∧ SetsS (.divuw d a b) s d (wordI (sintN (if yu = 0 then 2 ^ 32 - 1 else xu / yu) 32))
  ∧ SetsS (.remuw d a b) s d (wordI (sintN (if yu = 0 then 0 else xu % yu) 32))

/-- R129, R61: the immediate groups. The PC of ADDPC is the address of its own word, inside a REP that of the governed word. -/
def Sys2Proof.Claims.ImmediateGroupResults : Prop := ∀ (s : State) (d a : Reg) (i : BitVec 16) (n : BitVec 6) (m : BitVec 5) (j : BitVec 15) (u : BitVec 21),
  let x := s.s! a
  SetsS (.addi d a i) s d (wordI (x.toInt + i.toInt))
  ∧ SetsS (.andi d a i) s d (x &&& wordI i.toInt)
  ∧ SetsS (.ori d a i) s d (word (x.toNat ||| i.toNat))
  ∧ SetsS (.xori d a i) s d (word (x.toNat ^^^ i.toNat))
  ∧ SetsS (.slli d a n) s d (word (x.toNat * 2 ^ n.toNat))
  ∧ SetsS (.srli d a n) s d (word (x.toNat / 2 ^ n.toNat))
  ∧ SetsS (.srai d a n) s d (wordI (x.toInt / 2 ^ n.toNat))
  ∧ SetsS (.rori d a n) s d (x >>> n.toNat ||| x <<< (64 - n.toNat))
  ∧ SetsS (.slliw d a m) s d (wordI (sintN (x.toNat * 2 ^ m.toNat) 32))
  ∧ SetsS (.srliw d a m) s d (wordI (sintN (x.toNat % 2 ^ 32 / 2 ^ m.toNat) 32))
  ∧ SetsS (.sraiw d a m) s d (wordI (sintN x.toNat 32 / 2 ^ m.toNat))
  ∧ SetsS (.slti d a j) s d (if x.toInt < j.toInt then 1 else 0)
  ∧ SetsS (.sltiu d a j) s d (if x.toNat < (wordI j.toInt).toNat then 1 else 0)
  ∧ SetsS (.lui d u) s d (wordI (u.toInt * 2 ^ 16))
  ∧ SetsS (.addpc d u) s d (wordI ((if s.me.regs.rep = none then s.me.regs.pc else s.me.regs.pc + 4).toInt + u.toInt * 2 ^ 16))

/-- R127, R128, R129, R61: bit fields, products and quotients, and the immediate groups. -/
def Obligations.BitsProductsAndImmediates : Prop :=
  Sys2Proof.Claims.BitGroupResults ∧ Sys2Proof.Claims.MultiplyDivideResults ∧ Sys2Proof.Claims.ImmediateGroupResults

/-! ### Scalar floating point -/

namespace Sys2Proof.Claims

/-- The operand of a format in a register: its low bits (R131). -/
def operand (s : State) (f : Fmt) (i : Reg) : Nat := (s.s! i).toNat % 2 ^ f.w

/-- The mode an rm field selects: FRM for 4 (R53, R131). -/
def modeOf (s : State) (r : BitVec 3) : Mode := if r.toNat = 4 then s.me.ctl.frm else BitVec.ofNat 2 r.toNat

/-- i completes as an FP instruction does: sd takes the code of r, zero above it, FFLAGS the flags of r beside its own (R131). -/
def Float (i : Instr) (s : State) (d : Reg) (r : Rounded) : Prop := SetsF i s (s.me.regs.sset d (word r.1)) r.2

/-- a is below b as FMIN and FMAX order codes that are not NaN: -0 below +0 (R133). -/
def below (f : Fmt) (a b : Nat) : Bool :=
  if f.neg a then (if f.neg b then decide (f.mag b < f.mag a) else true) else (if f.neg b then false else decide (f.mag a < f.mag b))

/-- What FMIN and FMAX give (R133). -/
def minMax (f : Fmt) (first : Bool) (a b : Nat) : Rounded :=
  let fl := if f.isSNaN a ∨ f.isSNaN b then fInvalid else fNone
  if f.isNaN a ∧ f.isNaN b then (f.nan, fl) else if f.isNaN a then (b, fl) else if f.isNaN b then (a, fl)
  else if first then (a, fl) else (b, fl)

end Sys2Proof.Claims

/-- R131, R132, R134: the rounding ops write RoundFP of the exact result, rounded once, and add its flags to FFLAGS; FMAC and FNMAC read
sd as the addend; the integer conversions clamp as R105 says. None of them traps. -/
def Sys2Proof.Claims.FloatRoundingResults : Prop := ∀ (s : State) (d a b : Reg) (r : BitVec 3) (p : BitVec 2) (c : BitVec 5),
  let f := precFmt p.toNat
  let m := modeOf s r
  let x := operand s f a
  let y := operand s f b
  let z := operand s f d
  Float (.fadd d a b r p) s d (fpAdd f m x y)
  ∧ Float (.fsub d a b r p) s d (fpSub f m x y)
  ∧ Float (.fmul d a b r p) s d (fpMul f m x y)
  ∧ Float (.fdiv d a b r p) s d (fpDiv f m x y)
  ∧ Float (.fsqrt d a r p) s d (fpSqrt f m x)
  ∧ Float (.fmac d a b r p) s d (fpFma f m false x y z)
  ∧ Float (.fnmac d a b r p) s d (fpFma f m true x y z)
  ∧ Float (.fcvtfl d a r p) s d (roundFP f m (intVal (s.s! a).toInt))
  ∧ Float (.fcvtflu d a r p) s d (roundFP f m (intVal (s.s! a).toNat))
  ∧ (let g := precFmt c.toNat
     let w := operand s g a
     Float (.fcvtf d a c r p) s d
       (if c.toNat ≠ p.toNat then fpConvert g f m w else if g.isSNaN w then (g.nan, fInvalid) else (w, fNone)))
  ∧ SetsF (.fcvtl d a r p) s (s.me.regs.sset d (wordI (toIntRange m (-2 ^ 63) (2 ^ 63 - 1) (f.val x)).1)) (toIntRange m (-2 ^ 63) (2 ^ 63 - 1) (f.val x)).2
  ∧ SetsF (.fcvtlu d a r p) s (s.me.regs.sset d (wordI (toIntRange m 0 (2 ^ 64 - 1) (f.val x)).1)) (toIntRange m 0 (2 ^ 64 - 1) (f.val x)).2

/-- R133: the ops that do not round. The sign copies raise no flag and write no FFLAGS; the minima and maxima copy an operand exactly; a
compare with a NaN is false, and raises invalid for a signalling NaN (FEQ) or any NaN (FLT, FLE). -/
def Sys2Proof.Claims.FloatNonRoundingResults : Prop := ∀ (s : State) (d a b : Reg) (p : BitVec 2),
  let f := precFmt p.toNat
  let x := operand s f a
  let y := operand s f b
  let nan := f.isNaN x ∨ f.isNaN y
  let snan := f.isSNaN x ∨ f.isSNaN y
  let zero := f.mag x = 0 ∧ f.mag y = 0
  SetsS (.fcpys d a b p) s d (word (f.enc (f.neg y) (f.mag x)))
  ∧ SetsS (.fcpysn d a b p) s d (word (f.enc (!f.neg y) (f.mag x)))
  ∧ SetsS (.fcpysx d a b p) s d (word (f.enc (f.neg x != f.neg y) (f.mag x)))
  ∧ Float (.fmin d a b p) s d (minMax f (!below f y x) x y)
  ∧ Float (.fmax d a b p) s d (minMax f (below f y x) x y)
  ∧ Float (.feq d a b p) s d (if ¬ nan ∧ (zero ∨ x = y) then 1 else 0, if snan then fInvalid else fNone)
  ∧ Float (.flt d a b p) s d (if ¬ nan ∧ ¬ zero ∧ below f x y then 1 else 0, if nan then fInvalid else fNone)
  ∧ Float (.fle d a b p) s d (if ¬ nan ∧ (zero ∨ ¬ below f y x) then 1 else 0, if nan then fInvalid else fNone)
  ∧ ∃ k, SetsS (.fkind d a p) s d (word k)
      ∧ (f.isSNaN x → k = 9) ∧ (f.isNaN x ∧ ¬ f.isSNaN x → k = 8)
      ∧ (¬ f.isNaN x → k = (if f.neg x then 4 else 0) + (if f.mag x = 0 then 0 else if f.mag x < 2 ^ f.m then 1 else if f.mag x = f.infCode then 3 else 2))

/-- R131 to R134: the scalar floating-point words, those that round and those that do not. -/
def Obligations.FloatResults : Prop :=
  Sys2Proof.Claims.FloatRoundingResults ∧ Sys2Proof.Claims.FloatNonRoundingResults

/-- R132, R102: the special cases, in every format of the scalar group and every mode, on every operand. A zero divisor of a finite
nonzero value gives infinity and raises divide by zero; 0 / 0, infinity / infinity, zero times infinity (even with a quiet NaN
to add), infinities of opposite sign summed, and the square root of anything below zero give the canonical NaN and raise
invalid; the square root of -0 is -0. -/
def Sys2Proof.Claims.FloatSpecialCases : Prop := ∀ (p : BitVec 2) (m : Mode) (a b c : Nat) (s t : Bool) (n k : Nat) (x y : Int),
  let f := precFmt p.toNat
  (f.val a = .fin s n x → n ≠ 0 → f.val b = .fin t 0 y → fpDiv f m a b = (f.enc (s != t) f.infCode, fDivZero))
  ∧ (f.val a = .fin s 0 x → f.val b = .fin t 0 y → fpDiv f m a b = (f.nan, fInvalid))
  ∧ (f.val a = .inf s → f.val b = .inf t → fpDiv f m a b = (f.nan, fInvalid))
  ∧ (f.val a = .fin s n x → f.val b = .inf t → fpDiv f m a b = (f.enc (s != t) 0, fNone))
  ∧ (f.val a = .fin s 0 x → f.val b = .inf t → fpMul f m a b = (f.nan, fInvalid))
  ∧ (f.val a = .fin s 0 x → f.val b = .inf t → fpFma f m false a b c = (f.nan, fInvalid) ∧ fpFma f m true a b c = (f.nan, fInvalid))
  ∧ (f.val a = .inf s → f.val b = .inf (!s) → fpAdd f m a b = (f.nan, fInvalid))
  ∧ (f.val a = .inf s → f.val b = .inf s → fpAdd f m a b = (f.enc s f.infCode, fNone) ∧ fpSub f m a b = (f.nan, fInvalid))
  ∧ (f.val a = .fin true n x → n ≠ 0 → fpSqrt f m a = (f.nan, fInvalid))
  ∧ (f.val a = .inf true → fpSqrt f m a = (f.nan, fInvalid))
  ∧ (f.val a = .fin s 0 x → fpSqrt f m a = (f.enc s 0, fNone))
  ∧ (f.val a = .nan → (fpSqrt f m a).1 = f.nan ∧ (fpAdd f m a b).1 = f.nan ∧ (fpMul f m a b).1 = f.nan ∧ (fpDiv f m a b).1 = f.nan)
  ∧ (f.val a = .fin s n x → f.val b = .fin (!s) k y → n * 2 ^ (x - min x y).toNat = k * 2 ^ (y - min x y).toNat → n ≠ 0 →
      fpAdd f m a b = (f.enc (m == 2) 0, fNone))

/-- R104, R105: rounding a value that a format represents gives its own code, in every mode, and raises no flag. -/
def Sys2Proof.Claims.RepresentableValuesRoundExactly : Prop := ∀ (f : Fmt) (m : Mode) (c : Nat),
  f ∈ [fp64, fp32, fp16, bf16, e4m3, e5m2] → c < 2 ^ f.w → f.isNaN c = false → roundFP f m (f.val c) = (c, fNone)

/-- R102, R104, R105, R132: the special cases, and that a value the format represents rounds to itself. -/
def Obligations.FloatSpecialsAndRepresentables : Prop :=
  Sys2Proof.Claims.FloatSpecialCases ∧ Sys2Proof.Claims.RepresentableValuesRoundExactly

/-! ### Vectors -/

namespace Sys2Proof.Claims

/-- Element k of width w of a result under predicate p (R14, R15): what f gives where active, else zero (z = 1) or the old element. -/
def merged (s : State) (d : Reg) (p : BitVec 3) (w : Nat) (z : BitVec 1) (f : Nat → Nat) (k : Nat) : Nat :=
  if (s.p! p).getLsbD (if w = 64 then 2 * k else w * k / 32) then f k else if z = 1 then 0 else elem (s.v! d) w k

/-- i completes, changing only vd and the PC; element k of width w of vd becomes what f gives. -/
def Elems (i : Instr) (s : State) (d : Reg) (w : Nat) (f : Nat → Nat) : Prop :=
  ∃ r, SetsV i s d r ∧ ∀ k, k < 512 / w → elem r w k = f k

/-- As Elems, with the flags fl added to FFLAGS. -/
def ElemsF (i : Instr) (s : State) (d : Reg) (w : Nat) (f : Nat → Nat) (fl : BitVec 5) : Prop :=
  ∃ r, SetsF i s (s.me.regs.vset d r) fl ∧ ∀ k, k < 512 / w → elem r w k = f k

/-- The flags of the active elements of width w together (R212). -/
def flagsOf (s : State) (p : BitVec 3) (w : Nat) (f : Nat → BitVec 5) : BitVec 5 :=
  ((List.range (512 / w)).filter fun k => (s.p! p).getLsbD (if w = 64 then 2 * k else w * k / 32)).foldl (fun acc k => acc ||| f k) 0

/-- A two-operand FP form (R212, R215): element k from op, rounded once; the flags of the active elements accumulate. -/
def Float2 (i : Instr) (s : State) (d a b : Reg) (p : BitVec 3) (f : Fmt) (z : BitVec 1) (op : Nat → Nat → Nat → Rounded) : Prop :=
  let r := fun k => op (elem (s.v! a) f.w k) (elem (s.v! b) f.w k) (elem (s.v! d) f.w k)
  ElemsF i s d f.w (merged s d p f.w z fun k => (r k).1 % 2 ^ f.w) (flagsOf s p f.w fun k => (r k).2)

/-- The combination R214 makes of adjacent present or absent elements, level by level, until one is left. -/
def tree {α : Type} (f : α → α → α) : Nat → (Nat → Option α) → Option α
  | 0, node => node 0
  | n + 1, node => tree f n fun i =>
      match node (2 * i), node (2 * i + 1) with
      | some x, some y => some (f x y)
      | some x, none => some x
      | none, y => y

/-- The levels of the tree over 512 / w elements. -/
def levels (w : Nat) : Nat := if w = 8 then 6 else if w = 16 then 5 else if w = 32 then 4 else 3

/-- Element k of va where it is active, absent elsewhere (R214). -/
def leaf (s : State) (a : Reg) (p : BitVec 3) (w : Nat) (k : Nat) : Option Nat :=
  if (s.p! p).getLsbD (if w = 64 then 2 * k else w * k / 32) then some (elem (s.v! a) w k) else none

/-- An integer reduction (R214): element 0 of vd is the tree's value, or zero with every element absent, and the rest are zero. -/
def Reduces (i : Instr) (s : State) (d a : Reg) (p : BitVec 3) (w : Nat) (f : Nat → Nat → Nat) : Prop :=
  Elems i s d w fun k => if k = 0 then (tree f (levels w) (leaf s a p w)).getD 0 else 0

/-- The format of a VFP word (R69). -/
def vecFmt (e f : BitVec 1) : Fmt := if e = 0 then fp32 else if f = 0 then fp16 else bf16

/-- A compare writes pd bit by bit (R216): for narrow elements the AND over those it governs, for 64-bit ones the result twice; a bit whose
governing bit, for 64-bit elements the even one of the pair, is 0 becomes 0 with z = 1 and is kept with z = 0. -/
def compared (s : State) (d p : BitVec 3) (w : Nat) (z : BitVec 1) (c : Nat → Prop) (q : PReg) : Prop :=
  ∀ i, i < 16 → (q.getLsbD i = true ↔
    if (s.p! p).getLsbD (if w = 64 then i / 2 * 2 else i) then (if w = 64 then c (i / 2) else ∀ k, w * k / 32 = i → k < 512 / w → c k)
    else z = 0 ∧ (s.p! d).getLsbD i = true)

/-- An integer compare: pd takes such a predicate, and nothing else changes but the PC. -/
def Compares (i : Instr) (s : State) (d : BitVec 3) (a b : Reg) (p : BitVec 3) (e : BitVec 2) (z : BitVec 1) (c : Nat → Nat → Nat → Prop) : Prop :=
  ∃ q, SetsP i s d q ∧ compared s d p (ewidth e) z (fun k => c (ewidth e) (elem (s.v! a) (ewidth e) k) (elem (s.v! b) (ewidth e) k)) q

/-- An FP compare, with its flags. -/
def ComparesF (i : Instr) (s : State) (d : BitVec 3) (a b : Reg) (p : BitVec 3) (f : Fmt) (z : BitVec 1) (c : Nat → Nat → Bool × BitVec 5) : Prop :=
  ∃ q, SetsF i s (s.me.regs.pset d q) (flagsOf s p f.w fun k => (c (elem (s.v! a) f.w k) (elem (s.v! b) f.w k)).2)
    ∧ compared s d p f.w z (fun k => (c (elem (s.v! a) f.w k) (elem (s.v! b) f.w k)).1 = true) q

end Sys2Proof.Claims

/-- R213: every VINT form, per active element of any width, inactive elements zeroed or kept; VBCAST and VDOT4 as their rows say. No
flag is raised. -/
def Sys2Proof.Claims.VectorIntegerResults : Prop := ∀ (s : State) (d a b : Reg) (p : BitVec 3) (e : BitVec 2) (z : BitVec 1),
  let w := ewidth e
  let x := fun k => elem (s.v! a) w k
  let y := fun k => elem (s.v! b) w k
  let o := fun k => elem (s.v! d) w k
  let sx := fun k => sintN (x k) w
  let sy := fun k => sintN (y k) w
  let lim := fun (v : Int) => ofInt w (max (-2 ^ (w - 1)) (min (2 ^ (w - 1) - 1) v))
  let M := merged s d p w z
  Elems (.vadd d a b p e z) s d w (M fun k => (x k + y k) % 2 ^ w)
  ∧ Elems (.vsub d a b p e z) s d w (M fun k => (x k + 2 ^ w - y k) % 2 ^ w)
  ∧ Elems (.vmul d a b p e z) s d w (M fun k => x k * y k % 2 ^ w)
  ∧ Elems (.vmulh d a b p e z) s d w (M fun k => ofInt w (sx k * sy k / 2 ^ w))
  ∧ Elems (.vmulhu d a b p e z) s d w (M fun k => x k * y k / 2 ^ w)
  ∧ Elems (.vmin d a b p e z) s d w (M fun k => if sx k ≤ sy k then x k else y k)
  ∧ Elems (.vmax d a b p e z) s d w (M fun k => if sx k ≤ sy k then y k else x k)
  ∧ Elems (.vminu d a b p e z) s d w (M fun k => min (x k) (y k))
  ∧ Elems (.vmaxu d a b p e z) s d w (M fun k => max (x k) (y k))
  ∧ Elems (.vand d a b p e z) s d w (M fun k => x k &&& y k)
  ∧ Elems (.vor d a b p e z) s d w (M fun k => x k ||| y k)
  ∧ Elems (.vxor d a b p e z) s d w (M fun k => x k ^^^ y k)
  ∧ Elems (.vsll d a b p e z) s d w (M fun k => x k * 2 ^ (y k % w) % 2 ^ w)
  ∧ Elems (.vsrl d a b p e z) s d w (M fun k => x k / 2 ^ (y k % w))
  ∧ Elems (.vsra d a b p e z) s d w (M fun k => ofInt w (sx k / 2 ^ (y k % w)))
  ∧ Elems (.vadds d a b p e z) s d w (M fun k => lim (sx k + sy k))
  ∧ Elems (.vsubs d a b p e z) s d w (M fun k => lim (sx k - sy k))
  ∧ Elems (.vaddsu d a b p e z) s d w (M fun k => min (x k + y k) (2 ^ w - 1))
  ∧ Elems (.vsubsu d a b p e z) s d w (M fun k => x k - y k)
  ∧ Elems (.vabs d a p e z) s d w (M fun k => (sx k).natAbs % 2 ^ w)
  ∧ Elems (.vmac d a b p e z) s d w (M fun k => (o k + x k * y k) % 2 ^ w)
  ∧ Elems (.vbcast d a e) s d w (fun _ => (s.s! a).toNat % 2 ^ w)
  ∧ Elems (.vdot4 d a b p z) s d 32 (merged s d p 32 z fun k =>
      ofInt 32 (elem (s.v! d) 32 k + ((List.range 4).map fun j => sintN (elem (s.v! a) 8 (4 * k + j)) 8 * sintN (elem (s.v! b) 8 (4 * k + j)) 8).sum))

/-- R214: the reductions are the fixed pairwise tree over the active elements, each FP combination rounding and raising flags on its
own; element 0 takes the value, every other element becomes zero. -/
def Obligations.ReductionsAreThePairwiseTree : Prop := ∀ (s : State) (d a : Reg) (p : BitVec 3) (e : BitVec 2) (g f : BitVec 1),
  let w := ewidth e
  let m := s.me.ctl.frm
  let fm := vecFmt g f
  let up := fun (op : Nat → Nat → Rounded) =>
    ((tree (fun (x y : Rounded) => ((op x.1 y.1).1, (op x.1 y.1).2 ||| (x.2 ||| y.2))) (levels fm.w) fun k => (leaf s a p fm.w k).map fun c => (c, (0 : BitVec 5))).getD (0, 0))
  let F := fun (i : Instr) (op : Nat → Nat → Rounded) => ElemsF i s d fm.w (fun k => if k = 0 then (up op).1 % 2 ^ fm.w else 0) (up op).2
  Reduces (.vredadd d a p e) s d a p w (fun x y => (x + y) % 2 ^ w)
  ∧ Reduces (.vredmin d a p e) s d a p w (fun x y => if sintN x w ≤ sintN y w then x else y)
  ∧ Reduces (.vredmax d a p e) s d a p w (fun x y => if sintN x w ≤ sintN y w then y else x)
  ∧ Reduces (.vredminu d a p e) s d a p w (fun x y => min x y)
  ∧ Reduces (.vredmaxu d a p e) s d a p w (fun x y => max x y)
  ∧ F (.vfredadd d a p g f) (fpAdd fm m)
  ∧ F (.vfredmax d a p g f) (fpMinMax fm true)
  ∧ F (.vfredmin d a p g f) (fpMinMax fm false)

/-- R215: VFP per active element, rounded once in FRM, with the flags of the active elements; VFABS and VFNEG copy bits and raise
none; VFDOT2 rounds the exact sum of three terms to FP32. -/
def Sys2Proof.Claims.VectorFloatResults : Prop := ∀ (s : State) (d a b : Reg) (p : BitVec 3) (e z f : BitVec 1),
  let fm := vecFmt e f
  let m := s.me.ctl.frm
  let h := vecFmt 1 f
  let dot := fun k => fpDot2 h m (elem (s.v! a) 16 (2 * k)) (elem (s.v! b) 16 (2 * k)) (elem (s.v! a) 16 (2 * k + 1)) (elem (s.v! b) 16 (2 * k + 1)) (elem (s.v! d) 32 k)
  Float2 (.vfadd d a b p e z f) s d a b p fm z (fun x y _ => fpAdd fm m x y)
  ∧ Float2 (.vfsub d a b p e z f) s d a b p fm z (fun x y _ => fpSub fm m x y)
  ∧ Float2 (.vfmul d a b p e z f) s d a b p fm z (fun x y _ => fpMul fm m x y)
  ∧ Float2 (.vfma d a b p e z f) s d a b p fm z (fun x y o => fpFma fm m false x y o)
  ∧ Float2 (.vfms d a b p e z f) s d a b p fm z (fun x y o => fpFma fm m true x y o)
  ∧ Float2 (.vfmin d a b p e z f) s d a b p fm z (fun x y _ => fpMinMax fm false x y)
  ∧ Float2 (.vfmax d a b p e z f) s d a b p fm z (fun x y _ => fpMinMax fm true x y)
  ∧ Elems (.vfabs d a p e z f) s d fm.w (merged s d p fm.w z fun k => elem (s.v! a) fm.w k % 2 ^ (fm.w - 1))
  ∧ Elems (.vfneg d a p e z f) s d fm.w (merged s d p fm.w z fun k => (elem (s.v! a) fm.w k + 2 ^ (fm.w - 1)) % 2 ^ fm.w)
  ∧ ElemsF (.vfdot2 d a b p z f) s d 32 (merged s d p 32 z fun k => (dot k).1 % 2 ^ 32) (flagsOf s p 32 fun k => (dot k).2)

/-- R216: the compares, bit by bit of pd; pd may be p0, whose write is discarded. -/
def Sys2Proof.Claims.VectorCompareResults : Prop := ∀ (s : State) (d p : BitVec 3) (a b : Reg) (e : BitVec 2) (g z : BitVec 1),
  let f := vecFmt g 0
  Compares (.vceq d a b p e z) s d a b p e z (fun _ x y => x = y)
  ∧ Compares (.vcne d a b p e z) s d a b p e z (fun _ x y => x ≠ y)
  ∧ Compares (.vclt d a b p e z) s d a b p e z (fun w x y => sintN x w < sintN y w)
  ∧ Compares (.vcle d a b p e z) s d a b p e z (fun w x y => sintN x w ≤ sintN y w)
  ∧ Compares (.vcltu d a b p e z) s d a b p e z (fun _ x y => x < y)
  ∧ Compares (.vcleu d a b p e z) s d a b p e z (fun _ x y => x ≤ y)
  ∧ ComparesF (.vfceq d a b p g z) s d a b p f z (fpCompare f 0)
  ∧ ComparesF (.vfclt d a b p g z) s d a b p f z (fpCompare f 1)
  ∧ ComparesF (.vfcle d a b p g z) s d a b p f z (fpCompare f 2)
  ∧ ComparesF (.vfcun d a b p g z) s d a b p f z (fpUnordered f)
  ∧ ComparesF (.vfceqBf d a b p z) s d a b p bf16 z (fpCompare bf16 0)
  ∧ ComparesF (.vfcltBf d a b p z) s d a b p bf16 z (fpCompare bf16 1)
  ∧ ComparesF (.vfcleBf d a b p z) s d a b p bf16 z (fpCompare bf16 2)
  ∧ ComparesF (.vfcunBf d a b p z) s d a b p bf16 z (fpUnordered bf16)

/-- R213, R215, R216: the integer, floating-point and compare words of the vector unit, per element. -/
def Obligations.VectorElementResults : Prop :=
  Sys2Proof.Claims.VectorIntegerResults ∧ Sys2Proof.Claims.VectorFloatResults ∧ Sys2Proof.Claims.VectorCompareResults

/-- R217: the predicate forms act on whole predicates; PFIRST keeps the lowest set bit alone. -/
def Sys2Proof.Claims.PredicateResults : Prop := ∀ (s : State) (d a b : BitVec 3) (r : Reg),
  let x := s.p! a
  let y := s.p! b
  SetsP (.pand d a b) s d (x &&& y)
  ∧ SetsP (.por d a b) s d (x ||| y)
  ∧ SetsP (.pxor d a b) s d (x ^^^ y)
  ∧ SetsP (.pandn d a b) s d (x &&& (y ^^^ 0xFFFF))
  ∧ SetsP (.pnot d a) s d (x ^^^ 0xFFFF)
  ∧ (∃ q, SetsP (.pfirst d a) s d q ∧ ∀ i, i < 16 → (q.getLsbD i = true ↔ x.getLsbD i = true ∧ ∀ j, j < i → x.getLsbD j = false))
  ∧ SetsS (.pcnt r a) s r (word ((List.range 16).countP fun i => x.getLsbD i))
  ∧ SetsP (.pset d r) s d (BitVec.ofNat 16 (s.s! r).toNat)
  ∧ SetsS (.pget r a) s r (word x.toNat)

/-- R218: the permutes. Destination elements are governed by the predicate; VCOMPR packs the selected elements and clears the rest; VINS
with an index at or above the element count changes no element; VEXT zero-extends. -/
def Sys2Proof.Claims.PermuteResults : Prop := ∀ (s : State) (d a b : Reg) (p : BitVec 3) (e : BitVec 2) (z : BitVec 1) (i : BitVec 4),
  let w := ewidth e
  let n := 512 / w
  let x := fun k => elem (s.v! a) w k
  let y := fun k => elem (s.v! b) w k
  let on := fun k => (s.p! p).getLsbD (if w = 64 then 2 * k else w * k / 32)
  let k0 := (s.s! b).toNat
  let M := merged s d p w z
  Elems (.vperm d a b p e z) s d w (M fun k => x (y k % n))
  ∧ Elems (.vsldup d a b p e z) s d w (M fun k => if k0 ≤ k then x (k - k0) else 0)
  ∧ Elems (.vslddn d a b p e z) s d w (M fun k => if k + k0 < n then x (k + k0) else 0)
  ∧ Elems (.vziplo d a b p e z) s d w (M fun k => if k % 2 = 0 then x (k / 2) else y (k / 2))
  ∧ Elems (.vziphi d a b p e z) s d w (M fun k => if k % 2 = 0 then x (n / 2 + k / 2) else y (n / 2 + k / 2))
  ∧ Elems (.vuzpe d a b p e z) s d w (M fun k => if k < n / 2 then x (2 * k) else y (2 * (k - n / 2)))
  ∧ Elems (.vuzpo d a b p e z) s d w (M fun k => if k < n / 2 then x (2 * k + 1) else y (2 * (k - n / 2) + 1))
  ∧ Elems (.vcompr d a p e) s d w (fun k => ((((List.range n).filter on).map x)[k]?).getD 0)
  ∧ Elems (.vexpnd d a p e z) s d w (M fun k => x ((List.range k).countP on))
  ∧ Elems (.vins d a b e) s d w (fun k => if k = k0 then (s.s! a).toNat % 2 ^ w else elem (s.v! d) w k)
  ∧ SetsS (.vext d a i e) s d (word (elem (s.v! a) w i.toNat))

/-- R219, R71: the conversions. A widening form reads part q of va, 16 narrow elements, into the FP32 lanes; a narrowing form writes part q
of vd and keeps the rest of vd. -/
def Sys2Proof.Claims.VectorConversionResults : Prop := ∀ (s : State) (d a : Reg) (p : BitVec 3) (g z h : BitVec 1) (q : BitVec 2),
  let m := s.me.ctl.frm
  let f := vecFmt g 0
  let x := fun k => elem (s.v! a) f.w k
  let toI := fun k => toIntRange m (-2 ^ (f.w - 1)) (2 ^ (f.w - 1) - 1) (f.val (x k))
  let toF := fun k => roundFP f m (intVal (sintN (x k) f.w))
  let wide := fun (i : Instr) (src : Fmt) (part : Nat) =>
    let r := fun k => fpConvert src fp32 m (elem (s.v! a) src.w (16 * part + k))
    ElemsF i s d 32 (merged s d p 32 z fun k => (r k).1 % 2 ^ 32) (flagsOf s p 32 fun k => (r k).2)
  let narrow := fun (i : Instr) (dst : Fmt) (part : Nat) =>
    let r := fun k => fpConvert fp32 dst m (elem (s.v! a) 32 k)
    ElemsF i s d dst.w (fun k =>
      if 16 * part ≤ k ∧ k < 16 * part + 16 then
        (if (s.p! p).getLsbD (k - 16 * part) then (r (k - 16 * part)).1 % 2 ^ dst.w else if z = 1 then 0 else elem (s.v! d) dst.w k)
      else elem (s.v! d) dst.w k) (flagsOf s p 32 fun k => (r k).2)
  ElemsF (.vcvtfi d a p g z) s d f.w (merged s d p f.w z fun k => ofInt f.w (toI k).1) (flagsOf s p f.w fun k => (toI k).2)
  ∧ ElemsF (.vcvtif d a p g z) s d f.w (merged s d p f.w z fun k => (toF k).1 % 2 ^ f.w) (flagsOf s p f.w fun k => (toF k).2)
  ∧ wide (.vcvtwh d a h p z) fp16 h.toNat
  ∧ wide (.vcvtwb d a h p z) bf16 h.toNat
  ∧ wide (.vcvtw8e4 d a q p z) e4m3 q.toNat
  ∧ wide (.vcvtw8e5 d a q p z) e5m2 q.toNat
  ∧ narrow (.vcvtnh d a h p z) fp16 h.toNat
  ∧ narrow (.vcvtnb d a h p z) bf16 h.toNat
  ∧ narrow (.vcvtn8e4 d a q p z) e4m3 q.toNat
  ∧ narrow (.vcvtn8e5 d a q p z) e5m2 q.toNat

/-- R217, R218, R219, R71: predicates, permutes and conversions. -/
def Obligations.PredicatesPermutesConversions : Prop :=
  Sys2Proof.Claims.PredicateResults ∧ Sys2Proof.Claims.PermuteResults ∧ Sys2Proof.Claims.VectorConversionResults

/-! ### Control flow, traps and the system group -/

namespace Sys2Proof.Claims

/-- The address of the word that issues (R41, R56). -/
def here (s : State) : Word := if s.me.regs.rep = none then s.me.regs.pc else s.me.regs.pc + 4

/-- i completes by going to t: all it changes are the PC and what it writes to the registers, which become r apart from the PC. -/
def GoesTo (i : Instr) (s : State) (r : Regs) (t : Word) : Prop :=
  Completes i s fun u => OnlyRegs s u { r with pc := t, ri := 0, rep := none }

/-- i raises the U-class trap of this code and value (R152). -/
def Traps (i : Instr) (s : State) (code : Byte) (val : Word) : Prop := exec i s = .next (s.trapAt s.cur code val)

/-- i raises the U-class trap of this code and value for an access of kind ak, which the record of an escalated trap names (R152, R369). -/
def TrapsAs (i : Instr) (s : State) (code : Byte) (val : Word) (ak : Byte) : Prop := exec i s = .next (s.trapAs s.cur code val ak)

/-- A target a context may go to (R42). -/
def goodTarget (t : Word) : Prop := t.toNat < 2 ^ 56 ∧ t.toNat % 4 = 0

/-- A transfer to t that writes r on the way: it goes there, or traps MISALIGN with TVAL = the target (R42, R135). -/
def Jumps (i : Instr) (s : State) (r : Regs) (t : Word) : Prop :=
  (goodTarget t → GoesTo i s r t) ∧ (¬ goodTarget t → Traps i s 2 t)

/-- A branch by a word offset: next word when not taken, PC + off * 4 when taken (R135). -/
def Branches {n : Nat} (i : Instr) (s : State) (taken : Prop) (off : BitVec n) : Prop :=
  (¬ taken → Sets i s s.me.regs) ∧ (taken → Jumps i s s.me.regs (wordI ((here s).toInt + off.toInt * 4)))

/-- All i changes are the issuing context's control registers, to c, and the PC. -/
def SetsCtl (i : Instr) (s : State) (c : Ctl) : Prop :=
  Completes i s fun t => OnlyCtx s t s.cur { s.me with regs := s.me.regs.advance, ctl := c }

end Sys2Proof.Claims

/-- R135, R42: branches, taken and not taken, the jumps with their link, and MISALIGN with the target in TVAL. JALR reads s(a) before it
writes sd. -/
def Obligations.BranchesAndJumps : Prop := ∀ (s : State) (d a b : Reg) (o : BitVec 13) (h : BitVec 18) (j : BitVec 26) (i : BitVec 16),
  let x := s.s! a
  let y := s.s! b
  Branches (.beq a b o) s (x.toNat = y.toNat) o
  ∧ Branches (.bne a b o) s (x.toNat ≠ y.toNat) o
  ∧ Branches (.blt a b o) s (x.toInt < y.toInt) o
  ∧ Branches (.bge a b o) s (y.toInt ≤ x.toInt) o
  ∧ Branches (.bltu a b o) s (x.toNat < y.toNat) o
  ∧ Branches (.bgeu a b o) s (y.toNat ≤ x.toNat) o
  ∧ Branches (.beqz a h) s (x.toNat = 0) h
  ∧ Branches (.bnez a h) s (x.toNat ≠ 0) h
  ∧ Branches (.bltz a h) s (x.toInt < 0) h
  ∧ Branches (.bgez a h) s (0 ≤ x.toInt) h
  ∧ Branches (.bgtz a h) s (0 < x.toInt) h
  ∧ Branches (.blez a h) s (x.toInt ≤ 0) h
  ∧ Jumps (.jal j) s (s.me.regs.sset 31 (here s + 4)) (wordI ((here s).toInt + j.toInt * 4))
  ∧ Jumps (.jalr d a i) s (s.me.regs.sset d (here s + 4)) (wordI (x.toInt + i.toInt))

/-- R41, R56, R145: what completing a word does to the PC, said of NOP: the next word outside a REP; inside one the repeat index moves on,
and after the last repeat the PC moves past both words and the index is 0. -/
def Sys2Proof.Claims.CompletingAWordMovesThePc : Prop := ∀ (s : State),
  let r := s.me.regs
  (r.rep = none → Completes .nop s fun t => OnlyRegs s t { r with pc := r.pc + 4 })
  ∧ (∀ p, r.rep = some p → r.ri.toNat < p.count.toNat → Completes .nop s fun t => OnlyRegs s t { r with ri := BitVec.ofNat 6 (r.ri.toNat + 1) })
  ∧ (∀ p, r.rep = some p → p.count.toNat ≤ r.ri.toNat → Completes .nop s fun t => OnlyRegs s t { r with ri := 0, rep := none, pc := r.pc + 8 })

/-- R54 to R57: REP looks at the word after it. One it may not govern traps ILLEGAL with the prefix as TVAL; with RI at or above the count
no repeat runs and the PC moves past both words; otherwise the repeats run from RI on. -/
def Sys2Proof.Claims.RepGovernsTheNextWord : Prop := ∀ (s : State) (c : BitVec 6) (m q : BitVec 3) (w : Word32),
  s.fetchAt s.cur (s.me.regs.pc + 4) = .word w →
  let p : Rep := { count := c, mask := m, stride := q }
  let n := c.toNat + 1
  (repOk w p = false → Traps (.rep c m q) s 1 ((encode (.rep c m q)).zeroExtend 64))
  ∧ (repOk w p = true → n ≤ s.me.regs.ri.toNat →
      Completes (.rep c m q) s fun t => OnlyRegs s t { s.me.regs with ri := 0, pc := s.me.regs.pc + 8 })
  ∧ (repOk w p = true → s.me.regs.ri.toNat < n → Completes (.rep c m q) s fun t => OnlyRegs s t { s.me.regs with rep := some p })

/-- R41, R54 to R57, R145: where the PC stands after a word, and which word REP governs. -/
def Obligations.CompletionAndRep : Prop :=
  Sys2Proof.Claims.CompletingAWordMovesThePc ∧ Sys2Proof.Claims.RepGovernsTheNextWord

/-- R152, R45, R148: a U-class trap of a PRIVATE context with a vector and INH = 0: TPC, TCAUSE (CODE, INH = 1, REPI = RI) and TVAL are
written, RI is cleared and the PC is TVEC; nothing else changes. TRAP gives code 0x08 and its immediate, BREAK 0x03 and its immediate, the
all-zero word and an encoding of no instruction 0x01 and the word. -/
def Sys2Proof.Claims.TrapEntryOfAPrivateContext : Prop := ∀ (s : State) (i : BitVec 16) (w : BitVec 32),
  s.me.ctl.tvec ≠ 0 → s.me.ctl.tcause.getLsbD 8 = false → s.me.sched.spine = .priv →
  let enters := fun (k : Instr) (code : Nat) (val : Word) => ∃ cause : Word,
    (cause.toNat % 2 ^ 8 = code ∧ cause.getLsbD 8 = true ∧ cause.toNat / 2 ^ 16 % 2 ^ 6 = s.me.regs.ri.toNat
      ∧ (∀ j, j < 64 → ¬ (j < 9 ∨ (16 ≤ j ∧ j < 22)) → cause.getLsbD j = s.me.ctl.tcause.getLsbD j))
    ∧ Completes k s fun t => OnlyCtx s t s.cur { s.me with
        regs := { s.me.regs with pc := s.me.ctl.tvec, ri := 0, rep := none }
        ctl := { s.me.ctl with tpc := s.me.regs.pc, tval := val, tcause := cause }
        sched := { s.me.sched with wait := .none } }
  enters (.trap i) 8 (word i.toNat)
  ∧ enters (.brk i) 3 (word i.toNat)
  ∧ enters .illegal 1 0
  ∧ enters (.reservedEncoding w) 1 (word w.toNat)

/-- R27, R152: an ATTACHED context that traps leaves its stream: it is PRIVATE and its straggler bit is set. -/
def Sys2Proof.Claims.ATrapLeavesTheStream : Prop := ∀ (s : State) (i : BitVec 16),
  s.me.ctl.tvec ≠ 0 → s.me.ctl.tcause.getLsbD 8 = false → s.me.sched.spine = .attached → s.cur < 4096 → s.cur % 64 < 32 →
  Completes (.trap i) s fun t =>
    t.me.sched.spine = .priv ∧ t.me.regs = { s.me.regs with pc := s.me.ctl.tvec, ri := 0, rep := none }
    ∧ t.me.ctl.tpc = s.me.regs.pc ∧ t.me.ctl.tval = word i.toNat
    ∧ (SMap.read {} (t.gathSt (s.cur / 64)).streams (s.cur % 4) : Stream).strag.getLsbD (s.cur % 64 / 4) = true
    ∧ t.mem = s.mem

/-- R152, R369: a trap with TVEC = 0 or INH = 1 suspends the context: its fault record, with the escalation flag, the code and the value,
is written to its slot of the table KFBASE names, its pending bit is set, and w3 of its kernel core's context 0 goes up by one; no other
byte of memory changes. (Of the contexts of a gathering, number 32 is that context 0 itself; where a stash line stands in for the record's slot, the
record goes there, R162.) -/
def Sys2Proof.Claims.EscalationSuspendsTheContext : Prop := ∀ (s : State) (i : BitVec 16),
  (s.me.ctl.tvec = 0 ∨ s.me.ctl.tcause.getLsbD 8 = true) → s.me.sched.spine = .priv → s.cur < 4096 → s.cur % 64 ≠ 32 →
  let g := s.cur / 64
  let at' := (s.win! (rKFBASE g)).toNat / 2 ^ 12 % 2 ^ 40 * 4096 + 64 * (s.cur % 64)
  let k0 := 64 * g + 32
  (∀ j, j < 64 → s.stashAt (at' + j) = none) →
  Completes (.trap i) s fun t =>
    (∃ r, t.me.sched.susp = some r ∧ r.fpc = s.me.regs.pc ∧ r.fval = word i.toNat ∧ r.code = 8 ∧ r.flags = 1 ∧ r.detail = 0
      ∧ r.akind = 7 ∧ r.repi.toNat = s.me.regs.ri.toNat ∧ r.ftime = s.dtime)
    ∧ t.me.regs = { s.me.regs with rep := none }
    ∧ t.mem.readLE at' 8 = s.me.regs.pc.toNat
    ∧ t.mem.readLE (at' + 8) 8 = i.toNat
    ∧ t.mem.readLE (at' + 16) 4 = 8 + 2 ^ 8 + 7 * 2 ^ 24
    ∧ t.mem.readLE (at' + 20) 2 = s.cur
    ∧ t.mem.readLE (at' + 32) 8 = s.dtime % 2 ^ 64
    ∧ (∀ a, a < at' ∨ at' + 64 ≤ a → t.mem.byte a = s.mem.byte a)
    ∧ (∀ b, b < 64 → (t.win! (rKFPEND g)).getLsbD b = (decide (b = s.cur % 64) || (s.win! (rKFPEND g)).getLsbD b))
    ∧ (t.ctxOf k0).regs.w[3] = (s.ctxOf k0).regs.w[3] + 1
    ∧ (∀ k, k ≠ s.cur → k ≠ k0 → t.ctxOf k = s.ctxOf k)

/-- R45, R148, R152, R27, R369: a trap of a PRIVATE and of an ATTACHED context, and when a trap suspends. -/
def Obligations.TrapEntryAndSuspension : Prop :=
  Sys2Proof.Claims.TrapEntryOfAPrivateContext ∧ Sys2Proof.Claims.ATrapLeavesTheStream ∧ Sys2Proof.Claims.EscalationSuspendsTheContext

/-- R153, R144, R149, R150: TRET with INH = 1 goes to TPC, clears INH and REPI, and takes RI from REPI where a REP prefix stands at TPC, or where
the word there is away and cannot be seen yet (the fetch of that word then decides), else RI is 0; with INH = 0 it traps ILLEGAL with its word. IDLE
completes at once when the inbox holds a message, and otherwise waits with CYCLE and the wait counters as sampled; HALT stops a kernel-core context. -/
def Obligations.TrapReturnIdleAndHalt : Prop := ∀ (s : State),
  (s.me.ctl.tcause.getLsbD 8 = false → Traps .tret s 1 ((encode .tret).zeroExtend 64))
  ∧ (s.me.ctl.tcause.getLsbD 8 = true →
      let isRep := ∀ w, s.peekWord s.cur s.me.ctl.tpc = some w → w.toNat / 2 ^ 26 = 0x3E
      ∃ (cause : Word) (ri : BitVec 6),
        (∀ j, j < 64 → cause.getLsbD j = (s.me.ctl.tcause.getLsbD j && !(decide (j = 8) || (decide (16 ≤ j) && decide (j < 22)))))
        ∧ (isRep → ri.toNat = s.me.ctl.tcause.toNat / 2 ^ 16 % 2 ^ 6) ∧ (¬ isRep → ri = 0)
        ∧ Completes .tret s fun t => OnlyCtx s t s.cur { s.me with
            regs := { s.me.regs with pc := s.me.ctl.tpc, rep := none, ri := ri }
            ctl := { s.me.ctl with tcause := cause } })
  ∧ (s.me.inbox ≠ [] → Sets .idle s s.me.regs)
  ∧ (s.me.inbox = [] → Completes .idle s fun t => OnlyCtx s t s.cur { s.me with
      sched := { s.me.sched with wait := .idle (s.cycleOf (s.domOf s.cur)) s.me.regs.w, since := s.dtime } })
  ∧ (s.cur % 64 / 4 = 8 → Completes .halt s fun t => OnlyCtx s t s.cur { s.me with sched := { s.me.sched with halted := true } })

/-- R18, R19, R146: CTLR of every address of the register table; a read of MXOVF clears it; any other address traps ILLEGAL with TVAL =
the address. -/
def Sys2Proof.Claims.ControlRegisterReads : Prop := ∀ (s : State) (d : Reg) (n : BitVec 12),
  let c := s.me.ctl
  let kernel := s.cur % 64 / 4 = 8
  let core := s.coreOf (coreKey s.cur)
  (∀ x : Word, x.toNat = 1 + 32 * 2 ^ 8 + (if kernel then 2 else 4) * 2 ^ 16 + (if kernel then 1 else 0) * 2 ^ 19 + 8 * 2 ^ 20 + 180 * 2 ^ 24
      + 16 * 2 ^ 32 + 64 * 2 ^ 40 + 64 * 2 ^ 48 → SetsS (.ctlr d 0x000) s d x)
  ∧ SetsS (.ctlr d 0x001) s d (word s.cur)
  ∧ SetsS (.ctlr d 0x002) s d (s.pcidWord s.cur)
  ∧ SetsS (.ctlr d 0x010) s d c.tvec
  ∧ SetsS (.ctlr d 0x011) s d c.tcause
  ∧ SetsS (.ctlr d 0x012) s d c.tpc
  ∧ SetsS (.ctlr d 0x013) s d c.tval
  ∧ SetsS (.ctlr d 0x020) s d (word c.frm.toNat)
  ∧ SetsS (.ctlr d 0x021) s d (word c.fflags.toNat)
  ∧ SetsS (.ctlr d 0x030) s d (s.cycleOf s.me.sched.dom.toNat)
  ∧ SetsS (.ctlr d 0x031) s d (word s.dtime)
  ∧ SetsS (.ctlr d 0x032) s d (word c.vdeadl.toNat)
  ∧ SetsS (.ctlr d 0x040) s d (word c.bmask.toNat)
  ∧ SetsS (.ctlr d 0x041) s d (word c.tree.toNat)
  ∧ SetsS (.ctlr d 0x050) s d (word (core.htSlot.toNat + if core.htEn then 4 else 0))
  ∧ SetsS (.ctlr d 0x060) s d (word c.fmta.toNat)
  ∧ SetsS (.ctlr d 0x061) s d (word c.fmtb.toNat)
  ∧ SetsS (.ctlr d 0x062) s d (word c.scla.toNat)
  ∧ SetsS (.ctlr d 0x063) s d (word c.sclb.toNat)
  ∧ SetsS (.ctlr d 0x064) s d (word c.accbase.toNat)
  ∧ (∀ k, k = .ctlr d 0x065 ∨ k = .mxovfRead d → Completes k s fun t => OnlyCtx s t s.cur { s.me with
      regs := (s.me.regs.sset d (word c.mxovf.toNat)).advance
      ctl := { c with mxovf := 0 } })
  ∧ SetsS (.ctlr d 0x070) s d c.wp0
  ∧ SetsS (.ctlr d 0x071) s d c.wp1
  ∧ SetsS (.wpRead d 0) s d c.wp0
  ∧ SetsS (.wpRead d 1) s d c.wp1
  ∧ SetsS (.ctlr d 0x080) s d (word c.budget.toNat)
  ∧ SetsS (.ctlr d 0x081) s d (word (c.prioCls.toNat + c.prioFlr.toNat * 2 ^ 8))
  ∧ SetsS (.ctlr d 0x090) s d c.rngseed
  ∧ SetsS (.ctlr d 0x0A0) s d (s.eqsWord s.cur)
  ∧ SetsS (.ctlr d 0x0B0) s d core.mxidle
  ∧ (n.toNat ∉ [0x000, 0x001, 0x002, 0x010, 0x011, 0x012, 0x013, 0x020, 0x021, 0x030, 0x031, 0x032, 0x040, 0x041, 0x050, 0x060, 0x061, 0x062,
      0x063, 0x064, 0x065, 0x070, 0x071, 0x080, 0x081, 0x090, 0x0A0, 0x0B0] → Traps (.ctlr d n) s 1 (word n.toNat))

/-- R18, R21, R147: CTLW of every writable address, with the bits a register holds; a read-only address or one outside the table traps
ILLEGAL with TVAL = the address. PRIO.CLASS is not taken below FLOOR. (PRIO of an attached context, or of one whose class is lowered, and
clearing a BMASK bit act further and have statements of their own.) -/
def Sys2Proof.Claims.ControlRegisterWrites : Prop := ∀ (s : State) (a : Reg) (n : BitVec 12),
  let c := s.me.ctl
  let x := s.s! a
  let core := s.coreOf (coreKey s.cur)
  let low := fun (k : Nat) => x.toNat % 2 ^ k
  SetsCtl (.ctlw a 0x010) s { c with tvec := word (x.toNat / 4 * 4) }
  ∧ (∃ y : Word, (∀ j, j < 64 → y.getLsbD j = (x.getLsbD j && (decide (j < 9) || (decide (16 ≤ j) && decide (j < 22)))))
      ∧ SetsCtl (.ctlw a 0x011) s { c with tcause := y })
  ∧ SetsCtl (.ctlw a 0x012) s { c with tpc := word (x.toNat / 4 * 4) }
  ∧ SetsCtl (.ctlw a 0x013) s { c with tval := x }
  ∧ SetsCtl (.ctlw a 0x020) s { c with frm := BitVec.ofNat 2 (low 2) }
  ∧ SetsCtl (.ctlw a 0x021) s { c with fflags := BitVec.ofNat 5 (low 5) }
  ∧ SetsCtl (.ctlw a 0x032) s { c with vdeadl := BitVec.ofNat 32 (low 32) }
  ∧ ((∀ j, j < 32 → c.bmask.getLsbD j = true → x.getLsbD j = true) → SetsCtl (.ctlw a 0x040) s { c with bmask := BitVec.ofNat 32 (low 32) })
  ∧ SetsCtl (.ctlw a 0x041) s { c with tree := BitVec.ofNat 28 (low 28) }
  ∧ SetsCtl (.ctlw a 0x060) s { c with fmta := BitVec.ofNat 7 (low 7) }
  ∧ SetsCtl (.ctlw a 0x061) s { c with fmtb := BitVec.ofNat 7 (low 7) }
  ∧ SetsCtl (.ctlw a 0x062) s { c with scla := BitVec.ofNat 18 (low 18) }
  ∧ SetsCtl (.ctlw a 0x063) s { c with sclb := BitVec.ofNat 18 (low 18) }
  ∧ SetsCtl (.ctlw a 0x064) s { c with accbase := BitVec.ofNat 10 (low 10) }
  ∧ SetsCtl (.ctlw a 0x065) s { c with mxovf := BitVec.ofNat 32 (low 32) }
  ∧ SetsCtl (.ctlw a 0x090) s { c with rngseed := x }
  ∧ (∀ k, k = .ctlw a 0x081 ∨ k = .prioWrite a → s.me.sched.spine ≠ .attached → s.me.sched.exhausted = false →
      SetsCtl k s { c with prioCls := BitVec.ofNat 2 (max (low 2) c.prioFlr.toNat) })
  ∧ (∀ k, k = .ctlw a 0x050 ∨ k = .htabWrite a → Completes k s fun t =>
      OnlyCtx (s.setCore (coreKey s.cur) (t.coreOf (coreKey s.cur))) t s.cur { s.me with regs := s.me.regs.advance }
      ∧ (∃ h, t.coreOf (coreKey s.cur) = { core with htSlot := BitVec.ofNat 2 (low 2), htEn := x.getLsbD 2, handlers := h }
          ∧ (low 2 = core.htSlot.toNat → h = core.handlers)))
  ∧ (∀ k, k = .ctlw a 0x0B0 ∨ k = .mxidleWrite a → Completes k s fun t =>
      OnlyCtx (s.setCore (coreKey s.cur) { core with mxidle := x, mxSince := s.clk, mxGated := false }) t s.cur
        { s.me with regs := s.me.regs.advance })
  ∧ (n.toNat ∉ [0x010, 0x011, 0x012, 0x013, 0x020, 0x021, 0x032, 0x040, 0x041, 0x050, 0x060, 0x061, 0x062, 0x063, 0x064, 0x065, 0x081, 0x090,
      0x0B0] → Traps (.ctlw a n) s 1 (word n.toNat))

/-- R18, R19, R21, R146, R147: CTLR and CTLW of every address. -/
def Obligations.ControlRegisters : Prop :=
  Sys2Proof.Claims.ControlRegisterReads ∧ Sys2Proof.Claims.ControlRegisterWrites

namespace Sys2Proof.Claims


/-- The stream of a context's slot in its gathering (R22). -/
def myStream (s : State) : Stream := SMap.read {} (s.gathSt (s.cur / 64)).streams (s.cur % 4)

/-- Context c's core has an attached context in the issuing context's slot (R24). -/
def isOn (s : State) (c : Nat) : Prop := (s.ctxOf (s.cur / 64 * 64 + c * 4 + s.cur % 4)).sched.spine = .attached

/-- i completes: all it changes are the issuing context, which becomes c, and the rejoin queue of its gathering, which becomes q. -/
def Requeues (i : Instr) (s : State) (r : Regs) (q : List Rejoin) : Prop :=
  Completes i s fun t => OnlyCtx (s.setGath (s.cur / 64) { s.gathSt (s.cur / 64) with rejoin := q }) t s.cur { s.me with regs := r.advance }

end Sys2Proof.Claims

/-- R137, R136, R138: ATTACH and JOIN of a PRIVATE context whose stream has nobody attached, and of one whose stream goes on elsewhere,
which waits at the join point for (T + 1) * 64 clocks; of an ATTACHED context that the stream has brought there; DETACH of a PRIVATE
context has no effect. -/
def Sys2Proof.Claims.AttachJoinDetach : Prop := ∀ (s : State) (d : Reg) (t : BitVec 13),
  s.cur % 64 / 4 ≠ 8 →
  let waits := fun (i : Instr) => Completes i s fun u => OnlyCtx s u s.cur { s.me with
    sched := { s.me.sched with spine := .joining, since := s.dtime, wait := .join { point := s.me.regs.pc, sd := d, stopAt := s.clk + (t.toNat + 1) * 64 } } }
  (s.me.sched.spine = .priv → (∀ c, c < 8 → ¬ isOn s c) →
    (Completes (.attach d t) s fun u =>
        u.me.regs = (s.me.regs.sset d 0).advance ∧ u.me.sched = { s.me.sched with spine := .attached, drift := [], accepted := none }
        ∧ u.me.ctl = s.me.ctl ∧ u.me.inbox = s.me.inbox
        ∧ myStream u = { running := true, nextPc := s.me.regs.pc + 4, cls := s.me.ctl.prioCls, pos := 0, strag := 0 }
        ∧ (∀ k, k ≠ s.cur → u.ctxOf k = s.ctxOf k) ∧ { u with ctxs := s.ctxs, gaths := s.gaths } = s)
    ∧ SetsS (.join d t) s d 2)
  ∧ (s.me.sched.spine = .priv → (∃ c, c < 8 ∧ isOn s c) → (myStream s).atJoin ≠ some s.me.regs.pc → waits (.attach d t) ∧ waits (.join d t))
  ∧ (∀ i, i = .attach d t ∨ i = .join d t → s.me.sched.spine = .attached → ∀ p x, s.me.sched.accepted = some p →
      (p, x) ∈ (myStream s).status → (∀ y, (p, y) ∈ (myStream s).status → y = x) → SetsS i s d (word x))
  ∧ (s.me.sched.spine = .priv → Sets .detach s s.me.regs)

/-- R140, R141: DONATE and TAKEW, by their status. An entry carries the donor and its graph; TAKEW takes the oldest entry of its tag and
graph, writes the range and then the status. -/
def Sys2Proof.Claims.DonateAndTake : Prop := ∀ (s : State) (d a : Reg),
  s.cur % 64 / 4 ≠ 8 →
  let q := (s.gathSt (s.cur / 64)).rejoin
  let start := (s.s! a).toNat % 2 ^ 32
  let stop := (s.s! (a + 1)).toNat % 2 ^ 32
  let tag := (s.s! (a + 2)).toNat % 2 ^ 32
  let graph := s.me.sched.task.map (·.launch)
  let mine := fun (e : Rejoin) => e.tag.toNat = tag ∧ e.launch = graph
  (stop ≤ start → SetsS (.donate d a) s d 1)
  ∧ (start < stop → 64 ≤ q.length → SetsS (.donate d a) s d 2)
  ∧ (start < stop → q.length < 64 → ∃ e : Rejoin, e.start.toNat = start ∧ e.stop.toNat = stop ∧ e.tag.toNat = tag ∧ e.donor.toNat = s.cur % 2 ^ 12
      ∧ e.launch = graph ∧ Requeues (.donate d a) s (s.me.regs.sset d 0) (q ++ [e]))
  ∧ ((∀ e ∈ q, ¬ mine e) → SetsS (.takew d a) s d 1)
  ∧ (∀ l e r, q = l ++ e :: r → (∀ x ∈ l, ¬ mine x) → mine e →
      Requeues (.takew d a) s (((s.me.regs.sset a (word e.start.toNat)).sset (a + 1) (word e.stop.toNat)).sset d 0) (l ++ r))

/-- R143: GANG of a PRIVATE context reads the stream at issue: who is attached, the stragglers, the leader's core (15 with nobody attached),
STATE 1 and the stream's number; of an ATTACHED one what was noted for its position at delivery, with STATE 2. -/
def Sys2Proof.Claims.GangReadsTheStream : Prop := ∀ (s : State) (d : Reg),
  s.cur % 64 / 4 ≠ 8 →
  (s.me.sched.spine = .priv → ∃ n : Nat, SetsS (.gang d) s d (word n) ∧ n < 2 ^ 24
      ∧ (∀ c, c < 8 → (n.testBit c = true ↔ isOn s c))
      ∧ n / 2 ^ 8 % 2 ^ 8 = (myStream s).strag.toNat
      ∧ (∀ c, c < 8 → isOn s c → (∀ b, b < c → ¬ isOn s b) → n / 2 ^ 16 % 2 ^ 4 = c)
      ∧ ((∀ c, c < 8 → ¬ isOn s c) → n / 2 ^ 16 % 2 ^ 4 = 15)
      ∧ n / 2 ^ 20 % 2 ^ 2 = 1 ∧ n / 2 ^ 22 = s.cur % 4)
  ∧ (s.me.sched.spine = .attached → ∀ p x, s.me.sched.accepted = some p → (p, x) ∈ (myStream s).status →
      (∀ y, (p, y) ∈ (myStream s).status → y = x) → SetsS (.gang d) s d (word (x + 2 ^ 21)))

/-- R136 to R138, R140, R141, R143: ATTACH, JOIN, DETACH, DONATE, TAKEW and GANG. -/
def Obligations.StreamsAndDonation : Prop :=
  Sys2Proof.Claims.AttachJoinDetach ∧ Sys2Proof.Claims.DonateAndTake ∧ Sys2Proof.Claims.GangReadsTheStream

/-- R63, R74, R81, R161, R197, R204, R206: the words a kernel core does not have trap ILLEGAL there, with TVAL = the word. -/
def Obligations.WordsAKernelCoreLacks : Prop := ∀ (s : State) (i : Instr) (d a b r : Reg) (t : BitVec 13) (h m : BitVec 6) (k : BitVec 2) (c : BitVec 3)
    (z : BitVec 1) (j : BitVec 15),
  s.cur % 64 / 4 = 8 →
  i ∈ [.detach, .attach d t, .join d t, .donate d a, .takew d a, .gang d, .map d a b, .unmap d a, .sflush a c, .mxq r k z j, .trq r k z j, .redsrv a,
    .hset a h, .hend h, .hclr m, .spawn d a, .yield, .finish, .stealoff] →
  Traps i s 1 ((encode i).zeroExtend 64)
/-! ### Memory -/

namespace Sys2Proof.Claims

/-- Context cid's access of n bytes at va, aligned to al, passes the gate through region r and lands in memory at pa (R155, R388): for a kernel
core the address is physical, for another its translation is at hand and no stash mapping covers it. -/
def LandsFor (s : State) (cid : Nat) (va : Word) (n al : Nat) (need : Need) (r : RegionEnt) (pa : Nat) : Prop :=
  va.toNat % al = 0 ∧ s.judge cid va.toNat n need = .ok r ∧ inDevice pa = false
  ∧ if cid % 64 / 4 = 8 then pa = va.toNat
    else s.mapFor cid va.toNat need.writes = none ∧ s.tlbLookup (coreKey cid) (s.tenantOf cid) va.toNat need.writes = some pa

/-- The same of the issuing context's access. -/
def Lands (s : State) (va : Word) (n al : Nat) (need : Need) (r : RegionEnt) (pa : Nat) : Prop := LandsFor s s.cur va n al need r pa

/-- The access lands in a filled line of stash mapping m of the context's core, at stash offset off (R162). -/
def InStash (s : State) (va : Word) (n : Nat) (need : Need) (m : Mapping) (off : Nat) : Prop :=
  va.toNat % n = 0 ∧ (∃ r, s.judge s.cur va.toNat n need = .ok r) ∧ s.cur % 64 / 4 ≠ 8
  ∧ s.mapFor s.cur va.toNat need.writes = some m ∧ off = m.spage * 4096 + (va.toNat - m.base) ∧ m.filled.contains (off / 64) = true

/-- No version ring answers a read at pa through region r: r is not VERSIONED, and for a kernel core neither is the region that pa lies in (R158). -/
def NoRingFor (s : State) (cid : Nat) (r : RegionEnt) (pa : Nat) : Prop :=
  r.kind ≠ kVERSIONED ∧ (cid % 64 / 4 = 8 → ∀ q o, s.regionAt pa = some (q, o) → q.kind ≠ kVERSIONED)

/-- The ring of region q answers it, at offset o (R158). -/
def RingFor (s : State) (cid : Nat) (r : RegionEnt) (va pa : Nat) (q : RegionEnt) (o : Nat) : Prop :=
  (r.kind = kVERSIONED ∧ q = r ∧ o = va - r.base)
  ∨ (r.kind ≠ kVERSIONED ∧ cid % 64 / 4 = 8 ∧ s.regionAt pa = some (q, o) ∧ q.kind = kVERSIONED)

/-- No writable stash mapping stands in for the n bytes at pa (R162). -/
def Unowned (s : State) (pa n : Nat) : Prop := ∀ j, j < n → s.stashAt (pa + j) = none

/-- The cores of t are those of s but for the region and capability entries their gates hold (R386). -/
def SameCores (s t : State) : Prop :=
  ∀ k, { t.coreOf k with gateR := (s.coreOf k).gateR, gateC := (s.coreOf k).gateC } = s.coreOf k

/-- t is s but for the issuing context, which is c, and the bookkeeping an access leaves: directory, L2 and gate entries (R291, R295, R386).
All of memory is as before. -/
def OnlyReads (s t : State) (c : Ctx) : Prop :=
  { t with ctxs := s.ctxs, cores := s.cores, dir := s.dir, caches := s.caches } = s ∧ CtxIs s t s.cur c ∧ SameCores s t

/-- The same of context cid. -/
def OnlyReadsFor (s t : State) (cid : Nat) (c : Ctx) : Prop :=
  { t with ctxs := s.ctxs, cores := s.cores, dir := s.dir, caches := s.caches } = s ∧ CtxIs s t cid c ∧ SameCores s t

/-- Byte j of a number. -/
def byteOf (v j : Nat) : Byte := BitVec.ofNat 8 (v / 2 ^ (8 * j))

/-- t is s but for the issuing context, which is c, the n bytes of memory at pa, which are those of v, the bookkeeping of an access, the lines
of stash mappings and the reservations of harts the write ends (R162, R280). Every other byte of memory is as before. -/
def OnlyStores (s t : State) (pa n v : Nat) (c : Ctx) : Prop :=
  { t with ctxs := s.ctxs, cores := s.cores, dir := s.dir, caches := s.caches, mem := s.mem, harts := s.harts } = s ∧ CtxIs s t s.cur c
  ∧ (∀ k, { t.coreOf k with gateR := (s.coreOf k).gateR, gateC := (s.coreOf k).gateC, maps := (s.coreOf k).maps } = s.coreOf k)
  ∧ ∀ a, t.mem.byte a = if pa ≤ a ∧ a < pa + n then byteOf v (a - pa) else s.mem.byte a

/-- A load of n bytes at ea into sd, through ext: MISALIGN when ea is not a multiple of n; the bytes of memory, little-endian; of a VERSIONED
region the newest sealed version's; of a filled stash line the stash's; of a control window, for a kernel core, what the register gives. -/
def Loads (i : Instr) (s : State) (d : Reg) (ea : Word) (n : Nat) (ext : Nat → Word) : Prop :=
  let gets := fun (x : Nat) => { s.me with regs := (s.me.regs.sset d (ext x)).advance }
  (ea.toNat % n ≠ 0 → TrapsAs i s 2 ea 0)
  ∧ (∀ r pa, Lands s ea n n .load r pa → s.isPoisoned pa n = false → NoRingFor s s.cur r pa → Unowned s pa n →
      Completes i s fun t => OnlyReads s t (gets (s.mem.readLE pa n)))
  ∧ (∀ r pa q o, Lands s ea n n .load r pa → s.isPoisoned pa n = false → RingFor s s.cur r ea.toNat pa q o → (∀ a, s.stashAt a = none) →
      Completes i s fun t => OnlyReads s t (gets (ringRead (s.ring (s.regionKey q) q.depth) o n)))
  ∧ (∀ m off, InStash s ea n .load m off → (s.coreOf (coreKey s.cur)).badAt off n = false →
      Completes i s fun t => OnlyReads s t (gets (SMap.readLE (s.coreOf (coreKey s.cur)).stash off n)))
  ∧ (∀ r, ea.toNat % n = 0 → s.judge s.cur ea.toNat n .load = .ok r → s.cur % 64 / 4 = 8 → inDevice ea.toNat = true →
      ¬ (0x20010000000 ≤ ea.toNat ∧ ea.toNat < 0x20010100000) →
      Completes i s fun t => OnlyCtx (s.devRead ea.toNat n).2 t s.cur (gets (s.devRead ea.toNat n).1.toNat))

/-- A store of the low n bytes of v at ea: MISALIGN; to memory; to a filled stash line; to a control window, for a kernel core, where it may
stall. -/
def Puts (i : Instr) (s : State) (ea : Word) (n : Nat) (v : Word) : Prop :=
  let done := { s.me with regs := s.me.regs.advance }
  (ea.toNat % n ≠ 0 → TrapsAs i s 2 ea 1)
  ∧ (∀ r pa, Lands s ea n n .store r pa → Unowned s pa n → Completes i s fun t => OnlyStores s t pa n v.toNat done)
  ∧ (∀ m off, InStash s ea n .store m off → Completes i s fun t =>
      { t with ctxs := s.ctxs, cores := s.cores, harts := s.harts } = s ∧ CtxIs s t s.cur done
      ∧ (∀ a, SMap.read 0 (t.coreOf (coreKey s.cur)).stash a =
          if off ≤ a ∧ a < off + n then byteOf v.toNat (a - off) else SMap.read 0 (s.coreOf (coreKey s.cur)).stash a))
  ∧ (∀ r, ea.toNat % n = 0 → s.judge s.cur ea.toNat n .store = .ok r → s.cur % 64 / 4 = 8 → inDevice ea.toNat = true →
      ¬ (0x20010000000 ≤ ea.toNat ∧ ea.toNat < 0x20010100000) →
      (∀ u, s.devWrite ea.toNat n v false = some u → exec i s = .next u.advance)
      ∧ (s.devWrite ea.toNat n v false = none → s.me.sched.wait ≠ .again .device → Completes i s fun t =>
          OnlyCtx s t s.cur { s.me with sched := { s.me.sched with wait := .again .device, since := s.dtime } }))

end Sys2Proof.Claims

/-- R155, R157, R158: every load, by the place its address lies in, and MISALIGN. Plain forms address s(a) + off * size, ACQ forms s(a); signed
forms sign-extend. -/
def Obligations.LoadResults : Prop := ∀ (s : State) (d a : Reg) (o : BitVec 13) (c : BitVec 3),
  let ea := fun (n : Nat) => wordI ((s.s! a).toInt + o.toInt * n)
  let sign := fun (n : Nat) (x : Nat) => wordI (sintN x (8 * n))
  Loads (.lb d a o) s d (ea 1) 1 (sign 1)
  ∧ Loads (.lh d a o) s d (ea 2) 2 (sign 2)
  ∧ Loads (.lw d a o) s d (ea 4) 4 (sign 4)
  ∧ Loads (.ld d a o) s d (ea 8) 8 (sign 8)
  ∧ Loads (.lbu d a o) s d (ea 1) 1 word
  ∧ Loads (.lhu d a o) s d (ea 2) 2 word
  ∧ Loads (.lwu d a o) s d (ea 4) 4 word
  ∧ Loads (.lbAcq d a c) s d (s.s! a) 1 word
  ∧ Loads (.lhAcq d a c) s d (s.s! a) 2 word
  ∧ Loads (.lwAcq d a c) s d (s.s! a) 4 word
  ∧ Loads (.ldAcq d a c) s d (s.s! a) 8 word

/-- R155, R157, R162: every store, by the place its address lies in, and MISALIGN: the bytes stored to take the register's low bytes, least
significant first, and no other byte changes. -/
def Obligations.StoreResults : Prop := ∀ (s : State) (t a : Reg) (o : BitVec 13) (c : BitVec 3),
  let ea := fun (n : Nat) => wordI ((s.s! a).toInt + o.toInt * n)
  let v := s.s! t
  Puts (.sb t a o) s (ea 1) 1 v
  ∧ Puts (.sh t a o) s (ea 2) 2 v
  ∧ Puts (.sw t a o) s (ea 4) 4 v
  ∧ Puts (.sd t a o) s (ea 8) 8 v
  ∧ Puts (.sbRel t a c) s (s.s! a) 1 v
  ∧ Puts (.shRel t a c) s (s.s! a) 2 v
  ∧ Puts (.swRel t a c) s (s.s! a) 4 v
  ∧ Puts (.sdRel t a c) s (s.s! a) 8 v

namespace Sys2Proof.Claims

/-- Element k of width w is governed by a bit of predicate p that is set (R14). -/
def on (s : State) (p : BitVec 3) (w k : Nat) : Prop := (s.p! p).getLsbD (if w = 64 then 2 * k else w * k / 32) = true

/-- The address list of a vector access: element k at f k, for the active elements in rising order. -/
def vlist (s : State) (p : BitVec 3) (w : Nat) (f : Nat → Word) : List (Nat × Word) :=
  ((List.range (512 / w)).filter fun k => (s.p! p).getLsbD (if w = 64 then 2 * k else w * k / 32)).map fun k => (k, f k)

/-- A vector load of width w with element k at f k (R222 to R224): the first element whose check fails or parks ends it with nothing
written; when every element lands in unpoisoned memory that no stash line stands in for, vd takes them, and inactive elements become zero or
stay. -/
def VLoads (i : Instr) (s : State) (d : Reg) (p : BitVec 3) (w : Nat) (z : BitVec 1) (f : Nat → Word) : Prop :=
  (∀ u, s.checkAll (w / 8) .load akLoad (vlist s p w f) [] = .stop u → exec i s = .next u)
  ∧ (∀ l u, s.checkAll (w / 8) .load akLoad (vlist s p w f) [] = .ok l u →
      (∀ e ∈ l, ∃ pa, NoRingFor s s.cur e.2.2.1 pa ∧ e.2.2.2 = .mem pa ∧ s.isPoisoned pa (w / 8) = false ∧ Unowned s pa (w / 8)) →
      ∃ v, (Completes i s fun t => OnlyReads s t { s.me with regs := (s.me.regs.vset d v).advance })
        ∧ ∀ k, k < 512 / w → (on s p w k → ∃ r pa, (k, f k, r, Place.mem pa) ∈ l ∧ elem v w k = s.mem.readLE pa (w / 8))
            ∧ (¬ on s p w k → elem v w k = if z = 1 then 0 else elem (s.v! d) w k))

/-- A vector store: as VLoads; each active element's bytes are written in rising order, so that of two elements at one place the higher one's
remain; no other byte of memory changes. -/
def VPuts (i : Instr) (s : State) (t : Reg) (p : BitVec 3) (w : Nat) (f : Nat → Word) : Prop :=
  (∀ u, s.checkAll (w / 8) .store akStore (vlist s p w f) [] = .stop u → exec i s = .next u)
  ∧ (∀ l u, s.checkAll (w / 8) .store akStore (vlist s p w f) [] = .ok l u →
      (∀ e ∈ l, ∃ pa, e.2.2.2 = .mem pa ∧ Unowned s pa (w / 8)) →
      Completes i s fun x =>
        { x with ctxs := s.ctxs, cores := s.cores, dir := s.dir, caches := s.caches, mem := s.mem, harts := s.harts } = s
        ∧ CtxIs s x s.cur { s.me with regs := s.me.regs.advance }
        ∧ (∀ k, { x.coreOf k with gateR := (s.coreOf k).gateR, gateC := (s.coreOf k).gateC, maps := (s.coreOf k).maps } = s.coreOf k)
        ∧ x.mem = l.foldl (fun m e => match e.2.2.2 with
            | .mem pa => m.writeLE pa (w / 8) (elem (s.v! t) w e.1)
            | _ => m) s.mem)

/-- The chunk length of the strided forms: 1, 2 or 4 by bits 33 to 32 of the stride operand (3 as 1), at most 128 bits (R222). -/
def chunk (x : Word) (w : Nat) : Nat :=
  let c := if x.toNat / 2 ^ 32 % 4 = 1 then 2 else if x.toNat / 2 ^ 32 % 4 = 2 then 4 else 1
  min c (128 / w)

/-- i raises the U-class trap of this code and value once the access has left its bookkeeping and the context is c (R152, R155); the
access is of kind ak. -/
def TrapsAfterCheck (i : Instr) (s : State) (c : Ctx) (code : Byte) (val : Word) (ak : Byte) : Prop :=
  ∃ u, OnlyReads s u c ∧ exec i s = .next (u.trapAs s.cur code val ak)

/-- An AMO of n bytes at ea with order number order (R178 to R181): MISALIGN; the plain form applies at once; the ordered form applies when its
number is the next and the buffer admits it, and the next number moves on; it is held when its number is later and there is room; it traps VGONE
reason 4 when its number is past. -/
def Atomic (i : BitVec 1 → Instr) (s : State) (d : Reg) (ea : Word) (n : Nat) (order : Word32) (new : Nat → Nat) : Prop :=
  (∀ q, ea.toNat % n ≠ 0 → TrapsAs (i q) s 2 ea 2)
  ∧ ∀ r pa, Lands s ea n n .amo r pa → s.isPoisoned pa n = false → Unowned s pa n →
      let old := s.mem.readLE pa n
      let next := s.nextSeq pa
      let after := { s.me with regs := (s.me.regs.sset d (wordI (sintN old (8 * n)))).advance, sched := { s.me.sched with wait := .none, readyAt := s.clk } }
      (Completes (i 0) s fun t => OnlyStores s t pa n (new old) after)
      ∧ (order = next → s.admission (homeSlice pa) (pa / 8) next order = .apply → (∀ h ∈ s.heldAmos, h.2.2.pa / 8 ≠ pa / 8) →
          Completes (i 1) s fun t => OnlyStores { s with seqs := SMap.write 0 s.seqs (pa / 8) (next + 1) } t pa n (new old) after)
      ∧ (s.admission (homeSlice pa) (pa / 8) next order = .hold → ∃ q, q.seq = some order ∧ q.pa = pa ∧
          Completes (i 1) s fun t => OnlyReads s t { s.me with sched := { s.me.sched with wait := .amo q true, since := s.dtime } })
      ∧ (order ≠ next → serialLater order next = false →
          TrapsAfterCheck (i 1) s { s.me with sched := { s.me.sched with wait := .none, readyAt := s.clk } } 5 (word (order.toNat + 2 ^ 32 * 4)) 2)

end Sys2Proof.Claims

/-- R222, R223, R224: the vector loads, by address form: contiguous, indexed, broadcast of one element, and strided by chunks. -/
def Sys2Proof.Claims.VectorLoadResults : Prop := ∀ (s : State) (d a b : Reg) (p : BitVec 3) (e : BitVec 2) (z : BitVec 1),
  let w := ewidth e
  let x := s.s! a
  let n := w / 8
  let c := chunk (s.s! b) w
  VLoads (.vld d a p e z) s d p w z (fun k => x + word (k * n))
  ∧ VLoads (.vldx d a b p e z) s d p w z (fun k => x + wordI (sintN (elem (s.v! b) w k) w * n))
  ∧ VLoads (.vlds d a b p e z) s d p w z (fun k => x + wordI ((k / c : Nat) * sintN ((s.s! b).toNat % 2 ^ 32) 32) + word (k % c * n))
  ∧ (∀ k, k < 512 / w → on s p w k → ∀ r pa, Lands s x n n .load r pa → s.isPoisoned pa n = false → NoRingFor s s.cur r pa → Unowned s pa n →
      ∃ v, (Completes (.vldb d a p e z) s fun t => OnlyReads s t { s.me with regs := (s.me.regs.vset d v).advance })
        ∧ ∀ j, j < 512 / w → elem v w j = merged s d p w z (fun _ => s.mem.readLE pa n) j)
  ∧ ((∀ k, k < 512 / w → ¬ on s p w k) → ∃ v, SetsV (.vldb d a p e z) s d v ∧ ∀ j, j < 512 / w → elem v w j = if z = 1 then 0 else elem (s.v! d) w j)

/-- R222, R223, R224: the vector stores, by address form. -/
def Sys2Proof.Claims.VectorStoreResults : Prop := ∀ (s : State) (t a b : Reg) (p : BitVec 3) (e : BitVec 2),
  let w := ewidth e
  let x := s.s! a
  let n := w / 8
  let c := chunk (s.s! b) w
  VPuts (.vst t a p e) s t p w (fun k => x + word (k * n))
  ∧ VPuts (.vstx t a b p e) s t p w (fun k => x + wordI (sintN (elem (s.v! b) w k) w * n))
  ∧ VPuts (.vsts t a b p e) s t p w (fun k => x + wordI ((k / c : Nat) * sintN ((s.s! b).toNat % 2 ^ 32) 32) + word (k % c * n))

/-- R222 to R224: the vector loads and stores. -/
def Obligations.VectorMemoryResults : Prop :=
  Sys2Proof.Claims.VectorLoadResults ∧ Sys2Proof.Claims.VectorStoreResults

/-- R178 to R181: every AMO, of 4 and of 8 bytes: memory takes the new value, sd the old one sign-extended; FFLAGS keep their value. -/
def Obligations.AtomicResults : Prop := ∀ (s : State) (d a b : Reg) (z : BitVec 1) (c : BitVec 3),
  let n := if z = 0 then 4 else 8
  let m := 2 ^ (8 * n)
  let ea := s.s! a
  let y := (s.s! b).toNat % m
  let x := (s.s! d).toNat % m
  let o := BitVec.ofNat 32 (s.s! (b + 1)).toNat
  Atomic (.amoswap d a b · z c) s d ea n o (fun _ => y)
  ∧ Atomic (.amoadd d a b · z c) s d ea n o (fun old => (old + y) % m)
  ∧ Atomic (.amoand d a b · z c) s d ea n o (fun old => old &&& y)
  ∧ Atomic (.amoor d a b · z c) s d ea n o (fun old => old ||| y)
  ∧ Atomic (.amoxor d a b · z c) s d ea n o (fun old => old ^^^ y)
  ∧ Atomic (.amomin d a b · z c) s d ea n o (fun old => if sintN old (8 * n) ≤ sintN y (8 * n) then old else y)
  ∧ Atomic (.amomax d a b · z c) s d ea n o (fun old => if sintN old (8 * n) ≤ sintN y (8 * n) then y else old)
  ∧ Atomic (.amominu d a b · z c) s d ea n o (fun old => min old y)
  ∧ Atomic (.amomaxu d a b · z c) s d ea n o (fun old => max old y)
  ∧ Atomic (.amocas d a b · z c) s d ea n o (fun old => if old = x then y else old)
  ∧ Atomic (.amofadd d a b · c) s d ea 4 o (fun old => (fpAdd fp32 0 old ((s.s! b).toNat % 2 ^ 32)).1)

/-! ### The stash window (R160 to R165) -/

namespace Sys2Proof.Claims

/-- t is s but for the issuing context, which is c, its core, and directory and L2 bookkeeping. -/
def OnlyHere (s t : State) (c : Ctx) : Prop :=
  { t with ctxs := s.ctxs, cores := s.cores, dir := s.dir, caches := s.caches } = s ∧ CtxIs s t s.cur c
    ∧ ∀ k, k ≠ coreKey s.cur → t.coreOf k = s.coreOf k

/-- Core k of t is that of s, but that line l of mapping m has been filled: its 64 stash bytes are those of memory at the line's physical
address, free of poison, it is marked filled in m and in no other mapping, and nothing else of the core changes (R162). -/
def Filled (s t : State) (k : Nat) (m : Mapping) (l : Nat) : Prop :=
  let c := s.coreOf k
  let c' := t.coreOf k
  { c' with stash := c.stash, maps := c.maps, bad := c.bad } = c
  ∧ c'.bad = c.bad.filter (fun w => !(l * 16 ≤ w && w < l * 16 + 16))
  ∧ c'.maps = c.maps.map (fun x => if x = m then { x with filled := l :: x.filled } else x)
  ∧ ∀ a, SMap.read 0 c'.stash a = if l * 64 ≤ a ∧ a < l * 64 + 64 then s.mem.byte (m.paOf (l * 64) + (a - l * 64)) else SMap.read 0 c.stash a

/-- d is core c but for which lines its read-only mappings have filled, and writable ones are as they were: what another agent's writes of lines
leave of it (R162). -/
def SameButFills (c d : Core) : Prop :=
  { d with maps := c.maps } = c ∧ c.maps.map (fun m => { m with filled := [] }) = d.maps.map (fun m => { m with filled := [] })
  ∧ ∀ m, m.writable = true → (m ∈ c.maps ↔ m ∈ d.maps)

/-- t is s but for the issuing context, which is c, and what taking lines of memory for a core leaves: the cores, directory and caches, and
the reservations of harts (R162, R280, R291). -/
def TakesLines (s t : State) (c : Ctx) : Prop :=
  { t with ctxs := s.ctxs, cores := s.cores, dir := s.dir, caches := s.caches, harts := s.harts } = s ∧ CtxIs s t s.cur c

/-- The bytes of a write-back of mapping m of core k (R163, R164): with NOWB = 0 every byte of every dirty line reaches memory from the stash,
where no second dirty line names the same byte; no other byte of memory changes; with NOWB = 1 none does. A line that is written back is poisoned
when a word of it in the stash is, and only then (R299). -/
def BacksUp (s t : State) (k : Nat) (m : Mapping) : Prop :=
  let line := fun (l : Nat) => m.paOf (l * 64) / 64
  (m.nowb = true → t.mem = s.mem ∧ t.poison = s.poison)
  ∧ (m.nowb = false →
      (∀ x, (∀ l, l ∈ m.dirty → line l ≠ x) → (x ∈ t.poison ↔ x ∈ s.poison))
      ∧ (∀ l, l ∈ m.dirty → (∀ l', l' ∈ m.dirty → l' ≠ l → line l' ≠ line l) → (line l ∈ t.poison ↔ (s.coreOf k).badAt (l * 64) 64 = true))
      ∧ (∀ a, (∀ l, l ∈ m.dirty → ¬ (m.paOf (l * 64) ≤ a ∧ a < m.paOf (l * 64) + 64)) → t.mem.byte a = s.mem.byte a)
      ∧ (∀ l j, l ∈ m.dirty → j < 64 →
          (∀ l', l' ∈ m.dirty → l' ≠ l → ¬ (m.paOf (l' * 64) ≤ m.paOf (l * 64) + j ∧ m.paOf (l * 64) + j < m.paOf (l' * 64) + 64)) →
          t.mem.byte (m.paOf (l * 64) + j) = SMap.read 0 (s.coreOf k).stash (l * 64 + j)))

/-- i completes: sd takes x, the mappings of the core become ms, and m has been written back to memory; nothing else changes. -/
def Backs (i : Instr) (s : State) (r : Regs) (m : Mapping) (ms : List Mapping) : Prop :=
  Completes i s fun t =>
    { t with ctxs := s.ctxs, cores := s.cores, mem := s.mem, poison := s.poison, dir := s.dir, caches := s.caches } = s
    ∧ CtxIs s t s.cur { s.me with regs := r.advance } ∧ CoreIs s t (coreKey s.cur) { s.coreOf (coreKey s.cur) with maps := ms } ∧ BacksUp s t (coreKey s.cur) m

end Sys2Proof.Claims

/-- R161: MAP's conditions in the order the rule gives, with the status of each; and the mapping it makes when none fails and every page's
translation is at hand and in local memory. -/
def Obligations.MapResults : Prop := ∀ (s : State) (d a b : Reg),
  s.cur % 64 / 4 ≠ 8 →
  let va := (s.s! a).toNat
  let desc := s.s! b
  let spage := desc.toNat % 2 ^ 6
  let npg := desc.toNat / 2 ^ 8 % 2 ^ 6 + 1
  let zero := desc.getLsbD 16
  let core := s.coreOf (coreKey s.cur)
  let gives := fun (n : Nat) => SetsS (.map d a b) s d (word n)
  let bad1 := desc.toNat / 2 ^ 6 % 2 ^ 2 ≠ 0 ∨ desc.toNat / 2 ^ 14 % 2 ^ 2 ≠ 0 ∨ desc.toNat / 2 ^ 18 ≠ 0 ∨ 63 < spage + (npg - 1)
  (bad1 → gives 1)
  ∧ (¬ bad1 → va % 4096 ≠ 0 → gives 2)
  ∧ (¬ bad1 → va % 4096 = 0 →
      (s.reached s.cur va = none → gives 3)
      ∧ ∀ r, s.reached s.cur va = some r →
        let whole := va + npg * 4096 ≤ r.base + r.len
        let ok3 := (r.kind = kPRIVATE ∨ r.kind = kOWNED) ∧ s.mayMap s.cur va (npg * 4096) = true ∧ (zero = true → s.mayWrite s.cur r = true)
        let ok4 := ∀ m, m ∈ core.maps → spage + npg ≤ m.spage ∨ m.spage + m.npg ≤ spage
        let ok5 := ∀ m, m ∈ core.maps → va + npg * 4096 ≤ m.base ∨ m.base + m.npg * 4096 ≤ va
        (¬ whole → gives 2)
        ∧ (whole → ¬ ok3 → gives 3)
        ∧ (whole → ok3 → ¬ ok4 → gives 4)
        ∧ (whole → ok3 → ok4 → ¬ ok5 → gives 5)
        ∧ (whole → ok3 → ok4 → ok5 → 16 ≤ core.maps.length → gives 6)
        ∧ (whole → ok3 → ok4 → ok5 → core.maps.length < 16 → ∀ pa : Nat → Nat,
            (∀ n, n < npg → (∀ j, j < n → s.tlbLookup (coreKey s.cur) (s.tenantOf s.cur) (va + j * 4096) false = some (pa j) ∧ inLocal (pa j) = true) →
              (s.tlbLookup (coreKey s.cur) (s.tenantOf s.cur) (va + n * 4096) false = some (pa n) → inLocal (pa n) = false → gives 3))
            ∧ ((∀ j, j < npg → s.tlbLookup (coreKey s.cur) (s.tenantOf s.cur) (va + j * 4096) false = some (pa j) ∧ inLocal (pa j) = true) →
              ∃ (m : Mapping) (st : SMap Byte),
                m.base = va ∧ m.spage = spage ∧ m.npg = npg ∧ m.zero = zero ∧ m.nowb = desc.getLsbD 17 ∧ m.writable = s.mayWrite s.cur r
                ∧ m.owner = s.cur ∧ m.graph = s.launchOf s.cur ∧ m.tenant = s.tenantOf s.cur ∧ m.dirty = []
                ∧ m.frames = (List.range npg).map (fun j => pa j / 4096)
                ∧ (∀ l, l ∈ m.filled ↔ zero = true ∧ spage * 64 ≤ l ∧ l < (spage + npg) * 64)
                ∧ (∀ x, SMap.read 0 st x = if zero = true ∧ spage * 4096 ≤ x ∧ x < (spage + npg) * 4096 then 0 else SMap.read 0 core.stash x)
                ∧ (zero = false → Completes (.map d a b) s fun t =>
                    OnlyCtx (s.setCore (coreKey s.cur) { core with stash := st, maps := core.maps ++ [m] }) t s.cur
                      { s.me with regs := (s.me.regs.sset d 0).advance })
                ∧ (zero = true → Completes (.map d a b) s fun t =>
                    TakesLines s t { s.me with regs := (s.me.regs.sset d 0).advance }
                    ∧ (∀ j, j ≠ coreKey s.cur → SameButFills (s.coreOf j) (t.coreOf j))
                    ∧ ∃ c1, SameButFills core c1 ∧ t.coreOf (coreKey s.cur) = { c1 with
                        stash := st, maps := c1.maps ++ [m], bad := core.bad.filter fun w => !(spage * 1024 ≤ w && w < (spage + npg) * 1024) }))))

/-- R163, R164: UNMAP and SFLUSH: the statuses, the bytes that reach memory, and what becomes of the mapping. -/
def Sys2Proof.Claims.UnmapAndSflush : Prop := ∀ (s : State) (d a : Reg) (c : BitVec 3),
  s.cur % 64 / 4 ≠ 8 →
  let maps := (s.coreOf (coreKey s.cur)).maps
  let here := fun (m : Mapping) => m.base ≤ (s.s! a).toNat ∧ (s.s! a).toNat < m.base + m.npg * 4096
  ((∀ m, m ∈ maps → ¬ here m) → SetsS (.unmap d a) s d 1 ∧ Sets (.sflush a c) s s.me.regs)
  ∧ ∀ m, m ∈ maps → here m → (∀ m', m' ∈ maps → here m' → m' = m) →
      (m.owner ≠ s.cur → SetsS (.unmap d a) s d 2)
      ∧ (m.owner = s.cur → Backs (.unmap d a) s (s.me.regs.sset d 0) m (maps.filter (· ≠ m)))
      ∧ (c.toNat < 2 → Sets (.sflush a c) s s.me.regs)
      ∧ (2 ≤ c.toNat → m.nowb = true → Backs (.sflush a c) s s.me.regs m maps)
      ∧ (2 ≤ c.toNat → m.nowb = false → Backs (.sflush a c) s s.me.regs m (maps.map fun x => if x = m then { x with dirty := [] } else x))

/-- R160, R162: PREF never traps or parks: it changes no register but the PC and no byte of memory; what the gate refuses, a DEVICE line, or one that
misses in translation is dropped whole; hint 3 fills an unfilled line of a stash mapping.
The fill that an access waits for brings the line's bytes from memory, and the context issues its word again; the line a parked WAITV watches is filled
too; a step of a context that waits for no fill, or whose tenant is switched out, does nothing. -/
def Sys2Proof.Claims.FillsOfTheStash : Prop :=
  (∀ (s : State) (h a : Reg),
  let va := (s.s! a).toNat / 64 * 64
  let k := coreKey s.cur
  let done := { s.me with regs := s.me.regs.advance }
  (Completes (.pref h a) s fun t => OnlyHere s t done)
  ∧ ((∀ r, s.judge s.cur va 1 .load = .ok r → r.kind = kDEVICE) → Sets (.pref h a) s s.me.regs)
  ∧ (h ≠ 3 → s.cur % 64 / 4 ≠ 8 → s.tlbLookup k (s.tenantOf s.cur) va false = none → Sets (.pref h a) s s.me.regs)
  ∧ (h = 3 → s.mapFor s.cur va false = none → Sets (.pref h a) s s.me.regs)
  ∧ (∀ r m, h = 3 → s.judge s.cur va 1 .load = .ok r → r.kind ≠ kDEVICE → s.mapFor s.cur va false = some m →
      let l := (m.spage * 4096 + (va - m.base)) / 64
      let pa := m.paOf (l * 64)
      (l ∈ m.filled → Sets (.pref h a) s s.me.regs)
      ∧ (l ∉ m.filled → s.isPoisoned pa 64 = false → Unowned s pa 64 → Completes (.pref h a) s fun t => OnlyHere s t done ∧ Filled s t k m l)))
  ∧ (∀ (s : State) (x : BitVec 12),
  let c := x.toNat
  let k := coreKey c
  (∀ l m, s.switchedOut c = false → (s.ctxOf c).sched.wait = .again (.fill l) → m ∈ (s.coreOf k).maps → m.spage * 64 ≤ l ∧ l < (m.spage + m.npg) * 64 →
    (∀ m', m' ∈ (s.coreOf k).maps → m'.spage * 64 ≤ l ∧ l < (m'.spage + m'.npg) * 64 → m' = m) →
    l ∉ m.filled → s.isPoisoned (m.paOf (l * 64)) 64 = false → Unowned s (m.paOf (l * 64)) 64 →
    Completes (.stashFill x) s fun t =>
      { t with ctxs := s.ctxs, cores := s.cores, dir := s.dir, caches := s.caches } = s
      ∧ CtxIs s t c { s.ctxOf c with sched := { (s.ctxOf c).sched with wait := .none, readyAt := s.clk } }
      ∧ (∀ j, j ≠ k → t.coreOf j = s.coreOf j) ∧ Filled s t k m l)
  ∧ (∀ w m, s.switchedOut c = false → (s.ctxOf c).sched.wait = .waitv w → s.mapFor c w.va.toNat false = some m →
    let l := (m.spage * 4096 + (w.va.toNat - m.base)) / 64
    (l ∈ m.filled → Idles (.stashFill x) s)
    ∧ (l ∉ m.filled → s.isPoisoned (m.paOf (l * 64)) 64 = false → Unowned s (m.paOf (l * 64)) 64 →
      Completes (.stashFill x) s fun t =>
        { t with ctxs := s.ctxs, cores := s.cores, dir := s.dir, caches := s.caches } = s ∧ (∀ j, t.ctxOf j = s.ctxOf j)
        ∧ (∀ j, j ≠ k → t.coreOf j = s.coreOf j) ∧ Filled s t k m l))
  ∧ ((s.switchedOut c = true ∨ ((∀ l, (s.ctxOf c).sched.wait ≠ .again (.fill l)) ∧ ∀ w, (s.ctxOf c).sched.wait = .waitv w → s.mapFor c w.va.toNat false = none)) →
    Idles (.stashFill x) s))

/-- R169: the fields of CAPQ's result; KIND 7 with every other field zero where the tenant reaches no region. Nothing else changes. -/
def Sys2Proof.Claims.CapqResult : Prop := ∀ (s : State) (d a : Reg),
  let va := (s.s! a).toNat
  let kernel := s.cur % 64 / 4 = 8
  (s.reached s.cur va = none → SetsS (.capq d a) s d 7)
  ∧ ∀ r, s.reached s.cur va = some r → ∃ x : Word, SetsS (.capq d a) s d x
      ∧ x.toNat % 2 ^ 3 = r.kind.toNat
      ∧ (x.getLsbD 3 = true ↔ (r.kind = kPRIVATE ∧ r.owner.toNat = s.pcidOf s.cur)
          ∨ ((r.kind = kOWNED ∨ r.kind = kVERSIONED)
            ∧ (s.holder (s.regionKey r) = .ctx s.cur ∨ (kernel ∧ s.holder (s.regionKey r) = .service))))
      ∧ (x.getLsbD 4 = true ↔ ∃ q, s.judge s.cur (va / 8 * 8) 8 .load = .ok q)
      ∧ (x.getLsbD 5 = true ↔ ∃ q, s.judge s.cur (va / 4 * 4) 4 .fetch = .ok q)
      ∧ (x.getLsbD 6 = true ↔ ¬ kernel ∧ ∃ m, m ∈ (s.coreOf (coreKey s.cur)).maps ∧ m.base ≤ va ∧ va < m.base + m.npg * 4096)
      ∧ (x.getLsbD 7 = true ↔ r.kind = kVERSIONED ∧ r.fbk = true)
      ∧ (r.depth < 16 → x.toNat / 2 ^ 8 % 2 ^ 8 = if r.kind = kVERSIONED then r.depth else 0)
      ∧ (r.depth < 16 → x.toNat / 2 ^ 16 % 2 ^ 32 = r.len / 4096 % 2 ^ 32 ∧ x.toNat / 2 ^ 48 = 0)

/-- R160, R162 to R164, R169: UNMAP, SFLUSH, PREF, the fills and CAPQ. -/
def Obligations.StashWords : Prop :=
  Sys2Proof.Claims.UnmapAndSflush ∧ Sys2Proof.Claims.FillsOfTheStash ∧ Sys2Proof.Claims.CapqResult

/-! ### Versions and waits (R170 to R177, R183, R184) -/

namespace Sys2Proof.Claims

/-- x is in l, p holds of it, and it is later than every other slot of which p holds (R170). -/
def NewestOf (p : VSlot → Prop) (l : List VSlot) (x : VSlot) : Prop := x ∈ l ∧ p x ∧ ∀ y, y ∈ l → p y → y = x ∨ serialLater x.ver y.ver = true

/-- The issuing context, woken. -/
def woken (s : State) (r : Regs) : Ctx := { s.me with regs := r, sched := { s.me.sched with wait := .none, readyAt := s.clk } }

/-- i delivers v into sd and 0 into pf. -/
def Delivers (i : Instr) (s : State) (d : Reg) (p : BitVec 3) (v : Nat) : Prop :=
  Completes i s fun t => OnlyReads s t (woken s ((s.me.regs.sset d (word v)).pset p 0).advance)

/-- The device time at which the versioned load issued: now, or earlier where it has waited for its translation since (R175, R176). -/
def issuedAt (s : State) : Nat := (s.me.sched.sampled.map (·.2)).getD s.dtime

/-- CYCLE as the versioned load sampled it when it issued. -/
def issuedIn (s : State) : Word := (s.me.sched.sampled.map (·.1)).getD (s.cycleOf (s.domOf s.cur))

/-- i parks as a load of size n at offset off of the region r, with this mode and number, its deadline VDEADL after its issue (R175, R176). -/
def ParksOn (i : Instr) (s : State) (r : RegionEnt) (mode : BitVec 2) (d : Reg) (p : BitVec 3) (off n : Nat) (arg : Word32) : Prop :=
  ∃ w : LdvWait, w.ring = s.regionKey r ∧ w.mode = mode ∧ w.sd = d ∧ w.pf = p ∧ w.off = off ∧ w.size = n ∧ w.arg = arg ∧ w.reg = r
    ∧ (w.deadline = if s.me.ctl.vdeadl = 0xFFFFFFFF then none else some (issuedAt s + s.me.ctl.vdeadl.toNat))
    ∧ Completes i s fun t => OnlyReads s t { s.me with sched := { s.me.sched with wait := .ldv w, since := s.dtime } }

/-- t is s but for the issuing context, which is c, the ring of key, which is l, and the bookkeeping of an access. The ring is not an input image's. -/
def OnlyRing (s t : State) (key : Nat) (l : List VSlot) (c : Ctx) : Prop :=
  { t with ctxs := s.ctxs, cores := s.cores, rings := s.rings } = s ∧ CtxIs s t s.cur c ∧ SameCores s t
  ∧ (∀ k n, k ≠ key → t.ring k n = s.ring k n) ∧ ∀ n, t.ring key n = l

/-- The same where the ring is an input image's, whose bytes stand in image SRAM (R344). -/
def OnlyImage (s t : State) (key : Nat) (l : List VSlot) (c : Ctx) : Prop :=
  { t with ctxs := s.ctxs, cores := s.cores, rings := s.rings, mem := s.mem } = s ∧ CtxIs s t s.cur c ∧ SameCores s t
  ∧ (∀ k, k ≠ key → SMap.read {} t.rings k = SMap.read {} s.rings k) ∧ (SMap.read {} t.rings key : Ring) = { slots := l.map VSlot.bare } ∧ t.mem = (s.putImage key l).mem

/-- No load is parked on the ring, in a context on its slot or saved, and no version window is busy or pinned on it. -/
def QuietRing (s : State) (key : Nat) : Prop :=
  (∀ e w, e ∈ s.ctxs → e.2.sched.wait = .ldv w → w.ring ≠ key) ∧ (∀ e w, e ∈ s.slots → e.ctx.sched.wait = .ldv w → w.ring ≠ key)
  ∧ ∀ j, j < 64 → (SMap.read {} s.vwins j : VWin).ring ≠ key

end Sys2Proof.Claims

/-- R175: what a versioned load delivers, when it parks, and when its version is gone, in each mode, by the slots of the region's ring as they
stand at issue. (No stash line stands in for a version: R161 maps PRIVATE and OWNED ranges only.) -/
def Sys2Proof.Claims.VersionedLoads : Prop := ∀ (s : State) (d a b : Reg) (p : BitVec 3) (z : BitVec 2),
  let n := 2 ^ z.toNat
  let ea := s.s! a
  (ea.toNat % n ≠ 0 → TrapsAs (.ldvExact d a b p z) s 2 ea 3 ∧ TrapsAs (.ldvLe d a b p z) s 2 ea 3 ∧ TrapsAs (.ldvAge d a b p z) s 2 ea 3)
  ∧ ∀ r pa, Lands s ea n n .ldv r pa → s.isPoisoned pa n = false → Unowned s pa n →
    let l := s.ring (s.regionKey r) r.depth
    let off := ea.toNat - r.base
    let v : Word32 := BitVec.ofNat 32 (s.s! b).toNat
    let lo : Word32 := BitVec.ofNat 32 (issuedIn s).toNat - BitVec.ofNat 32 ((s.s! b).toNat % 2 ^ 31)
    let gone := fun (i : Instr) => TrapsAfterCheck i s (woken s s.me.regs) 5 (word (v.toNat + 2 ^ 32)) 3
    let isV := fun (x : VSlot) => x.st = .sealed ∧ x.ver = v
    let used := fun (x : VSlot) => x.st ≠ .free
    -- EXACT
    (∀ x, NewestOf isV l x → Delivers (.ldvExact d a b p z) s d p (SMap.readLE x.data off n))
    ∧ ((∀ x, x ∈ l → ¬ isV x) → ((∃ o, o ∈ l ∧ o.st = .opened ∧ o.ver = v) ∨ (∃ x, NewestOf used l x ∧ serialLater v x.ver = true) ∨ ∀ x, x ∈ l → x.st = .free) →
        ParksOn (.ldvExact d a b p z) s r 0 d p off n v)
    ∧ ((∀ x, x ∈ l → ¬ isV x) → (∀ o, o ∈ l → ¬ (o.st = .opened ∧ o.ver = v)) → (∃ x, NewestOf used l x ∧ serialLater v x.ver = false) → gone (.ldvExact d a b p z))
    -- LE
    ∧ ((∃ o, o ∈ l ∧ o.st = .opened ∧ serialLater o.ver v = false) → ParksOn (.ldvLe d a b p z) s r 1 d p off n v)
    ∧ ((∀ o, o ∈ l → o.st = .opened → serialLater o.ver v = true) →
        (∀ x, NewestOf (fun x => x.st = .sealed ∧ serialLater x.ver v = false) l x → Delivers (.ldvLe d a b p z) s d p (SMap.readLE x.data off n))
        ∧ ((∀ x, x ∈ l → x.st = .sealed → serialLater x.ver v = true) → gone (.ldvLe d a b p z)))
    -- AGE
    ∧ (∀ x, NewestOf (fun x => x.st = .sealed ∧ serialLater lo x.ver = false) l x → Delivers (.ldvAge d a b p z) s d p (SMap.readLE x.data off n))
    ∧ ((∀ x, x ∈ l → x.st = .sealed → serialLater lo x.ver = true) → ParksOn (.ldvAge d a b p z) s r 2 d p off n lo)

/-- R171 to R174: STV writes into the open version, or opens its version when none is open and it is later than the newest, on the contents of
the newest sealed one; SEALV seals with the device time in the stamp; RECLV frees the sealed versions up to its number but the newest; what they
trap. Of the ring nothing else changes. (A ring on which nothing waits; what waits is resolved again by R175 as a load of its own. The ring of an input image,
key 2^70 and up, belongs to the cycle engine (R344): of it the store into its open version is stated, which goes to image SRAM.) -/
def Sys2Proof.Claims.VersionWrites : Prop := ∀ (s : State) (t a b : Reg) (z : BitVec 2) (r : RegionEnt) (pa : Nat),
  let n := 2 ^ z.toNat
  let ea := s.s! a
  let v : Word32 := BitVec.ofNat 32 (s.s! b).toNat
  let key := s.regionKey r
  let l := s.ring key r.depth
  let off := ea.toNat - r.base
  let done := { s.me with regs := s.me.regs.advance }
  let opens := fun (i : Nat) (x : VSlot) => l[i]? = some x ∧ x.st = .opened ∧ x.ver = v ∧ ∀ j y, j < i → l[j]? = some y → ¬ (y.st = .opened ∧ y.ver = v)
  (ea.toNat % n ≠ 0 → TrapsAs (.stv t a b z) s 2 ea 3)
  ∧ (Lands s ea n n .version r pa → 2 ^ 70 ≤ key → ∀ i x, opens i x → Completes (.stv t a b z) s fun u =>
        OnlyImage s u key (l.set i { x with data := SMap.writeLE x.data off n (s.s! t).toNat }) done)
  ∧ (Lands s ea n n .version r pa → key < 2 ^ 70 →
      (∀ i x, opens i x → Completes (.stv t a b z) s fun u =>
        OnlyRing s u key (l.set i { x with data := SMap.writeLE x.data off n (s.s! t).toNat }) done)
      ∧ ((∀ x, x ∈ l → x.st ≠ .opened) → (∃ x, NewestOf (fun x => x.st ≠ .free) l x ∧ serialLater v x.ver = true) → QuietRing s key →
          ∀ i, (∀ x, l[i]? = some x → (x.st = .free ∧ ∀ j y, j < i → l[j]? = some y → y.st ≠ .free)
                ∨ ((∀ y, y ∈ l → y.st ≠ .free) ∧ ∀ j y, j ≠ i → l[j]? = some y → serialLater y.ver x.ver = true)) → i < l.length →
          ∀ old, NewestOf (fun x => x.st = .sealed) l old → ∃ y : VSlot, y.st = .opened ∧ y.ver = v
            ∧ (∀ o, SMap.read 0 y.data o = if off ≤ o ∧ o < off + n then byteOf (s.s! t).toNat (o - off) else if o < 4 then byteOf v.toNat o
                else if o < 8 then 0 else SMap.read 0 old.data o)
            ∧ Completes (.stv t a b z) s fun u => OnlyRing s u key (l.set i y) done)
      ∧ ((∀ x, x ∈ l → ¬ (x.st = .opened ∧ x.ver = v)) →
          ((∃ x, x ∈ l ∧ x.st = .opened) ∨ ∃ x, NewestOf (fun x => x.st ≠ .free) l x ∧ serialLater v x.ver = false) →
          Traps (.stv t a b z) s 5 (word (v.toNat + 2 ^ 32 * 2))))
  ∧ (Lands s ea 0 1 .version r pa → key < 2 ^ 70 →
      (∀ i x, opens i x → QuietRing s key → (s.win! rPAIRCTL).getLsbD 10 = false → Completes (.sealv a b) s fun u =>
        OnlyRing s u key (l.set i { x with st := .sealed, data := SMap.writeLE x.data 4 4 (s.dtime % 2 ^ 32) }) done)
      ∧ ((∀ x, x ∈ l → ¬ (x.st = .opened ∧ x.ver = v)) → Traps (.sealv a b) s 5 (word (v.toNat + 2 ^ 32 * 3)))
      ∧ (∀ x, NewestOf (fun x => x.st = .sealed) l x → Completes (.reclv a b) s fun u =>
          OnlyRing s u key (l.map fun y => if y.st = .sealed ∧ serialLater y.ver v = false ∧ y.ver ≠ x.ver then { y with st := .free } else y) done))

/-- R171 to R175: versioned loads, STV, COMMIT and their statuses. -/
def Obligations.VersionedLoadsAndWrites : Prop :=
  Sys2Proof.Claims.VersionedLoads ∧ Sys2Proof.Claims.VersionWrites

/-- R176, R183, R184: the fences of one context in a machine that performs its accesses in order; WAITV returns what it read as soon as that differs
from s(b) or its deadline has come, and else waits with its time and limit; the deadline of a parked load delivers the fallback record or traps
STALE. A deadline step of a context that does not wait so, or whose deadline is not past, does nothing. (That a fence only moves the PC rests on the
model's sequentially consistent memory, log entry 5.) -/
def Obligations.FencesAndDeadlines : Prop := ∀ (s : State) (d a b : Reg) (z : BitVec 1) (c : BitVec 3) (x : BitVec 12),
  (Sets (.fenceFull c) s s.me.regs ∧ Sets (.fenceAcq c) s s.me.regs ∧ Sets (.fenceRel c) s s.me.regs)
  ∧ (let n := if z = 0 then 4 else 8
     let va := s.s! a
     let want := (s.s! b).toNat % 2 ^ (8 * n)
     (va.toNat % n ≠ 0 → TrapsAs (.waitv d a b z c) s 2 va 0)
     ∧ ∀ r pa, Lands s va n n .load r pa → s.isPoisoned pa n = false → NoRingFor s s.cur r pa → Unowned s pa n →
        let m := s.mem.readLE pa n
        (m ≠ want ∨ s.me.ctl.vdeadl = 0 → Completes (.waitv d a b z c) s fun t => OnlyReads s t (woken s (s.me.regs.sset d (word m)).advance))
        ∧ (m = want → s.me.ctl.vdeadl ≠ 0 → ∃ w : WaitvWait, w.sd = d ∧ w.va = va ∧ w.size = n ∧ w.value = s.s! b ∧ w.t0 = s.dtime ∧ w.dl = s.me.ctl.vdeadl
            ∧ Completes (.waitv d a b z c) s fun t => OnlyReads s t { s.me with sched := { s.me.sched with wait := .waitv w } }))
  ∧ (let k := x.toNat
     let y := s.ctxOf k
     let late := fun (r : Regs) => { y with regs := r, sched := { y.sched with wait := .none, readyAt := s.clk } }
     (∀ w r pa, y.sched.wait = .waitv w → w.dl ≠ 0xFFFFFFFF → w.t0 + w.dl.toNat ≤ s.dtime → s.switchedOut k = false → w.size = 4 ∨ w.size = 8 →
        LandsFor s k w.va w.size w.size .load r pa → s.isPoisoned pa w.size = false → NoRingFor s k r pa → Unowned s pa w.size →
        Completes (.waitvDeadline x) s fun t => OnlyReadsFor s t k (late (y.regs.sset w.sd (word (s.mem.readLE pa w.size))).advance))
     ∧ ((∀ w, y.sched.wait = .waitv w → w.dl = 0xFFFFFFFF ∨ (w.t0 ≤ s.dtime ∧ s.dtime < w.t0 + w.dl.toNat)) → Idles (.waitvDeadline x) s)
     ∧ (∀ w e, y.sched.wait = .ldv w → w.deadline = some e → e < s.dtime → s.switchedOut k = false →
        (w.reg.fbk = true → Unowned s (w.reg.frec + w.off % 64) w.size → s.isPoisoned (w.reg.frec + w.off % 64) w.size = false → Completes (.ldvDeadline x) s fun t =>
          OnlyCtx s t k (late ((y.regs.sset w.sd (word (s.mem.readLE (w.reg.frec + w.off % 64) w.size))).pset w.pf 1).advance))
        ∧ (w.reg.fbk = false → exec (.ldvDeadline x) s = .next ((s.setCtx k (late y.regs)).trapAt k 4 (word w.arg.toNat))))
     ∧ ((∀ w e, y.sched.wait = .ldv w → w.deadline = some e → s.dtime ≤ e) → Idles (.ldvDeadline x) s))

/-! ### Messages (R167, R168, R185 to R195) -/

namespace Sys2Proof.Claims

/-- The fields of a message header (R185); bits 46 and 45 are 0 and V is 1. -/
def Hdr (x : Word) (kind rsn h src dst dev : Nat) (rmt : Bool) (seq : Nat) : Prop :=
  let n := x.toNat
  n % 2 ^ 3 = kind ∧ n / 2 ^ 3 % 2 ^ 3 = rsn ∧ n / 2 ^ 6 % 2 ^ 6 = h ∧ n / 2 ^ 12 % 2 ^ 12 = src ∧ n / 2 ^ 24 % 2 ^ 12 = dst
  ∧ n / 2 ^ 36 % 2 ^ 8 = dev ∧ x.getLsbD 44 = rmt ∧ x.getLsbD 45 = false ∧ x.getLsbD 46 = false ∧ x.getLsbD 47 = true ∧ n / 2 ^ 48 = seq

/-- t is s but for the issuing context, which waits for w, and one more message in flight: m, for this purpose, to dev or on this device. -/
def Launches (s t : State) (m : Msg) (dev : Option Byte) (why : Purpose) (w : Wait) : Prop :=
  { t with ctxs := s.ctxs, flights := s.flights, nextId := s.nextId, sent := s.sent } = s
  ∧ CtxIs s t s.cur { s.me with sched := { s.me.sched with wait := w, since := s.dtime } }
  ∧ (∃ f : Flight, t.flights = s.flights ++ [(s.nextId, f)] ∧ f.src = some s.cur ∧ f.msg = m ∧ f.remote = dev ∧ f.purpose = why ∧ f.answer = .pending
      ∧ f.resends = 0 ∧ f.dead = false ∧ f.tenant = s.tenantOf s.cur ∧ f.launch = s.launchOf s.cur)
  ∧ t.nextId = s.nextId + 1
  ∧ t.sent = match dev with
      | some g => .message g m :: s.sent
      | none => s.sent

/-- i sends the low 56 bytes of v (R187 to R189): it is launched, and the context waits for its answer; or the sender's own gate refuses it, with
the REFUSE header in sd. -/
def SendsMsg (i : Instr) (s : State) (d : Reg) (kind h pcid : Nat) (dev : Option Byte) (seq right : Nat) (v : VReg) : Prop :=
  let me := s.pcidOf s.cur % 2 ^ 12
  (s.gateSends s.cur (s.judged s.cur kind pcid dev) dev right = true → ∃ x : Word,
      Hdr x kind 0 h me pcid (if dev.isSome then s.ownDev else 0) dev.isSome seq
      ∧ Completes i s fun t => Launches s t { hdr := x, payload := v.truncate 448 } dev (.send d) (.send d))
  ∧ (s.gateSends s.cur (s.judged s.cur kind pcid dev) dev right = false → ∃ x : Word, Hdr x 2 4 h me me 0 false seq ∧ SetsS i s d x)

/-- i takes entry m from the inbox (R187, R191, R237): sd its header, vb its payload with bytes 63 to 56 zero, the reply target its sender; a
COMPLETE entry whose status is FAILW clears FAILW, MORE apart. A HANDOVER entry also brings the writer capability on its way here (R168). -/
def Takes (i : Instr) (s : State) (d b : Reg) (m : Msg) : Prop :=
  let c := s.me
  let n := m.hdr.toNat
  ∀ fw : Word32, (fw = if n % 2 ^ 3 = 3 ∧ m.payload.toNat % 2 ^ 32 = (c.regs.failw &&& ~~~0x8000).toNat then c.regs.failw &&& 0x8000 else c.regs.failw) →
  let to' : ReplyTo := { pcid := BitVec.ofNat 12 (n / 2 ^ 12), dev := BitVec.ofNat 8 (n / 2 ^ 36), rmt := m.hdr.getLsbD 44, seq := BitVec.ofNat 16 (n / 2 ^ 48) }
  let after := { c with
    inbox := c.inbox.erase m
    regs := (((({ c.regs with failw := fw } : Regs)).sset d m.hdr).vset b (m.payload.zeroExtend 512)).advance
    sched := { c.sched with wait := .none, edge := none, reply := some to' } }
  let coming := fun (h : Nat × Holder) => h.2 = .moving s.cur ∧ (h.1 % 2 ^ 56 = m.payload.toNat % 2 ^ 64 ∨ 2 ^ 70 ≤ h.1)
  (n % 2 ^ 3 ≠ 4 ∨ (∀ h, h ∈ s.holders → ¬ coming h) → Completes i s fun t => OnlyCtx s t s.cur after)
  ∧ (n % 2 ^ 3 = 4 → ∀ h, h ∈ s.holders → coming h → (∀ h', h' ∈ s.holders → coming h' → h' = h) → Completes i s fun t =>
      OnlyCtx { s with holders := t.holders } t s.cur after ∧ ∀ k, t.holder k = if k = h.1 then .ctx s.cur else s.holder k)

/-- m is the oldest entry of the inbox that is receivable and that p admits. -/
def Oldest (s : State) (p : Msg → Prop) (m : Msg) : Prop :=
  ∃ l l', s.me.inbox = l ++ m :: l' ∧ s.heldFor s.cur m = false ∧ p m ∧ ∀ x, x ∈ l → s.heldFor s.cur x = true ∨ ¬ p x

/-- i leaves the context waiting to issue i again, for this reason; nothing else changes. -/
def Waits (i : Instr) (s : State) (y : Why) : Prop :=
  Completes i s fun t => OnlyCtx s t s.cur
    (if s.me.sched.wait = .again y then s.me else { s.me with sched := { s.me.sched with wait := .again y, since := s.dtime } })

/-- The answer of message n becomes a, in t; the rest of its flight is as in s. -/
def AnswerIs (s t : State) (n : Nat) (f : Flight) (a : Answer) : Prop :=
  t.flights = s.flights.map fun x => if x.1 = n then (n, { f with answer := a }) else x

end Sys2Proof.Claims

/-- R186 to R189: SEND, SENDA and REPLY, by the operand or the reply target. -/
def Sys2Proof.Claims.MessageSends : Prop := ∀ (s : State) (d a b : Reg) (h : BitVec 6),
  let x := (s.s! a).toNat
  let dev := if (s.s! a).getLsbD 20 then some (BitVec.ofNat 8 (x / 2 ^ 12)) else none
  s.ownDev < 2 ^ 8 →
  SendsMsg (.send d a b) s d 0 0 (x % 2 ^ 12) dev (x / 2 ^ 32 % 2 ^ 16) 1 (s.v! b)
  ∧ SendsMsg (.senda d a b h) s d 1 h.toNat (x % 2 ^ 12) dev (x / 2 ^ 32 % 2 ^ 16) 2 (s.v! b)
  ∧ (∀ t, s.me.sched.reply = some t → SendsMsg (.reply d b) s d 0 0 t.pcid.toNat (if t.rmt then some t.dev else none) t.seq.toNat 1 (s.v! b))
  ∧ (s.me.sched.reply = none → ∃ y : Word, Hdr y 2 4 0 (s.pcidOf s.cur % 2 ^ 12) (s.pcidOf s.cur % 2 ^ 12) 0 false 0 ∧ SetsS (.reply d b) s d y)
  -- the PCID the gate judges: SENDA's is that of the handler context of the core it names
  ∧ (∀ p e, s.judged s.cur 0 p e = p)
  ∧ (∀ q p k, s.partOf (s.cur / 64) = some q → s.cidOfPcid q (p / 4 * 4) = some k → k % 64 / 4 ≠ 8 → s.judged s.cur 1 p none = p / 4 * 4 + (s.coreOf (k / 64 * 16 + k % 64 / 4)).htSlot.toNat)

/-- R191: what the receive forms take, and what they do when nothing matches. -/
def Sys2Proof.Claims.MessageReceives : Prop := ∀ (s : State) (d a b : Reg),
  let x := (s.s! a).toNat
  let from' := fun (m : Msg) => m.hdr.toNat / 2 ^ 12 % 2 ^ 12 = x % 2 ^ 12 ∧ m.hdr.getLsbD 44 = (s.s! a).getLsbD 20
    ∧ (m.hdr.getLsbD 44 = true → m.hdr.toNat / 2 ^ 36 % 2 ^ 8 = x / 2 ^ 12 % 2 ^ 8)
    ∧ ((s.s! a).getLsbD 48 = true → m.hdr.toNat / 2 ^ 48 = x / 2 ^ 32 % 2 ^ 16)
  (∀ m, Oldest s (fun _ => True) m → Takes (.recv d b) s d b m ∧ Takes (.recvp d b) s d b m)
  ∧ (∀ m, Oldest s from' m → Takes (.recvf d a b) s d b m)
  ∧ ((∀ m, ¬ Oldest s (fun _ => True) m) → Waits (.recv d b) s .recv ∧ SetsS (.recvp d b) s d 0)
  ∧ ((∀ m, ¬ Oldest s from' m) → Waits (.recvf d a b) s (.recvf (s.s! a)))

/-- R167, R168: HANDOVER's conditions in order, and the capability on its way: from the launch on no context holds it. Which region a kernel-core
context names is log entry 8's. -/
def Sys2Proof.Claims.HandoverLaunches : Prop := ∀ (s : State) (a b : Reg),
  let va := s.s! a
  let dst := (s.s! b).toNat % 2 ^ 12
  let stops := fun (code : Byte) (val : Word) (detail : Byte) => exec (.handover a b) s = .next (s.suspend s.cur code val 0 detail akMessage)
  -- the region named: the one the gate reaches; of an address no kernel region covers, a kernel-core context names the region whose bytes stand there
  (s.cur % 64 / 4 ≠ 8 ∨ s.reached s.cur va.toNat ≠ none → s.named va.toNat = s.reached s.cur va.toNat)
  ∧ (s.cur % 64 / 4 = 8 → s.reached s.cur va.toNat = none → s.named va.toNat = (s.regionAt va.toNat).map (·.1))
  ∧ (s.named va.toNat = none → stops cGATE va 1)
  ∧ ∀ r, s.named va.toNat = some r →
    let key := s.regionKey r
    let mine := s.holder key = .ctx s.cur ∨ (s.cur % 64 / 4 = 8 ∧ s.holder key = .service)
    (r.kind ≠ kOWNED → r.kind ≠ kVERSIONED → stops cGATE va 4)
    ∧ (r.kind = kOWNED ∨ r.kind = kVERSIONED →
        (¬ mine → stops cWCAP va 0)
        ∧ (mine → dst = s.pcidOf s.cur → Sets (.handover a b) s s.me.regs)
        ∧ (mine → dst ≠ s.pcidOf s.cur → s.gateSends s.cur dst none 1 = false → stops cGATE (word dst) 7)
        ∧ (mine → dst ≠ s.pcidOf s.cur → s.gateSends s.cur dst none 1 = true → s.cmdsOf s.cur ≠ [] → Waits (.handover a b) s .engines)
        ∧ (mine → dst ≠ s.pcidOf s.cur → s.gateSends s.cur dst none 1 = true → s.cmdsOf s.cur = [] → ∀ p to', s.partOf (s.cur / 64) = some p →
            s.cidOfPcid p dst = some to' →
            (∀ m, m ∈ (s.coreOf (coreKey s.cur)).maps → ¬ (m.writable = true ∧ m.owner = s.cur ∧ r.base ≤ m.base ∧ m.base < r.base + r.len)) →
            ∃ x : Word, Hdr x 4 0 0 (s.pcidOf s.cur % 2 ^ 12) dst 0 false 0 ∧ ∃ y : BitVec 448,
              (r.base < 2 ^ 64 → r.len < 2 ^ 64 → y.toNat % 2 ^ 64 = r.base ∧ y.toNat / 2 ^ 64 % 2 ^ 64 = r.len)
              ∧ Completes (.handover a b) s fun t => (∀ k, t.holder k = if k = key then .moving to' else s.holder k)
                ∧ Launches { s with holders := t.holders } t { hdr := x, payload := y } none (.handover va key) .handover))

/-- R186 to R191, R167, R168: SEND, SENDA, REPLY, HANDOVER and the receive forms. -/
def Obligations.MessageWords : Prop :=
  Sys2Proof.Claims.MessageSends ∧ Sys2Proof.Claims.MessageReceives ∧ Sys2Proof.Claims.HandoverLaunches

/-- R188, R194: what becomes of a message in flight on this device, by the checks in their order. A REDUCE message to a server is another rule's. The message of a sender that has ended is dropped.
A message that is not pending, or that goes to another device, is not moved by this step. -/
def Sys2Proof.Claims.MessageArrives : Prop := ∀ (s : State) (n : Nat) (f : Flight),
  s.flights.find? (·.1 == n) = some (n, f) →
  let h := f.msg.hdr
  let active := h.toNat % 2 ^ 3 = 1
  let refuses := fun (rsn : Nat) => ∃ x : Word,
    Hdr x 2 rsn (h.toNat / 2 ^ 6 % 2 ^ 6) (h.toNat / 2 ^ 24 % 2 ^ 12) (h.toNat / 2 ^ 12 % 2 ^ 12) 0 false (h.toNat / 2 ^ 48)
    ∧ Completes (.messageArrival n) s fun t => { t with flights := s.flights } = s ∧ AnswerIs s t n f (.refused x)
  (f.remote ≠ none ∨ f.answer ≠ .pending → Idles (.messageArrival n) s)
  ∧ (f.remote = none → f.answer = .pending →
      (f.dead = true → Completes (.messageArrival n) s fun t => { t with flights := s.flights } = s ∧ AnswerIs s t n f (.refused 0))
      ∧ (f.dead = false → s.cidOfPcid f.part (h.toNat / 2 ^ 24 % 2 ^ 12) = none → refuses 4)
      ∧ ∀ cid, f.dead = false → s.cidOfPcid f.part (h.toNat / 2 ^ 24 % 2 ^ 12) = some cid →
        let kernel := cid % 64 / 4 = 8
        let core := s.coreOf (coreKey cid)
        let to' := if active ∧ ¬ kernel then cid / 4 * 4 + core.htSlot.toNat else cid
        let ent := (core.handler (h.toNat / 2 ^ 6 % 2 ^ 6)).st
        (∀ t, s.descheduled to' = some t →
          (65536 ≤ (s.meminbox.filter (·.tenant == t)).length → refuses 1)
          ∧ ((s.meminbox.filter (·.tenant == t)).length < 65536 → Completes (.messageArrival n) s fun u =>
              { u with flights := s.flights, meminbox := s.meminbox } = s ∧ AnswerIs s u n f .accepted
              ∧ u.meminbox = s.meminbox ++ [{ tenant := t, cid := to', msg := f.msg }]))
        ∧ (s.descheduled to' = none → active → kernel ∨ core.htEn = false ∨ ent = .empty → refuses 2)
        ∧ (s.descheduled to' = none → active → ¬ kernel → core.htEn = true → ent = .writing → refuses 3)
        ∧ (s.descheduled to' = none → ¬ active ∨ (¬ kernel ∧ core.htEn = true ∧ ent = .valid) → (∃ e, e ∈ s.meminbox ∧ e.cid = to' ∧ e.tenant = s.tenantOf to') →
            (65536 ≤ (s.meminbox.filter (·.tenant == s.tenantOf to')).length → refuses 1)
            ∧ ((s.meminbox.filter (·.tenant == s.tenantOf to')).length < 65536 → Completes (.messageArrival n) s fun u =>
                { u with flights := s.flights, meminbox := s.meminbox } = s ∧ AnswerIs s u n f .accepted
                ∧ u.meminbox = s.meminbox ++ [{ tenant := s.tenantOf to', cid := to', msg := f.msg }]))
        ∧ (s.descheduled to' = none → ¬ active ∨ (¬ kernel ∧ core.htEn = true ∧ ent = .valid) → (∀ e, e ∈ s.meminbox → ¬ (e.cid = to' ∧ e.tenant = s.tenantOf to')) → s.server to' = none →
            (s.inboxFull to' = true → refuses 1)
            ∧ (s.inboxFull to' = false → Completes (.messageArrival n) s fun u =>
                { u with flights := s.flights, ctxs := s.ctxs } = s ∧ AnswerIs s u n f .accepted
                ∧ CtxIs s u to' { s.ctxOf to' with inbox := (s.ctxOf to').inbox ++ [f.msg] })))

/-- R189, R190, R167, R194, R195: the answer of a message reaches its sender; a refused HANDOVER is sent again after its back-off, or passes the
capability to the service; held messages pass into an inbox with room; a RECVF parked for 1 microsecond records its edge, and the lowest context of
a closed cycle is suspended. The answer of a sender whose state is saved off its slot lands on what is saved (R336). -/
def Sys2Proof.Claims.MessageAnswers : Prop := ∀ (s : State) (n : Nat) (f : Flight),
  s.flights.find? (·.1 == n) = some (n, f) →
  let rest := s.flights.filter (fun x => x.1 ≠ n)
  let gone : State := { s with flights := rest }
  let onSlot := fun (cid : Nat) => ∀ x, x ∈ s.slots → ¬ (x.tenant = f.tenant ∧ x.cid = cid)
  let wakes := fun (i : Instr) (cid : Nat) (r : Regs) => Completes i s fun t =>
    { t with flights := s.flights, ctxs := s.ctxs } = s ∧ t.flights = rest
    ∧ CtxIs s t cid { s.ctxOf cid with regs := r.advance, sched := { (s.ctxOf cid).sched with wait := .none, readyAt := s.clk } }
  (∀ cid d e, f.src = some cid → onSlot cid → f.dead = false → f.purpose = .send d → (s.ctxOf cid).sched.wait = .send e →
      (f.answer = .accepted → wakes (.sendAnswer n) cid ((s.ctxOf cid).regs.sset d 0))
      ∧ (∀ x, f.answer = .refused x → wakes (.sendAnswer n) cid ((s.ctxOf cid).regs.sset d x)))
  ∧ (∀ cid d, f.src = some cid → ¬ onSlot cid → f.dead = false → f.purpose = .send d →
      (f.answer = .accepted → exec (.sendAnswer n) s = .next (gone.onOwner f.tenant cid fun t => t.sendDone cid d 0))
      ∧ (∀ x, f.answer = .refused x → exec (.sendAnswer n) s = .next (gone.onOwner f.tenant cid fun t => t.sendDone cid d x)))
  ∧ (∀ cid va key, f.src = some cid → f.dead = false → f.purpose = .handover va key →
      (f.answer = .accepted → onSlot cid → wakes (.sendAnswer n) cid (s.ctxOf cid).regs)
      ∧ (f.answer = .accepted → ¬ onSlot cid → exec (.sendAnswer n) s = .next (gone.onOwner f.tenant cid fun t => t.handed cid))
      ∧ (∀ x : Word, f.answer = .refused x →
          (x.toNat / 2 ^ 3 % 2 ^ 3 = 1 ∨ x.toNat / 2 ^ 3 % 2 ^ 3 = 3 → Completes (.sendAnswer n) s fun t =>
            { t with flights := s.flights } = s
            ∧ AnswerIs s t n { f with resends := f.resends + 1 } (.backoff (s.clk + 64 * 2 ^ min f.resends 7)))
          ∧ (x.toNat / 2 ^ 3 % 2 ^ 3 = 2 ∨ x.toNat / 2 ^ 3 % 2 ^ 3 = 4 →
            (onSlot cid → exec (.sendAnswer n) s = .next ((gone.setHolder key .service).suspend cid cGATE x 0 7 akMessage))
            ∧ (¬ onSlot cid → exec (.sendAnswer n) s = .next ((gone.setHolder key .service).onOwner f.tenant cid fun t => t.suspend cid cGATE x 0 7 akMessage)))))
  ∧ (f.answer = .pending → f.src ≠ none → Idles (.sendAnswer n) s)
  ∧ (∀ cid at', f.src = some cid → f.answer = .backoff at' → f.dead = false → (s.ctxOf cid).sched.susp = none → cid % 64 / 4 = 8 ∨ (s.tenantOf cid = f.tenant ∧ s.maySend cid = true) →
      (at' ≤ s.clk → f.remote = none → Completes (.resend n) s fun t => { t with flights := s.flights } = s ∧ AnswerIs s t n f .pending)
      ∧ (s.clk < at' → Idles (.resend n) s))

/-- R194, R195: the same of held messages and of wait-for edges. -/
def Sys2Proof.Claims.HeldMessagesAndEdges : Prop := ∀ (s : State) (x : BitVec 12),
  let cid := x.toNat
  let c := s.ctxOf cid
  (∀ h, s.meminbox.find? (fun e => e.cid == cid && e.tenant == s.tenantOf cid) = some h → s.switchedOut cid = false → s.server cid = none → s.inboxFull cid = false →
    Completes (.memoryInboxDrain x) s fun t => OnlyCtx { s with meminbox := s.meminbox.erase h } t cid { c with inbox := c.inbox ++ [h.msg] })
  ∧ ((∀ h, h ∈ s.meminbox → ¬ (h.cid = cid ∧ h.tenant = s.tenantOf cid)) → Idles (.memoryInboxDrain x) s)
  ∧ (∀ op, c.sched.wait = .again (.recvf op) → c.sched.edge = none →
      (c.sched.since + 1000 ≤ s.dtime → Completes (.waitForEdge x) s fun t => OnlyCtx s t cid { c with sched := { c.sched with edge := some op } })
      ∧ (s.dtime < c.sched.since + 1000 → Idles (.waitForEdge x) s))
  ∧ (∀ op p cid' op', c.sched.edge = some op → s.partOf (cid / 64) = some p → op.getLsbD 20 = false → s.cidOfPcid p (op.toNat % 2 ^ 12) = some cid' →
      cid' ≠ cid → (s.ctxOf cid').sched.edge = some op' → s.partOf (cid' / 64) = some p → op'.getLsbD 20 = false →
      s.cidOfPcid p (op'.toNat % 2 ^ 12) = some cid →
      (cid < cid' → exec (.deadlock x) s = .next (s.suspend cid cDEADLOCK op 0 0 akMessage))
      ∧ (cid' < cid → Idles (.deadlock x) s))
  ∧ (c.sched.edge = none → Idles (.deadlock x) s)

/-- R188 to R190, R194, R195: what becomes of a message, of its answer, of held messages and of wait-for edges. -/
def Obligations.MessagesUnderWay : Prop :=
  Sys2Proof.Claims.MessageArrives ∧ Sys2Proof.Claims.MessageAnswers ∧ Sys2Proof.Claims.HeldMessagesAndEdges

/-! ### Barriers, tasks and handlers (R196 to R207) -/

namespace Sys2Proof.Claims

/-- t is s but for the issuing context, which is c, and the contexts' states on barrier channel ch, which are f. -/
def BarsAre (s t : State) (c : Ctx) (ch : Nat) (f : Nat → BarSt) : Prop :=
  { t with ctxs := s.ctxs } = s
  ∧ (∀ k, { t.ctxOf k with sched := { (t.ctxOf k).sched with bar := (s.ctxOf k).sched.bar } } = if k = s.cur then c else s.ctxOf k)
  ∧ ∀ k j, t.barOf k j = if j = ch then f k else s.barOf k j

/-- The issuing context, parked until channel c lets it go on. -/
def atBar (s : State) (c : BitVec 5) : Ctx := { s.me with sched := { s.me.sched with wait := .again (.bar c), since := s.dtime } }

/-- The states f of channel ch in partition p once the issuing context has arrived with these bits (R200, R201): it is ARRIVED, and where that
makes every member ARRIVED, the generation completes: every member is DONE with the AND and the OR over the members. -/
def Arrival (s : State) (p ch : Nat) (a o ss : Bool) (f : Nat → BarSt) : Prop :=
  let b := fun k => if k = s.cur then ({ st := 1, andB := a, orB := o, sstep := ss } : BarSt) else s.barOf k ch
  ((∃ k, k ∈ s.members p ch ∧ (b k).st ≠ 1) → f = b)
  ∧ ((∀ k, k ∈ s.members p ch → (b k).st = 1) → ∃ d : BarSt, d.st = 2
      ∧ (d.andB = true ↔ ∀ k, k ∈ s.members p ch → (b k).andB = true)
      ∧ (d.orB = true ↔ ∃ k, k ∈ s.members p ch ∧ (b k).orB = true)
      ∧ (d.sstep = true ↔ ch = 0 ∧ ∀ k, k ∈ s.members p ch → (b k).sstep = true)
      ∧ (∀ k, k ∈ s.members p ch → f k = d) ∧ ∀ k, k ∉ s.members p ch → f k = b k)

/-- The same states when the issuing context has left the channel for IDLE. -/
def leaves (s : State) (f : Nat → BarSt) : Nat → BarSt := fun k => if k = s.cur then {} else f k

/-- t is s but for the issuing context, which is c, the bookkeeping of an access, and its core's deque, which is q. -/
def OnlyDeque (s t : State) (q : List Queued) (c : Ctx) : Prop :=
  { t with ctxs := s.ctxs, cores := s.cores, dir := s.dir, caches := s.caches } = s ∧ CtxIs s t s.cur c
  ∧ ∀ k, { t.coreOf k with gateR := (s.coreOf k).gateR, gateC := (s.coreOf k).gateC } = if k = coreKey s.cur then { s.coreOf k with deque := q } else s.coreOf k

end Sys2Proof.Claims

/-- R200, R201, R202: ARRIVE, WAITB, VOTE.AND, VOTE.OR and SSTEP, of a context that is no member of the channel and of one that is IDLE,
ARRIVED or DONE on it. SSTEP is channel 0; at a boundary with a request pending it stays held. -/
def Obligations.BarrierChannels : Prop := ∀ (s : State) (d a : Reg) (c : BitVec 5),
  let ch := c.toNat
  let v := (s.s! a).getLsbD 0
  let r := s.me.regs
  let gone := { s.me with regs := r.advance }
  let got := fun (x : Bool) => { s.me with regs := (r.sset d (if x then 1 else 0)).advance }
  (s.isMember s.cur ch = false →
    Sets (.arrive c) s r ∧ Sets (.waitb c) s r ∧ SetsS (.voteAnd d a c) s d (if v then 1 else 0) ∧ SetsS (.voteOr d a c) s d (if v then 1 else 0))
  ∧ (s.isMember s.cur 0 = false → Sets .sstep s r)
  ∧ (s.isMember s.cur ch = true →
      ((s.barOf s.cur ch).st = 0 → Sets (.waitb c) s r)
      ∧ ((s.barOf s.cur ch).st = 1 → Sets (.arrive c) s r ∧ Waits (.waitb c) s (.bar c) ∧ Waits (.voteAnd d a c) s (.bar c) ∧ Waits (.voteOr d a c) s (.bar c))
      ∧ ((s.barOf s.cur ch).st = 2 →
          Sets (.arrive c) s r
          ∧ Completes (.waitb c) s (fun t => BarsAre s t gone ch (leaves s fun k => s.barOf k ch))
          ∧ Completes (.voteAnd d a c) s (fun t => BarsAre s t (got (s.barOf s.cur ch).andB) ch (leaves s fun k => s.barOf k ch))
          ∧ Completes (.voteOr d a c) s (fun t => BarsAre s t (got (s.barOf s.cur ch).orB) ch (leaves s fun k => s.barOf k ch))))
  ∧ (s.isMember s.cur 0 = true →
      ((s.barOf s.cur 0).st = 1 → Waits .sstep s (.bar 0))
      ∧ ((s.barOf s.cur 0).st = 2 → s.heldHere s.cur = false → Completes .sstep s fun t => BarsAre s t gone 0 (leaves s fun k => s.barOf k 0))
      ∧ ((s.barOf s.cur 0).st = 2 → s.heldHere s.cur = true → Waits .sstep s (.bar 0)))
  ∧ ∀ p, s.partOf (s.cur / 64) = some p →
    (s.cur ∈ s.members p ch → (s.barOf s.cur ch).st = 0 → s.pending p = false →
      (∃ f, Arrival s p ch true false false f ∧ Completes (.arrive c) s fun t => BarsAre s t gone ch f)
      ∧ ∃ f, Arrival s p ch v v false f
        ∧ ((f s.cur).st = 1 → s.me.sched.wait = .none → Completes (.voteAnd d a c) s (fun t => BarsAre s t (atBar s c) ch f)
            ∧ Completes (.voteOr d a c) s (fun t => BarsAre s t (atBar s c) ch f))
        ∧ ((f s.cur).st = 2 → Completes (.voteAnd d a c) s (fun t => BarsAre s t (got (f s.cur).andB) ch (leaves s f))
            ∧ Completes (.voteOr d a c) s (fun t => BarsAre s t (got (f s.cur).orB) ch (leaves s f))))
    ∧ (s.cur ∈ s.members p 0 → (s.barOf s.cur 0).st = 0 → s.heldHere s.cur = false → s.me.sched.wait = .none →
      ∃ f, Arrival s p 0 true false true f
        ∧ ((f s.cur).st = 1 → Completes .sstep s fun t => BarsAre s t (atBar s 0) 0 f)
        ∧ ((f s.cur).st = 2 → (s.pending p = false ∨ (f s.cur).sstep = false) → Completes .sstep s fun t => BarsAre s t gone 0 (leaves s f))
        ∧ ((f s.cur).st = 2 → s.pending p = true → (f s.cur).sstep = true → Completes .sstep s fun t =>
            BarsAre { s with parts := t.parts } t (atBar s 0) 0 f ∧ t.heldHere s.cur = true))

/-- R38, R39, R199, R203, R204: SPAWN, YIELD, FINISH, HALT and STEALOFF on a compute core. -/
def Obligations.TaskWords : Prop := ∀ (s : State) (d a : Reg), s.cur % 64 / 4 ≠ 8 →
  let x := s.me
  let r := x.regs
  let done := fun (v : Word) => { x with regs := (r.sset d v).advance }
  let ends := fun (P : State → Prop) => Completes .finish s P ∧ Completes .halt s P
  -- the context is FREE, its inbox stays (R27, R39); of the others only their barrier states may change (R201)
  let unheld := x.sched.spine = .priv ∧ s.cur < 4096 ∧ (s.stream (s.cur / 64) (s.cur % 4)).holdTo = none
  let freed := fun (t : State) =>
    t.me = { regs := {}, ctl := {}, inbox := x.inbox, sched := { lastGraph := x.sched.lastGraph, tenant := x.sched.tenant } }
    ∧ ∀ k, k ≠ s.cur → { t.ctxOf k with sched := { (t.ctxOf k).sched with bar := (s.ctxOf k).sched.bar } } = s.ctxOf k
  ((s.s! a).toNat % 64 ≠ 0 → TrapsAs (.spawn d a) s 2 (s.s! a) 0)
  ∧ (∀ e pa, Lands s (s.s! a) 64 64 .load e pa → s.isPoisoned pa 64 = false → e.kind ≠ kVERSIONED → Unowned s pa 64 →
      let y := s.mem.readLE pa 64
      let t : TaskRec := { entry := word (y % 2 ^ 64), args := (List.range 7).map fun i => word (y / 2 ^ (64 * (i + 1)) % 2 ^ 64) }
      let q := (s.coreOf (coreKey s.cur)).deque
      (¬ goodTarget t.entry → Traps (.spawn d a) s 2 t.entry)
      ∧ (goodTarget t.entry → s.launchOf s.cur = none → Completes (.spawn d a) s fun u => OnlyReads s u (done 1))
      ∧ (goodTarget t.entry → ∀ n, s.launchOf s.cur = some n →
          (s.deterministic s.cur = true ∨ 64 ≤ q.length → Completes (.spawn d a) s fun u => OnlyReads s u (done 1))
          ∧ (s.deterministic s.cur = false → q.length < 64 → Completes (.spawn d a) s fun u => OnlyDeque s u (q ++ [{ launch := n, index := none, trec := t, age := s.clk }]) (done 0))))
  ∧ (x.sched.handler.isSome = true → Sets .yield s r)
  ∧ (x.sched.handler = none → x.sched.spine = .priv → Completes .yield s fun t => OnlyCtx s t s.cur { x with
      regs := r.advance
      sched := { x.sched with yielded := (SMap.read {} s.doms x.sched.dom.toNat : Dom).en, stealOff := false } })
  ∧ (s.deterministic s.cur = true → Sets .stealoff s r)
  ∧ (s.deterministic s.cur = false → Completes .stealoff s fun t => OnlyCtx s t s.cur { x with regs := r.advance, sched := { x.sched with stealOff := true } })
  -- FINISH and HALT in a handler (R199)
  ∧ (∀ h, x.sched.handler = some h → h.free = true → unheld → ends fun t => freed t ∧ { t with ctxs := s.ctxs, gaths := s.gaths, parts := s.parts } = s)
  ∧ (∀ h, x.sched.handler = some h → h.free = false → x.sched.lowered = false →
      let back := { x with
        regs := { r with pc := h.pc, ri := h.ri, rep := none, s := h.s, p := h.p, v := (((r.v.set 0 h.v[0]).set 1 h.v[1]).set 2 h.v[2]).set 3 h.v[3] }
        ctl := { x.ctl with frm := h.frm, fflags := h.fflags, prioCls := h.cls }
        sched := { x.sched with handler := none, wait := h.wait, reply := h.reply, yielded := h.yielded, since := s.dtime, readyAt := s.clk } }
      (x.sched.spine ≠ .attached ∨ h.cls = x.ctl.prioCls → ends fun t => OnlyCtx s t s.cur back)
      ∧ (x.sched.spine = .attached → h.cls ≠ x.ctl.prioCls → ends fun t => t = (s.setCtx s.cur back).detach s.cur))
  -- at the end of a task (R204, R237)
  ∧ (x.sched.handler = none → s.cmdsOf s.cur ≠ [] → Waits .finish s .finish ∧ Waits .halt s .finish)
  ∧ (x.sched.handler = none → s.cmdsOf s.cur = [] → r.failw.toNat / 2 ^ 16 % 2 ^ 8 ≠ 0 ∨ r.failw.getLsbD 15 = true →
      exec .finish s = .next ((s.setRegs s.cur { r with failw := 0 }).trapAt s.cur 7 (word r.failw.toNat)) ∧ exec .halt s = exec .finish s)
  ∧ (x.sched.handler = none → s.cmdsOf s.cur = [] → r.failw.toNat / 2 ^ 16 % 2 ^ 8 = 0 → r.failw.getLsbD 15 = false → unheld →
      ends fun t => freed t
        ∧ { t with ctxs := s.ctxs, gaths := s.gaths, parts := s.parts, launches := s.launches, cores := s.cores } = s
        ∧ ((∀ b, x.sched.task = some b → b.index = none) → t.launches = s.launches ∧ t.cores = s.cores)
        ∧ ∀ b i l, x.sched.task = some b → b.index = some i → t.launch? b.launch = some l → i ∈ l.ended ∧ i ∉ l.started)

/-- R196, R197, R198, R206: HSET, HEND, HCLR and REDSRV on a compute core, and the dispatch of a handler. -/
def Sys2Proof.Claims.HandlerWords : Prop := ∀ (s : State) (a : Reg) (h : BitVec 6), s.cur % 64 / 4 ≠ 8 →
  let x := s.me
  let k := coreKey s.cur
  let core := s.coreOf k
  let mine := s.slotTenant (s.cur / 4 * 4 + core.htSlot.toNat) = some (s.tenantOf s.cur)
  let e := core.handler h.toNat
  let sets := fun (i : Instr) (e : HEntry) => Completes i s fun t =>
    OnlyCtx { s with cores := t.cores } t s.cur { x with regs := x.regs.advance }
    ∧ ∃ m : SMap HEntry, CoreIs s t k { core with handlers := m } ∧ ∀ j, SMap.read {} m j = if j = h.toNat then e else core.handler j
  (mine → goodTarget (s.s! a) → sets (.hset a h) { st := .writing, pc := s.s! a, tenant := s.tenantOf s.cur })
  ∧ (mine → ¬ goodTarget (s.s! a) → Traps (.hset a h) s 2 (s.s! a))
  ∧ (mine → e.st = .writing → sets (.hend h) { e with st := .valid })
  ∧ (mine → e.st ≠ .writing → Sets (.hend h) s x.regs)
  ∧ (mine → sets (.hclr h) {})
  ∧ (¬ mine → ∃ detail : Byte, detail ≠ 0 ∧ detail.toNat ≤ 7 ∧
      let u : State := { s with draw := s.draw + 1 }
      exec (.hset a h) s = .next (u.suspend s.cur cGATE (word h.toNat) 0 detail akNone)
      ∧ exec (.hend h) s = .next (u.suspend s.cur cGATE (word h.toNat) 0 detail akNone)
      ∧ exec (.hclr h) s = .next (u.suspend s.cur cGATE (word h.toNat) 0 detail akNone))
  ∧ Completes (.redsrv a) s fun t => OnlyCtx s t s.cur { x with sched := { x.sched with
      wait := .redsrv { cfg := s.s! a, round := BitVec.ofNat 16 ((s.s! a).toNat / 2 ^ 32), done := 0, mask0 := 0, mask1 := 0, sending := false }
      since := s.dtime } }

/-- R198: dispatch of the oldest entry held for dispatch, of kind ACTIVE, on the core's handler context when it is at an instruction boundary and
its table entry is VALID: what runs is saved, s1 is the header, v0 the payload, the other scalar registers, the predicates and v1 to v3 are 0,
RI is 0, CLASS is max(1, FLOOR), and the PC is the entry's. A FREE context takes a fresh control block, and CLASS and FLOOR 1. -/
def Sys2Proof.Claims.HandlersAreDispatched : Prop := ∀ (s : State) (g : BitVec 6) (c : BitVec 4),
  let core := s.coreOf (16 * g.toNat + c.toNat)
  let cid := 64 * g.toNat + 4 * c.toNat + core.htSlot.toNat
  let x := s.ctxOf cid
  let free := x.sched.task = none
  c.toNat < 8 →
  ((∃ j, j < 4 ∧ (s.ctxOf (cid / 4 * 4 + j)).sched.handler.isSome = true) ∨ s.oldestHeld cid = none ∨ s.switchedOut cid = true → Idles (.handlerDispatch g c) s)
  ∧ ∀ m l l', x.inbox = l ++ m :: l' → (∀ y, y ∈ l → s.heldFor cid y = false) → s.heldFor cid m = true →
    let n := m.hdr.toNat
    let e := core.handler (n / 2 ^ 6 % 2 ^ 6)
    e.st = .valid → (∀ j, j < 4 → (s.ctxOf (cid / 4 * 4 + j)).sched.handler = none) → x.sched.wait = .none → x.sched.susp = none → x.sched.frozen = false → s.switchedOut cid = false →
    (free ∨ x.sched.spine = .priv) → x.sched.lowered = false →
    let flr : BitVec 2 := if x.sched.task.isNone then 1 else x.ctl.prioFlr
    ∃ save : HSave, (save.free = x.sched.task.isNone ∧ save.pc = x.regs.pc ∧ save.ri = x.regs.ri ∧ save.frm = x.ctl.frm ∧ save.fflags = x.ctl.fflags
        ∧ save.cls = x.ctl.prioCls ∧ save.s = x.regs.s ∧ save.p = x.regs.p ∧ (∀ i : Fin 4, save.v[i] = x.regs.v[i.val]) ∧ save.reply = x.sched.reply
        ∧ save.wait = .none ∧ save.yielded = x.sched.yielded)
      ∧ Completes (.handlerDispatch g c) s fun t => OnlyCtx s t cid { x with
          inbox := x.inbox.erase m
          regs := { x.regs with
            pc := e.pc, ri := 0, rep := none, p := Vector.replicate 8 0
            s := (Vector.replicate 32 0).set 1 m.hdr
            v := (((x.regs.v.set 0 (m.payload.zeroExtend 512)).set 1 0).set 2 0).set 3 0 }
          ctl := { (if x.sched.task.isNone then { prioFlr := 1 } else x.ctl : Ctl) with prioCls := if flr = 0 then 1 else flr }
          sched := { x.sched with
            handler := some save
            reply := some { pcid := BitVec.ofNat 12 (n / 2 ^ 12), dev := BitVec.ofNat 8 (n / 2 ^ 36), rmt := m.hdr.getLsbD 44, seq := BitVec.ofNat 16 (n / 2 ^ 48) }
            wait := .none, edge := none, yielded := false, readyAt := s.clk, spine := .priv, tenant := s.tenantOf cid
            dom := if x.sched.task.isNone then 0 else x.sched.dom
            code := if x.sched.task.isNone then s.codeNow else x.sched.code
            codeV := if x.sched.task.isNone then s.ringsNow else x.sched.codeV
            codeAt := if x.sched.task.isNone then s.clk else x.sched.codeAt
            codeG := if x.sched.task.isNone then [] else x.sched.codeG
            sampled := none } }

/-- R196 to R198, R206: the handler words and dispatch. -/
def Obligations.ActiveMessageHandlers : Prop :=
  Sys2Proof.Claims.HandlerWords ∧ Sys2Proof.Claims.HandlersAreDispatched

/-! ### Special functions, block conversions, engine words (R117 to R119, R220, R221, R228 to R240) -/

namespace Sys2Proof.Claims

/-- i sends a request for function n to the context's special-function unit and the context waits (R229). -/
def AsksSfu (i : Instr) (s : State) (n : BitVec 3) (d a : Reg) (p : BitVec 3) (z : BitVec 1) : Prop :=
  let g := s.cur / 64
  let x := s.gathSt g
  let r : SfuReq := { cid := s.cur, tenant := s.tenantOf s.cur, fn := n, vd := d, ops := s.v! a, pred := s.p! p, z := decide (z = 1), frm := s.me.ctl.frm, arrival := s.clk, started := none }
  Completes i s fun t => { t with ctxs := s.ctxs, gaths := s.gaths } = s
    ∧ CtxIs s t s.cur { s.me with sched := { s.me.sched with wait := .sfu, since := s.dtime } }
    ∧ GathIs s t g (if s.cur % 64 / 4 < 4 then { x with sfu0 := x.sfu0 ++ [r] } else { x with sfu1 := x.sfu1 ++ [r] })

/-- The requests of special-function unit u of a gathering. -/
def sfuList (x : Gath) (u : Nat) : List SfuReq := if u = 0 then x.sfu0 else x.sfu1

/-- The cores of t are those of s but core k, which is c but for its engines, of which e is q. -/
def EngineIs (s t : State) (k : Nat) (c : Core) (e : Nat) (q : EngQ) : Prop :=
  (∀ j, j ≠ k → t.coreOf j = s.coreOf j) ∧ { t.coreOf k with eng := c.eng } = c
  ∧ ∀ j, SMap.read {} (t.coreOf k).eng j = if j = e then q else (SMap.read {} c.eng j : EngQ)

/-- A trap ENGERR at issue, with TVAL = index, reason and word number (R80). -/
def EngTrap (i : Instr) (s : State) (idx reason wd : Nat) : Prop := Traps i s 7 (word (idx + reason * 2 ^ 16 + wd * 2 ^ 24))

/-- i pushes record idx of the context's pool to engine e (R79 to R81, R193, R231): the first failing check traps; a full queue, or with m = 1 a full
inbox, stalls it; else the patched record and what the push samples enter the engine's queue. A record on a page that is away is waited for (R304), and
one that is poisoned ends the tenant's work (R375). -/
def Pushes (i : Instr) (s : State) (e : Nat) (r : Reg) (w : BitVec 2) (m : BitVec 1) (idx : BitVec 15) : Prop :=
  let x := s.me
  let k := coreKey s.cur
  let core := s.coreOf k
  let q : EngQ := SMap.read {} core.eng e
  (s.poolRec s.cur idx.toNat = .absent → EngTrap i s idx.toNat 1 0)
  ∧ (∀ va, s.poolRec s.cur idx.toNat = .away va → Completes i s fun t =>
      { t with ctxs := s.ctxs, walks := s.walks, nextId := s.nextId } = s
      ∧ CtxIs s t s.cur (if x.sched.wait = .again (.walk va 4) then x else { x with sched := { x.sched with wait := .again (.walk va 4), since := s.dtime } })
      ∧ ∃ w, w ∈ t.walks ∧ w.2.tenant = s.tenantOf s.cur ∧ pageDown va w.2.log2 = pageDown w.2.va w.2.log2 ∧ .ctx s.cur ∈ w.2.reqs)
  ∧ (∀ va, s.poolRec s.cur idx.toNat = .lost va → exec i s = .next (s.killTenant (s.tenantOf s.cur) 0x40 0 (word va) s.cur true))
  ∧ ∀ bs, s.poolRec s.cur idx.toNat = .record bs →
    let at' := fun (n : Nat) => natAt bs (4 * n) 4
    let w0 : Word32 := BitVec.ofNat 32 (at' 0)
    let kind := w0.toNat % 2 ^ 8
    let known := (1 ≤ kind ∧ kind ≤ 5) ∨ (0x10 ≤ kind ∧ kind ≤ 0x17) ∨ (0x20 ≤ kind ∧ kind ≤ 0x24)
    let named := w0.toNat / 2 ^ 8 % 2 ^ 3 = e
    let serves := if kind < 0x10 then e = 0 else if kind < 0x20 then e = 1 ∨ e = 2 else e = 3
    (¬ known → EngTrap i s idx.toNat 2 0)
    ∧ (known → ¬ named → EngTrap i s idx.toNat 3 0)
    ∧ (known → named → ¬ serves → EngTrap i s idx.toNat 4 0)
    ∧ (known → named → serves → (w0.getLsbD 16 = true ∨ w0.toNat / 2 ^ 24 ≠ 0) → EngTrap i s idx.toNat 5 0)
    ∧ (∀ y, headBad w0 e r.toNat = some y → EngTrap i s idx.toNat y 0)
    ∧ (headBad w0 e r.toNat = none → ∀ cmd : Cmd,
        cmd.idx = idx → cmd.cid = s.cur → cmd.tenant = s.tenantOf s.cur → cmd.launch = s.launchOf s.cur → cmd.ctr = w → cmd.msg = decide (m = 1) →
        cmd.fmta = x.ctl.fmta → cmd.fmtb = x.ctl.fmtb → cmd.scla = x.ctl.scla → cmd.sclb = x.ctl.sclb → cmd.accbase = x.ctl.accbase →
        (∀ n : Fin 8, cmd.w[n] = if n.val ≠ 0 ∧ w0.getLsbD (16 + n.val) = true
          then (x.regs.sget (BitVec.ofNat 5 (r.toNat + ((List.range (n.val - 1)).filter fun j => w0.getLsbD (17 + j)).length))).truncate 32
          else BitVec.ofNat 32 (at' n.val)) →
        (∀ y z, cmd.bad (s.deterministic s.cur) = some (y, z) → EngTrap i s idx.toNat y z)
        ∧ (cmd.bad (s.deterministic s.cur) = none →
          let full := 2 ≤ q.queue.length ∨ (m = 1 ∧ s.inboxFull s.cur = true)
          let done := { x with regs := x.regs.advance }
          (full → Waits i s (.push (BitVec.ofNat 2 e)))
          ∧ (¬ full → Completes i s fun t => { t with ctxs := s.ctxs, cores := s.cores } = s ∧ CtxIs s t s.cur done
              ∧ EngineIs s t k core e { q with queue := q.queue ++ [cmd] })))

end Sys2Proof.Claims

/-- R228, R229: the VSFU words send their operands to the special-function unit and wait; the unit starts its oldest request when none is in
its first 4 clocks; 20 clocks after the start the token writes vd and FFLAGS and the context goes on, or, where SLOTMAP has given the slot to another
tenant, changes none of the contexts that run (R336). -/
def Sys2Proof.Claims.SpecialFunctions : Prop := ∀ (s : State) (d a : Reg) (p : BitVec 3) (z : BitVec 1) (g : BitVec 6) (u : BitVec 1) (c : BitVec 12),
  AsksSfu (.vrcp d a p z) s 0 d a p z ∧ AsksSfu (.vrsqrt d a p z) s 1 d a p z ∧ AsksSfu (.vsqrt d a p z) s 2 d a p z
  ∧ AsksSfu (.vexp2 d a p z) s 3 d a p z ∧ AsksSfu (.vlog2 d a p z) s 4 d a p z ∧ AsksSfu (.vsin d a p z) s 5 d a p z
  ∧ AsksSfu (.vcos d a p z) s 6 d a p z ∧ AsksSfu (.vtanh d a p z) s 7 d a p z
  ∧ (let x := s.gathSt g.toNat
     let l := sfuList x u.toNat
     ((∃ r t, r ∈ l ∧ r.started = some t ∧ s.clk < t + 4) ∨ (∀ r, r ∈ l → r.started ≠ none) → Idles (.sfuStart g u) s)
     ∧ ∀ r, r ∈ l → r.started = none → (∀ r' t, r' ∈ l → r'.started = some t → t + 4 ≤ s.clk) →
        (∀ r', r' ∈ l → r'.started = none → r' = r ∨ r.arrival < r'.arrival ∨ (r.arrival = r'.arrival ∧ r.cid < r'.cid)) →
        Completes (.sfuStart g u) s fun t =>
          let l' := l.map fun y => if y = r then { r with started := some s.clk } else y
          OnlyGath s t g.toNat (if u = 0 then { x with sfu0 := l' } else { x with sfu1 := l' }))
  ∧ (let cid := c.toNat
     let h := cid / 64
     let x := s.gathSt h
     let l := sfuList x (if cid % 64 / 4 < 4 then 0 else 1)
     let due := fun (r : SfuReq) => r.cid = cid ∧ ∃ t, r.started = some t ∧ t + 20 ≤ s.clk
     ((∀ r, r ∈ l → ¬ due r) → Idles (.sfuReturn c) s)
     ∧ ∀ l1 r l2, l = l1 ++ r :: l2 → due r → (∀ y, y ∈ l1 → ¬ due y) →
        let rest := if cid % 64 / 4 < 4 then { x with sfu0 := l1 ++ l2 } else { x with sfu1 := l1 ++ l2 }
        let saved := ∃ y, y ∈ s.slots ∧ y.tenant = r.tenant ∧ y.cid = cid
        (saved → Completes (.sfuReturn c) s fun t => (∀ j, t.ctxOf j = s.ctxOf j) ∧ GathIs s t h rest)
        ∧ (¬ saved →
          let y := s.ctxOf cid
          let f := fun (k : Nat) => sfuElem r.fn.toNat r.frm (elem r.ops 32 k)
          ∃ v : VReg, (∀ k, k < 16 → elem v 32 k = if r.pred.getLsbD k then (f k).1 % 2 ^ 32 else if r.z then 0 else elem (y.regs.vget r.vd) 32 k)
            ∧ Completes (.sfuReturn c) s fun t => { t with ctxs := s.ctxs, gaths := s.gaths } = s
              ∧ CtxIs s t cid { y with
                  regs := (y.regs.vset r.vd v).advance
                  ctl := { y.ctl with fflags := y.ctl.fflags ||| (((List.range 16).filter fun k => r.pred.getLsbD k).foldl (fun acc k => acc ||| (f k).2) 0) }
                  sched := { y.sched with wait := .none, readyAt := s.clk } }
              ∧ GathIs s t h rest))

/-- R117, R119, R220, R221: the registers and flags VQBLK and VQMX write. -/
def Sys2Proof.Claims.BlockConversions : Prop := ∀ (s : State) (d a r : Reg) (t : BitVec 2),
  let lane := fun (k : Nat) => fp32.val (elem (s.v! (a + BitVec.ofNat 5 (k / 16))) 32 (k % 16))
  let c := s.me.ctl
  -- VQBLK
  (let p := max (c.fmta.toNat % 16 + 1) 2
   let vs := (List.range 64).map lane
   let starts := 0 :: blockStarts r.toNat 1 0 (spread none (lane 0)) (vs.drop 1)
   let blocks := (starts.zip (starts.drop 1 ++ [64])).map fun b => (vs.drop b.1).take (b.2 - b.1)
   let coded := blocks.flatMap fun b => b.map (blockCode p (blockScale p b))
   ∃ v0 v1 v2 : VReg,
     (∀ j i, j < 16 → i < 64 → (if j < 8 then v0.getLsbD (64 * j + i) else v1.getLsbD (64 * (j - 8) + i))
        = (decide (j < p) && (ofInt 64 (coded.getD i (0, 0)).1).testBit j))
     ∧ (v2.toNat = ((starts.map fun k => 2 ^ k).sum + 2 ^ 64 * natOf (blocks.map fun b => BitVec.ofNat 8 (blockScale p b + 127).toNat)) % 2 ^ 512)
     ∧ SetsF (.vqblk d a r) s (((s.me.regs.vset d v0).vset (d + 1) v1).vset (d + 2) v2) (coded.foldl (fun f x => f ||| x.2) 0))
  -- VQMX
  ∧ (let vs := (List.range 32).map lane
     ((∃ k, k < 32 ∧ lane k = .nan) → SetsF (.vqmx d a t) s (s.me.regs.vset d (BitVec.ofNat 512 (0xFF * 2 ^ 256))) fInvalid)
     ∧ ((∀ k, k < 32 → lane k ≠ .nan) →
        let infs := vs.countP fun v => v == .inf true || v == .inf false
        let x : Nat := match topExp vs with
          | none => 0
          | some e => (max (e - mxEmax t.toNat) (-127) + 127).toNat
        let code := fun (k : Nat) => mxCode t.toNat ((x : Int) - 127) (lane k)
        ∃ (v : VReg) (fl : BitVec 5), (∀ k, k < 32 → elem v 8 k = (code k).1 % 2 ^ 8) ∧ v.toNat / 2 ^ 256 = x % 2 ^ 256
          ∧ (fl = (if infs = 0 then 0 else fOverflow) ||| (List.range 32).foldl (fun f k => f ||| (code k).2) 0)
          ∧ Completes (.vqmx d a t) s fun u => OnlyCtx s u s.cur { s.me with
              regs := (s.me.regs.vset d v).advance
              ctl := { c with fflags := c.fflags ||| fl, mxovf := BitVec.ofNat 32 (min 0xFFFFFFFF (c.mxovf.toNat + infs)) } }))

/-- R117, R119, R220, R221, R228, R229: special functions and block conversions. -/
def Obligations.SpecialFunctionsAndBlocks : Prop :=
  Sys2Proof.Claims.SpecialFunctions ∧ Sys2Proof.Claims.BlockConversions

/-- R79 to R81, R231, R237 to R240: the words that push engine commands, WAITC, ENGST and the random stream. -/
def Sys2Proof.Claims.EngineWords : Prop := ∀ (s : State) (d a b : Reg) (w k e : BitVec 2) (m : BitVec 1) (i : BitVec 15),
  let r := s.me.regs
  (s.cur % 64 / 4 ≠ 8 → Pushes (.mxq a w m i) s 0 a w m i ∧ Pushes (.trq a w m i) s 3 a w m i)
  ∧ Pushes (.cpq 1 a w m i) s 1 a w m i ∧ Pushes (.cpq 2 a w m i) s 2 a w m i
  -- WAITC
  ∧ (let t : Word32 := BitVec.ofNat 32 (s.s! a).toNat
     let c := r.w[k.toNat]
     let fails := r.failw.toNat / 2 ^ 16 % 2 ^ 8 ≠ 0 ∨ r.failw.getLsbD 15 = true
     let coming := ∃ x, x ∈ s.cmdsOf s.cur ∧ x.2.w[0].getLsbD 11 = true ∧ x.2.ctr = k
     (serialLater t c = false → ¬ fails → SetsS (.waitc d a k) s d (word c.toNat))
     ∧ (serialLater t c = false → fails → exec (.waitc d a k) s = .next ((s.setRegs s.cur { r with failw := 0 }).trapAt s.cur 7 (word r.failw.toNat)))
     ∧ (serialLater t c = true → coming → Waits (.waitc d a k) s (.waitc k t))
     ∧ (serialLater t c = true → ¬ coming → Traps (.waitc d a k) s 7 0x4F0000))
  -- ENGST
  ∧ (let q : EngQ := SMap.read {} (s.coreOf (coreKey s.cur)).eng e.toNat
     let busy := q.done ≠ [] ∨ q.prog ≠ 0 ∨ q.aux ≠ 0 ∨ (∃ y, y ∈ s.walks ∧ .engine (coreKey s.cur) e.toNat ∈ y.2.reqs)
       ∨ (e = 3 ∧ ∃ y, y ∈ s.treeQ ∧ y.2.core = coreKey s.cur ∧ y.2.held = false)
     SetsS (.engst d e) s d (word (q.queue.length % 4 + (if busy then 4 else 0)
       + min 255 ((s.cmdsOf s.cur).filter (·.1 == e.toNat)).length * 2 ^ 8 + r.failw.toNat * 2 ^ 32)))
  -- RNGINIT, RNGNEXT
  ∧ Sets (.rnginit a b) s { r with strm := s.s! a, pos := s.s! b }
  ∧ (r.pos.toNat = 2 ^ 64 - 1 → Traps (.rngnext d) s 6 r.strm)
  ∧ (r.pos.toNat ≠ 2 ^ 64 - 1 →
      let n := (philox s.me.ctl.rngseed (BitVec.ofNat 128 (r.strm.toNat * 2 ^ 64 + r.pos.toNat / 2))).toNat
      Sets (.rngnext d) s (({ r with pos := r.pos + 1 } : Regs).sset d (word (n / 2 ^ (64 * (r.pos.toNat % 2)) % 2 ^ 64))))

/-! ### Engine commands (R233 to R236, R247 to R255) -/

namespace Sys2Proof.Claims

/-- Engine e once its oldest command has performed its writes: it waits for its completion act (R234). -/
def afterCmd (q : EngQ) (c : Cmd) (reason r0 : Nat) : EngQ :=
  { queue := q.queue.tail, done := [{ cmd := c, reason := BitVec.ofNat 8 reason, res0 := BitVec.ofNat 32 r0, res1 := 0 }] }

/-- Element (i, j) of tile t of a context's accumulators. -/
def accAt (s : State) (cid t i j : Nat) : AccElem := SMap.read 0 (s.ctxOf cid).regs.acc (1024 * t + 32 * i + j)

/-- i performs the matrix command c at the head of core k's matrix unit: it waits for its completion act with this reason, the accumulators of its
context become f, and nothing else changes but that the sub-arrays are not gated. -/
def MxEnds (i : Instr) (s : State) (k : Nat) (c : Cmd) (reason : Nat) (f : Nat → Nat → Nat → AccElem) : Prop :=
  let x := s.ctxOf c.cid
  let core := s.coreOf k
  Completes i s fun t =>
    { t with ctxs := s.ctxs, cores := s.cores } = s
    ∧ (∃ m, CtxIs s t c.cid { x with regs := { x.regs with acc := m } })
    ∧ (∀ n a b, a < 32 → b < 32 → accAt t c.cid n a b = f n a b)
    ∧ EngineIs s t k { core with mxGated := false } 0 (afterCmd (SMap.read {} core.eng 0) c reason 0)

/-- i performs words p to p + m - 1 of the n words of the copy command c at the head of engine e of core k (R254, R255): the stash becomes st, WP
counts them, and the command waits for its completion act after its last word. What the channel has read ahead is x. Nothing else changes. -/
def CopyMoves (i : Instr) (s : State) (k e : Nat) (c : Cmd) (n m x : Nat) (st : SMap Byte) : Prop :=
  let y := s.ctxOf c.cid
  let core := s.coreOf k
  let q : EngQ := SMap.read {} core.eng e
  let by' := word (4 * m)
  Completes i s fun t =>
    { t with ctxs := s.ctxs, cores := s.cores } = s
    ∧ CtxIs s t c.cid { y with ctl := if e = 1 then { y.ctl with wp0 := y.ctl.wp0 + by' } else { y.ctl with wp1 := y.ctl.wp1 + by' } }
    ∧ EngineIs s t k { core with stash := st } e (if n ≤ q.prog + m then afterCmd q c 0 0 else { q with prog := q.prog + m, aux := x })

/-- One word, of the n of a copy command, from src to dst, wherever its ends lie: what the read and the write give, counted in WP. -/
def CopiesWord (i : Instr) (s : State) (k e : Nat) (c : Cmd) (n : Nat) (src dst : Int) : Prop :=
  ∀ v t u, c.readWord e src s = .ok (v, t) → c.writeWord e dst v t = .ok u →
    let w := u.deliverBytes c e 4
    let p := (SMap.read {} (s.coreOf k).eng e : EngQ).prog
    exec i s = .next (if n ≤ p + 1 then w.finishCmd k e c 0 0 0 else w.setProg k e (p + 1) (w.ahead k e))

/-- i finds a poisoned word among those the command reads: the tenant's work ends (R300, R375). -/
def LosesStash (i : Instr) (s : State) (c : Cmd) : Prop := exec i s = .next (s.killTenant c.tenant 0x40 0 0 c.cid true)

/-- The stash with the word at src copied to dst. -/
def moved (st : SMap Byte) (dst src : Nat) : SMap Byte := SMap.writeLE st dst 4 (SMap.readLE st src 4)

/-- The stash after the m words from word p on, word a from src a to dst a, in order. -/
def movedAll (src dst : Nat → Nat) (st : SMap Byte) (p m : Nat) : SMap Byte :=
  (List.range m).foldl (fun st a => moved st (dst (p + a)) (src (p + a))) st

end Sys2Proof.Claims

/-- R247 to R252: the commands of the matrix unit on the accumulators of their context; R252 of its power gate. base is ACCBASE as sampled. -/
def Obligations.MatrixCommands : Prop := ∀ (s : State) (g : BitVec 6) (c : BitVec 4),
  let k := 16 * g.toNat + c.toNat
  let core := s.coreOf k
  (s.headCmd k 0 = none → Idles (.mxZero g c) s ∧ Idles (.mxMul g c) s ∧ Idles (.mxSpmul g c) s ∧ Idles (.mxEpi g c) s ∧ Idles (.mxBase g c) s)
  ∧ (∀ cmd, s.headCmd k 0 = some cmd →
    let kind := cmd.w[0].toNat % 2 ^ 8
    let old := fun (n a b : Nat) => accAt s cmd.cid n a b
    let st := core.stash
    let tile := if cmd.w[1].getLsbD 0 then 1 else 0
    let mtile := if cmd.w[3].getLsbD 24 then 1 else 0
    let base := cmd.accbase.toInt
    let ill := cmd.opA.wellFormed st cmd.g = false ∨ cmd.opB.wellFormed st cmd.g = false
    let sound := s.mulLost k cmd = false
    let off := ∃ y, y ∈ s.slots ∧ y.cid = cmd.cid ∧ y.tenant = cmd.tenant
    let adds := fun (fb : Nat → Nat → List Elem) (n a b : Nat) =>
      if n = mtile ∧ a < cmd.ra ∧ b < cmd.cb then
        old n a b + BitVec.ofInt 96 (((List.range cmd.g).map fun i => groupSum base (cmd.opA.elems st a i) (fb b i)).sum)
      else old n a b
    -- the context is off its slot, where SLOTMAP has passed that to another tenant (R336): none of the contexts that run changes
    (off → (kind = 1 → Completes (.mxZero g c) s fun t => ∀ j, t.ctxOf j = s.ctxOf j) ∧ (kind = 5 → Completes (.mxBase g c) s fun t => ∀ j, t.ctxOf j = s.ctxOf j))
    ∧ (¬ off →
    (kind = 1 → MxEnds (.mxZero g c) s k cmd 0 fun n a b => if n = tile then 0 else old n a b)
    ∧ (kind = 5 → MxEnds (.mxBase g c) s k cmd 0 fun n a b =>
        let d := base - (cmd.w[2].truncate 10 : BitVec 10).toInt
        if n = tile then BitVec.ofInt 96 (if 0 ≤ d then (old n a b).toInt * 2 ^ d.toNat else (old n a b).toInt / 2 ^ (-d).toNat) else old n a b)
    ∧ (kind = 2 → s.mulLost k cmd = true → LosesStash (.mxMul g c) s cmd) ∧ (kind = 3 → s.mulLost k cmd = true → LosesStash (.mxSpmul g c) s cmd)
    ∧ (kind = 2 → sound → ill → MxEnds (.mxMul g c) s k cmd 0x40 old)
    ∧ (kind = 2 → sound → ¬ ill → cmd.ra ≤ 32 → cmd.cb ≤ 32 → MxEnds (.mxMul g c) s k cmd 0 (adds (cmd.opB.elems st)))
    ∧ (kind = 3 → sound → ill → MxEnds (.mxSpmul g c) s k cmd 0x40 old)
    ∧ (kind = 3 → sound → ¬ ill → cmd.keptOk st = false → MxEnds (.mxSpmul g c) s k cmd 0x44 old)
    ∧ (kind = 3 → sound → ¬ ill → cmd.keptOk st = true → cmd.ra ≤ 32 → cmd.cb ≤ 32 → MxEnds (.mxSpmul g c) s k cmd 0 (adds (cmd.expanded st)))
    -- EPI, on a core without stash mappings or poisoned words
    ∧ (kind = 4 → core.maps = [] → core.bad = [] → k = coreKey cmd.cid → 0 < cmd.rowBytes → cmd.rowBytes ≤ cmd.w[3].toNat → cmd.w[3].toNat % 4 = 0 →
        cmd.w[2].toNat + cmd.ra * cmd.w[3].toNat + 4 ≤ 0x40000 →
        let regs := (s.ctxOf cmd.cid).regs
        let at' := cmd.w[2].toNat
        let str := cmd.w[3].toNat
        let sat := ((List.range cmd.ra).map fun a => (cmd.epiRow regs a).2).sum
        ∃ st' : SMap Byte, (∀ a o, a < cmd.ra → o < cmd.rowBytes → SMap.read 0 st' (at' + a * str + o) = byteOf (cmd.epiRow regs a).1 o)
          ∧ SMap.readLE st' (at' + cmd.ra * str) 4 = sat % 2 ^ 32
          ∧ (∀ a, a < at' ∨ at' + cmd.ra * str + 4 ≤ a → SMap.read 0 st' a = SMap.read 0 st a)
          ∧ Completes (.mxEpi g c) s fun t =>
            { t with ctxs := s.ctxs, cores := s.cores } = s
            ∧ (∃ m, CtxIs s t cmd.cid { s.ctxOf cmd.cid with regs := { regs with acc := m } })
            ∧ (∀ n a b, a < 32 → b < 32 → accAt t cmd.cid n a b = if cmd.w[0].getLsbD 12 = true ∧ n = tile then 0 else old n a b)
            ∧ EngineIs s t k { core with mxGated := false, stash := st' } 0 (afterCmd (SMap.read {} core.eng 0) cmd 0 sat))))
  ∧ (let q : EngQ := SMap.read {} core.eng 0
     let idle := core.mxidle.toNat ≠ 0 ∧ q.queue = [] ∧ q.done = [] ∧ core.mxSince + core.mxidle.toNat ≤ s.clk
     (idle → Completes (.matrixPowerGate g c) s fun t => OnlyCore s t k { core with mxGated := true })
     ∧ (¬ idle → Idles (.matrixPowerGate g c) s))

/-- R234 to R236: the completion act: the counter w_k when CNT = 1, FAILW on a failure, MXOVF after an MX.EPI, and with m = 1 the COMPLETE message
in the inbox, all in one act. Matrix and copy commands complete in queue order. -/
def Sys2Proof.Claims.EngineCompletion : Prop := ∀ (s : State) (g : BitVec 6) (c : BitVec 4) (e : BitVec 2) (n : Nat),
  let k := 16 * g.toNat + c.toNat
  let core := s.coreOf k
  let q : EngQ := SMap.read {} core.eng e.toNat
  (q.done[n]? = none ∨ (e ≠ 3 ∧ n ≠ 0) → Idles (.engineCompletion g c e n) s)
  ∧ ∀ d, q.done[n]? = some d → (e = 3 ∨ n = 0) → (∀ y, y ∈ s.slots → ¬ (y.cid = d.cmd.cid ∧ y.tenant = d.cmd.tenant)) →
    let x := s.ctxOf d.cmd.cid
    let r := x.regs
    let status : Word32 := BitVec.ofNat 32 (d.cmd.idx.toNat + d.reason.toNat * 2 ^ 16 + e.toNat * 2 ^ 24)
    let cnt := d.cmd.w[0].getLsbD 11
    let regs := { r with
      w := if cnt then r.w.set d.cmd.ctr.toNat (r.w[d.cmd.ctr.toNat] + 1) else r.w
      failw := if d.reason = 0 then r.failw else if r.failw.toNat / 2 ^ 16 % 2 ^ 8 = 0 then (r.failw &&& 0x8000) ||| status else r.failw ||| 0x8000 }
    ∃ h : Word, Hdr h 3 0 e.toNat (s.pcidOf d.cmd.cid % 2 ^ 12) (s.pcidOf d.cmd.cid % 2 ^ 12) 0 false (d.cmd.idx.toNat % 2 ^ 16)
      ∧ Completes (.engineCompletion g c e n) s fun t =>
        { t with ctxs := s.ctxs, cores := s.cores } = s
        ∧ CtxIs s t d.cmd.cid { x with
            regs := regs
            ctl := { x.ctl with mxovf := if d.cmd.w[0].toNat % 2 ^ 8 = 4 then BitVec.ofNat 32 (min 0xFFFFFFFF (x.ctl.mxovf.toNat + d.res0.toNat)) else x.ctl.mxovf }
            inbox := if d.cmd.msg then x.inbox ++ [{ hdr := h, payload := BitVec.ofNat 448 (status.toNat + d.res0.toNat * 2 ^ 32 + d.res1.toNat * 2 ^ 64) }] else x.inbox }
        ∧ EngineIs s t k (if e = 0 then { core with mxSince := s.clk } else core) e.toNat { q with done := q.done.eraseIdx n }

/-- R79 to R81, R231, R234 to R240: the words that push commands, and what the completion of a command does. -/
def Obligations.EngineCommandsAndCompletion : Prop :=
  Sys2Proof.Claims.EngineWords ∧ Sys2Proof.Claims.EngineCompletion

/-- R254, R255: one step of a copy command of a context on its slot whose ends are in the stash, on a core without stash mappings or poisoned words: COPY, COPY2D, FILL word by word up to a
memory unit of the destination (R242); and a word of each with ends anywhere; GATHER and SCATTER by their indices, with 0x49 for an element outside the stash; PLANE by groups; DECODE and TOTIER by what their
record or granule gives. -/
def Obligations.CopyCommands : Prop := ∀ (s : State) (g : BitVec 6) (c : BitVec 4) (ch : BitVec 1),
  let k := 16 * g.toNat + c.toNat
  let e := ch.toNat + 1
  let core := s.coreOf k
  let st := core.stash
  let q : EngQ := SMap.read {} core.eng e
  (s.headCmd k e = none → Idles (.cpCopy g c ch) s ∧ Idles (.cpCopy2d g c ch) s ∧ Idles (.cpGather g c ch) s ∧ Idles (.cpScatter g c ch) s
    ∧ Idles (.cpPlane g c ch) s ∧ Idles (.cpDecode g c ch) s ∧ Idles (.cpFill g c ch) s ∧ Idles (.cpTotier g c ch) s)
  ∧ ∀ cmd, s.headCmd k e = some cmd → k = coreKey cmd.cid →
    let kind := cmd.w[0].toNat % 2 ^ 8
    let num := fun (i : Fin 8) => cmd.w[i].toNat
    let p := q.prog
    let ss := cmd.w[0].getLsbD 12 = true
    let ds := cmd.w[0].getLsbD 13 = true
    let inside := fun (n : Nat) (src dst : Nat → Nat) => ∀ a, a < n → src a + 4 ≤ 0x40000 ∧ dst a + 4 ≤ 0x40000
    let clear := core.maps = [] ∧ core.bad = [] ∧ ∀ y, y ∈ s.slots → ¬ (y.cid = cmd.cid ∧ y.tenant = cmd.tenant)
    let unit' := fun (dst : Nat → Nat) (n : Nat) => if p + 1 < n ∧ dst p % 8 = 0 ∧ dst (p + 1) = dst p + 4 then 2 else 1
    (kind = 0x10 → ss → ds → clear →
      let n := num 2 / 4
      let src := fun a => num 3 + 4 * a
      let dst := fun a => num 1 + 4 * a
      inside n src dst → p < n → CopyMoves (.cpCopy g c ch) s k e cmd n (unit' dst n) q.aux (movedAll src dst st p (unit' dst n)))
    ∧ (kind = 0x10 → let n := num 2 / 4
      unit' (fun a => cmd.dst + 4 * a) n = 1 → CopiesWord (.cpCopy g c ch) s k e cmd n ((cmd.src + 4 * p : Nat) : Int) ((cmd.dst + 4 * p : Nat) : Int))
    ∧ (kind = 0x11 → ss → ds → clear →
      let w := num 2 % 65536 + 1
      let n := w * (num 2 / 65536 + 1)
      ∀ (src dst : Nat → Nat), (∀ a, a < n → (src a : Int) = num 3 + (a / w : Nat) * sintN (num 6) 32 + 4 * (a % w : Nat)) →
        (∀ a, a < n → (dst a : Int) = num 1 + (a / w : Nat) * sintN (num 7) 32 + 4 * (a % w : Nat)) → inside n src dst → p < n →
        CopyMoves (.cpCopy2d g c ch) s k e cmd n (unit' dst n) q.aux (movedAll src dst st p (unit' dst n)))
    ∧ (kind = 0x11 → let w := num 2 % 65536 + 1
      let n := w * (num 2 / 65536 + 1)
      let at' := fun (base : Nat) (x : Nat) (a : Nat) => (base : Int) + (a / w : Nat) * sintN x 32 + (4 * (a % w) : Nat)
      (n ≤ p + 1 ∨ at' cmd.dst (num 7) p % 8 ≠ 0) → CopiesWord (.cpCopy2d g c ch) s k e cmd n (at' cmd.src (num 6) p) (at' cmd.dst (num 7) p))
    ∧ (kind = 0x16 → ds → clear →
      let n := num 2 / 4
      let dst := fun a => num 1 + 4 * a
      (∀ a, a < n → dst a + 4 ≤ 0x40000) → p < n →
      CopyMoves (.cpFill g c ch) s k e cmd n (unit' dst n) 0 ((List.range (unit' dst n)).foldl (fun st a => SMap.writeLE st (dst (p + a)) 4 (num 3)) st))
    -- gather and scatter of 4-byte elements
    ∧ (kind = 0x12 → ss → ds → cmd.w[0].getLsbD 14 = false → clear →
      let n := num 2 % 65536 + 1
      let from' := fun (a : Nat) => (num 3 : Int) + sintN (SMap.readLE st (num 6 + 4 * a) 4) 32 * 4
      p < n → num 6 + 4 * n ≤ 0x40000 → num 1 + 4 * n ≤ 0x40000 → (num 1 + 4 * p) % 8 = 4 ∨ n = p + 1 →
      ((from' p < 0 ∨ 0x40000 < from' p + 4) → Completes (.cpGather g c ch) s fun t => { t with cores := s.cores } = s ∧ EngineIs s t k core e (afterCmd q cmd 0x49 0))
      ∧ (0 ≤ from' p → from' p + 4 ≤ 0x40000 → CopyMoves (.cpGather g c ch) s k e cmd n 1 q.aux (moved st (num 1 + 4 * p) (from' p).toNat)))
    ∧ (kind = 0x13 → ss → ds → cmd.w[0].getLsbD 14 = false → clear →
      let n := num 2 % 65536 + 1
      let to' := fun (a : Nat) => (num 1 : Int) + sintN (SMap.readLE st (num 6 + 4 * a) 4) 32 * 4
      p < n → num 6 + 4 * n ≤ 0x40000 → num 3 + 4 * n ≤ 0x40000 →
      ((to' p < 0 ∨ 0x40000 < to' p + 4) → Completes (.cpScatter g c ch) s fun t => { t with cores := s.cores } = s ∧ EngineIs s t k core e (afterCmd q cmd 0x49 0))
      ∧ (0 ≤ to' p → to' p + 4 ≤ 0x40000 → CopyMoves (.cpScatter g c ch) s k e cmd n 1 q.aux (moved st (to' p).toNat (num 3 + 4 * p))))
    -- a word of an element that an index names, anywhere
    ∧ (kind = 0x12 → let w := cmd.esWords
      let n := (num 2 % 65536 + 1) * w
      ∀ x, s.indexed cmd (cmd.kflag 12) cmd.src (p / w) = .ok x → (n ≤ p + 1 ∨ (cmd.dst + 4 * p) % 8 = 4) →
        CopiesWord (.cpGather g c ch) s k e cmd n (x + (4 * (p % w) : Nat)) ((cmd.dst + 4 * p : Nat) : Int))
    ∧ (kind = 0x13 → let w := cmd.esWords
      let n := (num 2 % 65536 + 1) * w
      ∀ x, s.indexed cmd (cmd.kflag 13) cmd.dst (p / w) = .ok x → p < n → min (w - p % w) (n - p) = 1 →
        CopiesWord (.cpScatter g c ch) s k e cmd n ((cmd.src + 4 * p : Nat) : Int) (x + (4 * (p % w) : Nat)))
    -- planes
    ∧ (kind = 0x14 → clear → cmd.planeP ≤ 16 → num 1 + 8 * (cmd.planeP * (p + 1)) ≤ 0x40000 → ds →
      let n := cmd.planeR * cmd.planeG
      let ew := if cmd.w[0].getLsbD 14 then 2 else 1
      ∀ ws, s.getWords cmd e (cmd.kflag 12) ((cmd.src : Int) + (p % cmd.planeR : Nat) * sintN (num 6) 32 + (64 * (p / cmd.planeR) * ew : Nat)) (16 * ew) = .ok (ws, s) →
        let all := ws.foldr (fun w acc => w + 2 ^ 32 * acc) 0
        ∃ st' : SMap Byte, (∀ j, j < cmd.planeP → SMap.readLE st' (num 1 + 8 * (cmd.planeP * p + j)) 8
            = planeOf ((List.range 64).map fun m => all / 2 ^ (8 * ew * m) % 2 ^ (8 * ew)) j)
          ∧ (∀ a, a < num 1 + 8 * (cmd.planeP * p) ∨ num 1 + 8 * (cmd.planeP * (p + 1)) ≤ a → SMap.read 0 st' a = SMap.read 0 st a)
          ∧ Completes (.cpPlane g c ch) s fun t =>
            { t with ctxs := s.ctxs, cores := s.cores } = s
            ∧ CtxIs s t cmd.cid { s.ctxOf cmd.cid with ctl :=
                let x := (s.ctxOf cmd.cid).ctl
                if e = 1 then { x with wp0 := x.wp0 + word (8 * cmd.planeP) } else { x with wp1 := x.wp1 + word (8 * cmd.planeP) } }
            ∧ EngineIs s t k { core with stash := st' } e (if n ≤ p + 1 then afterCmd q cmd 0 0 else { q with prog := p + 1, aux := 0 }))
    -- decoding
    ∧ (kind = 0x15 → num 7 < q.aux + 8 → Completes (.cpDecode g c ch) s fun t => { t with cores := s.cores } = s ∧ EngineIs s t k core e (afterCmd q cmd 0x43 q.aux))
    ∧ (kind = 0x15 → ∀ bm sc qs j t u, s.cbfGroup cmd e q.aux = .ok (bm, sc, qs, j, t) →
        t.putWords k e cmd (cmd.dst + 96 * p) (splitWords ((List.range 12).map (planeOf qs))) true = (u, 24, none) →
        ∀ v, u.putWords k e cmd (num 6 + 16 * p) (splitWords [bm, sc]) false = (v, 4, none) →
        let n := cmd.planeR * cmd.planeG
        exec (.cpDecode g c ch) s = .next (if n ≤ p + 1 then v.finishCmd k e cmd 0 (q.aux + 8 * j) 0 else v.setProg k e (p + 1) (q.aux + 8 * j)))
    -- tier moves
    ∧ (kind = 0x17 → let gr := s.granule cmd ((cmd.dst + 65536 * p) % 2 ^ 64) (q.aux != 0)
      (gr = .passed → exec (.cpTotier g c ch) s = .next (if num 2 ≤ p + 1 then s.finishCmd k e cmd 0 0 0 else s.setProg k e (p + 1) 0))
      ∧ (∀ m, gr = .move m → Completes (.cpTotier g c ch) s fun t =>
          { t with cores := s.cores, moves := s.moves, mem := s.mem, dir := s.dir, caches := s.caches, harts := s.harts } = s
          ∧ SMap.read {} (t.coreOf k).eng e = { q with aux := 1 }
          ∧ t.moves = if ∃ y, y ∈ s.moves ∧ y.gran = m ∧ y.up = cmd.kflag 12 then s.moves
              else s.moves ++ [{ gran := m, up := cmd.kflag 12, demand := false }])
      ∧ (gr = .waits → Idles (.cpTotier g c ch) s)
      ∧ (gr = .fails (.fail 0x41) → Completes (.cpTotier g c ch) s fun t => { t with cores := s.cores } = s ∧ EngineIs s t k core e (afterCmd q cmd 0x41 0)))

/-! ### Sum-tree commands (R256 to R262) -/

namespace Sys2Proof.Claims

/-- i ends forwarded tree command n, x, with this reason, RES0 and RES1 (R233, R234), in the state u it has made: the command leaves its tree and
waits for its completion act. Nothing else changes from u. -/
def TreeEnds (i : Instr) (s u : State) (n : Nat) (x : TreeCmd) (reason r0 r1 : Nat) : Prop :=
  let core := u.coreOf x.core
  let q : EngQ := SMap.read {} core.eng 3
  Completes i s fun t =>
    { t with cores := u.cores, treeQ := u.treeQ } = u
    ∧ t.treeQ = u.treeQ.filter (fun y => y.1 != n)
    ∧ EngineIs u t x.core core 3 { q with done := q.done ++ [{ cmd := x.cmd, reason := BitVec.ofNat 8 reason, res0 := BitVec.ofNat 32 r0, res1 := BitVec.ofNat 32 r1 }] }

/-- The registers of the trees of u in which tree t has become t'. -/
def TreesWith (u : State) (t' : Tree) : List Tree := u.trees.map fun y => if y.tenant = t'.tenant ∧ y.tb = t'.tb then t' else y

/-- u once command c of its tree has applied: an ordered one sets NEXTLSN to its LSN plus 1 (R259). -/
def afterLsn (u : State) (c : Cmd) : State :=
  match u.treeOf c with
  | some t => if c.w[0].getLsbD 15 then { u with trees := TreesWith u { t with nextlsn := c.w[7] + 1 } } else u
  | none => u

/-- Tree command n, x, of this kind is at its tree now and applies (R259): it arrives, its gate admits its tree, the tree is configured as t, and it is
unordered or admitted; or it is held and its LSN is next. -/
def TreeNow (s : State) (n kind : Nat) (x : TreeCmd) (t : Tree) : Prop :=
  s.treeCmd? n = some x ∧ x.cmd.w[0].toNat % 2 ^ 8 = kind ∧ s.treeOf x.cmd = some t
  ∧ ((x.held = true ∧ x.cmd.w[7] = t.nextlsn)
    ∨ (x.held = false ∧ s.arrivesNow n x = true ∧ (s.treeRegion x.cmd).isSome = true
      ∧ (x.cmd.w[0].getLsbD 15 = false ∨ s.admission (homeSlice t.key) (2 ^ 64 + t.key) t.nextlsn x.cmd.w[7] = .apply)))

/-- What ordering makes of a command of this kind that does not apply now, the event being i. -/
def TreeOrder (i : Instr) (s : State) (n kind : Nat) : Prop :=
  (s.treeCmd? n = none → Idles i s)
  ∧ ∀ x, s.treeCmd? n = some x →
    (x.cmd.w[0].toNat % 2 ^ 8 ≠ kind → Idles i s)
    ∧ (x.cmd.w[0].toNat % 2 ^ 8 = kind →
      (x.held = false → s.arrivesNow n x = false → Idles i s)
      ∧ (x.held = false → s.arrivesNow n x = true → s.treeRegion x.cmd = none → TreeEnds i s s n x 0x41 0 0)
      ∧ (x.held = false → s.arrivesNow n x = true → (s.treeRegion x.cmd).isSome = true → s.treeOf x.cmd = none → TreeEnds i s s n x 0x45 0 0)
      ∧ ∀ t, s.treeOf x.cmd = some t →
        (x.held = true → x.cmd.w[7] ≠ t.nextlsn → serialLater x.cmd.w[7] t.nextlsn = false → TreeEnds i s s n x 0x48 0 0)
        ∧ (x.held = true → x.cmd.w[7] ≠ t.nextlsn → serialLater x.cmd.w[7] t.nextlsn = true → Idles i s)
        ∧ (x.held = false → s.arrivesNow n x = true → (s.treeRegion x.cmd).isSome = true → x.cmd.w[0].getLsbD 15 = true →
          let a := s.admission (homeSlice t.key) (2 ^ 64 + t.key) t.nextlsn x.cmd.w[7]
          (a = .stale → TreeEnds i s s n x 0x48 0 0)
          ∧ (a = .hold → Completes i s fun u => { u with treeQ := s.treeQ } = s
            ∧ u.treeQ = s.treeQ.map fun y => if y.1 = n then (n, { x with held := true }) else y)
          ∧ (a = .retry → Completes i s fun u => { u with treeQ := s.treeQ } = s
            ∧ u.treeQ = s.treeQ.map fun y => if y.1 = n then (n, { x with refused := x.refused + 1, ready := s.clk + 64 * 2 ^ min x.refused 7 }) else y)))

end Sys2Proof.Claims

/-- R256 to R262: a tree command at its tree: the gate (0x41), the configuration (0x45), the order of R259 (held, sent again, 0x48), and what each
command does: CFG, INS, DRAW, UPD and QRY, over the reads and writes of the tree's storage. -/
def Obligations.TreeCommands : Prop := ∀ (s : State) (n : Nat),
  TreeOrder (.trIns n) s n 0x21 ∧ TreeOrder (.trDraw n) s n 0x22 ∧ TreeOrder (.trUpd n) s n 0x23 ∧ TreeOrder (.trQry n) s n 0x24
  -- TR.CFG
  ∧ (s.treeCmd? n = none → Idles (.trCfg n) s)
  ∧ (∀ x, s.treeCmd? n = some x → (x.cmd.w[0].toNat % 2 ^ 8 ≠ 0x20 ∨ s.arrivesNow n x = false) → Idles (.trCfg n) s)
  ∧ (∀ x, s.treeCmd? n = some x → x.cmd.w[0].toNat % 2 ^ 8 = 0x20 → s.arrivesNow n x = true →
    let c := x.cmd
    let beta : Word32 := if c.w[6].toNat = 0x80000000 then 0 else c.w[6]
    let l := c.w[5].toNat % 32
    (s.treeRegion c = none → TreeEnds (.trCfg n) s s n x 0x41 0 0)
    ∧ ∀ r, s.treeRegion c = some r →
      (c.w[0].getLsbD 13 = true → s.treeOf c = none → TreeEnds (.trCfg n) s s n x 0x45 0 0)
      ∧ (c.w[0].getLsbD 13 = true → ∀ t, s.treeOf c = some t → TreeEnds (.trCfg n) s { s with trees := TreesWith s { t with beta := beta } } n x 0 0 0)
      ∧ (c.w[0].getLsbD 13 = false → (r.base + r.len < c.tb + 32 * 2 ^ l ∨ (s.treeOf c = none ∧ 64 ≤ s.trees.length)) → TreeEnds (.trCfg n) s s n x 0x45 0 0)
      ∧ (c.w[0].getLsbD 13 = false → c.tb + 32 * 2 ^ l ≤ r.base + r.len → ((s.treeOf c).isSome = true ∨ s.trees.length < 64) →
        ∀ pa u v, s.treePa c 0 true = .ok (pa, u) → u.zeroTree c (2 ^ l / 2) 0 = .ok v →
          let v' := v.failHeld c
          TreeEnds (.trCfg n) s (afterLsn { v' with trees := v'.trees.filter (fun y => !(y.tenant == c.tenant && y.tb == c.tb)) ++
            [{ key := pa, tenant := c.tenant, tb := c.tb, l := l, total := 0, pmin := 0, ncount := 0, beta := beta, tstale := 0, cursor := 0, nextlsn := 0,
               seed := word (c.w[3].toNat + 2 ^ 32 * c.w[4].toNat), used := 0 }] } c) n x 0 0 0))
  -- TR.INS
  ∧ (∀ x t, TreeNow s n 0x21 x t → ∀ g u t' v, s.treeGet x.cmd (16 * t.cursor.toNat + 4) 4 = .ok (g, u) →
      u.setLeaf x.cmd t t.cursor.toNat x.cmd.w[5].toNat ((g + 1) % 2 ^ 32) = .ok (t', v) →
      let t2 := { t' with cursor := BitVec.ofNat 32 ((t.cursor.toNat + 1) % 2 ^ t'.l), ncount := BitVec.ofNat 32 (min (t'.ncount.toNat + 1) (2 ^ t'.l)), used := min (t'.used + 1) (2 ^ t'.l) }
      ∀ w, ({ v with trees := TreesWith v t2 } : State).resPuts x.cmd [t.cursor.toNat + 2 ^ 32 * ((g + 1) % 2 ^ 32)] = (w, none) →
        TreeEnds (.trIns n) s (afterLsn w x.cmd) n x 0 t.cursor.toNat ((g + 1) % 2 ^ 32))
  -- TR.DRAW
  ∧ (∀ x t, TreeNow s n 0x22 x t →
      (t.total = 0 → TreeEnds (.trDraw n) s (afterLsn s x.cmd) n x 0x46 0 0)
      ∧ (t.total ≠ 0 → ∀ l u w, s.drawRecs x.cmd t (x.cmd.w[5].toNat % 1024 + 1) (x.cmd.w[5].toNat % 1024 + 1) 0 = .ok (l, u) → u.resPuts x.cmd l = (w, none) →
        TreeEnds (.trDraw n) s (afterLsn w x.cmd) n x 0 0 0))
  -- TR.UPD
  ∧ (∀ x t, TreeNow s n 0x23 x t → ∀ ws u, s.resGets x.cmd (2 * (x.cmd.w[5].toNat % 1024 + 1)) x.cmd.res = .ok (ws, u) →
      ((∃ y, y ∈ updEntries ws ∧ 2 ^ t.l ≤ y.1) → TreeEnds (.trUpd n) s (afterLsn s x.cmd) n x 0x47 0 0)
      ∧ ((∀ y, y ∈ updEntries ws → y.1 < 2 ^ t.l) → ∀ t' d v, u.applyUpd x.cmd t (updEntries ws) 0 = .ok (t', d, v) →
        TreeEnds (.trUpd n) s (afterLsn { v with trees := TreesWith v { t' with tstale := t'.tstale + BitVec.ofNat 32 d } } x.cmd) n x 0 d 0))
  -- TR.QRY
  ∧ (∀ x t, TreeNow s n 0x24 x t →
      (x.cmd.w[5].toNat % 2 = 0 → ∀ w, s.resPuts x.cmd [t.total, t.pmin.toNat + t.ncount.toNat * 2 ^ 32, t.beta.toNat + t.tstale.toNat * 2 ^ 32, t.cursor.toNat + t.nextlsn.toNat * 2 ^ 32] = (w, none) →
        TreeEnds (.trQry n) s (afterLsn w x.cmd) n x 0 0 0)
      ∧ (x.cmd.w[5].toNat % 2 = 1 → 2 ^ t.l ≤ x.cmd.w[6].toNat → TreeEnds (.trQry n) s (afterLsn s x.cmd) n x 0x47 0 0)
      ∧ (x.cmd.w[5].toNat % 2 = 1 → x.cmd.w[6].toNat < 2 ^ t.l → ∀ a u b v w, s.treeGet x.cmd (16 * x.cmd.w[6].toNat) 8 = .ok (a, u) →
          u.treeGet x.cmd (16 * x.cmd.w[6].toNat + 8) 8 = .ok (b, v) → v.resPuts x.cmd [a, b] = (w, none) → TreeEnds (.trQry n) s (afterLsn w x.cmd) n x 0 0 0))
  -- one entry of an update: discarded when its slot is not occupied or its generation differs, else its priority is set (R260)
  ∧ (∀ (c : Cmd) (t : Tree) (slot gen prio d : Nat) (l : List (Nat × Nat × Nat)) g u, s.treeGet c (16 * slot + 4) 4 = .ok (g, u) →
      ((t.used ≤ slot ∨ g ≠ gen) → s.applyUpd c t ((slot, gen, prio) :: l) d = u.applyUpd c t l (d + 1))
      ∧ (slot < t.used → g = gen → ∀ t' v, u.setLeaf c t slot prio gen = .ok (t', v) → s.applyUpd c t ((slot, gen, prio) :: l) d = v.applyUpd c t' l d))

/-! ### The spine, budgets and refused atomics, on their own (R22 to R28, R137 to R139, R181, R335) -/

namespace Sys2Proof.Claims

/-- Stream k of gathering g (R22). -/
def strm (s : State) (g k : Nat) : Stream := SMap.read {} (s.gathSt g).streams k

/-- The gatherings of t are those of s but for stream k of gathering g, which is x. -/
def StreamIs (s t : State) (g k : Nat) (x : Stream) : Prop :=
  (∀ j, j ≠ g → t.gathSt j = s.gathSt j) ∧ { t.gathSt g with streams := (s.gathSt g).streams } = s.gathSt g
  ∧ ∀ j, strm t g j = if j = k then x else strm s g j

/-- The same, where the spine has decoded for stream k in this clock, after those of l, and what it fetched may have entered the instruction
caches (R22, R25). -/
def StreamFetched (s t : State) (g k : Nat) (l : List Nat) (x : Stream) : Prop :=
  (∀ j, j ≠ g → t.gathSt j = s.gathSt j)
  ∧ { t.gathSt g with streams := (s.gathSt g).streams, decAt := (s.gathSt g).decAt, decs := (s.gathSt g).decs, l1i := (s.gathSt g).l1i, l0 := (s.gathSt g).l0 } = s.gathSt g
  ∧ (t.gathSt g).decAt = s.clk ∧ (t.gathSt g).decs = k :: l
  ∧ ∀ j, strm t g j = if j = k then x else strm s g j

/-- The word's next PC depends on data (R24): a branch on a condition or on zero, JALR, TRET, or FINISH or HALT, which end a handler (R199). -/
def dataDependent (w : Word32) : Prop := w.toNat / 2 ^ 26 = 0x10 ∨ w.toNat / 2 ^ 26 = 0x11 ∨ w.toNat / 2 ^ 26 = 0x13 ∨ w = 0xFC040000 ∨ w = 0xBC000200 ∨ w = 0xFC070000

/-- The word is ATTACH or JOIN (R137). -/
def joinPoint (w : Word32) : Prop := w.toNat / 2 ^ 26 = 0x14 ∧ (w.toNat / 2 ^ 13 % 2 ^ 8 = 1 ∨ w.toNat / 2 ^ 13 % 2 ^ 8 = 2)

/-- The word is GANG (R143). -/
def gangWord (w : Word32) : Prop := w.toNat / 2 ^ 26 = 0x14 ∧ w.toNat % 2 ^ 21 = 0xA000

/-- st becomes st' when word w is delivered at position st.pos (R22 to R24, R143): JAL alone moves the next address, an outcome is awaited after a
word that depends on data, GANG's value is noted; clk is the device clock, for the hold at a join point with stragglers (R28, R138). -/
def Delivered (clk : Nat) (st st' : Stream) (w : Word32) (gang : Nat) : Prop :=
  let outs := st.outcomes.filter fun x => decide (st.pos ≤ x.1 + 33)
  let old := st.status.filter fun x => decide (st.pos ≤ x.1 + 33)
  st'.running = true ∧ st'.pos = st.pos + 1 ∧ st'.strag = st.strag ∧ st'.cls = st.cls
  ∧ st'.nextPc = (if w.toNat / 2 ^ 26 = 0x12 then st.nextPc + ((w.truncate 26 : BitVec 26).signExtend 64) * 4 else st.nextPc + 4)
  ∧ (dataDependent w → st'.outcomes = (st.pos, none) :: outs) ∧ (¬ dataDependent w → st'.outcomes = outs)
  ∧ (gangWord w → st'.status = (st.pos, gang) :: old ∧ st'.atJoin = none ∧ st'.holdTo = none)
  ∧ (¬ gangWord w → ¬ joinPoint w → st'.status = old ∧ st'.atJoin = none ∧ st'.holdTo = none)
  ∧ (joinPoint w → st'.atJoin = some st.nextPc
    ∧ (st.strag = 0 → st'.status = (st.pos, 0) :: old ∧ st'.holdTo = none)
    ∧ (st.strag ≠ 0 → st'.status = old ∧ st'.holdTo = some (clk + 64 * (w.toNat % 2 ^ 13 + 1))))

/-- What the end of a hold makes of a context attached to the stream: one held at the join point completes with this status (R28, R138). -/
def unheld (clk : Nat) (status : Nat) (c : Ctx) : Ctx :=
  match c.sched.wait with
  | .hold _ sd => { c with regs := (c.regs.sset sd (word status)).advance, sched := { c.sched with wait := .none, readyAt := clk } }
  | _ => c

/-- Context cid performs its atomic q in memory (R178): it stores the new value, its word completes with the old one, sign-extended; the other
effects are those of a store's bookkeeping. -/
def AppliesAmo (s t : State) (cid : Nat) (q : AmoReq) : Prop :=
  let old := s.mem.readLE q.pa q.size
  let c := s.ctxOf cid
  { t with ctxs := s.ctxs, cores := s.cores, dir := s.dir, caches := s.caches, mem := s.mem, harts := s.harts } = s
  ∧ CtxIs s t cid { c with regs := (c.regs.sset q.sd (wordI (sintN old (8 * q.size)))).advance, sched := { c.sched with wait := .none, readyAt := s.clk } }
  ∧ (∀ k, { t.coreOf k with gateR := (s.coreOf k).gateR, gateC := (s.coreOf k).gateC, maps := (s.coreOf k).maps } = s.coreOf k)
  ∧ t.mem = s.mem.writeLE q.pa q.size (amoNew q.op.toNat (8 * q.size) old q.val.toNat q.exp.toNat)

end Sys2Proof.Claims

/-- R22 to R24, R137, R138: a stream delivers its next word when the spine has delivered for fewer than two streams in the clock and not for it, it
runs, does not hold, knows where it goes on, and no attached context is more than 32 positions behind; every attached context gets the word and its position, nothing else changes; at a join point the stream holds while there
are stragglers. -/
def Sys2Proof.Claims.StreamDelivery : Prop := ∀ (s : State) (g : BitVec 6) (k : BitVec 2),
  let on := s.attached g.toNat k.toNat
  let st := strm s g.toNat k.toNat
  let near := fun (cid : Nat) => st.pos < 32 ∨ ∃ p, (s.ctxOf cid).sched.accepted = some p ∧ st.pos - 32 ≤ p
  let past := if (s.gathSt g.toNat).decAt = s.clk then (s.gathSt g.toNat).decs else []
  let can := k.toNat ∉ past ∧ past.length < 2
  (¬ can ∨ st.running = false ∨ st.holdTo ≠ none ∨ (∃ p l, st.outcomes = (p, none) :: l) ∨ on = [] ∨ (∃ cid, cid ∈ on ∧ ¬ near cid) → Idles (.streamDeliver g k) s)
  ∧ (can → st.running = true → st.holdTo = none → (∀ p l, st.outcomes ≠ (p, none) :: l) → (∀ cid, cid ∈ on → near cid) →
    ∀ l w, s.leader g.toNat k.toNat = some l → s.peekWord l st.nextPc = some w →
    (joinPoint w → ∀ c, c < 8 → (s.ctxOf (64 * g.toNat + 4 * c + k.toNat)).sched.spine ≠ .joining) →
    ∃ st', Delivered s.clk st st' w (s.gangValue g.toNat k.toNat) ∧ Completes (.streamDeliver g k) s fun t =>
      { t with ctxs := s.ctxs, gaths := s.gaths, caches := s.caches } = s
      ∧ (∀ cid, t.ctxOf cid = if cid ∈ on then { s.ctxOf cid with sched := { (s.ctxOf cid).sched with
            drift := (s.ctxOf cid).sched.drift ++ [{ pos := st.pos, addr := st.nextPc, word := w }] } } else s.ctxOf cid)
      ∧ StreamFetched s t g.toNat k.toNat past st')

/-- R27, R28, R137 to R139: a JOINING context attaches when its stream is at its point with its class, and its straggler bit clears; else it waits,
until its time has passed: then it is PRIVATE with status TIMEOUT. A held stream whose time has passed goes on, and those held with it. -/
def Sys2Proof.Claims.JoinsAndHolds : Prop := ∀ (s : State) (cid : BitVec 12) (g : BitVec 6) (k : BitVec 2),
  let n := cid.toNat
  let c := s.ctxOf n
  let mine := strm s (n / 64) (n % 4)
  (∀ w, c.sched.wait = .join w → c.sched.spine = .joining →
    let strag := mine.strag &&& ~~~ BitVec.ofNat 8 (2 ^ (n % 64 / 4))
    (mine.atJoin ≠ some w.point ∨ mine.cls ≠ c.ctl.prioCls → Idles (.joiningAttached cid) s)
    ∧ (mine.atJoin = some w.point → mine.cls = c.ctl.prioCls → strag ≠ 0 ∨ mine.holdTo = none → Completes (.joiningAttached cid) s fun t =>
      { t with ctxs := s.ctxs, gaths := s.gaths } = s
      ∧ CtxIs s t n { c with
          regs := (c.regs.sset w.sd 0).advance
          sched := { c.sched with spine := .attached, wait := .none, drift := [], accepted := some (mine.pos - 1), readyAt := s.clk } }
      ∧ StreamIs s t (n / 64) (n % 4) { mine with strag := strag })
    ∧ (s.clk < w.stopAt → Idles (.joinTimeout cid) s)
    ∧ (w.stopAt ≤ s.clk → Completes (.joinTimeout cid) s fun t =>
        OnlyCtx s t n { c with regs := (c.regs.sset w.sd 1).advance, sched := { c.sched with spine := .priv, wait := .none } }))
  ∧ ((∀ w, c.sched.wait ≠ .join w) ∨ c.sched.spine ≠ .joining → Idles (.joiningAttached cid) s ∧ Idles (.joinTimeout cid) s)
  ∧ (let st := strm s g.toNat k.toNat
     (st.holdTo = none ∨ (∃ t, st.holdTo = some t ∧ s.clk < t) → Idles (.streamHoldTimeout g k) s)
     ∧ (∀ lim, st.holdTo = some lim → lim ≤ s.clk →
       let status := if st.strag = 0 then 0 else 1
       Completes (.streamHoldTimeout g k) s fun t =>
         { t with ctxs := s.ctxs, gaths := s.gaths } = s
         ∧ (∀ j, t.ctxOf j = if j ∈ s.attached g.toNat k.toNat then unheld s.clk status (s.ctxOf j) else s.ctxOf j)
         ∧ StreamIs s t g.toNat k.toNat { st with holdTo := none, status := (st.pos - 1, status) :: st.status }))

/-- R22 to R24, R27, R28, R137 to R139: delivery, joins and holds. -/
def Obligations.StreamsAndHolds : Prop :=
  Sys2Proof.Claims.StreamDelivery ∧ Sys2Proof.Claims.JoinsAndHolds

/-- R335: a task context whose BUDGET is 0 is exhausted: under PREEMPT it is frozen, otherwise its class is lowered and saved (of a handler that
interrupted a task, the task's). R181: an atomic refused RETRY arrives again: applied, held, refused once more, or past its number. -/
def Obligations.BudgetsAndRefusedAtomics : Prop := ∀ (s : State) (cid : BitVec 12),
  let n := cid.toNat
  let c := s.ctxOf n
  (c.ctl.budget ≠ 0 ∨ c.sched.task = none ∨ n % 64 / 4 = 8 ∨ c.sched.exhausted = true → Idles (.budgetExhausted cid) s)
  ∧ (c.ctl.budget = 0 → c.sched.task.isSome = true → n % 64 / 4 ≠ 8 → c.sched.exhausted = false →
    (c.sched.rule = some 2 → Completes (.budgetExhausted cid) s fun t => OnlyCtx s t n { c with sched := { c.sched with exhausted := true, frozen := true } })
    ∧ (c.sched.rule ≠ some 2 →
      let low : BitVec 2 := if c.ctl.prioFlr = 3 then 3 else 2
      low = c.ctl.prioCls ∨ c.sched.spine ≠ .attached → ∀ saved,
      ((c.sched.handler = none ∧ saved = c.ctl.prioCls) ∨ (∃ h, c.sched.handler = some h ∧ saved = if h.free then c.ctl.prioCls else h.cls)) →
      Completes (.budgetExhausted cid) s fun t => OnlyCtx s t n { c with
        ctl := { c.ctl with prioCls := low }
        sched := { c.sched with exhausted := true, savedCls := some saved } }))
  ∧ ((∀ q, c.sched.wait ≠ .amo q false) → Idles (.amoArrival cid) s)
  ∧ (∀ q, c.sched.wait = .amo q false → (q.size = 4 ∨ q.size = 8) → s.isPoisoned q.pa q.size = false → Unowned s q.pa q.size →
    (q.seq = none → Completes (.amoArrival cid) s fun t => AppliesAmo s t n q)
    ∧ ∀ v, q.seq = some v →
      let a := s.admission (homeSlice q.pa) (q.pa / 8) (s.nextSeq q.pa) v
      (a = .apply → (∀ h ∈ s.heldAmos, h.2.2.pa / 8 ≠ q.pa / 8) →
        Completes (.amoArrival cid) s fun t => AppliesAmo { s with seqs := SMap.write 0 s.seqs (q.pa / 8) (v + 1) } t n q)
      ∧ (a = .hold → Completes (.amoArrival cid) s fun t => OnlyCtx s t n { c with sched := { c.sched with wait := .amo q true, since := s.dtime } })
      ∧ (a = .retry → Completes (.amoArrival cid) s fun t => OnlyCtx s t n { c with sched := { c.sched with wait := .amo q false, since := s.dtime } })
      ∧ (a = .stale → exec (.amoArrival cid) s = .next ((s.setCtx n { c with sched := { c.sched with wait := .none, readyAt := s.clk } }).trapAs n 5
          (word (v.toNat + 2 ^ 32 * 4)) 2)))

/-! ### Device time, cycle domains, ingress and egress (R340 to R359) -/

namespace Sys2Proof.Claims

/-- The registers of the control windows of t are those of s, but those of the list l, which hold what it says. -/
def RegsAre (s t : State) (l : List (Nat × Word)) : Prop := ∀ a, t.win! a = ((l.find? fun e => e.1 == a).map (·.2)).getD (s.win! a)

/-- t is s but for those registers. -/
def OnlyRegsOf (s t : State) (l : List (Nat × Word)) : Prop := { t with win := s.win } = s ∧ RegsAre s t l

/-- The cycle domains of t are those of s, but that domain d has become x (R341). -/
def DomIs (s t : State) (d : Nat) (x : Dom) : Prop := ∀ j, t.dom j = if j = d then x else s.dom j

/-- The slot instances of t are those of s, but that slot x of domain d has become i (R351). -/
def InstIs (s t : State) (d x : Nat) (i : SlotInst) : Prop :=
  ∀ j, (SMap.read {} t.slotI j : SlotInst) = if j = 256 * d + x then i else SMap.read {} s.slotI j

/-- A 16-bit count at bit lo of a register goes up by one and stays at its top (R346, R351). -/
def upTo16 (r : Word) (lo : Nat) : Word := putFld r lo 16 (min 0xFFFF (r.toNat / 2 ^ lo % 2 ^ 16 + 1))

/-- t is s but that the count at bit lo of SFCNT of filter f has gone up (R346). -/
def Counts (s t : State) (f lo : Nat) : Prop := OnlyRegsOf s t [(rSF f 0x28, upTo16 (s.win! (rSF f 0x28)) lo)]

end Sys2Proof.Claims

/-- R340: a Sync message while PTPCTL enables the engine: the first lock, with no domain enabled and no step back, sets device time; any other
reports the offset, clamped to 32 bits, and changes the rate within 250 parts per million of nominal. After three intervals without one, a locked
device reports holdover. Without the enable it is ignored. -/
def Sys2Proof.Claims.DeviceTime : Prop := ∀ (s : State) (m : BitVec 64),
  let first := s.locked = false ∧ (∀ d, d < 8 → (s.dom d).en = false) ∧ s.dtime ≤ m.toNat
  ((s.win! rPTPCTL).getLsbD 3 = false → Idles (.ptpSync m) s)
  ∧ ((s.win! rPTPCTL).getLsbD 3 = true → first → Completes (.ptpSync m) s fun t =>
      { t with win := s.win } = { s with dtime := m.toNat, frac := 0, locked := true, syncAt := m.toNat } ∧ RegsAre s t [(rPTPST, 1)])
  ∧ ((s.win! rPTPCTL).getLsbD 3 = true → ¬ first → ∀ off : BitVec 32,
      (off.toInt = max (-(2 ^ 31 : Int)) (min (2 ^ 31 - 1) ((m.toNat : Int) - s.dtime))) → Completes (.ptpSync m) s fun t =>
      { t with win := s.win, rate := s.rate } = { s with locked := true, syncAt := s.dtime } ∧ 999750 ≤ t.rate ∧ t.rate ≤ 1000250
      ∧ RegsAre s t [(rPTPST, word (1 + off.toNat * 2 ^ 32))])
  ∧ (s.locked = true → s.syncAt + 3 * Config.syncInterval ≤ s.dtime → Completes .holdover s fun t => OnlyRegsOf s t [(rPTPST, putFld (s.win! rPTPST) 0 2 2)])
  ∧ (s.locked = false ∨ s.dtime < s.syncAt + 3 * Config.syncInterval → Idles .holdover s)

/-- R335, R342, R343, R345, R414: a cycle starts once the latch and the egress of the cycle before are done and its time has come: a stopping domain
stops, and its contexts that yielded may go on (R39); else the cycle number moves on, every task context of the domain, on its slot or saved (R336), is
refilled, and in domain 0 a requested envelope is taken. The latch seals the image version of its cycle and opens the next. -/
def Sys2Proof.Claims.CycleStartAndLatch : Prop := ∀ (s : State) (d : BitVec 3),
  let n := d.toNat
  let x := s.dom n
  let next := x.cyc + 1
  let due := x.en = true ∧ x.latch = next ∧ x.egress = next ∧ s.cycleAt n next.toNat ≤ s.dtime
  let none' := (∀ e, e ∈ s.ctxs → e.2.sched.dom.toNat = n → e.2.sched.task = none) ∧ ∀ y, y ∈ s.slots → y.ctx.sched.dom.toNat = n → y.ctx.sched.task = none
  let restarts := n ∈ s.pair.holding ∧ ∃ y, y ∈ s.pair.restart ∧ y.1 = n ∧ y.2.toNat ≤ next.toNat
  (¬ due → Idles (.cycleStart d) s)
  ∧ (due → x.stop = true → exec (.cycleStart d) s =
      .next (((s.setDom n { x with en := false, stop := false }).setWinFld (rCDSTAT n) 0 1 0).eachOfDomain n fun cid u => u.unyield cid))
  ∧ (due → x.stop = true → none' → Completes (.cycleStart d) s fun t =>
      { t with doms := s.doms, win := s.win } = s ∧ DomIs s t n { x with en := false, stop := false } ∧ RegsAre s t [(rCDSTAT n, putFld (s.win! (rCDSTAT n)) 0 1 0)])
  ∧ (due → x.stop = false → ¬ restarts → none' → s.envReq = none ∨ n ≠ 0 → Completes (.cycleStart d) s fun t =>
      { t with doms := s.doms } = s ∧ DomIs s t n { x with cyc := next })
  ∧ (due → x.stop = false → ¬ restarts → none' → n = 0 → ∀ e, s.envReq = some e → Completes (.cycleStart d) s fun t =>
      { t with doms := s.doms, win := s.win } = { s with envReq := none } ∧ DomIs s t n { x with cyc := next } ∧ RegsAre s t [(rPWRST, word e.toNat)])
  ∧ (due → x.stop = false → ¬ restarts → s.envReq = none ∨ n ≠ 0 → exec (.cycleStart d) s =
      .next ((s.setDom n { x with cyc := next }).eachOfDomain n fun cid u => u.refill cid))
  ∧ (due → x.stop = false → restarts → none' → s.envReq = none ∨ n ≠ 0 → exec (.cycleStart d) s = .next ((s.setDom n { x with cyc := next }).pairRestart n next))
  -- what happens to each, and what the refill of a task context is, and the end of its yield
  ∧ (∀ f : Nat → State → State, (∀ y, y ∈ s.slots → y.ctx.sched.dom.toNat = n → y.ctx.sched.task = none) → (∀ cid u, (f cid u).slots = u.slots) →
      s.eachOfDomain n f = (s.ctxs.filter fun e => e.2.sched.dom.toNat == n && e.2.sched.task.isSome).foldl (fun u e => f e.1 u) s)
  ∧ (∀ cid, let c := s.ctxOf cid
      c.sched.handler = none → c.sched.yielded = true →
      OnlyCtx s (s.unyield cid) cid { c with sched := { c.sched with yielded := false, readyAt := s.clk } })
  ∧ (∀ cid, let c := s.ctxOf cid
      c.sched.task.isSome = true → c.sched.spine ≠ .attached → c.sched.pktBudget ≠ 0 → c.sched.handler = none →
      OnlyCtx s (s.refill cid) cid { c with
        ctl := { c.ctl with budget := c.sched.pktBudget, prioCls := c.sched.savedCls.getD c.ctl.prioCls }
        sched := { c.sched with exhausted := false, frozen := false, yielded := false, savedCls := none
                                readyAt := if c.sched.yielded = true ∨ c.sched.frozen = true then s.clk else c.sched.readyAt } })
  -- the latch
  ∧ (let due := x.en = true ∧ x.cyc = x.latch ∧ s.cycleAt n x.latch.toNat + s.cdLatch n ≤ s.dtime
     (¬ due → Idles (.latch d) s)
     ∧ (due → ∀ i, openIdx (s.ring (imageKey n) 2) (x.latch.truncate 32) = some i →
        let u := ((s.sealV (imageKey n) 2 (s.imgLen n) i).openImage n (x.latch.toNat + 1)).setDom n { x with latch := x.latch + 1 }
        u.filters = [] → Completes (.latch d) s fun t => OnlyRegsOf u t [(rCDSTAT n, putFld (u.win! (rCDSTAT n)) 32 32 ((u.win! (rCDSTAT n)).toNat / 2 ^ 32 % 2 ^ 32 + 1))]))

/-- R343, R344: writing EN: of a running domain EN = 0 stops it at the next cycle start and EN = 1 changes nothing; of a stopped one a refused
enable leaves it stopped with its reason, the first of the five that holds; an accepted one starts it before its first cycle. -/
def Sys2Proof.Claims.DomainsStartAndStop : Prop := ∀ (s : State) (d : BitVec 3),
  let n := d.toNat
  let ctl := s.win! (rCDCTL n)
  let ref := s.enableRef n (ctl.getLsbD 1)
  let base := s.cdBase n
  (ctl.getLsbD 0 = true → Idles (.domainEnable d) s ∧ Completes (.domainDisable d) s fun t =>
      { t with doms := s.doms, win := s.win } = s ∧ DomIs s t n { s.dom n with stop := true } ∧ RegsAre s t [(rCDCTL n, putFld ctl 0 1 0)])
  ∧ (ctl.getLsbD 0 = false →
      (Completes (.domainDisable d) s fun t => OnlyRegsOf s t [])
      ∧ (ref ≠ 0 → Completes (.domainEnable d) s fun t => OnlyRegsOf s t [(rCDCTL n, putFld ctl 0 1 0), (rCDSTAT n, putFld (s.win! (rCDSTAT n)) 4 4 ref)])
      ∧ (ref = 0 → (s.dom n).area ≠ some (s.win! (rCDIMG n)) → s.filters = [] → s.vwins = [] → (∀ x, x < 256 → s.slotValid n x = false) →
          let pair := if ctl.getLsbD 1 then 2 else 0
          let u := (s.setDom n { s.dom n with area := some (s.win! (rCDIMG n)) }).setRing (imageKey n) [{ st := .sealed }, {}]
          let u := (u.setDom n { en := true, ever := true, cyc := word base - 1, latch := word base, egress := word base, area := some (s.win! (rCDIMG n)) }).setHolder (imageKey n) .cycle
          ∃ v : State, OnlyRegsOf u v [(rCDCTL n, word (1 + pair)), (rCDSTAT n, putFld (s.win! (rCDSTAT n)) 0 1 1)]
            ∧ exec (.domainEnable d) s = .next (v.openImage n base)))
  ∧ (let len := s.cdLen n
     let bad := len < 25000 ∨ 1000000000 < len ∨ len ≤ s.cdLatch n ∨ len ≤ s.cdEgoff n
     (bad → ref = 1) ∧ (¬ bad → s.cdT0 n < s.dtime + 100000 → ref = 2) ∧ (ref = 1 → bad) ∧ (ref = 2 → s.cdT0 n < s.dtime + 100000))

/-- R335, R340, R342 to R345, R414: device time, cycle starts, latches, and the start and stop of a domain. -/
def Obligations.TimeAndCycles : Prop :=
  Sys2Proof.Claims.DeviceTime ∧ Sys2Proof.Claims.CycleStartAndLatch ∧ Sys2Proof.Claims.DomainsStartAndStop

/-- R326, R351 to R354: a slot's instant: an overrun while the instance before has not ended (deferred under DEFER), a miss while its tenant does not
run, else the launch, once what it reads is resident; a packet that does not pass against the partition as it stands, or a grant the service does not
hold, fails the slot; the deferred launch; SLOTA written, and SLOTST read. -/
def Obligations.SlotInstants : Prop := ∀ (s : State) (d : BitVec 3) (x : BitVec 8) (v : BitVec 64),
  let n := d.toNat
  let k := x.toNat
  let i := s.inst n k
  let st := s.win! (rSLOTST n k)
  let u := s.setInst n k { i with instants := i.instants + 1 }
  let before := i.launch.isSome = true ∨ i.deferred = true
  let o := u.bumpSlot n k 16
  (s.slotDue n k = false → Idles (.slotInstant d x) s)
  ∧ (s.slotDue n k = true →
      (before →
        (∀ sub, o.slotPartFails n k = some sub → exec (.slotInstant d x) s = .next ((o.bumpSlot n k 32).failSlot n k sub))
        ∧ (o.slotPartFails n k = none →
          let count := if o.slotRuns n k = true then upTo16 st 16 else upTo16 (upTo16 st 16) 32
          let defers := s.slotRule n k = 1 ∧ st.toNat % 4 = 1
          Completes (.slotInstant d x) s fun t =>
            { t with slotI := s.slotI, win := s.win } = s
            ∧ InstIs s t n k { i with instants := i.instants + 1, deferred := if defers then true else i.deferred }
            ∧ RegsAre s t [(rSLOTST n k, if defers then putFld count 0 2 2 else count)]))
      ∧ (¬ before → s.slotRuns n k = false →
        (∀ sub, s.slotPartFails n k = some sub → exec (.slotInstant d x) s = .next ((u.bumpSlot n k 32).failSlot n k sub))
        ∧ (s.slotPartFails n k = none → Completes (.slotInstant d x) s fun t =>
            { t with slotI := s.slotI, win := s.win } = s ∧ InstIs s t n k { i with instants := i.instants + 1 } ∧ RegsAre s t [(rSLOTST n k, upTo16 st 32)]))
      ∧ (¬ before → s.slotRuns n k = true →
        (∀ va, s.slotAway n k = some va → exec (.slotInstant d x) s = .next (s.fetchPage (s.slotOwner n k) va))
        ∧ (s.slotAway n k = none → exec (.slotInstant d x) s = .next (u.tryLaunch n k))))
  -- what becomes of an instance that is to start
  ∧ (let f := ((s.setInst n k { i with deferred := false }).setWinFld (rSLOTST n k) 0 2 0).bumpSlot n k 32
     (∀ sub, s.slotPartFails n k = some sub → s.tryLaunch n k = f.failSlot n k sub)
     ∧ (s.slotPartFails n k = none → s.slotGranted n k = false → s.tryLaunch n k = f.failSlot n k 8)
     ∧ (s.slotPartFails n k = none → s.slotGranted n k = true → s.tryLaunch n k = s.launchSlot n k))
  ∧ ((i.deferred = false ∨ i.launch.isSome = true ∨ s.slotRuns n k = false) → Idles (.deferredLaunch d x) s)
  ∧ (i.deferred = true → i.launch = none → s.slotRuns n k = true →
      (∀ va, s.slotAway n k = some va → exec (.deferredLaunch d x) s = .next (s.fetchPage (s.slotOwner n k) va))
      ∧ (s.slotAway n k = none → exec (.deferredLaunch d x) s = .next (s.tryLaunch n k)))
  ∧ (let w := s.setWin (rSLOTA n k) (v &&& 0xFF3F03FFFFFFFF)
     let y := w.setInst n k { i with instants := w.passed n (w.slotOffset n k), armed := [], graph := none }
     exec (.slotWrite d x v) s = .next (if v.getLsbD 32 then y.checkSlot n k else y))
  ∧ (Completes (.slotstRead d x) s fun t => { t with win := s.win } = { s with bus := st } ∧ RegsAre s t [(rSLOTST n k, putFld st 16 32 0)])

/-- R346 to R350: SFID written; SFCNT read clears; a frame no filter names is ignored; the drops of sequence recovery, of policing by size and by
meter; a frame of an image stream that comes while its domain is stopped, or before its first cycle, is dropped, one in its window is placed and
counted; a bulk frame too long for its ring is dropped. -/
def Sys2Proof.Claims.FramesIn : Prop := ∀ (s : State) (f : BitVec 10) (v : BitVec 64) (x : Frame),
  let pol := s.win! (rSF f.toNat 0x10)
  let dst := (s.win! (rSF f.toNat 0x18)).toNat
  let len := (s.win! (rSF f.toNat 0x20)).toNat
  let bad := pol.toNat / 2 ^ 35 % 4 = 3 ∨ dst / 2 ^ 24 % 2 ^ 24 < 8 ∨ dst / 2 ^ 24 % 2 ^ 24 % 4 ≠ 0 ∨ dst % 2 ^ 24 < 8 ∨ 1499 < len % 2 ^ 11
    ∨ len / 2 ^ 16 % 2 ^ 11 = 0 ∨ 1500 < len / 2 ^ 16 % 2 ^ 11 ∨ s.imgLen (pol.toNat / 2 ^ 32 % 2 ^ 3) < dst % 2 ^ 24 + len / 2 ^ 16 % 2 ^ 11
    ∨ s.imgLen (pol.toNat / 2 ^ 32 % 2 ^ 3) < dst / 2 ^ 24 % 2 ^ 24 + 4 ∨ ((s.win! (rSF f.toNat 8)).getLsbD 62 = true ∧ v.getLsbD 61 = false)
  (bad → Completes (.filterWrite f v) s fun t => OnlyRegsOf s t [(rSF f.toNat 0, putFld v 63 1 0)])
  ∧ (¬ bad → Completes (.filterWrite f v) s fun t => OnlyRegsOf s t [(rSF f.toNat 0, v)])
  ∧ (Completes (.sfcntRead f) s fun t => { t with win := s.win } = { s with bus := s.win! (rSF f.toNat 0x28) } ∧ RegsAre s t [(rSF f.toNat 0x28, 0)])
  ∧ ((∀ k, k < 1024 → s.sfMatches k x = false) → Idles (.frameIngress x) s)
  ∧ (∀ k, k < 1024 → s.sfMatches k x = true → (∀ j, j < k → s.sfMatches j x = false) →
      let pol := s.win! (rSF k 0x10)
      let y := s.filter k
      let drops := Completes (.frameIngress x) s fun t => Counts s t k 48
      let u := fun (z : FilterSt) => s.setFilter k z
      (s.sfRtag k = true → x.rtag = none → drops)
      ∧ (s.sfRtag k = true → ∀ q, x.rtag = some q → recover y q = none → drops)
      ∧ ∀ z, ((s.sfRtag k = false ∧ z = y) ∨ (s.sfRtag k = true ∧ ∃ q, x.rtag = some q ∧ recover y q = some z)) →
        let most := pol.toNat / 2 ^ 17 % 2 ^ 13
        (most ≠ 0 → most < x.payload.length → Completes (.frameIngress x) s fun t => Counts (u z) t k 48)
        ∧ (most = 0 ∨ x.payload.length ≤ most →
          (pol.getLsbD 16 = true → (u z).meter (pol.toNat / 2 ^ 8 % 2 ^ 8) x.payload.length = none → Completes (.frameIngress x) s fun t => Counts (u z) t k 48)
          ∧ ∀ w, ((pol.getLsbD 16 = false ∧ w = u z) ∨ (pol.getLsbD 16 = true ∧ (u z).meter (pol.toNat / 2 ^ 8 % 2 ^ 8) x.payload.length = some w)) →
            let d := w.sfDom k
            let gate := (w.win! (rSF k 8)).toNat
            let flen := (w.win! (rSF k 0x20)).toNat
            let sof := x.sof / 8 * 8
            let phase := (sof - w.cdT0 d) % w.cdLen d
            let now := (w.dom d).latch
            (w.sfBulk k = false → (w.dom d).en = false → Completes (.frameIngress x) s fun t => Counts w t k 48)
            ∧ (w.sfBulk k = false → (w.dom d).en = true → w.sfSeqb k = false → sof < w.cdT0 d → Completes (.frameIngress x) s fun t => Counts w t k 48)
            ∧ (w.sfBulk k = false → (w.dom d).en = true → w.sfSeqb k = false → w.cdT0 d ≤ sof →
                (phase < gate % 2 ^ 30 ∨ gate / 2 ^ 32 % 2 ^ 30 ≤ phase ∨ x.payload.length < flen % 2 ^ 11 + flen / 2 ^ 16 % 2 ^ 11 →
                  Completes (.frameIngress x) s fun t => Counts w t k 48)
                ∧ (gate % 2 ^ 30 ≤ phase → phase < gate / 2 ^ 32 % 2 ^ 30 → flen % 2 ^ 11 + flen / 2 ^ 16 % 2 ^ 11 ≤ x.payload.length → now.toNat ≤ w.openAt d sof →
                  Completes (.frameIngress x) s fun t => Counts (w.placeFrame k (now.truncate 32) x.payload false) t k 0))
            ∧ (w.sfBulk k = true →
                let r := (w.win! (rSF k 0x10)).toNat / 2 ^ 40 % 2 ^ 6
                let esz := 2 ^ (11 + min 4 ((w.win! (rBR r 8)).toNat % 2 ^ 3))
                esz < x.payload.length + 24 → Completes (.frameIngress x) s fun t => Counts w t k 48)))

/-- R356, R357: the egress instant of a domain that is not in a pair: the streams take the newest sealed output version at or before the cycle, then
each port that is not sending starts the first frame of the highest class that can finish before its gate closes; one stream: a stale or missing output is counted, and STALE suppresses it; else its frame is
queued. EGCFG written, EGCNT read. -/
def Sys2Proof.Claims.FramesOut : Prop := ∀ (s : State) (d p : BitVec 3) (e : BitVec 14) (v : BitVec 64),
  let n := d.toNat
  let x := s.dom n
  let due := x.en = true ∧ x.cyc = x.egress ∧ s.cycleAt n x.egress.toNat + s.cdEgoff n ≤ s.dtime
  let m := v &&& 0xFF0FFF
  let src := (s.win! (rEG e.toNat 8)).toNat
  let hdr := (s.win! (rEG e.toNat 0x10)).toNat
  let ok := 46 ≤ src / 2 ^ 32 % 2 ^ 11 ∧ src / 2 ^ 32 % 2 ^ 11 ≤ 1500 ∧ 14 ≤ hdr / 2 ^ 32 % 2 ^ 6 ∧ hdr / 2 ^ 32 % 2 ^ 6 ≤ 22
    ∧ hdr / 2 ^ 6 % 2 ^ 18 * 64 + hdr / 2 ^ 32 % 2 ^ 6 ≤ 0x1000000
  (¬ due → Idles (.egress d) s)
  ∧ (due → s.isPair n = false →
      let u := s.setDom n { x with egress := x.egress + 1 }
      let out := (u.outImage n).getD (0, 0)
      let y := if out.2 = 0 then none else newestBy (fun y => y.st == .sealed && serialLe y.ver (x.egress.truncate 32)) (u.ring out.1 2)
      exec (.egress d) s = .next ((List.range 8).foldl (fun w p => w.sendPort p) ((u.egStreams n).foldl (fun w e => w.egressOne x.egress out.2 y false e) u)))
  -- one stream
  ∧ (∀ (m : Word) (len : Nat) (k : Nat),
      let c := (s.win! (rEG k 0)).toNat
      let src := (s.win! (rEG k 8)).toNat
      let off := src % 2 ^ 24
      let cnt := src / 2 ^ 32 % 2 ^ 11
      (len < off + cnt → ∀ u, OnlyRegsOf s (s.egressOne m len u false k) [(rEG k 0x18, upTo16 (s.win! (rEG k 0x18)) 32)])
      ∧ (off + cnt ≤ len → OnlyRegsOf s (s.egressOne m len none false k) [(rEG k 0x18, upTo16 (s.win! (rEG k 0x18)) 32)])
      ∧ (off + cnt ≤ len → ∀ y, serialLater (m.truncate 32 - BitVec.ofNat 32 (c / 2 ^ 16 % 2 ^ 8)) y.ver = true → c / 2 ^ 11 % 2 = 1 →
          OnlyRegsOf s (s.egressOne m len (some y) false k) [(rEG k 0x18, upTo16 (s.win! (rEG k 0x18)) 32)])
      ∧ (off + cnt ≤ len → ∀ y, serialLater (m.truncate 32 - BitVec.ofNat 32 (c / 2 ^ 16 % 2 ^ 8)) y.ver = false →
          let t := s.egressOne m len (some y) false k
          { t with ports := s.ports } = s
          ∧ ∀ j, (t.port j) = if j = c % 2 ^ 3 then { s.port j with queue := (s.port j).queue ++ [{ stream := k, cls := BitVec.ofNat 3 (c / 2 ^ 3 % 2 ^ 3), bytes := s.buildFrame k (m.toNat % 65536) ((List.range cnt).map fun i => SMap.read 0 y.data (off + i)) }] } else s.port j))
  -- a gate interval
  ∧ (let g := s.gateMask p.toNat
     let z := s.port p.toNat
     let first := fun (f : OutFrame) => ∃ l l', z.queue = l ++ f :: l' ∧ ∀ y, y ∈ l → y.cls ≠ f.cls
     let may := fun (f : OutFrame) => ∀ i l, s.gates p.toNat = some (i, l) → 0 < openFor f.cls.toNat l ∧ Config.portTime p.toNat f.bytes.length ≤ openFor f.cls.toNat l
     let gives := fun (y : Port) (regs : List (Nat × Word)) => Completes (.gclInterval p) s fun t =>
       { t with ports := s.ports, win := s.win } = s ∧ (∀ j, t.port j = if j = p.toNat then y else s.port j) ∧ RegsAre s t regs
     (s.dtime < z.busy ∨ (∀ f, first f → ¬ may f) → gives { z with entry := g.1, mask := g.2 } [])
     ∧ (z.busy ≤ s.dtime → ∀ f, first f → may f → (∀ h, first h → may h → h.cls.toNat ≤ f.cls.toNat) →
         let r := s.win! (rEG f.stream 0x18)
         gives { entry := g.1, mask := g.2, busy := s.dtime + Config.portTime p.toNat f.bytes.length, queue := z.queue.erase f
                 sent := z.sent ++ [{ f with stamp := s.dtime / 8 * 8 }] }
           [(rEG f.stream 0x18, putFld r 0 32 (min (2 ^ 32 - 1) (r.toNat % 2 ^ 32 + 1)))]))
  ∧ (ok → Completes (.egressStreamEnable e v) s fun t => OnlyRegsOf s t [(rEG e.toNat 0, m)])
  ∧ (¬ ok → Completes (.egressStreamEnable e v) s fun t => OnlyRegsOf s t [(rEG e.toNat 0, putFld m 9 1 0)])
  ∧ (Completes (.egcntRead e) s fun t => { t with win := s.win } = { s with bus := s.win! (rEG e.toNat 0x18) } ∧ RegsAre s t [(rEG e.toNat 0x18, 0)])

/-- R346 to R350, R356, R357: frames in and frames out. -/
def Obligations.FramesOfTheTsnPort : Prop :=
  Sys2Proof.Claims.FramesIn ∧ Sys2Proof.Claims.FramesOut

/-- R358, R359: VWOPEN of a window that names no ring or mode 3 fails with RES 6; one that names a ring resolves: it pins the version, is gone, or
stays busy; a deadline that passes with the window busy gives RES 2 or 3. -/
def Obligations.VersionWindows : Prop := ∀ (s : State) (w : BitVec 6),
  let n := w.toNat
  let b := (s.win! (rVW n 0)).toNat
  let c := (s.win! (rVW n 8)).toNat
  let arg := (s.win! (rVW n 0x10)).toNat
  let t : Byte := BitVec.ofNat 8 (b / 2 ^ 56 % 2 ^ 8)
  let base := b / 2 ^ 12 % 2 ^ 44 * 4096
  let mode := c % 4
  let stat := fun (busy res ver : Nat) => [(rVW n 0x20, word (busy + res * 2 + ver * 2 ^ 32))]
  let names := fun (p : Nat) (r : RegionEnt) => s.ownRegion p t base = some r ∧ r.kind = kVERSIONED ∧ r.base = base
  ((∀ p, p < 64 → ∀ r, ¬ names p r) ∨ mode = 3 → Completes (.vwopen w) s fun u => OnlyRegsOf s u (stat 0 6 0))
  ∧ (mode ≠ 3 → ∀ p r, p < 64 → names p r → (∀ q, q < p → ∀ r', ¬ names q r') →
      let a : Word32 := if mode = 2 then (s.cycleOf (c / 4 % 8)).truncate 32 - BitVec.ofNat 32 (arg % 2 ^ 31) else BitVec.ofNat 32 (arg % 2 ^ 32)
      let z : VWin := { ring := s.regionKey r, slot := 0, size := r.len, mode := BitVec.ofNat 2 mode, arg := a
                        deadline := if c / 2 ^ 32 % 2 ^ 32 = 0xFFFFFFFF then none else some (s.dtime + c / 2 ^ 32 % 2 ^ 32), fbk := r.fbk, frec := r.frec }
      let l := s.ring (s.regionKey r) r.depth
      let ends := fun (z : VWin) (regs : List (Nat × Word)) => Completes (.vwopen w) s fun u =>
        { u with vwins := s.vwins, win := s.win } = s ∧ (∀ j, (SMap.read {} u.vwins j : VWin) = if j = n then z else SMap.read {} s.vwins j) ∧ RegsAre s u regs
      (∀ i, resolveV l (BitVec.ofNat 2 mode) a = .hit i → ends { z with slot := i } (stat 0 1 (slotAt l i).ver.toNat))
      ∧ (resolveV l (BitVec.ofNat 2 mode) a = .gone → ends z (stat 0 4 0))
      ∧ (resolveV l (BitVec.ofNat 2 mode) a = .park → ends z (stat 1 0 0)))
  ∧ (let z : VWin := SMap.read {} s.vwins n
     let busy := (s.win! (rVW n 0x20)).getLsbD 0
     (∀ dl, z.deadline = some dl → dl < s.dtime → busy = true → Completes (.vwDeadline w) s fun u => OnlyRegsOf s u (stat 0 (if z.fbk then 2 else 3) 0))
     ∧ (z.deadline = none ∨ busy = false ∨ (∃ dl, z.deadline = some dl ∧ s.dtime ≤ dl) → Idles (.vwDeadline w) s))

/-! ### The pair, links, ports and power (R361 to R365, R397 to R401, R407, R408, R414) -/

/-- R361 to R365: PAIRCTL written: EN = 0 forgets the pair's history, lets go what a resynchronisation holds and clears PAIRST's state bits; RESYNC
asks the partner for one. PAIRST read returns its counts and clears them. A digest, the loss of the partner, a resynchronisation's request, the end of
its copy once the tenants are held and quiet, and its end in each domain. -/
def Obligations.RedundantPair : Prop := ∀ (s : State) (v : BitVec 64) (d : BitVec 3) (u : BitVec 32) (h : BitVec 256),
  let ctl := s.win! rPAIRCTL
  let st := s.win! rPAIRST
  let new := (v &&& 0xFFFF0FFF) ||| (ctl &&& 0x1000)
  let heard := if ctl.getLsbD 10 then s.pair else { s.pair with heard := s.dtime }
  (v.getLsbD 10 = false → Completes (.pairctlEnWrite v) s fun t =>
      { t with win := s.win, parts := s.parts } = { s with pair := {} } ∧ (s.pair.holding = [] → t.parts = s.parts)
      ∧ RegsAre s t [(rPAIRCTL, putFld (v &&& 0xFFFF0FFF) 12 1 0), (rPAIRST, putFld st 0 4 0)])
  ∧ (v.getLsbD 10 = true → v.getLsbD 12 = false → Completes (.pairctlEnWrite v) s fun t =>
      { t with win := s.win } = { s with pair := heard } ∧ RegsAre s t [(rPAIRCTL, new)])
  ∧ (v.getLsbD 10 = true → v.getLsbD 12 = true → Completes (.pairctlEnWrite v) s fun t =>
      { t with win := s.win } = { s with sent := .pairAsk :: s.sent, pair := { heard with holding := s.pairDoms, restart := [] } }
      ∧ RegsAre s t [(rPAIRCTL, putFld new 12 1 1), (rPAIRST, putFld st 3 1 1)])
  ∧ (Completes .pairstRead s fun t => { t with win := s.win } = { s with bus := st } ∧ RegsAre s t [(rPAIRST, putFld (putFld st 16 16 0) 32 32 0)])
  ∧ (let sent := s.pair.unver.contains (d.toNat, u)
     let mine := (s.pair.mine.find? fun g => g.d == d.toNat && g.u == u).map (·.h)
     Completes (.pairDigest d u h) s fun t => { t with win := s.win } = { s with pair := { s.pair with
        theirs := { d := d.toNat, u := u, h := h } :: s.pair.theirs, unver := s.pair.unver.filter (· != (d.toNat, u)), heard := s.dtime
        late := if sent && mine.isSome && mine != some h && !s.pair.late.contains d.toNat then d.toNat :: s.pair.late else s.pair.late } }
      ∧ RegsAre s t [(rPAIRST, putFld st 0 1 1)])
  ∧ (let gone := ctl.getLsbD 10 = true ∧ s.pair.heard + 1000 * (ctl.toNat / 2 ^ 16 % 2 ^ 16) ≤ s.dtime
     (gone → Completes .pairLoss s fun t => OnlyRegsOf s t [(rPAIRST, putFld st 0 2 2)]) ∧ (¬ gone → Idles .pairLoss s))
  ∧ (ctl.getLsbD 10 = true → ctl.getLsbD 11 = true → Completes .resync s fun t =>
      { t with win := s.win } = { s with pair := { s.pair with heard := s.dtime, holding := s.pairDoms, restart := [] } }
      ∧ RegsAre s t [(rPAIRST, putFld (putFld st 0 1 1) 3 1 1), (rPAIRCTL, putFld ctl 12 1 1)])
  ∧ (ctl.getLsbD 10 = true → ctl.getLsbD 11 = false → Completes .resync s fun t =>
      { t with win := s.win } = { s with sent := .pairAsk :: s.sent, pair := { s.pair with holding := s.pairDoms, restart := [] } }
      ∧ RegsAre s t [(rPAIRST, putFld st 3 1 1), (rPAIRCTL, putFld ctl 12 1 1)])
  ∧ (ctl.getLsbD 10 = false → Idles .resync s)
  ∧ (let l := if ctl.getLsbD 11 then s.pair.holding.map (fun n => (n, s.nextCycle n)) else s.pair.restart
     let quiet := ctl.getLsbD 11 = true → ∀ n, n ∈ s.pair.holding → s.pairQuiet n = true
     (st.getLsbD 3 = false ∨ ¬ quiet ∨ l = [] → Idles .resyncCopyEnd s)
     ∧ (st.getLsbD 3 = true → quiet → l ≠ [] → Completes .resyncCopyEnd s fun t =>
          { t with win := s.win } = { s with sent := (if ctl.getLsbD 11 then s.pairCopies l else []) ++ s.sent
                                             pair := { s.pair with restart := l, unver := [], late := [], heard := s.dtime } }
          ∧ RegsAre s t ([(rPAIRST, putFld (putFld st 3 1 0) 0 2 1)] ++ if st.getLsbD 2 then [] else [(rPAIRCTL, putFld ctl 12 1 0)])))
  -- at its restart cycle a domain is held no more
  ∧ (∀ n (c : Word),
      (n ∈ s.pair.holding → (∃ y, y ∈ s.pair.restart ∧ y.1 = n ∧ y.2.toNat ≤ c.toNat) →
        { s.pairRestart n c with parts := s.parts } = { s with pair := { s.pair with holding := s.pair.holding.filter (· != n) } })
      ∧ ((n ∉ s.pair.holding ∨ ∀ y, y ∈ s.pair.restart → y.1 = n → c.toNat < y.2.toNat) → s.pairRestart n c = s))

namespace Sys2Proof.Claims

/-- t is s but that the link of m has the state st at both of its ends, since now, and UCEVT has the bits b at both (R398, R399). -/
def LinkIs (s t : State) (m : LinkEnd) (st : Nat) (retrain fromAct : Bool) (b : Option Nat) : Prop :=
  { t with links := s.links, win := s.win } = s
  ∧ (∀ e : LinkEnd, e ∈ m.both → t.linkState e = st ∧ (t.linkSt e).retrain = retrain ∧ (t.linkSt e).fromAct = fromAct ∧ (t.linkSt e).since = s.dtime
      ∧ (t.linkSt e).count = (s.linkSt e).count ∧ t.win! (e.reg 0x18) = b.elim (s.win! (e.reg 0x18)) fun i => putFld (s.win! (e.reg 0x18)) i 1 1)
  ∧ ∀ a, (∀ e : LinkEnd, e ∈ m.both → a ≠ e.reg 0x10 ∧ a ≠ e.reg 0x18) → t.win! a = s.win! a

/-- t is s but that CMDREJ (bit 0 of UCEVT) is set at both ends (R398, R399). -/
def Rejected (s t : State) (m : LinkEnd) : Prop :=
  OnlyRegsOf s t (m.both.map fun e => (e.reg 0x18, putFld (s.win! (e.reg 0x18)) 0 1 1))

end Sys2Proof.Claims

/-- R397 to R399: PAUSE, RETRAIN and RESUME in the states that allow them, and CMDREJ in the others; a pause done in time leads to PAUSED, or to
TRAINING after a RETRAIN; one not done, a failed training and a link whose flit fails go DOWN, with module 4 the part with it; a training that
ends well sets the width and the spares. A module that does not exist changes nothing. -/
def Sys2Proof.Claims.LinkStates : Prop := ∀ (s : State) (m : LinkEnd) (ok : Bool),
  let st := s.linkState m
  let x := s.linkSt m
  (m.ok = false → Idles (.pause m) s ∧ Idles (.retrain m) s ∧ Idles (.resume m) s ∧ Idles (.pauseDone m) s ∧ Idles (.pauseTimeout m) s
    ∧ Idles (.trainingEnd m ok) s ∧ Idles (.linkDown m) s)
  ∧ (m.ok = true →
      ((st ≠ 0 ∨ m.other = none ∨ s.otherBusy m = true ∨ s.cutsOff m = true) → Completes (.pause m) s fun t => Rejected s t m)
      ∧ (st = 0 → m.other ≠ none → s.otherBusy m = false → s.cutsOff m = false → Completes (.pause m) s fun t => LinkIs s t m 1 false false none)
      ∧ (let refused := ∃ e : LinkEnd, e ∈ m.both ∧ s.endRefuses e = true
         let kept := fun (t : State) => ∀ e : LinkEnd, e ∈ m.both → (t.linkSt e).wid = (s.win! (e.reg 8)).toNat % 4 ∧ (t.linkSt e).umap = s.win! (e.reg 0x28)
         (refused ∨ (st ≠ 0 ∧ st ≠ 2 ∧ st ≠ 4) ∨ (st = 0 ∧ (s.otherBusy m = true ∨ (m.other ≠ none ∧ s.cutsOff m = true))) → Completes (.retrain m) s fun t => Rejected s t m)
         ∧ (¬ refused → st = 0 → s.otherBusy m = false → (m.other = none ∨ s.cutsOff m = false) → Completes (.retrain m) s fun t => LinkIs s t m 1 true true none ∧ kept t)
         ∧ (¬ refused → st = 2 ∨ st = 4 → Completes (.retrain m) s fun t => LinkIs s t m 3 false false none ∧ kept t))
      ∧ (st = 2 → Completes (.resume m) s fun t => LinkIs s t m 0 false false none)
      ∧ (st ≠ 2 → Completes (.resume m) s fun t => Rejected s t m)
      ∧ (st = 1 → s.dtime ≤ x.since + 2000 → Completes (.pauseDone m) s fun t => LinkIs s t m (if x.retrain then 3 else 2) false x.retrain none)
      ∧ (st ≠ 1 ∨ x.since + 2000 < s.dtime → Idles (.pauseDone m) s)
      ∧ (st = 1 → x.since + 2000 ≤ s.dtime → m.other ≠ none → Completes (.pauseTimeout m) s fun t => LinkIs s t m 4 false false (some 2))
      ∧ (st ≠ 1 ∨ s.dtime < x.since + 2000 → Idles (.pauseTimeout m) s)
      ∧ (st = 0 → m.other ≠ none → Completes (.linkDown m) s fun t => LinkIs s t m 4 false false (some 2))
      ∧ (st = 0 → m.other = none → Completes (.linkDown m) s fun t => t.dead = true ∧ t.sent = .internalError :: s.sent
          ∧ LinkIs s { t with dead := s.dead, sent := s.sent } m 4 false false (some 2))
      ∧ (st ≠ 0 → Idles (.linkDown m) s)
      ∧ (let good := ok = true ∧ (∀ e : LinkEnd, e ∈ m.both → (s.linkSt e).wid = x.wid) ∧ s.dtime ≤ x.since + 20000
         (st ≠ 3 → Idles (.trainingEnd m ok) s)
         ∧ (st = 3 → ¬ good → m.other ≠ none → Completes (.trainingEnd m ok) s fun t => LinkIs s t m 4 false false (some 3))
         ∧ (st = 3 → good → Completes (.trainingEnd m ok) s fun t => LinkIs s t m (if x.fromAct then 0 else 2) false false none
            ∧ ∀ e : LinkEnd, e ∈ m.both → (t.win! (e.reg 0x10)).toNat / 2 ^ 4 % 2 ^ 2 = (s.linkSt e).wid % 4
              ∧ (t.win! (e.reg 0x10)).toNat / 2 ^ 6 % 2 ^ 3 = sparesUsed (s.linkSt e).umap (s.linkSt e).wid)))

/-- R399, R400: a retried flit is counted in UCRETRY and in its interval of 1 ms; a new interval counts from zero; an ALERT is raised at the threshold, once,
on a kernel core or on hart 0. UCEVT's bits are cleared by ones written; UCRETRY and UCLERR are cleared by a read. -/
def Sys2Proof.Claims.LinkCounts : Prop := ∀ (s : State) (m : LinkEnd) (v : BitVec 64) (j : BitVec 4),
  let r := s.win! (m.reg 0x20)
  let x := s.linkSt m
  let evt := s.win! (m.reg 0x18)
  let thr := (s.win! (m.reg 8)).toNat / 2 ^ 8 % 2 ^ 8
  let now := s.dtime / 1000000
  let up := (if x.period = now then x.count else 0) + 1
  let lin := fun (n : Nat) (t : State) => { t with links := s.links, win := s.win } = s
    ∧ ∀ e : LinkEnd, e.ok = true → t.linkSt e = if e = m then { x with count := n, period := now } else s.linkSt e
  (m.ok = false → Idles (.flitRetry m) s ∧ Idles (.retryInterval m) s ∧ Idles (.ucevtClear m v) s ∧ Idles (.ucretryRead m) s ∧ Idles (.uclerrRead m j) s)
  ∧ (m.ok = true →
      (up < thr ∨ evt.getLsbD 1 = true → Completes (.flitRetry m) s fun t => lin up t ∧ RegsAre s t [(m.reg 0x20, word (min 0xFFFFFFFF (r.toNat % 2 ^ 32 + 1)))])
      ∧ (x.period = now → Idles (.retryInterval m) s)
      ∧ (x.period ≠ now → 0 < thr ∨ evt.getLsbD 1 = true → Completes (.retryInterval m) s fun t => lin 0 t ∧ RegsAre s t [])
      ∧ (thr ≤ up → evt.getLsbD 1 = false → Completes (.flitRetry m) s fun t =>
          (∀ a, t.win! a = if a = m.reg 0x18 then putFld evt 1 1 1 else if a = m.reg 0x20 then word (min 0xFFFFFFFF (r.toNat % 2 ^ 32 + 1)) else s.win! a)
          ∧ (m.die = 4 → m.u = 4 → lin up { t with harts := s.harts, sent := s.sent } ∧ t.sent = .alert 0 :: s.sent
              ∧ (SMap.read {} t.harts 0 : Hart).irq = (SMap.read {} s.harts 0 : Hart).irq + 1)
          ∧ (m.die.toNat < 4 ∨ m.u.toNat < 4 → lin up { t with ctxs := s.ctxs }
              ∧ ∀ k, t.ctxOf k = if k = mkCid (gathOn (if m.die.toNat < 4 then m.die.toNat else m.u.toNat) ((s.win! (m.reg 8)).toNat / 2 ^ 16 % 2 ^ 4)) 8 0
                then { s.ctxOf k with regs := (s.ctxOf k).regs.wset 2 ((s.ctxOf k).regs.wget 2 + 1) } else s.ctxOf k))
      ∧ (Completes (.ucevtClear m v) s fun t => OnlyRegsOf s t [(m.reg 0x18, evt &&& ~~~v)])
      ∧ (Completes (.ucretryRead m) s fun t => { t with win := s.win } = { s with bus := r } ∧ RegsAre s t [(m.reg 0x20, 0)])
      ∧ (Completes (.uclerrRead m j) s fun t =>
          { t with win := s.win } = { s with bus := s.win! (m.reg (0x100 + 8 * j.toNat)) } ∧ RegsAre s t [(m.reg (0x100 + 8 * j.toNat), 0)]))

/-- R407, R408: a port that loses lanes runs with eight, with four where DEG is set, or goes down; a port in training comes up with its lanes and its
peer; EN written starts the training or takes the port down; retries and corrections are counted, and ENPCNT read clears. -/
def Sys2Proof.Claims.EnrynPorts : Prop := ∀ (s : State) (p : BitVec 2) (n : BitVec 4) (peer : BitVec 8) (v : BitVec 64) (fec : Bool),
  let st := s.win! (rENPST p.toNat)
  let ctl := s.win! (rENPCTL p.toNat)
  let cnt := s.win! (rENPCNT p.toNat)
  let lanes := if 8 ≤ n.toNat then 8 else 4
  let fit := 8 ≤ n.toNat ∨ (4 ≤ n.toNat ∧ ctl.getLsbD 1 = true)
  (st.toNat % 4 ≠ 2 → Idles (.enrynLaneLoss p n) s)
  ∧ (st.toNat % 4 = 2 → fit → Completes (.enrynLaneLoss p n) s fun t => OnlyRegsOf s t [(rENPST p.toNat, putFld st 2 4 lanes)])
  ∧ (st.toNat % 4 = 2 → ¬ fit → exec (.enrynLaneLoss p n) s = .next (s.setWin (rENPST p.toNat) (putFld st 0 6 0)).lostRoutes)
  ∧ (st.toNat % 4 ≠ 1 → Idles (.enrynPortUp p n peer) s)
  ∧ (st.toNat % 4 = 1 → fit → Completes (.enrynPortUp p n peer) s fun t => OnlyRegsOf s t [(rENPST p.toNat, word (2 + lanes * 4 + peer.toNat * 2 ^ 8))])
  ∧ (st.toNat % 4 = 1 → ¬ fit → exec (.enrynPortUp p n peer) s = .next (s.setWin (rENPST p.toNat) (putFld st 0 6 0)).lostRoutes)
  ∧ (v.getLsbD 0 = ctl.getLsbD 0 → Completes (.enrynPortEnable p v) s fun t => OnlyRegsOf s t [(rENPCTL p.toNat, v &&& 3)])
  ∧ (v.getLsbD 0 = true → ctl.getLsbD 0 = false → Completes (.enrynPortEnable p v) s fun t => OnlyRegsOf s t [(rENPCTL p.toNat, v &&& 3), (rENPST p.toNat, putFld st 0 6 1)])
  ∧ (v.getLsbD 0 = false → ctl.getLsbD 0 = true → exec (.enrynPortEnable p v) s = .next ((s.setWin (rENPCTL p.toNat) (v &&& 3)).setWin (rENPST p.toNat) (putFld st 0 6 0)).lostRoutes)
  ∧ (let lo := if fec then 32 else 0
     Completes (.enrynFlitRetry p fec) s fun t => OnlyRegsOf s t [(rENPCNT p.toNat, putFld cnt lo 32 (min 0xFFFFFFFF (cnt.toNat / 2 ^ lo % 2 ^ 32 + 1)))])
  ∧ (Completes (.enpcntRead p) s fun t => { t with win := s.win } = { s with bus := cnt } ∧ RegsAre s t [(rENPCNT p.toNat, 0)])
  -- what losing the routes leaves when nothing is pulled and no message is in flight
  ∧ (s.pulls = [] → (∀ e, e ∈ s.flights → e.2.remote = none ∨ e.2.answer ≠ .pending) → s.lostRoutes = s)

/-- R397 to R400, R407, R408: link states, link counts and Enryn ports. -/
def Obligations.LinksAndPorts : Prop :=
  Sys2Proof.Claims.LinkStates ∧ Sys2Proof.Claims.LinkCounts ∧ Sys2Proof.Claims.EnrynPorts

/-- R414: an envelope asked for waits for the next cycle start of domain 0; ENV = 3 is ignored; with domain 0 not enabled it takes effect at once; at
105 degrees the part moves to the next lower envelope and THROT is set. -/
def Obligations.PowerEnvelopes : Prop := ∀ (s : State) (v : BitVec 64),
  (v.toNat % 4 = 3 → Idles (.pwrenvWrite v) s)
  ∧ (v.toNat % 4 ≠ 3 → Completes (.pwrenvWrite v) s fun t =>
      { t with win := s.win } = { s with envReq := some (BitVec.ofNat 2 (v.toNat % 4)) } ∧ RegsAre s t [(rPWRENV, word (v.toNat % 4))])
  ∧ (s.envReq = none ∨ (s.dom 0).en = true → Idles .envelopeChange s)
  ∧ (∀ e, s.envReq = some e → (s.dom 0).en = false → Completes .envelopeChange s fun t =>
      { t with win := s.win } = { s with envReq := none } ∧ RegsAre s t [(rPWRST, word e.toNat)])
  ∧ (Completes .thermalThrottle s fun t => OnlyRegsOf s t [(rPWRST, word (min 2 ((s.win! rPWRST).toNat % 4 + 1) + 4))])

/-! ### The memory system's own steps (R298, R301 to R316, R385, R386) -/

/-- R302 to R312: a walk that stands first and finds a free walker starts, and asks for what its page needs; a started walk ends with its leaf in the
TLBs of the requesters, or faults each of them, or waits on. A down-move begins with its leaf MOVING and the page out of every TLB, and ends; a granule
that is not resident or has PIN = 1 stays. An up-move runs once a frame is to be had. -/
def Sys2Proof.Claims.WalksAndMoves : Prop := ∀ (s : State) (n : Nat) (g : BitVec 26),
  let mine := fun (w : Walk) => s.walks.filter fun x => x.2.die == w.die
  let begins := fun (w : Walk) => ((mine w).find? fun x => !x.2.started).map (·.1) = some n ∧ ((mine w).filter (·.2.started)).length < 64
  let gone := fun (w : Walk) => State.touchWalk { s with walks := s.walks.filter (·.1 != n) } w.tenant w.va
  let now : State := { s with walks := s.walks.map fun x => if x.1 == n then (x.1, { x.2 with started := true }) else x }
  (s.walk? n = none → Idles (.walk n) s ∧ Idles (.walkEnd n) s)
  ∧ (∀ w, s.walk? n = some w →
      (¬ begins w → Idles (.walk n) s)
      ∧ (begins w → ∀ ea log2 pa e, now.walkTables w.tenant w.va = .leaf ea log2 pa e → exec (.walk n) s = .next now)
      ∧ (begins w → ∀ ea k, now.walkTables w.tenant w.va = .tiered ea k → exec (.walk n) s = .next (now.demandMove k))
      ∧ (begins w → ∀ ea log2 pa, now.walkTables w.tenant w.va = .remote ea log2 pa → exec (.walk n) s = .next (now.addPull w.tenant ea log2 w.va pa true))
      ∧ (w.started = false → Idles (.walkEnd n) s)
      ∧ (w.started = true →
          (∀ ea log2 pa e, s.walkTables w.tenant w.va = .leaf ea log2 pa e →
            exec (.walkEnd n) s = .next (w.reqs.foldl (fun t r => t.walkDone (mkTlb w.tenant w.va log2 pa e w.write) r) ((gone w).markLeaf w.tenant ea pa e w.write)))
          ∧ (∀ d, s.walkTables w.tenant w.va = .bad d → exec (.walkEnd n) s = .next (w.reqs.foldl (fun t r => t.walkFault w.tenant r d) (gone w)).flushPosts)
          ∧ (s.walkTables w.tenant w.va = .poisoned → w.part = none → exec (.walkEnd n) s = .next (gone w))
          ∧ (s.walkTables w.tenant w.va = .poisoned → ∀ p, w.part = some p → exec (.walkEnd n) s = .next ((gone w).partitionReset p 0 0xFFFF))
          ∧ (∀ ea k, s.walkTables w.tenant w.va = .tiered ea k → exec (.walkEnd n) s = .next (s.demandMove k))
          ∧ (∀ ea log2 pa, s.walkTables w.tenant w.va = .remote ea log2 pa → exec (.walkEnd n) s = .next (s.addPull w.tenant ea log2 w.va pa true))
          ∧ (∀ ea, s.walkTables w.tenant w.va = .moving ea → Idles (.walkEnd n) s)))
  -- what a walk asks for, and what a leaf fills
  ∧ (∀ k, (s.moves.any fun m => m.gran == k && m.up && m.demand) = true → s.demandMove k = s)
  ∧ (∀ k, (s.moves.any fun m => m.gran == k && m.up && m.demand) = false → s.demandMove k = { s with moves := s.moves ++ [{ gran := k, up := true, demand := true }] })
  ∧ (∀ (k : Nat) (e : Tlb), let t := s.fillBoth k e
      { t with cores := s.cores, gaths := s.gaths } = s
      ∧ (∀ j, t.coreOf j = if j = k then { s.coreOf k with tlb := fillTlb 64 (s.coreOf k).tlb e } else s.coreOf j)
      ∧ ∀ j, t.gathSt j = if j = k / 16 then { s.gathSt (k / 16) with tlb := fillTlb 2048 (s.gathSt (k / 16)).tlb e } else s.gathSt j)
  -- moves
  ∧ (let k := g.toNat
     let e := s.tierEnt k
     let begun := (s.moves.find? fun m => m.gran == k && !m.up).bind (·.leaf)
     let d : State := { s with moves := dropFirst (fun m => m.gran == k && m.up == false) s.moves }
     let u : State := { s with moves := dropFirst (fun m => m.gran == k && m.up == true) s.moves }
     let waits := s.moves.any fun m => m.gran == k && s.blocked m
     (s.moveTurn k false = false → Idles (.downMove g) s)
     ∧ (s.moveTurn k false = true → begun = none → (s.leafFor k = none ∨ tRes e = false ∨ tPin e = true) → exec (.downMove g) s = .next d)
     ∧ (s.moveTurn k false = true → begun = none → tRes e = true → tPin e = false → ∀ ea va, s.leafFor k = some (ea, va) →
          let t := (s.dropPage (tTenant e) va 16).putEntry ea 4
          exec (.downMove g) s = .next { t with moves := t.moves.map fun m => if m.gran = k ∧ m.up = false ∧ m.leaf = none then { m with leaf := some (ea, s.physRead ea 8) } else m })
     ∧ (∀ ea old, s.moveTurn k false = true → begun = some (ea, old) →
          exec (.downMove g) s = .next (s.endDown k ea old)
          ∧ (d.stashHolds (old % 2 ^ 52 / 65536) = true → exec (.downMove g) s = .next (d.putEntry ea old)))
     ∧ (s.moveTurn k true = false → waits = false → Idles (.upMove g) s)
     ∧ ((s.moveTurn k true = true ∨ waits = true) →
        (tRes e = true → exec (.upMove g) s = .next u)
        ∧ (tRes e = false → s.tierDown = true → exec (.upMove g) s = .next (u.killTenant (tTenant e) cLINK 0 (word k) 0xFFFF true))
        ∧ (tRes e = false → s.tierDown = false →
            (s.upRoom k = .here → exec (.upMove g) s = .next (u.upMove k))
            ∧ (∀ v, s.upRoom k = .after v → exec (.upMove g) s = .next (s.moveFirst v))
            ∧ (s.upRoom k = .never → exec (.upMove g) s = .next (s.stuck k)))))
  -- how a frame comes to hand, and the move that then stands first
  ∧ (∀ t c k b,
      (s.overQuota t c = true → ∀ v, s.ownOldest t = some v → s.roomFor t c k b = .after v)
      ∧ (s.overQuota t c = true → s.ownOldest t = none → s.roomFor t c k b = .never)
      ∧ (s.overQuota t c = false → b = true → s.roomFor t c k b = .here)
      ∧ (s.overQuota t c = false → b = false → ∀ v, s.victim k = some v → s.roomFor t c k b = .after v)
      ∧ (s.overQuota t c = false → b = false → s.victim k = none → s.roomFor t c k b = .never))
  ∧ (∀ v, (s.moves.any fun m => m.gran == v && !m.up) = true → s.moveFirst v = s)
  ∧ (∀ v, (s.moves.any fun m => m.gran == v && !m.up) = false → s.moveFirst v = { s with moves := { gran := v, up := false, demand := true } :: s.moves })

/-- R314, R386: an invalidation drops every matching translation, or cached gate entry, at once and sets BUSY until it is done; while BUSY is 1 a
write changes nothing. With region entries goes what belonged to regions no table lists any more (the model's choice, log entry 64). -/
def Sys2Proof.Claims.Invalidations : Prop := ∀ (s : State) (v : BitVec 64) (d : BitVec 2),
  let st := s.win! rXINVST
  let gst := s.win! (rGINVST d.toNat)
  let size := match v.toNat / 2 ^ 52 % 4 with
    | 0 => 12
    | 1 => 16
    | 2 => 21
    | _ => 30
  let va := v.toNat % 2 ^ 44 * 4096 / 2 ^ size * 2 ^ size
  let hit := fun (e : Tlb) => e.tenant.toNat = v.toNat / 2 ^ 44 % 2 ^ 8 ∧ (v.getLsbD 54 = true ∨ (e.va < va + 2 ^ size ∧ va < e.va + 2 ^ e.log2))
  let keep := fun (e : Tlb) => !decide (hit e)
  let own := fun (t : Byte) => decide (v.getLsbD 8 = true ∨ t.toNat = v.toNat % 2 ^ 8)
  (st.getLsbD 0 = true → Idles (.xinv v) s)
  ∧ (st.getLsbD 0 = false → Completes (.xinv v) s fun t =>
      { t with cores := s.cores, gaths := s.gaths, win := s.win } = s ∧ RegsAre s t [(rXINVST, putFld st 0 1 1)]
      ∧ (∀ k, t.coreOf k = { s.coreOf k with tlb := (s.coreOf k).tlb.filter keep })
      ∧ ∀ k, t.gathSt k = { s.gathSt k with tlb := (s.gathSt k).tlb.filter keep })
  ∧ (Completes .xinvDone s fun t => OnlyRegsOf s t [(rXINVST, putFld st 0 1 0)])
  ∧ (gst.getLsbD 0 = true → Idles (.ginv d v) s)
  ∧ (gst.getLsbD 0 = false → Completes (.ginv d v) s fun t =>
      { t with cores := s.cores, win := s.win } = (if v.getLsbD 9 then s.forget else s) ∧ RegsAre s t [(rGINVST d.toNat, putFld gst 0 1 1)]
      ∧ ∀ k, t.coreOf k = if dieOfG (k / 16) = d.toNat then { s.coreOf k with
            gateR := if v.getLsbD 9 then (s.coreOf k).gateR.filter fun r => !own r.tenant else (s.coreOf k).gateR
            gateC := if v.getLsbD 10 then (s.coreOf k).gateC.filter fun r => !own r.tenant else (s.coreOf k).gateC } else s.coreOf k)
  ∧ (Completes (.ginvDone d) s fun t => OnlyRegsOf s t [(rGINVST d.toNat, putFld gst 0 1 0)])
  -- the versions, writer capabilities and order numbers of regions no table lists any more are forgotten (log entry 64)
  ∧ (let keep := fun (k : Nat) => decide (2 ^ 70 ≤ k) || s.listedKeys.contains k
     s.forget = { s with rings := s.rings.filter fun x => keep x.1, holders := s.holders.filter fun x => keep x.1
                         seqs := s.seqs.filter fun x => (s.regionAt (8 * x.1)).any fun r => r.1.kind == kATOMIC })

/-- R302 to R312, R314, R386: walks, moves of granules and invalidations. -/
def Obligations.TranslationAndInvalidation : Prop :=
  Sys2Proof.Claims.WalksAndMoves ∧ Sys2Proof.Claims.Invalidations

/-- R315, R316, R298, R301: a page of this device is answered, or reported gone; an answer to a pull is placed in a free frame, or waits for one, and its
leaf is made valid; a page gone, a route gone or an answer late by 2 ms terminates the tenant; the background pull takes the next remote page, and DONE
is set when none is left; scrubbing changes nothing, MECNT read clears, and MELAST's VALID is cleared by its write. -/
def Obligations.MigrationAndErrors : Prop := ∀ (s : State) (n : Nat) (dev t : BitVec 8) (pa : BitVec 52) (sz : BitVec 2) (page : List Byte) (ch : BitVec 5),
  let bytes := match sz.toNat with
    | 0 => 2 ^ 12
    | 1 => 2 ^ 16
    | 2 => 2 ^ 21
    | _ => 2 ^ 30
  let here := inLocal pa.toNat = true ∧ inLocal (pa.toNat + bytes - 1) = true
  let ctl := s.win! (rMIGCTL t.toNat)
  let free := fun (x : Nat × Nat × Nat × Nat) => x.2.2.2 % 16 == 6 && !s.pulls.any (fun p => p.2.leaf == x.1)
  let from' := fun (d : Nat) => s.hear d
  (∀ d, ¬ (bit (s.win! rPAIRCTL) 10 = true ∧ fld (s.win! rPAIRCTL) 2 8 = d) → from' d = s)
  ∧ (here → exec (.pullRequest dev pa sz) s = .next { from' dev.toNat with sent := .page dev pa.toNat (some (s.physBytes pa.toNat bytes)) :: s.sent })
  ∧ (¬ here → exec (.pullRequest dev pa sz) s = .next { from' dev.toNat with sent := .page dev pa.toNat none :: s.sent })
  ∧ (s.pulls.find? (·.1 == n) = none → Idles (.pullResponse n page) s ∧ Idles (.pullTimeout n) s)
  ∧ (∀ k p, s.pulls.find? (·.1 == n) = some (k, p) →
      let src := from' (s.srcDev p.tenant)
      let frames := 2 ^ (p.size - 16)
      let room := fun (v : State) => v.roomFor p.tenant frames (2 ^ 26) (v.freeRun p.size).isSome
      let keep := fun (v : State) (got : List Byte) => ({ v with pulls := v.pulls.map fun x => if x.1 = n then (x.1, { x.2 with page := some got }) else x } : State)
      let placed := fun (v : State) (got : List Byte) =>
        (∀ f, room v = .here → v.freeRun p.size = some f → exec (.pullResponse n page) s = .next (v.landPull n p got f))
        ∧ (∀ x, room v = .after x → exec (.pullResponse n page) s = .next ((keep v got).moveFirst x))
        ∧ (room v = .never → exec (.pullResponse n page) s = .next (keep v got))
      (p.page = none → page = [] → exec (.pullResponse n page) s = .next (src.killTenant p.tenant cPULLFAIL 0 (word p.va) 0xFFFF true))
      ∧ (p.page = none → page ≠ [] → placed src page)
      ∧ (∀ got, p.page = some got → placed s got)
      ∧ (∀ (v : State) (got : List Byte) f,
          let u := (v.takeFrames f frames).touchSpan (f * 65536) (2 ^ p.size) true
          let w : State := { u with pulls := u.pulls.filter (·.1 != n), mem := Memory.putBytes u.mem (f * 65536) (got.take (2 ^ p.size)), poison := u.poison.filter fun l => !(decide (f * 1024 ≤ l) && decide (l < f * 1024 + 2 ^ p.size / 64)) }
          v.landPull n p got f = (((w.putEntry p.leaf (3 + f * 65536)).addFrames p.tenant frames true).migrationDone p.tenant).mapCode fun x =>
            { x with code := Memory.putBytes x.code (f * 65536) (got.take (2 ^ p.size)) })
      ∧ ((s.dtime < p.sent + 2000000 ∨ p.page.isSome = true) → Idles (.pullTimeout n) s)
      ∧ (p.sent + 2000000 ≤ s.dtime → p.page = none → exec (.pullTimeout n) s = .next (s.killTenant p.tenant cPULLFAIL 0 (word p.va) 0xFFFF true)))
  ∧ ((ctl.getLsbD 8 = false ∨ 32 ≤ (s.pulls.filter fun x => !x.2.demand).length) → Idles (.backgroundPull t) s)
  ∧ (ctl.getLsbD 8 = true → (s.pulls.filter fun x => !x.2.demand).length < 32 →
      (∀ ea lvl va e, (s.entriesOf t).find? free = some (ea, lvl, va, e) → exec (.backgroundPull t) s = .next (s.addPull t ea (levelLog2 lvl) va (e % 2 ^ 52 / 4096 * 4096) false))
      ∧ ((s.entriesOf t).find? free = none → ((s.entriesOf t).any fun x => x.2.2.2 % 16 == 6) = true → Idles (.backgroundPull t) s)
      ∧ (((s.entriesOf t).any fun x => x.2.2.2 % 16 == 6) = false → Completes (.backgroundPull t) s fun u => OnlyRegsOf s u [(rMIGCTL t.toNat, putFld ctl 9 1 1)]))
  ∧ (∀ ea log2 va src by', (s.pulls.any fun p => p.2.tenant == t && p.2.leaf == ea) = true → s.addPull t ea log2 va src by' = s)
  ∧ (∀ ea log2 va src by', (s.pulls.any fun p => p.2.tenant == t && p.2.leaf == ea) = false →
      let from'' := ctl.toNat % 2 ^ 8
      (s.routeTo from'' = none → s.addPull t ea log2 va src by' = s.killTenant t cPULLFAIL 0 (word (pageDown va log2)) 0xFFFF true)
      ∧ ((s.routeTo from'').isSome = true → s.addPull t ea log2 va src by' = { s with
          pulls := s.pulls ++ [(s.nextId, { tenant := t, va := pageDown va log2, leaf := ea, size := log2, srcPa := src, sent := s.dtime, demand := by' })]
          nextId := s.nextId + 1, sent := .pull (BitVec.ofNat 8 from'') src (2 ^ log2) :: s.sent }))
  ∧ Idles (.scrub ch) s
  ∧ (Completes (.mecntRead ch) s fun u => { u with win := s.win } = { s with bus := s.win! (rMECNT ch.toNat) } ∧ RegsAre s u [(rMECNT ch.toNat, 0)])
  ∧ (Completes (.melastClear ch) s fun u => OnlyRegsOf s u [(rMELAST ch.toNat, putFld (s.win! (rMELAST ch.toNat)) 0 1 0)])

/-! ### Launch queues, stealing, partitions and fault records (R320, R330 to R338, R370 to R390, R403, R405) -/

/-- R379, R380, R405: LQCFG written without EN takes its fields; with EN it is ignored where the queue cannot be enabled, and clears STOP where it
enables it. LQST read clears. A doorbell of the queue's own function does what a poll does, another changes nothing; a poll of a queue that is not
enabled, is stopped or is empty changes nothing; a count above its size stops it; otherwise its next packet is taken when its tenant runs and no launch
of the launch table waits (R321). What the poll reads and is away is brought first (R304). -/
def Sys2Proof.Claims.LaunchQueues : Prop := ∀ (s : State) (q : BitVec 10) (v : BitVec 64) (fn : BitVec 8),
  let n := q.toNat
  let r := rLQ n 0x10
  let old := s.win! r
  let new := (v &&& 0x1FF0F) ||| (old &&& 0x20000)
  let t := s.lqTenant n
  let size := v.toNat % 2 ^ 4
  let unfit := s.lqErr n = 0 ∨ size = 0 ∨ s.queueFits t (s.lqBase n) size = false ∨ s.queueFits t (s.lqErr n) size = false
    ∨ s.queueUsed n t (s.lqBase n) = true ∨ s.queueUsed n t (s.lqErr n) = true
  let widx := s.vaRead t (s.lqBase n) 8
  let ridx := s.vaRead t (s.lqBase n + 8) 8
  let held := (widx + 2 ^ 64 - ridx) % 2 ^ 64
  let open' := old.getLsbD 16 = true ∧ old.getLsbD 17 = false
  let here := s.away t [(s.lqBase n, 16)] = none
  (v.getLsbD 16 = false → Completes (.queueEnable q v) s fun u => OnlyRegsOf s u [(r, new)])
  ∧ (v.getLsbD 16 = true → unfit → Idles (.queueEnable q v) s)
  ∧ (v.getLsbD 16 = true → ¬ unfit → Completes (.queueEnable q v) s fun u => OnlyRegsOf s u [(r, if old.getLsbD 16 then new else putFld new 17 1 0)])
  ∧ (Completes (.lqstRead q) s fun u => { u with win := s.win } = { s with bus := s.win! (rLQ n 0x18) } ∧ RegsAre s u [(rLQ n 0x18, 0)])
  ∧ (old.getLsbD 16 = false ∨ s.lqFunc n ≠ fn → Idles (.vdbell fn q) s)
  ∧ (old.getLsbD 16 = true → s.lqFunc n = fn → exec (.vdbell fn q) s = exec (.queuePoll q) s)
  ∧ (¬ open' → Idles (.queuePoll q) s)
  ∧ (open' → ∀ va, s.away t [(s.lqBase n, 16)] = some va → exec (.queuePoll q) s = .next (s.fetchPage t va))
  ∧ (open' → here → held = 0 → Idles (.queuePoll q) s)
  ∧ (open' → here → held ≠ 0 → held ≤ 2 ^ s.lqLog2 n → (s.runsIn t = none ∨ ∃ p, s.runsIn t = some p ∧ s.slotFirst p = true) → Idles (.queuePoll q) s)
  ∧ (open' → here → held ≠ 0 → held ≤ 2 ^ s.lqLog2 n → ∀ p, s.runsIn t = some p → s.slotFirst p = false →
      let parts := s.packetParts t (s.lqEntry n ridx)
      (∀ va, s.away t parts = some va → exec (.queuePoll q) s = .next (s.fetchPage t va))
      ∧ (s.away t parts = none →
        let u := (s.takePacket t p n (ridx % 2 ^ 32) (s.lqEntry n ridx)).vaWrite t (s.lqBase n + 8) 8 (ridx + 1)
        Completes (.queuePoll q) s fun w => OnlyRegsOf u w [(rLQ n 0x18, putFld (u.win! (rLQ n 0x18)) 0 32 (min 0xFFFFFFFF ((u.win! (rLQ n 0x18)).toNat % 2 ^ 32 + 1)))]))
  ∧ (open' → here → 2 ^ s.lqLog2 n < held →
      let u := s.setWin r (putFld old 17 1 1)
      let w := u.errPacket t (u.lqErr n) (some n) (handlerBytes cMALFORMED 9 0 (word (s.lqEntry n ridx)) (word held) s.dtime 0xFFFF t (u.lqFunc n).toNat (ridx % 2 ^ 32) 0)
      exec (.queuePoll q) s = .next (w.raiseVint (w.lqFunc n) 2))
  -- a packet: malformed, or a launch
  ∧ (∀ p i pkt, let pk := parsePacket ((s.vaBytes t pkt 64).getD [])
      (∀ sub, s.malformed t p (some n) pk = some sub → s.takePacket t p n i pkt = s.reportLaunch (s.untaken t (.queue n i) pkt) cMALFORMED sub 0 0xFFFF)
      ∧ (s.malformed t p (some n) pk = none → s.takePacket t p n i pkt = s.startLaunch t p (.queue n i) (word pkt) pk none (s.graphAt t pk) []))

/-- R330 to R333: what a FREE context takes, in order; a steal request answered by its victims in turn, and 256 clocks of waiting after the last; the
averaging of two neighbours' deques when its interval has passed; the end of a complete launch. -/
def Sys2Proof.Claims.TakingWork : Prop := ∀ (s : State) (cid : BitVec 12) (g : BitVec 6) (c : BitVec 4) (n : Nat),
  let me := cid.toNat
  let k := coreKey me
  let a := g.toNat * 16 + c.toNat
  let x := s.coreOf a
  let idle := fun (x : Core) => { x with steal := none, stealAt := s.clk + 256 }
  (s.freeFor me = none → Idles (.taskStart cid) s)
  ∧ (∀ p t, s.freeFor me = some (p, t) →
      (∀ q, s.detTask me t = some q → exec (.taskStart cid) s = .next (s.startTask me q))
      ∧ (s.detTask me t = none →
        (∀ rest q, (s.coreOf k).deque = rest ++ [q] → exec (.taskStart cid) s = .next ((s.setCore k { s.coreOf k with deque := rest }).startTask me q))
        ∧ ((s.coreOf k).deque = [] →
          let rings := s.launches.find? fun l => l.tenant == t && l.part == p && !l.packet.det && !l.ring.isEmpty
          (∀ l q rest, rings = some l → l.ring = q :: rest → exec (.taskStart cid) s = .next ((s.setLaunch { l with ring := rest }).startTask me q))
          ∧ (rings = none → (s.coreOf k).steal = none → (s.coreOf k).stealAt ≤ s.clk → Completes (.taskStart cid) s fun u =>
              OnlyCore s u k { s.coreOf k with steal := some { slot := BitVec.ofNat 2 me, victims := s.victims p k } })
          ∧ (rings = none → (s.coreOf k).steal ≠ none ∨ s.clk < (s.coreOf k).stealAt → Idles (.taskStart cid) s))))
  ∧ (x.steal = none → Idles (.stealRequest g c) s)
  ∧ (∀ st, x.steal = some st →
      let me := mkCid g.toNat c.toNat st.slot.toNat
      (st.victims = [] → Completes (.stealRequest g c) s fun u => OnlyCore s u a (idle x))
      ∧ ∀ v rest, st.victims = v :: rest →
        let y := s.coreOf v
        let gives := y.deque ≠ [] ∧ ∀ k, k ∈ coreCids v → (s.ctxOf k).sched.stealOff = false
        (¬ gives → rest = [] → Completes (.stealRequest g c) s fun u => OnlyCore s u a (idle x))
        ∧ (¬ gives → rest ≠ [] → Completes (.stealRequest g c) s fun u => OnlyCore s u a { x with steal := some { st with victims := rest } })
        ∧ (gives → ∀ q more, y.deque = q :: more →
            let u := s.setCore v { y with deque := more }
            let u := u.setCore a { u.coreOf a with steal := none }
            exec (.stealRequest g c) s = .next (if (u.freeFor me).isSome then u.startTask me q else u.queueTask a q)))
  ∧ (x.steal ≠ none ∨ s.clk < x.stealAt ∨ (∀ k, k ∈ coreCids a → s.freeFor k = none) → Idles (.stealRoundWait g c) s)
  ∧ (x.steal = none → x.stealAt ≤ s.clk → ∀ k, ((coreCids a).find? fun k => (s.freeFor k).isSome) = some k → exec (.stealRoundWait g c) s = .next (s.takeWork k))
  -- load averaging
  ∧ (let lavg := (s.win! rLAVG).toNat % 2 ^ 16
     let i := g.toNat
     let y := s.gathSt i
     let due := lavg ≠ 0 ∧ y.lavgAt + 1000 * lavg ≤ s.dtime
     (¬ due ∨ s.partOf i = none → Idles (.loadAverage g) s)
     ∧ (due → ∀ p, s.partOf i = some p → (∀ h, s.pbase p ≤ h → h < s.pbase p + s.plen p → s.queuedIn i < s.queuedIn (gathAt h) + 3) → s.pbase p ≤ hpOf i → hpOf i < s.pbase p + s.plen p →
        Completes (.loadAverage g) s fun u => OnlyGath s u i { y with lavgAt := s.dtime }))
  -- the end of a launch
  ∧ (s.launch? n = none → Idles (.launchComplete n) s)
  ∧ (∀ l, s.launch? n = some l → (s.isComplete l = false → Idles (.launchComplete n) s) ∧ (s.isComplete l = true → exec (.launchComplete n) s = .next (s.completeLaunch l)))

/-- R330 to R333, R379, R380, R405: launch queues, and what a FREE context takes. -/
def Obligations.LaunchesAndTakes : Prop :=
  Sys2Proof.Claims.LaunchQueues ∧ Sys2Proof.Claims.TakingWork

/-- R320, R337, R338: PREQ written makes a request pending; PCFG is ignored while a tenant runs in the partition; a slot that keeps its tenant keeps its
state. A slice that has run out asks for the next tenant. A request stops issue once nothing is in flight, and is carried out once the commands
have drained: the tenants change, or the partition takes its new place where that is possible. PEND alone clears. A tenant that is STUCK is skipped;
once the outgoing tenant's granules are back the next candidate comes in, or with none left the outgoing tenant goes on. -/
def Sys2Proof.Claims.PartitionRequests : Prop := ∀ (s : State) (p : BitVec 6) (v : BitVec 64) (g : BitVec 6) (c : BitVec 3),
  let n := p.toNat
  let x := s.part n
  let req := s.win! (rPREQ n)
  let asks := fun (w : Word) (i : Instr) => Completes i s fun t =>
    { t with parts := s.parts, win := s.win } = s ∧ (∀ j, t.part j = if j = n then { x with reqAt := s.dtime, resized := false } else s.part j)
    ∧ RegsAre s t [(rPREQ n, putFld (w &&& 0x7F3F03FF) 63 1 1)]
  let stops := fun (i : Instr) => Completes i s fun t => { t with parts := s.parts } = s ∧ ∀ j, t.part j = if j = n then { x with held := true, stopped := true } else s.part j
  asks (putFld v 8 1 1) (.switchRequest p v)
  ∧ asks (putFld v 9 1 1) (.resizeRequest p v)
  ∧ (∀ t, s.running n = some t → Idles (.pcfgWrite p v) s)
  ∧ (s.running n = none → (s.pvalid n = true ∨ v.getLsbD 63 = false) → Completes (.pcfgWrite p v) s fun t => OnlyRegsOf s t [(rPCFG n, v &&& 0x8000000000007F3F)])
  ∧ (s.running n = none → s.pvalid n = false → v.getLsbD 63 = true → Completes (.pcfgWrite p v) s fun t =>
      OnlyRegsOf s t [(rPCFG n, v &&& 0x8000000000007F3F), (rPSTAT n, putFld (s.win! (rPSTAT n)) 0 9 0x100)])
  ∧ (let r := rSLOTMAP g.toNat c.toNat
     (∀ k, k < 4 → (s.setWin r (v &&& 0xFFFFFFFFF)).slotTenant (mkCid g.toNat c.toNat k) = s.slotTenant (mkCid g.toNat c.toNat k)) →
       Completes (.slotmapWrite g c v) s fun t => OnlyRegsOf s t [(r, v &&& 0xFFFFFFFFF)])
  ∧ (s.running n = none → Idles (.sliceExpiry p) s)
  ∧ (∀ t, s.running n = some t →
      let len := (s.win! (rTSLICE t.toNat)).toNat % 2 ^ 32
      (len = 0 ∨ s.pending n = true ∨ x.swIn ≠ none ∨ s.dtime < x.runAt + len ∨ s.candidates n t = [] → Idles (.sliceExpiry p) s)
      ∧ (len ≠ 0 → s.pending n = false → x.swIn = none → x.runAt + len ≤ s.dtime → ∀ u l, s.candidates n t = u :: l → asks (word (u.toNat + 0x100)) (.sliceExpiry p)))
  ∧ (x.swIn = none →
      (s.reqSt n = .waits → Idles (.tenantSwitch p) s) ∧ (s.reqSt n = .stops → stops (.tenantSwitch p))
      ∧ (s.reqSt n = .ready → (req.getLsbD 9 = true ∧ x.resized = false ∨ req.getLsbD 8 = false) → Idles (.tenantSwitch p) s)
      ∧ (s.reqSt n = .ready → (req.getLsbD 9 = false ∨ x.resized = true) → req.getLsbD 8 = true →
          let u := (s.setWin (rPSTAT n) (putFld (s.win! (rPSTAT n)) 32 32 (min 0xFFFFFFFF ((s.dtime - x.reqAt) / 1000)))).setWin (rPREQ n) (putFld req 63 1 0)
          exec (.tenantSwitch p) s = .next (u.switch n (s.running n) (BitVec.ofNat 8 (req.toNat % 2 ^ 8)))))
  ∧ (∀ t, x.swIn = some t → x.restoring = false →
      ((s.win! (rTSTAT t.toNat)).getLsbD 62 = false → Idles (.tenantSwitch p) s)
      ∧ ((s.win! (rTSTAT t.toNat)).getLsbD 62 = true → Completes (.tenantSwitch p) s fun u => u = s.skipStuck n t
          ∧ u.part n = { x with swIn := x.swOut.or (some t), recIn := x.recOut, recOut := x.recIn, skipped := t :: x.skipped, restoring := true }))
  ∧ (∀ t, x.swIn = some t → x.restoring = true →
      let u := s.unqueue x.recIn
      let cores := (u.gathsOf n).flatMap gathCores
      let next := (u.candidates n (x.swOut.getD (x.skipped.headD 0))).find? fun y => !x.skipped.contains y && some y != x.swOut
      let out := (cores.foldl (fun u k => u.swapCore k none x.swOut) u).setPart n { x with swIn := none, swOut := none, recOut := [], restoring := false, skipped := [], runAt := u.dtime }
      (s.restored n = false → Idles (.tenantSwitch p) s)
      ∧ (s.restored n = true → ∀ y, next = some y →
          exec (.tenantSwitch p) s = .next (State.switchIn ((cores.foldl (fun u k => u.swapCore k none (some y)) u).setPart n { x with recOut := x.recIn }) n y))
      ∧ (s.restored n = true → next = none → ∀ o, x.swOut = some o → exec (.tenantSwitch p) s = .next (out.resumeTenant n o))
      ∧ (s.restored n = true → next = none → x.swOut = none → exec (.tenantSwitch p) s = .next out))
  ∧ (s.reqSt n = .waits → Idles (.partitionResize p) s)
  ∧ (s.reqSt n = .stops → stops (.partitionResize p))
  ∧ (s.reqSt n = .ready → (req.getLsbD 9 = false ∨ x.resized = true) → Idles (.partitionResize p) s)
  ∧ (s.reqSt n = .ready → req.getLsbD 9 = true → x.resized = false →
      let nb := req.toNat / 2 ^ 16 % 2 ^ 6
      let nl := req.toNat / 2 ^ 24 % 2 ^ 7
      let u := s.setWin (rPREQ n) (putFld req 63 1 (if req.getLsbD 8 then 1 else 0))
      let w := if u.resizeOk n nb nl then u.resize n nb nl else u
      let y := w.part n
      (req.getLsbD 8 = true → exec (.partitionResize p) s = .next (w.setPart n { y with resized := true }))
      ∧ (req.getLsbD 8 = false → exec (.partitionResize p) s = .next (w.setPart n { y with resized := false, held := false, stopped := false })))

/-- R370 to R374, R377, R390, R403: a write of KRESUME for a context without a pending record changes nothing; RETRY resumes the context at its
FPC with its repeat index; ABORT terminates its graph and KILL its tenant; a kernel core reset starts both of its contexts; a function's reset
unbinds it; ones written to VINT clear its causes. -/
def Sys2Proof.Claims.FaultRecords : Prop := ∀ (s : State) (cid : BitVec 12) (g : BitVec 6) (fn : BitVec 8) (v : BitVec 64),
  let k := cid.toNat
  let c := s.ctxOf k
  let bit' := (s.win! (rKFPEND (k / 64))).getLsbD (k % 64)
  let cleared := putFld (s.win! (rKFPEND (k / 64))) (k % 64) 1 0
  let u := s.setWin (rKFPEND (k / 64)) cleared
  (bit' = false → Idles (.kresumeRetry cid) s ∧ Idles (.kresumeAbort cid) s ∧ Idles (.kresumeKill cid) s)
  ∧ (bit' = true → c.sched.susp = none → Completes (.kresumeRetry cid) s (fun t => t = u) ∧ Completes (.kresumeAbort cid) s (fun t => t = u) ∧ Completes (.kresumeKill cid) s fun t => t = u)
  ∧ (bit' = true → ∀ r, c.sched.susp = some r →
      (Completes (.kresumeRetry cid) s fun t => { t with ctxs := s.ctxs, win := s.win } = s ∧ RegsAre s t [(rKFPEND (k / 64), cleared)]
        ∧ CtxIs s t k { c with regs := { c.regs with pc := r.fpc, ri := BitVec.ofNat 6 r.repi.toNat, rep := none }, sched := { c.sched with susp := none, readyAt := s.clk } })
      ∧ (∀ n l, s.launchOf k = some n → s.launch? n = some l → exec (.kresumeAbort cid) s = .next (u.killLaunch l r.code 0 r.fval k))
      ∧ (s.launchOf k = none ∨ (∃ n, s.launchOf k = some n ∧ s.launch? n = none) → exec (.kresumeAbort cid) s = .next (u.dropRecord k))
      ∧ (isKernel k = true → exec (.kresumeKill cid) s = .next (u.dropRecord k))
      ∧ (isKernel k = false → exec (.kresumeKill cid) s = .next (u.killTenant (u.tenantOf k) r.code 0 r.fval k true)))
  ∧ exec (.kernelCoreReset g) s = .next ((s.startKernel (mkCid g.toNat 8 0)).startKernel (mkCid g.toNat 8 1))
  ∧ (let x : VFun := SMap.read {} s.vfs fn.toNat
     Completes (.vintClear fn v) s fun t => { t with vfs := s.vfs } = s ∧ ∀ j, (SMap.read {} t.vfs j : VFun) = if j = fn.toNat then { x with vint := x.vint &&& ~~~v } else SMap.read {} s.vfs j)
  ∧ (fn = 0 ∨ 128 < fn.toNat → Idles (.functionLevelReset fn) s)
  ∧ (fn ≠ 0 → fn.toNat ≤ 128 → (∀ q, q < 1024 → s.lqFunc q ≠ fn) → (∀ l, l ∈ s.launches → ∀ q i, l.src = .queue q i → q < 1024) →
      Completes (.functionLevelReset fn) s fun t => { t with vfs := s.vfs } = s ∧ ∀ j, (SMap.read {} t.vfs j : VFun) = if j = fn.toNat then {} else SMap.read {} s.vfs j)

/-- R320, R337, R338, R370 to R374, R377, R390, R403: partition requests, suspended contexts and their release. -/
def Obligations.PartitionsAndFaultRecords : Prop :=
  Sys2Proof.Claims.PartitionRequests ∧ Sys2Proof.Claims.FaultRecords

/-! ### Start-up, accesses from outside, and the loader (R97, R98, R280, R375, R389, R394, R403, R404, R409 to R413, R452) -/

namespace Sys2Proof.Claims

/-- t is s with MEAS, SVN, SRC and STAGE = 5 of a running image, the micro-kernel copied, every hart started, and both contexts of every
kernel core at their entries. -/
def RunsImage (s t : State) (img : List Byte) (src : Nat) : Prop :=
  let klen := natAt img 12 4
  let h := digestBytes (sha256 (img.take (64 + klen + natAt img 16 4)))
  { t with win := s.win, firmware := s.firmware, mem := s.mem, harts := s.harts, ctxs := s.ctxs } = s
  ∧ RegsAre s t [(rMEAS 0, word (natAt h 0 8)), (rMEAS 1, word (natAt h 8 8)), (rMEAS 2, word (natAt h 16 8)), (rMEAS 3, word (natAt h 24 8)), (rBOOTST, putFld (putFld (putFld (s.win! rBOOTST) 32 32 (natAt img 8 4)) 8 2 src) 0 4 5)]
  ∧ t.firmware = img
  ∧ t.mem = Memory.putBytes s.mem (Config.kernelPage % 2 ^ 27 * 4096) ((img.drop 64).take klen)
  ∧ (∀ i, i < 16 → (SMap.read {} t.harts i : Hart) = { (SMap.read {} s.harts i : Hart) with run := true })
  ∧ ∀ c, t.ctxOf c = if c / 64 < 64 ∧ c % 64 / 4 = 8 ∧ c % 4 < 2 then
        { regs := { pc := word (Config.kernelPage % 2 ^ 27 * 4096 + 4 * (Config.kernelEntry (c % 4)).toNat) }, sched := { spine := .priv, code := t.mem, codeAt := s.clk, readyAt := s.clk } }
      else s.ctxOf c

end Sys2Proof.Claims

open Sys2Proof.Claims

/-- R410 to R413: a reset restores every reset value; an image that passes every check runs (where the micro-kernel stands is log entry 3's), and
one that does not leaves STAGE 3 with its reason in LASTERR. In recovery wait an image of the host or a partner is checked in the same way, with
LASTERR 5 or 6; in any other stage it is ignored. A running package sends its own image on a port that is up. -/
def Obligations.StartUp : Prop := ∀ (s : State) (len : BitVec 24) (img : List Byte) (p : BitVec 2),
  let r : State := { State.reset with agenda := s.agenda, flash := s.flash, svnMin := s.svnMin }
  let waits := fun (u t : State) (e : Nat) => OnlyRegsOf u t [(rBOOTST, putFld (putFld (u.win! rBOOTST) 4 4 e) 0 4 3)]
  let host := Memory.getBytes s.mem 0x10000000000 len.toNat
  let stage := (s.win! rBOOTST).toNat % 16
  (s.flash.length < 64 → Completes .powerOnReset s fun t => waits r t 1)
  ∧ (64 ≤ s.flash.length → r.imageError s.flash ≠ 0 → Completes .powerOnReset s fun t => waits r t (r.imageError s.flash))
  ∧ (64 ≤ s.flash.length → r.imageError s.flash = 0 → Completes .powerOnReset s fun t => RunsImage r t s.flash 0)
  ∧ (stage ≠ 3 → Idles (.rcvgo len) s ∧ Idles (.partnerImage img) s)
  ∧ (stage = 3 → s.imageError host = 0 → Completes (.rcvgo len) s fun t => RunsImage s t host 1)
  ∧ (stage = 3 → s.imageError host ≠ 0 → Completes (.rcvgo len) s fun t => waits s t 5)
  ∧ (stage = 3 → s.imageError img = 0 → Completes (.partnerImage img) s fun t => RunsImage s t img 2)
  ∧ (stage = 3 → s.imageError img ≠ 0 → Completes (.partnerImage img) s fun t => waits s t 6)
  ∧ (stage = 5 → s.enUp p.toNat = true → Completes (.recoveryImageRequest p) s fun t => t = { s with sent := .image p.toNat s.firmware :: s.sent })
  ∧ (stage ≠ 5 ∨ s.enUp p.toNat = false → Idles (.recoveryImageRequest p) s)

/-- R375, R389, R403, R404: what a host access through a function's BAR2 does. The physical function reaches the image SRAM while STAGE is 3, and
otherwise reads zero and writes nothing. A virtual function reaches what its tenant may load or store, and nothing else: an access that is refused
completes as an Unsupported Request (no data) and writes nothing. A poisoned read has no data. -/
def Sys2Proof.Claims.HostAccesses : Prop := ∀ (s : State) (fn : BitVec 8) (off : BitVec 36) (sz : BitVec 2) (v : BitVec 64),
  let n := 2 ^ sz.toNat
  let f := fn.toNat
  let x : VFun := SMap.read {} s.vfs f
  let sram := (s.win! rBOOTST).toNat % 16 = 3 ∧ off.toNat + n ≤ 0x1000000
  let load : Instr := .hostAccess fn off sz none
  let store : Instr := .hostAccess fn off sz (some v)
  let Returns := fun (u : State) (d : Option Word) => Completes load s fun t => { t with vfs := u.vfs } = u ∧ ∀ j, (SMap.read {} t.vfs j : VFun) = if j = f then { (SMap.read {} u.vfs j : VFun) with data := d } else SMap.read {} u.vfs j
  (off.toNat % n ≠ 0 → Idles load s ∧ Idles store s)
  ∧ (off.toNat % n = 0 → f = 0 → sram →
      let pa := 0x10000000000 + off.toNat
      let u := s.touch pa .io none false
      (s.isPoisoned pa n = true → Returns u none) ∧ (s.isPoisoned pa n = false → Returns u (some (word (s.physRead pa n))))
      ∧ exec store s = .next ((s.touch pa .io none true).physWrite pa n v.toNat))
  ∧ (off.toNat % n = 0 → f = 0 → ¬ sram → Returns s (some 0) ∧ Idles store s)
  ∧ (off.toNat % n = 0 → f ≠ 0 →
      let refused := Returns s none ∧ Completes store s fun t => { t with vfs := s.vfs } = s
      (x.tenant = none → refused)
      ∧ ∀ t, x.tenant = some t →
        let va := x.vwin.toNat + off.toNat
        -- what the gate lets through lies wholly in a region of the tenant, or of a service it names, with the right the access needs
        (∀ wr r, s.hostRegion t va n wr = some r →
          r.base ≤ va ∧ va + n ≤ r.base + r.len ∧ rightsOk (s.capTable t) r va n (if wr then .store else .load) = true
          ∧ ((r.ocls = 0 ∧ r.tenant = t) ∨ (r.ocls = 1 ∧ namesService (s.capTable t) r.svc 0 = true)))
        ∧ (s.hostRegion t va n false = none → Returns s none)
        ∧ (s.hostRegion t va n true = none → Completes store s fun u => { u with vfs := s.vfs } = s)
        ∧ (∀ r ea k base e, s.hostRegion t va n false = some r → s.walkTables t va = .leaf ea k base e →
            let pa := base + va % 2 ^ k
            let u := (s.markLeaf t ea base e false).touch pa .io none false
            (u.isPoisoned pa n = true → Returns u none)
            ∧ (u.isPoisoned pa n = false → r.kind ≠ kVERSIONED → Returns u (some (word (u.physRead pa n))))
            ∧ (u.isPoisoned pa n = false → r.kind = kVERSIONED → Returns u (some (word (ringRead (u.ring (u.regionKey r) r.depth) (va - r.base) n)))))
        ∧ (∀ r ea k base e, s.hostRegion t va n true = some r → s.walkTables t va = .leaf ea k base e →
            let pa := base + va % 2 ^ k
            exec store s = .next (((s.markLeaf t ea base e true).touch pa .io none true).physWrite pa n v.toNat)))

/-- R32, R158, R280, R359, R375, R394: what a hart's access does. One of a hart that is not started, and a fence, change nothing; a misaligned
access and one outside the map change nothing but that the hart's last fault is forgotten, as every access forgets it. A window the hart's mode does not
reach, and an access of 1 or 2 bytes to a register, fault GATE. A load gives the value (of a VERSIONED region, of its newest sealed version), an
AMO the old value while it writes the new one; a store faults where the region under it refuses it, an AMO outside ATOMIC memory too. A load-reserved of an
ATOMIC word holds its reservation; a store-conditional succeeds only on the word it holds. A poisoned read interrupts the hart. -/
def Sys2Proof.Claims.HartAccesses : Prop := ∀ (s : State) (h : BitVec 4) (op : HartOp) (pa : BitVec 52) (sz : BitVec 2) (v : BitVec 64),
  let n := 2 ^ sz.toNat
  let a := pa.toNat
  let started := (SMap.read {} s.harts h.toNat : Hart).run = true ∧ op ≠ .fence
  let legal := a % n = 0 ∧ inMap a n = true
  let x : Hart := { (SMap.read {} s.harts h.toNat : Hart) with fault := 0 }
  let w : State := { s with harts := SMap.write {} s.harts h.toNat x }
  let i : Instr := .hartAccess h op pa sz v
  let HartIs := fun (u t : State) (y : Hart) => { t with harts := u.harts } = u ∧ ∀ j, (SMap.read {} t.harts j : Hart) = if j = h.toNat then y else SMap.read {} u.harts j
  let faults := fun (c : Byte) => Completes i s fun t => HartIs w t { x with fault := c }
  let reads := fun (u : State) (d : Word) => Completes i s fun t => HartIs u t { (SMap.read {} u.harts h.toNat : Hart) with val := d }
  let alarms := fun (u : State) => Completes i s fun t => HartIs u t { (SMap.read {} u.harts h.toNat : Hart) with irq := (SMap.read {} u.harts h.toNat : Hart).irq + 1 }
  let m := 2 ^ (8 * n)
  (¬ started → Idles i s)
  ∧ (started → ¬ legal → exec i s = .next w)
  ∧ (started → legal → inDevice a = true →
      let aperture := 0x20009000000 ≤ a ∧ a < 0x2000D000000
      let reach := windowFor x.mode a = true ∧ (4 ≤ n ∨ aperture)
      ((∀ d o, winAt a = .die d o → (windowFor x.mode a = true ↔ x.mode = .m)) ∧ (∀ o, winAt a = .security o → (windowFor x.mode a = true ↔ x.mode = .m)) ∧ (∀ o, winAt a = .io o → (windowFor x.mode a = true ↔ x.mode ≠ .u)))
      ∧ (¬ reach → faults cGATE)
      ∧ (reach → op = .load → w.windowBad a n = false → reads (w.devRead a n).2 (w.devRead a n).1)
      ∧ (reach → op = .load → w.windowBad a n = true → alarms (w.devRead a n).2)
      ∧ (reach → op = .store → 4 ≤ n → ∀ t, w.devWrite a n v (x.mode == .m) = some t → exec i s = .next t)
      ∧ (reach → op = .store → 4 ≤ n → w.devWrite a n v (x.mode == .m) = none → exec i s = .next w)
      ∧ (reach → op = .store → n < 4 → faults cGATE)
      ∧ (reach → op ≠ .load → op ≠ .store → faults cGATE))
  ∧ (started → legal → inDevice a = false →
      let ur := w.touch a .cpc none false
      let uw := w.touch a .cpc none true
      let bad := w.isPoisoned a n = true
      let seen := match w.regionAt a with
        | some (r, off) => if r.kind = kVERSIONED then ringRead (w.ring (w.regionKey r) r.depth) off n else w.physRead a n
        | none => w.physRead a n
      let old := uw.physRead a n
      let amo := fun (new : Nat) => reads (uw.physWrite a n new) (word old)
      let lt := fun (p q : Nat) => BitVec.slt (BitVec.ofNat (8 * n) p) (BitVec.ofNat (8 * n) q)
      let isAmo := op ≠ .load ∧ op ≠ .lr ∧ op ≠ .store ∧ op ≠ .sc
      let held := fun (r : RegionEnt) => w.holder (w.regionKey r) = .service
      (op = .load → (bad → alarms ur) ∧ (¬ bad → reads ur (word seen)))
      ∧ (op = .lr → ¬ bad → Completes i s fun t => HartIs ur t { (SMap.read {} ur.harts h.toNat : Hart) with val := word seen, resv := if w.atomicWord (a / 8) then some (a / 8) else none })
      ∧ (op = .lr → bad → Completes i s fun t => HartIs ur t { (SMap.read {} ur.harts h.toNat : Hart) with irq := (SMap.read {} ur.harts h.toNat : Hart).irq + 1, resv := none })
      ∧ (op = .store → (w.regionAt a = none → exec i s = .next (uw.physWrite a n v.toNat))
          ∧ ∀ r off, w.regionAt a = some (r, off) →
            (r.kind = kOWNED → held r → exec i s = .next (uw.physWrite a n v.toNat))
            ∧ ((r.kind = kOWNED ∨ r.kind = kVERSIONED) → ¬ held r → faults cWCAP)
            ∧ (r.kind ≠ kOWNED → ¬ (r.kind = kVERSIONED ∧ ¬ held r) → faults cGATE))
      ∧ (op = .sc → x.resv = some (a / 8) → Completes i s fun t => HartIs (uw.physWrite a n v.toNat) t { x with val := 0, resv := none })
      ∧ (op = .sc → x.resv ≠ some (a / 8) → Completes i s fun t => HartIs w t { x with val := 1, resv := none })
      ∧ (isAmo → (∀ r off, w.regionAt a = some (r, off) → r.kind ≠ kATOMIC → faults cGATE)
          ∧ ((∀ r off, w.regionAt a = some (r, off) → r.kind = kATOMIC) →
            (bad → alarms uw)
            ∧ (¬ bad → (op = .amoSwap → amo (v.toNat % m)) ∧ (op = .amoAdd → amo ((old + v.toNat) % m))
              ∧ (op = .amoAnd → amo (old &&& v.toNat % m)) ∧ (op = .amoOr → amo (old ||| v.toNat % m)) ∧ (op = .amoXor → amo (old ^^^ v.toNat % m))
              ∧ (op = .amoMin → amo (if lt (v.toNat % m) old then v.toNat % m else old)) ∧ (op = .amoMax → amo (if lt old (v.toNat % m) then v.toNat % m else old))
              ∧ (op = .amoMinu → amo (min old (v.toNat % m))) ∧ (op = .amoMaxu → amo (max old (v.toNat % m)))))))

/-- R2, R280, R359, R375, R389, R394, R403, R404: what an access of the host and of a hart does. -/
def Obligations.OutsideAccesses : Prop :=
  Sys2Proof.Claims.HostAccesses ∧ Sys2Proof.Claims.HartAccesses

/-- R452: a write of 8 bytes, or of 4, to a control window. Outside every register nothing changes. A write-one-to-clear register loses the bits
written as ones; any other takes the bits it lets be written from the half that is written, and keeps the rest. A register whose write acts takes the
whole written value, zeros in place of an unwritten half where it is write-only. A write that stalls changes nothing. -/
def Obligations.RegisterWrites : Prop := ∀ (s : State) (pa : BitVec 52) (wide : Bool) (v : BitVec 64),
  let n := if wide then 8 else 4
  let a := regHome (pa.toNat / 8 * 8)
  let half : Word := if wide then BitVec.allOnes 64 else if pa.toNat % 8 = 4 then 0xFFFFFFFF00000000 else 0xFFFFFFFF
  let w := (if pa.toNat % 8 = 4 then v <<< 32 else v) &&& half
  let old := s.win! a
  let i : Instr := .registerWrite pa wide v
  (pa.toNat % n ≠ 0 → Idles i s)
  ∧ (pa.toNat % n = 0 →
      (regInfo a = none → Idles i s)
      ∧ ∀ e, regInfo a = some e →
        let mask := BitVec.ofNat 64 e.mask
        (e.w1c ≠ 0 → Completes i s fun t => OnlyRegsOf s t [(a, old &&& ~~~(w &&& BitVec.ofNat 64 e.w1c))])
        ∧ (e.w1c = 0 → e.wo = false → e.act = .plain → Completes i s fun t => OnlyRegsOf s t [(a, (old &&& ~~~mask) ||| (((old &&& ~~~half) ||| w) &&& mask))])
        ∧ (e.w1c = 0 → let val := if e.wo then w else (old &&& ~~~half) ||| w
            (∀ t, s.regAct e.act a val e.mask false = some t → exec i s = .next t) ∧ (s.regAct e.act a val e.mask false = none → Idles i s)))

/-- R97: the loader's checks in order, with the status of the first that fails (status 5 never comes: R96 admits no DRIFT but 0 and 32); whatever fails, nothing is mapped and no memory changes. A folio
that passes is relocated at its base, its sections are mapped (text to execute and load, the pool to load, data and bss to load and store),
and its image is added. Where the base lies is log entry 24's. R98: an image is unmapped only when no graph of it runs or is queued, and a request waits
until then; its regions, capabilities and cached gate entries go with it. -/
def Obligations.FolioLoading : Prop := ∀ (s : State) (t : BitVec 8) (bs : List Byte) (n : Nat),
  let i : Instr := .folioLoad t bs
  let fails := fun (st : Nat) => Completes i s fun u => ∃ d, u = { s with draw := d, bus := word st }
  let c := sectionBytes bs 5
  let h := headerOk bs = true
  let g := tableOk bs = true
  let o := colophonOk bs = true
  let digest := shaBytes (coveredBytes bs) = (c.drop 16).take 32
  let isa := natAt c 4 1 ≤ 1
  let served := ∀ k, k < natAt c 8 2 → namesService (s.capTable t) (BitVec.ofNat 32 (natAt c (64 + 4 * k) 4)) 0 = true
  let ok := h ∧ g ∧ o ∧ digest ∧ isa ∧ served
  let sec := fun k => sectionAt bs k
  let part := s.homePart t
  let base := s.pickBase t part ((sec 3).loff + (sec 3).msize) (imagePages bs)
  let raw : Linking := { text := sectionBytes bs 0, pool := sectionBytes bs 1, data := sectionBytes bs 2 }
  let linked := fun b => relocateAll bs b ((sec 4).fsize / 16) none (sectionBytes bs 4) raw
  let maps := fun (b : Nat) (l : Linking) => ((((base.2.mapSection t part b (sec 0).msize l.text true 5).bind fun u =>
      u.mapSection t part (b + (sec 1).loff) (sec 1).msize l.pool false 1).bind fun u =>
      u.mapSection t part (b + (sec 2).loff) (sec 2).msize l.data false 11).bind fun u =>
      u.mapSection t part (b + (sec 3).loff) (sec 3).msize [] false 11)
  (¬ h → fails 1) ∧ (h → ¬ g → fails 2) ∧ (h → g → ¬ o → fails 9) ∧ (h → g → o → ¬ digest → fails 3) ∧ (h → g → o → digest → ¬ isa → fails 4)
  ∧ (h → g → o → digest → isa → ¬ served → fails 6)
  ∧ (ok → base.1 = none → fails 7)
  ∧ (ok → ∀ b, base.1 = some b →
      (maps b raw = none → fails 7)
      ∧ (maps b raw ≠ none → linked b = none → fails 8)
      ∧ ∀ l, maps b raw ≠ none → linked b = some l → (maps b l = none → fails 7)
        ∧ ∀ u, maps b l = some u → Completes i s fun w => { w with images := u.images, nextId := u.nextId, bus := u.bus } = u ∧ w.bus = 0 ∧ w.nextId = u.nextId + 1
            ∧ ∃ im, w.images = u.images ++ [im] ∧ im.tenant = t ∧ im.base = b ∧ im.id = u.nextId ∧ im.text = (sec 0).msize ∧ im.poolAt = b + (sec 1).loff ∧ im.nrec = (sec 1).msize / 32)
  ∧ ((∀ im, im ∈ s.images → im.id ≠ n) → Idles (.imageUnmap n) s)
  ∧ (∀ im, s.images.find? (·.id == n) = some im →
      let busy := (∃ l, l ∈ s.launches ∧ l.image = n) ∨ s.imageQueued im = true
      (busy → n ∉ s.unmaps → Completes (.imageUnmap n) s fun w => w = { s with unmaps := s.unmaps ++ [n] })
      ∧ (busy → n ∈ s.unmaps → Idles (.imageUnmap n) s)
      ∧ (¬ busy → Completes (.imageUnmap n) s fun w => w.images = s.images.filter (·.id != n)
          ∧ ∀ k kc, (k, kc) ∈ w.cores → (∀ r, r ∈ kc.gateR → ¬ (r.tenant = im.tenant ∧ r.ocls = 0 ∧ ∃ x, x ∈ im.parts ∧ im.base + x.1 = r.base))
            ∧ ∀ e, e ∈ kc.gateC → ¬ (e.tenant = im.tenant ∧ e.typ = 2 ∧ ∃ x, x ∈ im.parts ∧ im.base + x.1 = e.w8.toNat)))
/-! ### Reset, decoding, and the step (R18, R41 to R45, R58, R75, R76, R301, R320, R334, R361, R399, R409) -/

/-- R18, R301, R320, R349, R361, R399, R409: the reset values the register tables give. Every context is FREE, nothing is in memory (whose canonical form
it so has), and STAGE is 0. -/
def Obligations.ResetValues : Prop :=
  (∀ c, let x := State.reset.ctxOf c
    x.ctl = { vdeadl := 0xFFFFFFFF, bmask := 1, budget := x.ctl.budget } ∧ x.sched.task = none ∧ x.sched.spine = .free ∧ x.inbox = [] ∧ x.regs.rep = none)
  ∧ (∀ k, (State.reset.coreOf k).mxidle = 256)
  ∧ State.reset.dtime = 0 ∧ State.reset.mem = [] ∧ Memory.wf State.reset.mem = true
  ∧ (∀ a, winAt a = .none → State.reset.win! a = 0)
  ∧ (∀ g, g < 64 → State.reset.win! (rPCFG g) = 0 ∧ State.reset.win! (rPSTAT g) = 0)
  ∧ (∀ ch, ch < 32 → State.reset.win! (rSCRUB ch) = 24)
  ∧ (∀ t, t < 256 → State.reset.win! (rRESTHR t) = 192)
  ∧ State.reset.win! rLAVG = 20 ∧ State.reset.win! rPAIRCTL = 0x3E80000 ∧ State.reset.win! rBOOTST = 0 ∧ State.reset.win! rPWRST = 0 ∧ State.reset.win! rPAIRST = 0 ∧ State.reset.win! rPTPST = 0

/-- R58 to R74: words written out from their formats stand for the instructions they name, one for every family. -/
def Obligations.WordsDecodeRight : Prop :=
  decode 0x00000000 = .instr .illegal
  ∧ decode 0b000001_00011_00100_00101_00000000000 = .instr (.add 3 4 5)
  ∧ decode 0b000010_00011_00100_00101_00000000010 = .instr (.slt 3 4 5)
  ∧ decode 0b001000_00011_00100_1111111111111111 = .instr (.addi 3 4 0xFFFF)
  ∧ decode 0b001110_00011_100000000000000000001 = .instr (.lui 3 0x100001)
  ∧ decode 0b010000_00011_00100_000_1111111111110 = .instr (.beq 3 4 0x1FFE)
  ∧ decode 0b010010_11111111111111111111111110 = .instr (.jal 0x3FFFFFE)
  ∧ decode 0b100000_00011_00100_00101_010_10_1_00000 = .instr (.vadd 3 4 5 2 2 1)
  ∧ decode 0xA0108003 = .instr (.mxq 4 0 1 3)
  ∧ decode 0xA5120007 = .instr (.cpq 2 4 2 0 7)
  ∧ decode 0xA9B38005 = .instr (.trq 12 3 1 5)
  ∧ decode 0xAC890002 = .instr (.waitc 4 9 2)
  ∧ decode 0xACA00101 = .instr (.engst 5 1)
  ∧ decode 0xAC063A00 = .instr (.rnginit 6 7)
  ∧ decode 0xAD000300 = .instr (.rngnext 8)
  ∧ decode 0x9288200A = .instr (.vqblk 20 8 4)
  ∧ decode 0x9184000B = .instr (.vqmx 12 4 0)
  ∧ decode 0b111111_00000_000_0000_001000001111111 = .rejected .fixedBits

/-- R45 to R76: every instruction with a word, within its operand limits, decodes from its word; a word that decodes is the word of the instruction it
decodes to, and that one is within its operand limits. So no two instructions share a word. -/
def Obligations.DecodeAndEncodeAgree : Prop :=
  (∀ i : Instr, i.wellFormed = true → encode i ≠ 0 → decode (encode i) = .instr i)
  ∧ (∀ (w : Word32) (i : Instr), decode w = .instr i → encode i = w ∧ i.wellFormed = true)

/-- R44, R45, R58: a word of a major opcode the table does not assign traps ILLEGAL, with the word as its value, as every word of major opcode 0
does; so does every other word that does not decode. -/
def Obligations.WordsThatDoNotDecodeTrap : Prop := ∀ (s : State) (w : Word32),
  let m := w.toNat / 2 ^ 26
  (m = 0 ∨ m = 6 ∨ m = 7 ∨ (0x15 ≤ m ∧ m ≤ 0x17) ∨ m = 0x1E ∨ m = 0x1F ∨ (0x30 ≤ m ∧ m ≤ 0x3D) → Traps (decodeStep w) s 1 (w.zeroExtend 64))
  ∧ ((∀ i, decode w ≠ .instr i) → Traps (decodeStep w) s 1 (w.zeroExtend 64))

/-- R41, R43, R334: with the agenda's head a turn of a context that may issue and has its core's issue of this clock, a step executes the instruction that
its next word decodes to, or the ILLEGAL trap where it decodes to none. Where the context fetches for itself, and the fetch passes the gate and the
translation, the word is the one a line of the instruction cache holds, else the four little-endian bytes at its PC (of a VERSIONED region, in the newest
version sealed when the task started); where it is attached, the one at the head of its drift buffer. Around it stand begin, which ends what the context
waited for, and finishIssue, which charges BUDGET or leaves a parked word to be executed again. The turn of a context that has not its core's issue
changes nothing. An event at the head runs as the step it is. A part that must be reset takes no step but a reset. -/
def Obligations.StepRunsTheDecodedWord : Prop := ∀ (s : State) (rest : List Turn) (cid : Nat) (i : Instr),
  let v : State := { s with agenda := rest }
  let u : State := { s with agenda := rest, cur := cid }
  let a := u.ia.toNat
  let mayIssue := s.stuck! = false ∧ v.wins cid = true ∧ u.runnable cid = true ∧ u.me.regs.rep = none
    ∧ (u.me.sched.wait = .none ∨ ∃ y, u.me.sched.wait = .again y ∧ u.walking cid = false)
  let runs := fun (w : Word32) (i : Instr) => ∃ t, exec i (u.begin w) = .next t ∧ step s = .next (u.finishIssue t)
  (s.agenda = .issue cid :: rest → mayIssue → u.isAttached cid = false → a < 2 ^ 56 → a % 4 = 0 →
    ∀ r pa, u.judge cid a 4 .fetch = .ok r → (isKernel cid = true → pa = a) → (isKernel cid = false → u.tlbLookup (coreKey cid) (u.tenantOf cid) a false = some pa) → u.isPoisoned pa 4 = false →
      ∀ w : Word32,
      (∀ x, u.codeLine cid a = some x → w = BitVec.ofNat 32 (natAt x.data (a % 64) 4)) →
      (u.codeLine cid a = none → r.kind = kVERSIONED → isKernel cid = false → w = BitVec.ofNat 32 (u.codeMem cid pa r a 4)) →
      (u.codeLine cid a = none → r.kind ≠ kVERSIONED ∨ isKernel cid = true →
        let b := fun k => Memory.byte u.me.sched.code (pa + k)
        w = b 3 ++ b 2 ++ b 1 ++ b 0) →
      (decode w = .instr i → runs w i) ∧ ((∀ j, decode w ≠ .instr j) → runs w (.reservedEncoding w)))
  ∧ (s.agenda = .issue cid :: rest → mayIssue → u.isAttached cid = true →
      ∀ d l, u.me.sched.drift = d :: l → d.addr = u.ia →
        (decode d.word = .instr i → runs d.word i) ∧ ((∀ j, decode d.word ≠ .instr j) → runs d.word (.reservedEncoding d.word)))
  ∧ (s.agenda = .issue cid :: rest → s.stuck! = false → u.me.sched.wait = .none → v.wins cid = false → step s = .next v)
  ∧ (s.agenda = .event i :: rest → s.stuck! = false → encode i = 0 → (∀ w, i ≠ .reservedEncoding w) → i ≠ .illegal → (∀ d, i ≠ .mxovfRead d) → (∀ d c, i ≠ .wpRead d c) → (∀ d, i ≠ .prioWrite d)
      → (∀ d, i ≠ .htabWrite d) → (∀ d, i ≠ .mxidleWrite d) → step s = exec i { s with agenda := rest })
  ∧ (s.agenda = .event .powerOnReset :: rest → step s = exec .powerOnReset { s with agenda := rest })
  ∧ (s.stuck! = true → s.agenda.head? ≠ some (.event .powerOnReset) → step s = .fault .mustBeReset)

/-- Every instruction, on every state, answers a next state: no operand and no data ends a run. A step answers a next state too, unless the part must be
reset (R398, R409). -/
def Obligations.NothingEndsARun : Prop :=
  (∀ (i : Instr) (s : State), ∃ t, exec i s = .next t)
  ∧ (∀ s : State, s.stuck! = false → ∃ t, step s = .next t)

/-- R32, R156: what is written to memory reads back, little-endian; every other byte reads as before; the canonical form of the memory stays. -/
def Obligations.MemoryReadsBack : Prop := ∀ (s : State) (pa n v : Nat), n < 64 → (∀ j, j < n → s.stashAt (pa + j) = none) →
  let t := s.physWrite pa n v
  t.physRead pa n = v % 2 ^ (8 * n)
  ∧ (∀ a, s.stashAt a = none → a < pa ∨ pa + n ≤ a → t.physByte a = s.physByte a)
  ∧ (Memory.wf s.mem = true → Memory.wf t.mem = true)

/-- R32, R156: every step, whatever the state, keeps the memory in its canonical form. Reset memory has that form (ResetValues: it lists nothing). -/
def Obligations.EveryStepKeepsMemoryCanonical : Prop := ∀ s t : State, Memory.wf s.mem = true → step s = .next t → Memory.wf t.mem = true

/-- R411: no step, POWER_ON_RESET among them, lowers SVNMIN. -/
def Obligations.NoStepLowersSvnmin : Prop := ∀ s t : State, step s = .next t → s.svnMin ≤ t.svnMin
/-! ### Words and steps with the state they complete in (R54 to R57, R141, R155, R302 to R314, R346, R347, R356, R357, R386) -/

/-- R54 to R57, R141, R155, R346, R347, R356, R357: NOP, REP, DETACH, and the steps of the TSN port: EGRESS, GCL_INTERVAL, FRAME_INGRESS,
FILTER_WRITE, EGRESS_STREAM_ENABLE, SFCNT_READ and EGCNT_READ: each answers a next state, on conditions on the state and its operands alone, and
what that state holds. -/
def Obligations.WordsAndFramesComplete : Prop := ∀ (s : State) (c : BitVec 6) (m q : BitVec 3) (f : BitVec 10) (d p : BitVec 3) (e : BitVec 14) (v : BitVec 64) (x : Frame),
  let r := s.me.regs
  -- NOP: the next word
  (r.rep = none → ∃ t, exec .nop s = .next t ∧ OnlyRegs s t { r with pc := r.pc + 4 })
  -- REP before a word it may govern: its repeats run from RI on, or with RI at the count both words are passed
  ∧ (∀ w, s.fetchAt s.cur (r.pc + 4) = .word w → repOk w { count := c, mask := m, stride := q } = true →
      ∃ t, exec (.rep c m q) s = .next t
        ∧ OnlyRegs s t (if r.ri.toNat < c.toNat + 1 then { r with rep := some { count := c, mask := m, stride := q } } else { r with ri := 0, pc := r.pc + 8 }))
  -- DETACH: an attached context becomes PRIVATE with its straggler bit set and an empty drift buffer; in PRIVATE or FREE it has no effect
  ∧ (coreNo s.cur < 8 → s.me.sched.spine = .attached → ∃ t, exec .detach s = .next t ∧ { t with ctxs := s.ctxs, gaths := s.gaths } = s
      ∧ t.me.sched.spine = .priv ∧ t.me.sched.drift = [] ∧ t.me.regs = r.advance ∧ t.me.ctl = s.me.ctl
      ∧ (strm t (gathOf s.cur) (slotNo s.cur)).strag.getLsbD (coreNo s.cur) = true)
  ∧ (coreNo s.cur < 8 → s.me.sched.spine = .priv ∨ s.me.sched.spine = .free → ∃ t, exec .detach s = .next t ∧ OnlyRegs s t r.advance)
  -- EGRESS, at its instant: alone, or as no pair
  ∧ (let n := d.toNat
     let dom := s.dom n
     dom.en = true → dom.cyc = dom.egress → s.cycleAt n dom.egress.toNat + s.cdEgoff n ≤ s.dtime →
     s.isPair n = false ∨ ((s.win! rPAIRST).getLsbD 2 = false ∧ ((s.win! rPAIRCTL).getLsbD 10 = false ∨ (s.win! rPAIRST).getLsbD 1 = true)) →
     ∃ t, exec (.egress d) s = .next t ∧ { t with doms := s.doms, ports := s.ports, win := s.win } = s ∧ DomIs s t n { dom with egress := dom.egress + 1 })
  -- GCL_INTERVAL, of a port whose gates are all open: a frame that waits alone is sent, with the time it starts to 8 ns
  ∧ (let z := s.port p.toNat
     s.gates p.toNat = none → z.busy ≤ s.dtime → ∀ y, z.queue = [y] →
     ∃ t, exec (.gclInterval p) s = .next t ∧ { t with ports := s.ports, win := s.win } = s
       ∧ (∀ j, t.port j = if j = p.toNat then { entry := 0, mask := 0xFF, busy := s.dtime + Config.portTime p.toNat y.bytes.length, queue := [], sent := z.sent ++ [{ y with stamp := s.dtime / 8 * 8 }] }
          else s.port j)
       ∧ RegsAre s t [(rEG y.stream 0x18, putFld (s.win! (rEG y.stream 0x18)) 0 32 (min (2 ^ 32 - 1) ((s.win! (rEG y.stream 0x18)).toNat % 2 ^ 32 + 1)))])
  -- FRAME_INGRESS: the first filter that matches, without R-TAG, size limit or meter, of an image stream whose frame comes in its window
  ∧ (∀ k, k < 1024 → s.sfMatches k x = true → (∀ j, j < k → s.sfMatches j x = false) → s.sfRtag k = false → s.sfBulk k = false → s.sfSeqb k = false →
     let pol := (s.win! (rSF k 0x10)).toNat
     let gate := (s.win! (rSF k 8)).toNat
     let len := (s.win! (rSF k 0x20)).toNat
     let n := s.sfDom k
     let sof := x.sof / 8 * 8
     let phase := (sof - s.cdT0 n) % s.cdLen n
     pol / 2 ^ 17 % 2 ^ 13 = 0 → pol / 2 ^ 16 % 2 = 0 → (s.dom n).en = true → s.cdT0 n ≤ sof → gate % 2 ^ 30 ≤ phase → phase < gate / 2 ^ 32 % 2 ^ 30 →
     len % 2 ^ 11 + len / 2 ^ 16 % 2 ^ 11 ≤ x.payload.length → (s.dom n).latch.toNat ≤ s.openAt n sof →
     ∃ t, exec (.frameIngress x) s = .next t ∧ Counts ((s.setFilter k (s.filter k)).placeFrame k ((s.dom n).latch.truncate 32) x.payload false) t k 0)
  -- a frame no filter matches is ignored
  ∧ ((∀ k, k < 1024 → s.sfMatches k x = false) → ∃ t, exec (.frameIngress x) s = .next t ∧ t = s)
  -- the registers of the filters and of the egress streams
  ∧ (let pol := s.win! (rSF f.toNat 0x10)
     let dst := (s.win! (rSF f.toNat 0x18)).toNat
     let len := (s.win! (rSF f.toNat 0x20)).toNat
     let image := s.imgLen (pol.toNat / 2 ^ 32 % 2 ^ 3)
     let good := pol.toNat / 2 ^ 35 % 4 ≠ 3 ∧ 8 ≤ dst / 2 ^ 24 % 2 ^ 24 ∧ dst / 2 ^ 24 % 2 ^ 24 % 4 = 0 ∧ 8 ≤ dst % 2 ^ 24 ∧ len % 2 ^ 11 ≤ 1499
       ∧ 1 ≤ len / 2 ^ 16 % 2 ^ 11 ∧ len / 2 ^ 16 % 2 ^ 11 ≤ 1500 ∧ dst % 2 ^ 24 + len / 2 ^ 16 % 2 ^ 11 ≤ image ∧ dst / 2 ^ 24 % 2 ^ 24 + 4 ≤ image
       ∧ ((s.win! (rSF f.toNat 8)).getLsbD 62 = true → v.getLsbD 61 = true)
     (good → ∃ t, exec (.filterWrite f v) s = .next t ∧ OnlyRegsOf s t [(rSF f.toNat 0, v)])
     ∧ (¬ good → ∃ t, exec (.filterWrite f v) s = .next t ∧ OnlyRegsOf s t [(rSF f.toNat 0, putFld v 63 1 0)]))
  ∧ (let src := (s.win! (rEG e.toNat 8)).toNat
     let hdr := (s.win! (rEG e.toNat 0x10)).toNat
     let good := 46 ≤ src / 2 ^ 32 % 2 ^ 11 ∧ src / 2 ^ 32 % 2 ^ 11 ≤ 1500 ∧ 14 ≤ hdr / 2 ^ 32 % 2 ^ 6 ∧ hdr / 2 ^ 32 % 2 ^ 6 ≤ 22
       ∧ hdr / 2 ^ 6 % 2 ^ 18 * 64 + hdr / 2 ^ 32 % 2 ^ 6 ≤ 0x1000000
     (good → ∃ t, exec (.egressStreamEnable e v) s = .next t ∧ OnlyRegsOf s t [(rEG e.toNat 0, v &&& 0xFF0FFF)])
     ∧ (¬ good → ∃ t, exec (.egressStreamEnable e v) s = .next t ∧ OnlyRegsOf s t [(rEG e.toNat 0, putFld (v &&& 0xFF0FFF) 9 1 0)]))
  ∧ (∃ t, exec (.sfcntRead f) s = .next t ∧ { t with win := s.win } = { s with bus := s.win! (rSF f.toNat 0x28) } ∧ RegsAre s t [(rSF f.toNat 0x28, 0)])
  ∧ (∃ t, exec (.egcntRead e) s = .next t ∧ { t with win := s.win } = { s with bus := s.win! (rEG e.toNat 0x18) } ∧ RegsAre s t [(rEG e.toNat 0x18, 0)])

/-- R302 to R314, R386: WALK, WALK_END, DOWN_MOVE, UP_MOVE, XINV, XINV_DONE, GINV and GINV_DONE: each answers a next state, on conditions on the state
and its operands alone, and what that state holds: a walk that started; the translation it found, in the TLBs of each core that asked; a granule whose
move began, and one whose move ended, with the frame it gave back or took; an invalidation, and its end. -/
def Obligations.WalksMovesAndInvalidationsComplete : Prop := ∀ (s : State) (n : Nat) (g : BitVec 26) (d : BitVec 2) (v : BitVec 64),
  (∀ w ea log2 pa e, s.walk? n = some w → s.walkTables w.tenant w.va = .leaf ea log2 pa e →
      ((∀ x, x ∈ s.walks → x.2.die = w.die → x.2.started = true ∨ x.1 = n) → ((s.walks.filter fun x => x.2.die == w.die).filter (·.2.started)).length < 64 → w.started = false →
        ∃ t, exec (.walk n) s = .next t ∧ t = { s with walks := s.walks.map fun x => if x.1 = n then (x.1, { x.2 with started := true }) else x })
      ∧ (w.started = true → (∀ q, q ∈ w.reqs → q.core ≠ none) →
        ∃ t, exec (.walkEnd n) s = .next t ∧ t.walks = s.walks.filter (·.1 != n)
          ∧ ∀ q k, q ∈ w.reqs → q.core = some k → (t.coreOf k).tlb.head? = some (mkTlb w.tenant w.va log2 pa e w.write)))
  ∧ (let k := g.toNat
     let e := s.tierEnt k
     let begun := (s.moves.find? fun m => m.gran == k && !m.up).bind (·.leaf)
     let uncounted := ∀ x, x ∈ s.parts → k ∉ x.2.recIn
     (s.moveTurn k false = true → begun = none → tRes e = true → tPin e = false → ∀ ea va, s.leafFor k = some (ea, va) →
        ∃ t, exec (.downMove g) s = .next t
          ∧ t.moves = s.moves.map fun m => if m.gran = k ∧ m.up = false ∧ m.leaf = none then { m with leaf := some (ea, s.physRead ea 8) } else m)
     ∧ (∀ ea old, s.moveTurn k false = true → begun = some (ea, old) → s.stashHolds (old % 2 ^ 52 / 65536) = false → uncounted → s.ffcnt + 1 < 2 ^ 23 →
        ∃ t, exec (.downMove g) s = .next t ∧ t.moves = dropFirst (fun m => m.gran == k && m.up == false) s.moves ∧ t.ffcnt = s.ffcnt + 1)
     ∧ (s.moveTurn k true = true → tRes e = false → s.tierDown = false → s.overQuota (tTenant e) 1 = false → s.ffcnt ≠ 0 → uncounted →
        (s.leafOf (tTenant e) fun y => y % 16 == 2 && y / 2 ^ 32 % 2 ^ 26 == k) ≠ none →
        ∃ t, exec (.upMove g) s = .next t ∧ t.moves = dropFirst (fun m => m.gran == k && m.up == true) s.moves ∧ t.ffcnt = s.ffcnt - 1))
  ∧ (let st := s.win! rXINVST
     let size := match v.toNat / 2 ^ 52 % 4 with
       | 0 => 12
       | 1 => 16
       | 2 => 21
       | _ => 30
     let va := v.toNat % 2 ^ 44 * 4096 / 2 ^ size * 2 ^ size
     let keep := fun (e : Tlb) => !decide (e.tenant.toNat = v.toNat / 2 ^ 44 % 2 ^ 8 ∧ (v.getLsbD 54 = true ∨ (e.va < va + 2 ^ size ∧ va < e.va + 2 ^ e.log2)))
     (st.getLsbD 0 = false → ∃ t, exec (.xinv v) s = .next t ∧ { t with cores := s.cores, gaths := s.gaths, win := s.win } = s ∧ RegsAre s t [(rXINVST, putFld st 0 1 1)]
        ∧ (∀ k, t.coreOf k = { s.coreOf k with tlb := (s.coreOf k).tlb.filter keep }) ∧ ∀ k, t.gathSt k = { s.gathSt k with tlb := (s.gathSt k).tlb.filter keep })
     ∧ ∃ t, exec .xinvDone s = .next t ∧ OnlyRegsOf s t [(rXINVST, putFld st 0 1 0)])
  ∧ (let st := s.win! (rGINVST d.toNat)
     let own := fun (t : Byte) => decide (v.getLsbD 8 = true ∨ t.toNat = v.toNat % 2 ^ 8)
     (st.getLsbD 0 = false → ∃ t, exec (.ginv d v) s = .next t ∧ { t with cores := s.cores, win := s.win } = (if v.getLsbD 9 then s.forget else s) ∧ RegsAre s t [(rGINVST d.toNat, putFld st 0 1 1)]
        ∧ ∀ k, t.coreOf k = if dieOfG (k / 16) = d.toNat then { s.coreOf k with
            gateR := if v.getLsbD 9 then (s.coreOf k).gateR.filter fun r => !own r.tenant else (s.coreOf k).gateR
            gateC := if v.getLsbD 10 then (s.coreOf k).gateC.filter fun r => !own r.tenant else (s.coreOf k).gateC } else s.coreOf k)
     ∧ ∃ t, exec (.ginvDone d) s = .next t ∧ OnlyRegsOf s t [(rGINVST d.toNat, putFld st 0 1 0)])

end Statements
end

