-- ==== Sys2Proof/Laws/Maps.lean ====
section
/-! SUPPORT. Sparse maps and memory: what a write leaves, what a read gives, and the canonical form. -/

set_option Elab.async false

namespace Sys2Proof.Machine

/-! ### Reading what was written -/

theorem SMap.read_insert {α : Type} (d : α) (m : SMap α) (i j : Nat) (x : α) :
    SMap.read d (SMap.insert m i x) j = if j = i then x else SMap.read d m j := by
  induction m with
  | nil => simp only [SMap.insert, SMap.read]
  | cons e m ih =>
    obtain ⟨k, v⟩ := e
    simp only [SMap.insert]
    split
    · simp only [SMap.read]
    · split
      · next h => subst h; simp only [SMap.read]; split <;> simp_all
      · next h => simp only [SMap.read, ih]; split <;> simp_all [eq_comm]

theorem SMap.read_erase {α : Type} (d : α) (m : SMap α) (i j : Nat) :
    SMap.read d (SMap.erase m i) j = if j = i then d else SMap.read d m j := by
  induction m with
  | nil => simp [SMap.erase, SMap.read]
  | cons e m ih =>
    obtain ⟨k, v⟩ := e
    simp only [SMap.erase]
    split
    · next h => subst h; rw [ih]; simp only [SMap.read]; split <;> simp_all
    · next h => simp only [SMap.read, ih]; split <;> simp_all [eq_comm]

/-- A map reads as written at the written key, and as before everywhere else. -/
theorem SMap.read_write {α : Type} [DecidableEq α] (d : α) (m : SMap α) (i j : Nat) (x : α) :
    SMap.read d (SMap.write d m i x) j = if j = i then x else SMap.read d m j := by
  unfold SMap.write
  split
  · next h => subst h; exact SMap.read_erase x m i j
  · exact SMap.read_insert d m i j x

@[simp] theorem SMap.read_write_same {α : Type} [DecidableEq α] (d : α) (m : SMap α) (i : Nat) (x : α) :
    SMap.read d (SMap.write d m i x) i = x := by simp [SMap.read_write]

/-- Any other key reads as before, whatever the defaults of the two keys are. -/
theorem SMap.read_write_ne {α : Type} [DecidableEq α] (d d' : α) (m : SMap α) {i j : Nat} (x : α) (h : j ≠ i) :
    SMap.read d (SMap.write d' m i x) j = SMap.read d m j := by
  unfold SMap.write
  split
  · rw [SMap.read_erase, if_neg h]
  · rw [SMap.read_insert, if_neg h]

/-! ### The canonical form -/

/-- Keys that rise from above lo rise from above anything lower. -/
theorem SMap.rising_weaken {α : Type} {m : SMap α} {lo hi : Nat} (h : lo ≤ hi) (r : SMap.rising (some hi) m = true) :
    SMap.rising (some lo) m = true := by
  cases m with
  | nil => rfl
  | cons e m => simp only [SMap.rising, Bool.and_eq_true, decide_eq_true_eq] at r ⊢; exact ⟨by omega, r.2⟩

theorem SMap.rising_insert {α : Type} (m : SMap α) (lo i : Nat) (x : α) (h : lo < i) (r : SMap.rising (some lo) m = true) :
    SMap.rising (some lo) (SMap.insert m i x) = true := by
  induction m generalizing lo with
  | nil => simp [SMap.insert, SMap.rising, h]
  | cons e m ih =>
    obtain ⟨k, v⟩ := e
    simp only [SMap.rising, Bool.and_eq_true, decide_eq_true_eq] at r
    simp only [SMap.insert]
    split
    · simp only [SMap.rising, Bool.and_eq_true, decide_eq_true_eq]; exact ⟨h, by assumption, r.2⟩
    · split
      · next e => subst e; simp only [SMap.rising, Bool.and_eq_true, decide_eq_true_eq]; exact ⟨h, r.2⟩
      · simp only [SMap.rising, Bool.and_eq_true, decide_eq_true_eq]; exact ⟨r.1, ih k (by omega) r.2⟩

theorem SMap.rising_erase {α : Type} (m : SMap α) (lo i : Nat) (r : SMap.rising (some lo) m = true) :
    SMap.rising (some lo) (SMap.erase m i) = true := by
  induction m generalizing lo with
  | nil => rfl
  | cons e m ih =>
    obtain ⟨k, v⟩ := e
    simp only [SMap.rising, Bool.and_eq_true, decide_eq_true_eq] at r
    simp only [SMap.erase]
    split
    · exact ih lo (SMap.rising_weaken (by omega) r.2)
    · simp only [SMap.rising, Bool.and_eq_true, decide_eq_true_eq]; exact ⟨r.1, ih k r.2⟩

theorem SMap.rising_none {α : Type} (m : SMap α) : SMap.rising none m = match m with
    | [] => true
    | (k, _) :: l => SMap.rising (some k) l := by cases m <;> rfl

theorem SMap.rising_insert_none {α : Type} (m : SMap α) (i : Nat) (x : α) (r : SMap.rising none m = true) :
    SMap.rising none (SMap.insert m i x) = true := by
  cases m with
  | nil => rfl
  | cons e m =>
    obtain ⟨k, v⟩ := e
    simp only [SMap.insert]
    split
    · simp only [SMap.rising] at r ⊢; simp [*]
    · split
      · next h => subst h; exact r
      · simp only [SMap.rising] at r ⊢; exact SMap.rising_insert m k i x (by omega) r

theorem SMap.rising_erase_none {α : Type} (m : SMap α) (i : Nat) (r : SMap.rising none m = true) :
    SMap.rising none (SMap.erase m i) = true := by
  cases m with
  | nil => rfl
  | cons e m =>
    obtain ⟨k, v⟩ := e
    simp only [SMap.rising] at r
    simp only [SMap.erase]
    split
    · have := SMap.rising_erase m k i r
      cases hm : SMap.erase m i with
      | nil => rfl
      | cons e l => rw [hm] at this; simp only [SMap.rising, Bool.and_eq_true] at this ⊢; exact this.2
    · exact SMap.rising_erase m k i r

theorem SMap.all_insert {α : Type} (m : SMap α) (i : Nat) (x : α) (p : Nat × α → Bool) (h : m.all p = true) (hx : p (i, x) = true) :
    (SMap.insert m i x).all p = true := by
  induction m with
  | nil => simp [SMap.insert, hx]
  | cons e m ih =>
    obtain ⟨k, v⟩ := e
    simp only [List.all_cons, Bool.and_eq_true] at h
    simp only [SMap.insert]
    split
    · simp only [List.all_cons, Bool.and_eq_true]; exact ⟨hx, h.1, h.2⟩
    · split
      · simp only [List.all_cons, Bool.and_eq_true]; exact ⟨hx, h.2⟩
      · simp only [List.all_cons, Bool.and_eq_true]; exact ⟨h.1, ih h.2⟩

theorem SMap.all_erase {α : Type} (m : SMap α) (i : Nat) (p : Nat × α → Bool) (h : m.all p = true) :
    (SMap.erase m i).all p = true := by
  induction m with
  | nil => rfl
  | cons e m ih =>
    obtain ⟨k, v⟩ := e
    simp only [List.all_cons, Bool.and_eq_true] at h
    simp only [SMap.erase]
    split
    · exact ih h.2
    · simp only [List.all_cons, Bool.and_eq_true]; exact ⟨h.1, ih h.2⟩

/-- A write keeps the canonical form. -/
theorem SMap.wf_write {α : Type} [DecidableEq α] (d : α) (m : SMap α) (i : Nat) (x : α) (h : SMap.wf d m = true) :
    SMap.wf d (SMap.write d m i x) = true := by
  simp only [SMap.wf, Bool.and_eq_true] at h ⊢
  unfold SMap.write
  split
  · exact ⟨SMap.rising_erase_none m i h.1, SMap.all_erase m i _ h.2⟩
  · next hx => exact ⟨SMap.rising_insert_none m i x h.1, SMap.all_insert m i x _ h.2 (by simpa using hx)⟩

/-! ### Memory -/

/-- A byte of memory reads as written, and every other byte as before. -/
theorem Memory.byte_setByte (m : Memory) (a c : Nat) (b : Byte) :
    (m.setByte a b).byte c = if c = a then b else m.byte c := SMap.read_write _ m a c b

theorem Memory.wf_setByte (m : Memory) (a : Nat) (b : Byte) (h : m.wf = true) : (m.setByte a b).wf = true := SMap.wf_write _ m a b h

theorem Memory.wf_writeLE (m : Memory) (a n x : Nat) (h : m.wf = true) : (m.writeLE a n x).wf = true := by
  induction n generalizing m a x with
  | zero => exact h
  | succ n ih => exact ih _ _ _ (Memory.wf_setByte m a _ h)

/-- A little-endian write leaves every byte outside it as it was. -/
theorem Memory.byte_writeLE_outside (m : Memory) (a n x c : Nat) (h : c < a ∨ a + n ≤ c) : (m.writeLE a n x).byte c = m.byte c := by
  induction n generalizing m a x with
  | zero => rfl
  | succ n ih => rw [Memory.writeLE, ih _ _ _ (by omega), Memory.byte_setByte, if_neg (by omega)]

/-- Byte i of a little-endian write is byte i of the number. -/
theorem Memory.byte_writeLE_inside (m : Memory) (a n x i : Nat) (h : i < n) :
    (m.writeLE a n x).byte (a + i) = BitVec.ofNat 8 (x / 256 ^ i) := by
  induction n generalizing m a x i with
  | zero => omega
  | succ n ih =>
    rw [Memory.writeLE]
    cases i with
    | zero => rw [Memory.byte_writeLE_outside _ _ _ _ _ (by omega), Memory.byte_setByte]; simp
    | succ i =>
      have := ih (m.setByte a (BitVec.ofNat 8 x)) (a + 1) (x / 256) i (by omega)
      rw [show a + 1 + i = a + (i + 1) by omega] at this
      rw [this, Nat.div_div_eq_div_mul, show 256 * 256 ^ i = 256 ^ (i + 1) by rw [Nat.pow_succ, Nat.mul_comm]]

/-- Reading back a little-endian write gives the number modulo its size. -/
theorem Memory.readLE_writeLE (m : Memory) (a n x : Nat) : (m.writeLE a n x).readLE a n = x % 256 ^ n := by
  have key : ∀ n a x (m' : Memory), (∀ i, i < n → m'.byte (a + i) = BitVec.ofNat 8 (x / 256 ^ i)) → m'.readLE a n = x % 256 ^ n := by
    intro n
    induction n with
    | zero => intro a x m' _; simp [Memory.readLE, Nat.mod_one]
    | succ n ih =>
      intro a x m' h
      have h0 := h 0 (by omega)
      have h1 := ih (a + 1) (x / 256) m' fun i hi => by
        rw [show a + 1 + i = a + (i + 1) by omega, h (i + 1) (by omega), Nat.div_div_eq_div_mul, Nat.pow_succ, Nat.mul_comm]
      simp only [Nat.add_zero, Nat.pow_zero, Nat.div_one] at h0
      rw [Memory.readLE, h0, h1, BitVec.toNat_ofNat, show 256 ^ (n + 1) = 256 * 256 ^ n by rw [Nat.pow_succ, Nat.mul_comm], Nat.mod_mul]
  exact key n a x _ fun i hi => Memory.byte_writeLE_inside m a n x i hi

/-- Reading n bytes gives a number below 256^n. -/
theorem Memory.readLE_lt (m : Memory) (a n : Nat) : m.readLE a n < 256 ^ n := by
  induction n generalizing a with
  | zero => simp [Memory.readLE]
  | succ n ih =>
    have := ih (a + 1)
    have hb := (m.byte a).isLt
    rw [Memory.readLE, Nat.pow_succ]
    omega

end Sys2Proof.Machine
end

