-- ==== Sys2Proof/Laws/State.lean ====
section
/-! SUPPORT. What the updates of the state leave: one lemma for each field, the reads of what was written, and what the shared
endings of a word do. -/

set_option Elab.async false

namespace Sys2Proof.Machine

/-! ### setCtx -/

@[simp] theorem State.setCtx_agenda (s : State) (k : Nat) (c : Ctx) : (s.setCtx k c).agenda = s.agenda := rfl
@[simp] theorem State.setCtx_cur (s : State) (k : Nat) (c : Ctx) : (s.setCtx k c).cur = s.cur := rfl
@[simp] theorem State.setCtx_clk (s : State) (k : Nat) (c : Ctx) : (s.setCtx k c).clk = s.clk := rfl
@[simp] theorem State.setCtx_dtime (s : State) (k : Nat) (c : Ctx) : (s.setCtx k c).dtime = s.dtime := rfl
@[simp] theorem State.setCtx_frac (s : State) (k : Nat) (c : Ctx) : (s.setCtx k c).frac = s.frac := rfl
@[simp] theorem State.setCtx_rate (s : State) (k : Nat) (c : Ctx) : (s.setCtx k c).rate = s.rate := rfl
@[simp] theorem State.setCtx_draw (s : State) (k : Nat) (c : Ctx) : (s.setCtx k c).draw = s.draw := rfl
@[simp] theorem State.setCtx_cores (s : State) (k : Nat) (c : Ctx) : (s.setCtx k c).cores = s.cores := rfl
@[simp] theorem State.setCtx_gaths (s : State) (k : Nat) (c : Ctx) : (s.setCtx k c).gaths = s.gaths := rfl
@[simp] theorem State.setCtx_mem (s : State) (k : Nat) (c : Ctx) : (s.setCtx k c).mem = s.mem := rfl
@[simp] theorem State.setCtx_poison (s : State) (k : Nat) (c : Ctx) : (s.setCtx k c).poison = s.poison := rfl
@[simp] theorem State.setCtx_win (s : State) (k : Nat) (c : Ctx) : (s.setCtx k c).win = s.win := rfl
@[simp] theorem State.setCtx_rings (s : State) (k : Nat) (c : Ctx) : (s.setCtx k c).rings = s.rings := rfl
@[simp] theorem State.setCtx_holders (s : State) (k : Nat) (c : Ctx) : (s.setCtx k c).holders = s.holders := rfl
@[simp] theorem State.setCtx_seqs (s : State) (k : Nat) (c : Ctx) : (s.setCtx k c).seqs = s.seqs := rfl
@[simp] theorem State.setCtx_trees (s : State) (k : Nat) (c : Ctx) : (s.setCtx k c).trees = s.trees := rfl
@[simp] theorem State.setCtx_treeQ (s : State) (k : Nat) (c : Ctx) : (s.setCtx k c).treeQ = s.treeQ := rfl
@[simp] theorem State.setCtx_flights (s : State) (k : Nat) (c : Ctx) : (s.setCtx k c).flights = s.flights := rfl
@[simp] theorem State.setCtx_meminbox (s : State) (k : Nat) (c : Ctx) : (s.setCtx k c).meminbox = s.meminbox := rfl
@[simp] theorem State.setCtx_launches (s : State) (k : Nat) (c : Ctx) : (s.setCtx k c).launches = s.launches := rfl
@[simp] theorem State.setCtx_images (s : State) (k : Nat) (c : Ctx) : (s.setCtx k c).images = s.images := rfl
@[simp] theorem State.setCtx_unmaps (s : State) (k : Nat) (c : Ctx) : (s.setCtx k c).unmaps = s.unmaps := rfl
@[simp] theorem State.setCtx_nextId (s : State) (k : Nat) (c : Ctx) : (s.setCtx k c).nextId = s.nextId := rfl
@[simp] theorem State.setCtx_doms (s : State) (k : Nat) (c : Ctx) : (s.setCtx k c).doms = s.doms := rfl
@[simp] theorem State.setCtx_slotI (s : State) (k : Nat) (c : Ctx) : (s.setCtx k c).slotI = s.slotI := rfl
@[simp] theorem State.setCtx_filters (s : State) (k : Nat) (c : Ctx) : (s.setCtx k c).filters = s.filters := rfl
@[simp] theorem State.setCtx_meters (s : State) (k : Nat) (c : Ctx) : (s.setCtx k c).meters = s.meters := rfl
@[simp] theorem State.setCtx_ports (s : State) (k : Nat) (c : Ctx) : (s.setCtx k c).ports = s.ports := rfl
@[simp] theorem State.setCtx_vwins (s : State) (k : Nat) (c : Ctx) : (s.setCtx k c).vwins = s.vwins := rfl
@[simp] theorem State.setCtx_pair (s : State) (k : Nat) (c : Ctx) : (s.setCtx k c).pair = s.pair := rfl
@[simp] theorem State.setCtx_links (s : State) (k : Nat) (c : Ctx) : (s.setCtx k c).links = s.links := rfl
@[simp] theorem State.setCtx_parts (s : State) (k : Nat) (c : Ctx) : (s.setCtx k c).parts = s.parts := rfl
@[simp] theorem State.setCtx_walks (s : State) (k : Nat) (c : Ctx) : (s.setCtx k c).walks = s.walks := rfl
@[simp] theorem State.setCtx_moves (s : State) (k : Nat) (c : Ctx) : (s.setCtx k c).moves = s.moves := rfl
@[simp] theorem State.setCtx_upOrder (s : State) (k : Nat) (c : Ctx) : (s.setCtx k c).upOrder = s.upOrder := rfl
@[simp] theorem State.setCtx_posts (s : State) (k : Nat) (c : Ctx) : (s.setCtx k c).posts = s.posts := rfl
@[simp] theorem State.setCtx_pulls (s : State) (k : Nat) (c : Ctx) : (s.setCtx k c).pulls = s.pulls := rfl
@[simp] theorem State.setCtx_dir (s : State) (k : Nat) (c : Ctx) : (s.setCtx k c).dir = s.dir := rfl
@[simp] theorem State.setCtx_caches (s : State) (k : Nat) (c : Ctx) : (s.setCtx k c).caches = s.caches := rfl
@[simp] theorem State.setCtx_stashes (s : State) (k : Nat) (c : Ctx) : (s.setCtx k c).stashes = s.stashes := rfl
@[simp] theorem State.setCtx_wsrBuf (s : State) (k : Nat) (c : Ctx) : (s.setCtx k c).wsrBuf = s.wsrBuf := rfl
@[simp] theorem State.setCtx_slots (s : State) (k : Nat) (c : Ctx) : (s.setCtx k c).slots = s.slots := rfl
@[simp] theorem State.setCtx_vfs (s : State) (k : Nat) (c : Ctx) : (s.setCtx k c).vfs = s.vfs := rfl
@[simp] theorem State.setCtx_harts (s : State) (k : Nat) (c : Ctx) : (s.setCtx k c).harts = s.harts := rfl
@[simp] theorem State.setCtx_syncAt (s : State) (k : Nat) (c : Ctx) : (s.setCtx k c).syncAt = s.syncAt := rfl
@[simp] theorem State.setCtx_locked (s : State) (k : Nat) (c : Ctx) : (s.setCtx k c).locked = s.locked := rfl
@[simp] theorem State.setCtx_flash (s : State) (k : Nat) (c : Ctx) : (s.setCtx k c).flash = s.flash := rfl
@[simp] theorem State.setCtx_firmware (s : State) (k : Nat) (c : Ctx) : (s.setCtx k c).firmware = s.firmware := rfl
@[simp] theorem State.setCtx_svnMin (s : State) (k : Nat) (c : Ctx) : (s.setCtx k c).svnMin = s.svnMin := rfl
@[simp] theorem State.setCtx_envReq (s : State) (k : Nat) (c : Ctx) : (s.setCtx k c).envReq = s.envReq := rfl
@[simp] theorem State.setCtx_bus (s : State) (k : Nat) (c : Ctx) : (s.setCtx k c).bus = s.bus := rfl
@[simp] theorem State.setCtx_sent (s : State) (k : Nat) (c : Ctx) : (s.setCtx k c).sent = s.sent := rfl
@[simp] theorem State.setCtx_tierDown (s : State) (k : Nat) (c : Ctx) : (s.setCtx k c).tierDown = s.tierDown := rfl
@[simp] theorem State.setCtx_dead (s : State) (k : Nat) (c : Ctx) : (s.setCtx k c).dead = s.dead := rfl

/-! ### setCore -/

@[simp] theorem State.setCore_agenda (s : State) (k : Nat) (c : Core) : (s.setCore k c).agenda = s.agenda := rfl
@[simp] theorem State.setCore_cur (s : State) (k : Nat) (c : Core) : (s.setCore k c).cur = s.cur := rfl
@[simp] theorem State.setCore_clk (s : State) (k : Nat) (c : Core) : (s.setCore k c).clk = s.clk := rfl
@[simp] theorem State.setCore_dtime (s : State) (k : Nat) (c : Core) : (s.setCore k c).dtime = s.dtime := rfl
@[simp] theorem State.setCore_frac (s : State) (k : Nat) (c : Core) : (s.setCore k c).frac = s.frac := rfl
@[simp] theorem State.setCore_rate (s : State) (k : Nat) (c : Core) : (s.setCore k c).rate = s.rate := rfl
@[simp] theorem State.setCore_draw (s : State) (k : Nat) (c : Core) : (s.setCore k c).draw = s.draw := rfl
@[simp] theorem State.setCore_ctxs (s : State) (k : Nat) (c : Core) : (s.setCore k c).ctxs = s.ctxs := rfl
@[simp] theorem State.setCore_gaths (s : State) (k : Nat) (c : Core) : (s.setCore k c).gaths = s.gaths := rfl
@[simp] theorem State.setCore_mem (s : State) (k : Nat) (c : Core) : (s.setCore k c).mem = s.mem := rfl
@[simp] theorem State.setCore_poison (s : State) (k : Nat) (c : Core) : (s.setCore k c).poison = s.poison := rfl
@[simp] theorem State.setCore_win (s : State) (k : Nat) (c : Core) : (s.setCore k c).win = s.win := rfl
@[simp] theorem State.setCore_rings (s : State) (k : Nat) (c : Core) : (s.setCore k c).rings = s.rings := rfl
@[simp] theorem State.setCore_holders (s : State) (k : Nat) (c : Core) : (s.setCore k c).holders = s.holders := rfl
@[simp] theorem State.setCore_seqs (s : State) (k : Nat) (c : Core) : (s.setCore k c).seqs = s.seqs := rfl
@[simp] theorem State.setCore_trees (s : State) (k : Nat) (c : Core) : (s.setCore k c).trees = s.trees := rfl
@[simp] theorem State.setCore_treeQ (s : State) (k : Nat) (c : Core) : (s.setCore k c).treeQ = s.treeQ := rfl
@[simp] theorem State.setCore_flights (s : State) (k : Nat) (c : Core) : (s.setCore k c).flights = s.flights := rfl
@[simp] theorem State.setCore_meminbox (s : State) (k : Nat) (c : Core) : (s.setCore k c).meminbox = s.meminbox := rfl
@[simp] theorem State.setCore_launches (s : State) (k : Nat) (c : Core) : (s.setCore k c).launches = s.launches := rfl
@[simp] theorem State.setCore_images (s : State) (k : Nat) (c : Core) : (s.setCore k c).images = s.images := rfl
@[simp] theorem State.setCore_unmaps (s : State) (k : Nat) (c : Core) : (s.setCore k c).unmaps = s.unmaps := rfl
@[simp] theorem State.setCore_nextId (s : State) (k : Nat) (c : Core) : (s.setCore k c).nextId = s.nextId := rfl
@[simp] theorem State.setCore_doms (s : State) (k : Nat) (c : Core) : (s.setCore k c).doms = s.doms := rfl
@[simp] theorem State.setCore_slotI (s : State) (k : Nat) (c : Core) : (s.setCore k c).slotI = s.slotI := rfl
@[simp] theorem State.setCore_filters (s : State) (k : Nat) (c : Core) : (s.setCore k c).filters = s.filters := rfl
@[simp] theorem State.setCore_meters (s : State) (k : Nat) (c : Core) : (s.setCore k c).meters = s.meters := rfl
@[simp] theorem State.setCore_ports (s : State) (k : Nat) (c : Core) : (s.setCore k c).ports = s.ports := rfl
@[simp] theorem State.setCore_vwins (s : State) (k : Nat) (c : Core) : (s.setCore k c).vwins = s.vwins := rfl
@[simp] theorem State.setCore_pair (s : State) (k : Nat) (c : Core) : (s.setCore k c).pair = s.pair := rfl
@[simp] theorem State.setCore_links (s : State) (k : Nat) (c : Core) : (s.setCore k c).links = s.links := rfl
@[simp] theorem State.setCore_parts (s : State) (k : Nat) (c : Core) : (s.setCore k c).parts = s.parts := rfl
@[simp] theorem State.setCore_walks (s : State) (k : Nat) (c : Core) : (s.setCore k c).walks = s.walks := rfl
@[simp] theorem State.setCore_moves (s : State) (k : Nat) (c : Core) : (s.setCore k c).moves = s.moves := rfl
@[simp] theorem State.setCore_upOrder (s : State) (k : Nat) (c : Core) : (s.setCore k c).upOrder = s.upOrder := rfl
@[simp] theorem State.setCore_posts (s : State) (k : Nat) (c : Core) : (s.setCore k c).posts = s.posts := rfl
@[simp] theorem State.setCore_pulls (s : State) (k : Nat) (c : Core) : (s.setCore k c).pulls = s.pulls := rfl
@[simp] theorem State.setCore_dir (s : State) (k : Nat) (c : Core) : (s.setCore k c).dir = s.dir := rfl
@[simp] theorem State.setCore_caches (s : State) (k : Nat) (c : Core) : (s.setCore k c).caches = s.caches := rfl
@[simp] theorem State.setCore_stashes (s : State) (k : Nat) (c : Core) : (s.setCore k c).stashes = s.stashes := rfl
@[simp] theorem State.setCore_wsrBuf (s : State) (k : Nat) (c : Core) : (s.setCore k c).wsrBuf = s.wsrBuf := rfl
@[simp] theorem State.setCore_slots (s : State) (k : Nat) (c : Core) : (s.setCore k c).slots = s.slots := rfl
@[simp] theorem State.setCore_vfs (s : State) (k : Nat) (c : Core) : (s.setCore k c).vfs = s.vfs := rfl
@[simp] theorem State.setCore_harts (s : State) (k : Nat) (c : Core) : (s.setCore k c).harts = s.harts := rfl
@[simp] theorem State.setCore_syncAt (s : State) (k : Nat) (c : Core) : (s.setCore k c).syncAt = s.syncAt := rfl
@[simp] theorem State.setCore_locked (s : State) (k : Nat) (c : Core) : (s.setCore k c).locked = s.locked := rfl
@[simp] theorem State.setCore_flash (s : State) (k : Nat) (c : Core) : (s.setCore k c).flash = s.flash := rfl
@[simp] theorem State.setCore_firmware (s : State) (k : Nat) (c : Core) : (s.setCore k c).firmware = s.firmware := rfl
@[simp] theorem State.setCore_svnMin (s : State) (k : Nat) (c : Core) : (s.setCore k c).svnMin = s.svnMin := rfl
@[simp] theorem State.setCore_envReq (s : State) (k : Nat) (c : Core) : (s.setCore k c).envReq = s.envReq := rfl
@[simp] theorem State.setCore_bus (s : State) (k : Nat) (c : Core) : (s.setCore k c).bus = s.bus := rfl
@[simp] theorem State.setCore_sent (s : State) (k : Nat) (c : Core) : (s.setCore k c).sent = s.sent := rfl
@[simp] theorem State.setCore_tierDown (s : State) (k : Nat) (c : Core) : (s.setCore k c).tierDown = s.tierDown := rfl
@[simp] theorem State.setCore_dead (s : State) (k : Nat) (c : Core) : (s.setCore k c).dead = s.dead := rfl

/-! ### setGath -/

@[simp] theorem State.setGath_agenda (s : State) (k : Nat) (c : Gath) : (s.setGath k c).agenda = s.agenda := rfl
@[simp] theorem State.setGath_cur (s : State) (k : Nat) (c : Gath) : (s.setGath k c).cur = s.cur := rfl
@[simp] theorem State.setGath_clk (s : State) (k : Nat) (c : Gath) : (s.setGath k c).clk = s.clk := rfl
@[simp] theorem State.setGath_dtime (s : State) (k : Nat) (c : Gath) : (s.setGath k c).dtime = s.dtime := rfl
@[simp] theorem State.setGath_frac (s : State) (k : Nat) (c : Gath) : (s.setGath k c).frac = s.frac := rfl
@[simp] theorem State.setGath_rate (s : State) (k : Nat) (c : Gath) : (s.setGath k c).rate = s.rate := rfl
@[simp] theorem State.setGath_draw (s : State) (k : Nat) (c : Gath) : (s.setGath k c).draw = s.draw := rfl
@[simp] theorem State.setGath_ctxs (s : State) (k : Nat) (c : Gath) : (s.setGath k c).ctxs = s.ctxs := rfl
@[simp] theorem State.setGath_cores (s : State) (k : Nat) (c : Gath) : (s.setGath k c).cores = s.cores := rfl
@[simp] theorem State.setGath_mem (s : State) (k : Nat) (c : Gath) : (s.setGath k c).mem = s.mem := rfl
@[simp] theorem State.setGath_poison (s : State) (k : Nat) (c : Gath) : (s.setGath k c).poison = s.poison := rfl
@[simp] theorem State.setGath_win (s : State) (k : Nat) (c : Gath) : (s.setGath k c).win = s.win := rfl
@[simp] theorem State.setGath_rings (s : State) (k : Nat) (c : Gath) : (s.setGath k c).rings = s.rings := rfl
@[simp] theorem State.setGath_holders (s : State) (k : Nat) (c : Gath) : (s.setGath k c).holders = s.holders := rfl
@[simp] theorem State.setGath_seqs (s : State) (k : Nat) (c : Gath) : (s.setGath k c).seqs = s.seqs := rfl
@[simp] theorem State.setGath_trees (s : State) (k : Nat) (c : Gath) : (s.setGath k c).trees = s.trees := rfl
@[simp] theorem State.setGath_treeQ (s : State) (k : Nat) (c : Gath) : (s.setGath k c).treeQ = s.treeQ := rfl
@[simp] theorem State.setGath_flights (s : State) (k : Nat) (c : Gath) : (s.setGath k c).flights = s.flights := rfl
@[simp] theorem State.setGath_meminbox (s : State) (k : Nat) (c : Gath) : (s.setGath k c).meminbox = s.meminbox := rfl
@[simp] theorem State.setGath_launches (s : State) (k : Nat) (c : Gath) : (s.setGath k c).launches = s.launches := rfl
@[simp] theorem State.setGath_images (s : State) (k : Nat) (c : Gath) : (s.setGath k c).images = s.images := rfl
@[simp] theorem State.setGath_unmaps (s : State) (k : Nat) (c : Gath) : (s.setGath k c).unmaps = s.unmaps := rfl
@[simp] theorem State.setGath_nextId (s : State) (k : Nat) (c : Gath) : (s.setGath k c).nextId = s.nextId := rfl
@[simp] theorem State.setGath_doms (s : State) (k : Nat) (c : Gath) : (s.setGath k c).doms = s.doms := rfl
@[simp] theorem State.setGath_slotI (s : State) (k : Nat) (c : Gath) : (s.setGath k c).slotI = s.slotI := rfl
@[simp] theorem State.setGath_filters (s : State) (k : Nat) (c : Gath) : (s.setGath k c).filters = s.filters := rfl
@[simp] theorem State.setGath_meters (s : State) (k : Nat) (c : Gath) : (s.setGath k c).meters = s.meters := rfl
@[simp] theorem State.setGath_ports (s : State) (k : Nat) (c : Gath) : (s.setGath k c).ports = s.ports := rfl
@[simp] theorem State.setGath_vwins (s : State) (k : Nat) (c : Gath) : (s.setGath k c).vwins = s.vwins := rfl
@[simp] theorem State.setGath_pair (s : State) (k : Nat) (c : Gath) : (s.setGath k c).pair = s.pair := rfl
@[simp] theorem State.setGath_links (s : State) (k : Nat) (c : Gath) : (s.setGath k c).links = s.links := rfl
@[simp] theorem State.setGath_parts (s : State) (k : Nat) (c : Gath) : (s.setGath k c).parts = s.parts := rfl
@[simp] theorem State.setGath_walks (s : State) (k : Nat) (c : Gath) : (s.setGath k c).walks = s.walks := rfl
@[simp] theorem State.setGath_moves (s : State) (k : Nat) (c : Gath) : (s.setGath k c).moves = s.moves := rfl
@[simp] theorem State.setGath_upOrder (s : State) (k : Nat) (c : Gath) : (s.setGath k c).upOrder = s.upOrder := rfl
@[simp] theorem State.setGath_posts (s : State) (k : Nat) (c : Gath) : (s.setGath k c).posts = s.posts := rfl
@[simp] theorem State.setGath_pulls (s : State) (k : Nat) (c : Gath) : (s.setGath k c).pulls = s.pulls := rfl
@[simp] theorem State.setGath_dir (s : State) (k : Nat) (c : Gath) : (s.setGath k c).dir = s.dir := rfl
@[simp] theorem State.setGath_caches (s : State) (k : Nat) (c : Gath) : (s.setGath k c).caches = s.caches := rfl
@[simp] theorem State.setGath_stashes (s : State) (k : Nat) (c : Gath) : (s.setGath k c).stashes = s.stashes := rfl
@[simp] theorem State.setGath_wsrBuf (s : State) (k : Nat) (c : Gath) : (s.setGath k c).wsrBuf = s.wsrBuf := rfl
@[simp] theorem State.setGath_slots (s : State) (k : Nat) (c : Gath) : (s.setGath k c).slots = s.slots := rfl
@[simp] theorem State.setGath_vfs (s : State) (k : Nat) (c : Gath) : (s.setGath k c).vfs = s.vfs := rfl
@[simp] theorem State.setGath_harts (s : State) (k : Nat) (c : Gath) : (s.setGath k c).harts = s.harts := rfl
@[simp] theorem State.setGath_syncAt (s : State) (k : Nat) (c : Gath) : (s.setGath k c).syncAt = s.syncAt := rfl
@[simp] theorem State.setGath_locked (s : State) (k : Nat) (c : Gath) : (s.setGath k c).locked = s.locked := rfl
@[simp] theorem State.setGath_flash (s : State) (k : Nat) (c : Gath) : (s.setGath k c).flash = s.flash := rfl
@[simp] theorem State.setGath_firmware (s : State) (k : Nat) (c : Gath) : (s.setGath k c).firmware = s.firmware := rfl
@[simp] theorem State.setGath_svnMin (s : State) (k : Nat) (c : Gath) : (s.setGath k c).svnMin = s.svnMin := rfl
@[simp] theorem State.setGath_envReq (s : State) (k : Nat) (c : Gath) : (s.setGath k c).envReq = s.envReq := rfl
@[simp] theorem State.setGath_bus (s : State) (k : Nat) (c : Gath) : (s.setGath k c).bus = s.bus := rfl
@[simp] theorem State.setGath_sent (s : State) (k : Nat) (c : Gath) : (s.setGath k c).sent = s.sent := rfl
@[simp] theorem State.setGath_tierDown (s : State) (k : Nat) (c : Gath) : (s.setGath k c).tierDown = s.tierDown := rfl
@[simp] theorem State.setGath_dead (s : State) (k : Nat) (c : Gath) : (s.setGath k c).dead = s.dead := rfl

/-! ### setWin -/

@[simp] theorem State.setWin_agenda (s : State) (k : Nat) (c : Word) : (s.setWin k c).agenda = s.agenda := rfl
@[simp] theorem State.setWin_cur (s : State) (k : Nat) (c : Word) : (s.setWin k c).cur = s.cur := rfl
@[simp] theorem State.setWin_clk (s : State) (k : Nat) (c : Word) : (s.setWin k c).clk = s.clk := rfl
@[simp] theorem State.setWin_dtime (s : State) (k : Nat) (c : Word) : (s.setWin k c).dtime = s.dtime := rfl
@[simp] theorem State.setWin_frac (s : State) (k : Nat) (c : Word) : (s.setWin k c).frac = s.frac := rfl
@[simp] theorem State.setWin_rate (s : State) (k : Nat) (c : Word) : (s.setWin k c).rate = s.rate := rfl
@[simp] theorem State.setWin_draw (s : State) (k : Nat) (c : Word) : (s.setWin k c).draw = s.draw := rfl
@[simp] theorem State.setWin_ctxs (s : State) (k : Nat) (c : Word) : (s.setWin k c).ctxs = s.ctxs := rfl
@[simp] theorem State.setWin_cores (s : State) (k : Nat) (c : Word) : (s.setWin k c).cores = s.cores := rfl
@[simp] theorem State.setWin_gaths (s : State) (k : Nat) (c : Word) : (s.setWin k c).gaths = s.gaths := rfl
@[simp] theorem State.setWin_mem (s : State) (k : Nat) (c : Word) : (s.setWin k c).mem = s.mem := rfl
@[simp] theorem State.setWin_poison (s : State) (k : Nat) (c : Word) : (s.setWin k c).poison = s.poison := rfl
@[simp] theorem State.setWin_rings (s : State) (k : Nat) (c : Word) : (s.setWin k c).rings = s.rings := rfl
@[simp] theorem State.setWin_holders (s : State) (k : Nat) (c : Word) : (s.setWin k c).holders = s.holders := rfl
@[simp] theorem State.setWin_seqs (s : State) (k : Nat) (c : Word) : (s.setWin k c).seqs = s.seqs := rfl
@[simp] theorem State.setWin_trees (s : State) (k : Nat) (c : Word) : (s.setWin k c).trees = s.trees := rfl
@[simp] theorem State.setWin_treeQ (s : State) (k : Nat) (c : Word) : (s.setWin k c).treeQ = s.treeQ := rfl
@[simp] theorem State.setWin_flights (s : State) (k : Nat) (c : Word) : (s.setWin k c).flights = s.flights := rfl
@[simp] theorem State.setWin_meminbox (s : State) (k : Nat) (c : Word) : (s.setWin k c).meminbox = s.meminbox := rfl
@[simp] theorem State.setWin_launches (s : State) (k : Nat) (c : Word) : (s.setWin k c).launches = s.launches := rfl
@[simp] theorem State.setWin_images (s : State) (k : Nat) (c : Word) : (s.setWin k c).images = s.images := rfl
@[simp] theorem State.setWin_unmaps (s : State) (k : Nat) (c : Word) : (s.setWin k c).unmaps = s.unmaps := rfl
@[simp] theorem State.setWin_nextId (s : State) (k : Nat) (c : Word) : (s.setWin k c).nextId = s.nextId := rfl
@[simp] theorem State.setWin_doms (s : State) (k : Nat) (c : Word) : (s.setWin k c).doms = s.doms := rfl
@[simp] theorem State.setWin_slotI (s : State) (k : Nat) (c : Word) : (s.setWin k c).slotI = s.slotI := rfl
@[simp] theorem State.setWin_filters (s : State) (k : Nat) (c : Word) : (s.setWin k c).filters = s.filters := rfl
@[simp] theorem State.setWin_meters (s : State) (k : Nat) (c : Word) : (s.setWin k c).meters = s.meters := rfl
@[simp] theorem State.setWin_ports (s : State) (k : Nat) (c : Word) : (s.setWin k c).ports = s.ports := rfl
@[simp] theorem State.setWin_vwins (s : State) (k : Nat) (c : Word) : (s.setWin k c).vwins = s.vwins := rfl
@[simp] theorem State.setWin_pair (s : State) (k : Nat) (c : Word) : (s.setWin k c).pair = s.pair := rfl
@[simp] theorem State.setWin_links (s : State) (k : Nat) (c : Word) : (s.setWin k c).links = s.links := rfl
@[simp] theorem State.setWin_parts (s : State) (k : Nat) (c : Word) : (s.setWin k c).parts = s.parts := rfl
@[simp] theorem State.setWin_walks (s : State) (k : Nat) (c : Word) : (s.setWin k c).walks = s.walks := rfl
@[simp] theorem State.setWin_moves (s : State) (k : Nat) (c : Word) : (s.setWin k c).moves = s.moves := rfl
@[simp] theorem State.setWin_upOrder (s : State) (k : Nat) (c : Word) : (s.setWin k c).upOrder = s.upOrder := rfl
@[simp] theorem State.setWin_posts (s : State) (k : Nat) (c : Word) : (s.setWin k c).posts = s.posts := rfl
@[simp] theorem State.setWin_pulls (s : State) (k : Nat) (c : Word) : (s.setWin k c).pulls = s.pulls := rfl
@[simp] theorem State.setWin_dir (s : State) (k : Nat) (c : Word) : (s.setWin k c).dir = s.dir := rfl
@[simp] theorem State.setWin_caches (s : State) (k : Nat) (c : Word) : (s.setWin k c).caches = s.caches := rfl
@[simp] theorem State.setWin_stashes (s : State) (k : Nat) (c : Word) : (s.setWin k c).stashes = s.stashes := rfl
@[simp] theorem State.setWin_wsrBuf (s : State) (k : Nat) (c : Word) : (s.setWin k c).wsrBuf = s.wsrBuf := rfl
@[simp] theorem State.setWin_slots (s : State) (k : Nat) (c : Word) : (s.setWin k c).slots = s.slots := rfl
@[simp] theorem State.setWin_vfs (s : State) (k : Nat) (c : Word) : (s.setWin k c).vfs = s.vfs := rfl
@[simp] theorem State.setWin_harts (s : State) (k : Nat) (c : Word) : (s.setWin k c).harts = s.harts := rfl
@[simp] theorem State.setWin_syncAt (s : State) (k : Nat) (c : Word) : (s.setWin k c).syncAt = s.syncAt := rfl
@[simp] theorem State.setWin_locked (s : State) (k : Nat) (c : Word) : (s.setWin k c).locked = s.locked := rfl
@[simp] theorem State.setWin_flash (s : State) (k : Nat) (c : Word) : (s.setWin k c).flash = s.flash := rfl
@[simp] theorem State.setWin_firmware (s : State) (k : Nat) (c : Word) : (s.setWin k c).firmware = s.firmware := rfl
@[simp] theorem State.setWin_svnMin (s : State) (k : Nat) (c : Word) : (s.setWin k c).svnMin = s.svnMin := rfl
@[simp] theorem State.setWin_envReq (s : State) (k : Nat) (c : Word) : (s.setWin k c).envReq = s.envReq := rfl
@[simp] theorem State.setWin_bus (s : State) (k : Nat) (c : Word) : (s.setWin k c).bus = s.bus := rfl
@[simp] theorem State.setWin_sent (s : State) (k : Nat) (c : Word) : (s.setWin k c).sent = s.sent := rfl
@[simp] theorem State.setWin_tierDown (s : State) (k : Nat) (c : Word) : (s.setWin k c).tierDown = s.tierDown := rfl
@[simp] theorem State.setWin_dead (s : State) (k : Nat) (c : Word) : (s.setWin k c).dead = s.dead := rfl

/-! ### Reads of contexts, cores, gatherings -/

theorem State.ctxOf_setCtx (s : State) (i k : Nat) (c : Ctx) : (s.setCtx i c).ctxOf k = if k = i then c else s.ctxOf k :=
  SMap.read_write _ s.ctxs i k c

@[simp] theorem State.ctxOf_setCtx_same (s : State) (i : Nat) (c : Ctx) : (s.setCtx i c).ctxOf i = c := by simp [State.ctxOf_setCtx]

theorem State.coreOf_setCore (s : State) (i k : Nat) (c : Core) : (s.setCore i c).coreOf k = if k = i then c else s.coreOf k :=
  SMap.read_write _ s.cores i k c

@[simp] theorem State.coreOf_setCore_same (s : State) (i : Nat) (c : Core) : (s.setCore i c).coreOf i = c := by
  simp [State.coreOf_setCore]

theorem State.gathSt_setGath (s : State) (i k : Nat) (c : Gath) : (s.setGath i c).gathSt k = if k = i then c else s.gathSt k :=
  SMap.read_write _ s.gaths i k c

@[simp] theorem State.gathSt_setGath_same (s : State) (i : Nat) (c : Gath) : (s.setGath i c).gathSt i = c := by
  simp [State.gathSt_setGath]

@[simp] theorem State.coreOf_setCtx (s : State) (i k : Nat) (c : Ctx) : (s.setCtx i c).coreOf k = s.coreOf k := rfl
@[simp] theorem State.gathSt_setCtx (s : State) (i k : Nat) (c : Ctx) : (s.setCtx i c).gathSt k = s.gathSt k := rfl
@[simp] theorem State.ctxOf_setCore (s : State) (i k : Nat) (c : Core) : (s.setCore i c).ctxOf k = s.ctxOf k := rfl
@[simp] theorem State.gathSt_setCore (s : State) (i k : Nat) (c : Core) : (s.setCore i c).gathSt k = s.gathSt k := rfl
@[simp] theorem State.ctxOf_setGath (s : State) (i k : Nat) (c : Gath) : (s.setGath i c).ctxOf k = s.ctxOf k := rfl
@[simp] theorem State.coreOf_setGath (s : State) (i k : Nat) (c : Gath) : (s.setGath i c).coreOf k = s.coreOf k := rfl
@[simp] theorem State.ctxOf_setWin (s : State) (i k : Nat) (c : Word) : (s.setWin i c).ctxOf k = s.ctxOf k := rfl
@[simp] theorem State.coreOf_setWin (s : State) (i k : Nat) (c : Word) : (s.setWin i c).coreOf k = s.coreOf k := rfl
@[simp] theorem State.gathSt_setWin (s : State) (i k : Nat) (c : Word) : (s.setWin i c).gathSt k = s.gathSt k := rfl

/-- A control-window register reads as written, and every other one as before. -/
theorem State.win!_setWin (s : State) (i k : Nat) (v : Word) : (s.setWin i v).win! k = if k = i then v else s.win! k := by
  unfold State.win! State.setWin
  by_cases h : k = i
  · subst h; simp
  · simp [SMap.read_write_ne, h]

/-! ### The register file (R13) -/

/-- A scalar register reads as written; s0 reads zero. -/
theorem Regs.sget_sset (r : Regs) (d i : Reg) (x : Word) :
    (r.sset d x).sget i = if i = 0 then 0 else if i = d then x else r.sget i := by
  unfold Regs.sset Regs.sget
  by_cases hi : i = 0
  · simp [hi]
  · by_cases hd : d = 0
    · subst hd; have hi' : ¬ i = 0#5 := hi; simp [hi']
    · simp only [hd, hi, if_false]
      by_cases h : i = d
      · subst h; simp
      · have : ¬ d.toNat = i.toNat := fun e => h (BitVec.eq_of_toNat_eq e.symm)
        simp [h, this]

theorem Regs.vget_vset (r : Regs) (d i : Reg) (x : VReg) : (r.vset d x).vget i = if i = d then x else r.vget i := by
  unfold Regs.vset Regs.vget
  by_cases h : i = d
  · subst h; simp
  · have : ¬ d.toNat = i.toNat := fun e => h (BitVec.eq_of_toNat_eq e.symm)
    simp [h, this]

theorem Regs.pget_pset (r : Regs) (d i : BitVec 3) (x : PReg) :
    (r.pset d x).pget i = if i = 0 then 0xFFFF else if i = d then x else r.pget i := by
  unfold Regs.pset Regs.pget
  by_cases hi : i = 0
  · simp [hi]
  · by_cases hd : d = 0
    · subst hd; have hi' : ¬ i = 0#3 := hi; simp [hi']
    · simp only [hd, hi, if_false]
      by_cases h : i = d
      · subst h; simp
      · have : ¬ d.toNat = i.toNat := fun e => h (BitVec.eq_of_toNat_eq e.symm)
        simp [h, this]

theorem Regs.wget_wset (r : Regs) (d i : BitVec 2) (x : Word32) : (r.wset d x).wget i = if i = d then x else r.wget i := by
  unfold Regs.wset Regs.wget
  by_cases h : i = d
  · subst h; simp
  · have : ¬ d.toNat = i.toNat := fun e => h (BitVec.eq_of_toNat_eq e.symm)
    simp [h, this]

/-- Writing s0 changes nothing. -/
@[simp] theorem Regs.sset_zero (r : Regs) (x : Word) : r.sset 0 x = r := rfl
@[simp] theorem Regs.pset_zero (r : Regs) (x : PReg) : r.pset 0 x = r := rfl

theorem Regs.sset_eq (r : Regs) (d : Reg) (x : Word) : r.sset d x = { r with s := (r.sset d x).s } := by
  unfold Regs.sset; split <;> rfl

theorem Regs.pset_eq (r : Regs) (d : BitVec 3) (x : PReg) : r.pset d x = { r with p := (r.pset d x).p } := by
  unfold Regs.pset; split <;> rfl

theorem Regs.advance_eq (r : Regs) : r.advance = { r with pc := r.advance.pc, ri := r.advance.ri, rep := r.advance.rep } := by
  unfold Regs.advance; split
  · rfl
  · split <;> rfl

/-! ### One context changes -/

theorem OnlyCtx.of_setCtx (s : State) (cid : Nat) (c : Ctx) : OnlyCtx s (s.setCtx cid c) cid c :=
  ⟨rfl, fun k => State.ctxOf_setCtx s cid k c⟩

/-- A second change of the same context after a first one. -/
theorem OnlyCtx.setCtx {s t : State} {cid : Nat} {c : Ctx} (h : OnlyCtx s t cid c) (c' : Ctx) : OnlyCtx s (t.setCtx cid c') cid c' := by
  refine ⟨h.1, fun k => ?_⟩
  rw [State.ctxOf_setCtx]
  split
  · rfl
  · next hk => rw [h.2 k, if_neg hk]

theorem OnlyCtx.cur {s t : State} {cid : Nat} {c : Ctx} (h : OnlyCtx s t cid c) : t.cur = s.cur := (congrArg State.cur h.1 :)

theorem OnlyCtx.me {s t : State} {c : Ctx} (h : OnlyCtx s t s.cur c) : t.me = c := by
  have := h.2 t.cur
  rw [h.cur, if_pos rfl] at this
  rw [State.me, h.cur]; exact this

/-- All of memory is as before. -/
theorem OnlyCtx.mem {s t : State} {cid : Nat} {c : Ctx} (h : OnlyCtx s t cid c) : t.mem = s.mem := (congrArg State.mem h.1 :)

theorem OnlyCore.of_setCore (s : State) (k : Nat) (c : Core) : OnlyCore s (s.setCore k c) k c :=
  ⟨rfl, fun j => State.coreOf_setCore s k j c⟩

theorem OnlyGath.of_setGath (s : State) (g : Nat) (x : Gath) : OnlyGath s (s.setGath g x) g x :=
  ⟨rfl, fun j => State.gathSt_setGath s g j x⟩

theorem OnlyCtx.refl (s : State) (cid : Nat) : OnlyCtx s s cid (s.ctxOf cid) :=
  ⟨rfl, fun k => by split <;> simp_all⟩

/-- The state with the contexts of another: what of s t has left of a context. -/
theorem OnlyCtx.ctxOf {s t : State} {cid : Nat} {c : Ctx} (h : OnlyCtx s t cid c) : t.ctxOf cid = c := by rw [h.2 cid, if_pos rfl]

theorem OnlyCtx.setRegs {s t : State} {cid : Nat} {c : Ctx} (h : OnlyCtx s t cid c) (r : Regs) :
    OnlyCtx s (t.setRegs cid r) cid { c with regs := r } := by
  rw [State.setRegs, h.ctxOf]; exact h.setCtx _

theorem OnlyCtx.setCtl {s t : State} {cid : Nat} {c : Ctx} (h : OnlyCtx s t cid c) (r : Ctl) :
    OnlyCtx s (t.setCtl cid r) cid { c with ctl := r } := by
  rw [State.setCtl, h.ctxOf]; exact h.setCtx _

theorem OnlyCtx.setSched {s t : State} {cid : Nat} {c : Ctx} (h : OnlyCtx s t cid c) (r : Sched) :
    OnlyCtx s (t.setSched cid r) cid { c with sched := r } := by
  rw [State.setSched, h.ctxOf]; exact h.setCtx _

theorem OnlyCtx.setWait {s t : State} {cid : Nat} {c : Ctx} (h : OnlyCtx s t cid c) (w : Wait) :
    OnlyCtx s (t.setWait cid w) cid { c with sched := { c.sched with wait := w, since := s.dtime } } := by
  rw [State.setWait, h.ctxOf, show t.dtime = s.dtime from (congrArg State.dtime h.1 :)]; exact h.setSched _

theorem OnlyCtx.setS {s t : State} {c : Ctx} (h : OnlyCtx s t s.cur c) (d : Reg) (x : Word) :
    OnlyCtx s (t.setS d x) s.cur { c with regs := c.regs.sset d x } := by
  rw [State.setS, h.me, h.cur]; exact h.setRegs _

theorem OnlyCtx.setV {s t : State} {c : Ctx} (h : OnlyCtx s t s.cur c) (d : Reg) (x : VReg) :
    OnlyCtx s (t.setV d x) s.cur { c with regs := c.regs.vset d x } := by
  rw [State.setV, h.me, h.cur]; exact h.setRegs _

theorem OnlyCtx.setP {s t : State} {c : Ctx} (h : OnlyCtx s t s.cur c) (d : BitVec 3) (x : PReg) :
    OnlyCtx s (t.setP d x) s.cur { c with regs := c.regs.pset d x } := by
  rw [State.setP, h.me, h.cur]; exact h.setRegs _

theorem OnlyCtx.addFlags {s t : State} {c : Ctx} (h : OnlyCtx s t s.cur c) (f : BitVec 5) :
    OnlyCtx s (t.addFlags f) s.cur { c with ctl := { c.ctl with fflags := c.ctl.fflags ||| f } } := by
  rw [State.addFlags, h.me, h.cur]; exact h.setCtl _

theorem OnlyCtx.advance {s t : State} {c : Ctx} (h : OnlyCtx s t s.cur c) :
    OnlyCtx s t.advance s.cur { c with regs := c.regs.advance } := by
  rw [State.advance, h.me, h.cur]; exact h.setRegs _

theorem OnlyCtx.goto {s t : State} {c : Ctx} (h : OnlyCtx s t s.cur c) (x : Word) :
    OnlyCtx s (t.goto x) s.cur { c with regs := { c.regs with pc := x, ri := 0, rep := none } } := by
  rw [State.goto, h.me, h.cur]; exact h.setRegs _

/-- The issuing context, unchanged so far. -/
theorem OnlyCtx.start (s : State) : OnlyCtx s s s.cur s.me := OnlyCtx.refl s s.cur

/-! ### The endings of a word -/

/-- A word that writes a scalar register and completes. -/
theorem State.done_only (s : State) (d : Reg) (x : Word) :
    ∃ t, s.done d x = .next t ∧ OnlyRegs s t (s.me.regs.sset d x).advance :=
  ⟨_, rfl, ((OnlyCtx.start s).setS d x).advance⟩

theorem sets_of_done {i : Instr} {s : State} {d : Reg} {x y : Word} (h : exec i s = s.done d x) (e : x = y) : SetsS i s d y := by
  subst e
  obtain ⟨t, ht, ho⟩ := s.done_only d x
  exact ⟨t, h.trans ht, ho⟩

/-- A word that adds flags, writes a scalar register and completes. -/
theorem setsF_of_done {i : Instr} {s : State} {d : Reg} {x y : Word} {f g : BitVec 5} (h : exec i s = (s.addFlags f).done d x)
    (e : x = y) (ef : f = g) : SetsF i s (s.me.regs.sset d y) g := by
  subst e ef
  exact ⟨_, h, (((OnlyCtx.start s).addFlags f).setS d x).advance⟩

/-- A word that writes a vector register and completes. -/
theorem setsV_of_vdone {i : Instr} {s : State} {d : Reg} {x : VReg} (h : exec i s = .next (s.setV d x).advance) : SetsV i s d x :=
  ⟨_, h, ((OnlyCtx.start s).setV d x).advance⟩

/-- A word that writes a predicate and completes. -/
theorem setsP_of_pdone {i : Instr} {s : State} {d : BitVec 3} {x : PReg} (h : exec i s = .next (s.setP d x).advance) : SetsP i s d x :=
  ⟨_, h, ((OnlyCtx.start s).setP d x).advance⟩

/-- A word that adds flags, writes a vector register and completes. -/
theorem setsF_of_vdone {i : Instr} {s : State} {d : Reg} {x : VReg} {f : BitVec 5}
    (h : exec i s = .next ((s.addFlags f).setV d x).advance) : SetsF i s (s.me.regs.vset d x) f :=
  ⟨_, h, (((OnlyCtx.start s).addFlags f).setV d x).advance⟩

/-- A word that adds flags, writes a predicate and completes. -/
theorem setsF_of_pdone {i : Instr} {s : State} {d : BitVec 3} {x : PReg} {f : BitVec 5}
    (h : exec i s = .next ((s.addFlags f).setP d x).advance) : SetsF i s (s.me.regs.pset d x) f :=
  ⟨_, h, (((OnlyCtx.start s).addFlags f).setP d x).advance⟩

/-- A word that only completes. -/
theorem sets_of_advance {i : Instr} {s : State} (h : exec i s = .next s.advance) : Sets i s s.me.regs :=
  ⟨_, h, (OnlyCtx.start s).advance⟩

end Sys2Proof.Machine
end

