-- ==== Sys2Proof/Laws/Access.lean ====
section
/-! SUPPORT. What an access leaves: the gate entries and cache bookkeeping it may change, the bytes a write changes, and what the checks of an
access answer. -/

set_option Elab.async false

namespace Sys2Proof.Machine

/-! ### Which stash lines stand in for memory -/

/-- Whether a core's mappings own the line of pa (R162). -/
def owns (pa : Nat) (m : Mapping) : Option Nat :=
  if m.writable then
    match m.offOf pa with
    | some off => if m.filled.contains (off / 64) then some off else none
    | none => none
  else none

def ownedIn (pa : Nat) (l : List Mapping) : Option Nat := l.findSome? (owns pa)

theorem findSome_pair {α β : Type} (k : β) (f : α → Option β) (l : List α) :
    (l.findSome? fun m => (f m).map fun off => (k, off)) = (l.findSome? f).map fun off => (k, off) := by
  induction l with
  | nil => rfl
  | cons a l ih =>
    simp only [List.findSome?_cons]
    cases f a with
    | none => exact ih
    | some b => rfl

theorem stashAt_eq (s : State) (pa : Nat) : s.stashAt pa = s.cores.findSome? fun kc => (ownedIn pa kc.2.maps).map fun off => (kc.1, off) := by
  unfold State.stashAt ownedIn
  congr 1
  funext kc
  rw [← findSome_pair]
  congr 1
  funext m
  unfold owns
  cases m.writable
  · rfl
  · simp only [if_true]
    cases m.offOf pa with
    | none => rfl
    | some off =>
      simp only
      cases m.filled.contains (off / 64) <;> rfl

theorem stashAt_none {s : State} {pa : Nat} : s.stashAt pa = none ↔ ∀ kc ∈ s.cores, ownedIn pa kc.2.maps = none := by
  rw [stashAt_eq, List.findSome?_eq_none_iff]
  constructor
  · intro h kc hk
    have := h kc hk
    simpa using this
  · intro h kc hk
    simp [h kc hk]

theorem SMap.mem_erase {α : Type} (m : SMap α) (i : Nat) (e : Nat × α) (h : e ∈ SMap.erase m i) : e ∈ m := by
  induction m with
  | nil => exact h
  | cons a m ih =>
    obtain ⟨k, v⟩ := a
    simp only [SMap.erase] at h
    split at h
    · exact List.mem_cons_of_mem _ (ih h)
    · rcases List.mem_cons.1 h with rfl | h
      · simp
      · exact List.mem_cons_of_mem _ (ih h)

theorem SMap.mem_insert {α : Type} (m : SMap α) (i : Nat) (x : α) (e : Nat × α) (h : e ∈ SMap.insert m i x) : e ∈ m ∨ e = (i, x) := by
  induction m with
  | nil => right; simpa [SMap.insert] using h
  | cons a m ih =>
    obtain ⟨k, v⟩ := a
    simp only [SMap.insert] at h
    split at h
    · rcases List.mem_cons.1 h with rfl | h
      · right; rfl
      · left; exact h
    · split at h
      · rcases List.mem_cons.1 h with rfl | h
        · right; rfl
        · left; exact List.mem_cons_of_mem _ h
      · rcases List.mem_cons.1 h with rfl | h
        · left; simp
        · rcases ih h with h | h
          · left; exact List.mem_cons_of_mem _ h
          · right; exact h

/-- An entry of a written map is an entry of the map, or the one written. -/
theorem SMap.mem_write {α : Type} [DecidableEq α] (d : α) (m : SMap α) (i : Nat) (x : α) (e : Nat × α) (h : e ∈ SMap.write d m i x) :
    e ∈ m ∨ e = (i, x) := by
  unfold SMap.write at h
  split at h
  · exact Or.inl (SMap.mem_erase m i e h)
  · exact SMap.mem_insert m i x e h

theorem SMap.read_mem {α : Type} (d : α) (m : SMap α) (k : Nat) : SMap.read d m k = d ∨ (k, SMap.read d m k) ∈ m := by
  induction m with
  | nil => left; rfl
  | cons a m ih =>
    obtain ⟨i, v⟩ := a
    simp only [SMap.read]
    split
    · next h => subst h; right; simp
    · rcases ih with h | h
      · left; exact h
      · right; exact List.mem_cons_of_mem _ h

/-- A core rewritten with the same mappings leaves unowned lines unowned. -/
theorem stashAt_setCore {s : State} {pa k : Nat} {c : Core} (hc : c.maps = (s.coreOf k).maps) (h : s.stashAt pa = none) :
    (s.setCore k c).stashAt pa = none := by
  rw [stashAt_none] at h ⊢
  intro kc hk
  rcases SMap.mem_write _ _ _ _ _ hk with h1 | h1
  · exact h kc h1
  · subst h1
    show ownedIn pa c.maps = none
    rw [hc]
    rcases SMap.read_mem ({} : Core) s.cores k with h2 | h2
    · rw [State.coreOf, h2]; rfl
    · exact h _ h2

/-! ### Poison -/

/-- Two bytes of a line are owned alike (R162). -/
theorem owns_line (pa qa : Nat) (m : Mapping) (h : pa / 64 = qa / 64) (hn : owns pa m = none) : owns qa m = none := by
  have h1 : pa / 4096 = qa / 4096 := by omega
  unfold owns at hn ⊢
  split
  · next hw =>
    rw [if_pos hw] at hn
    unfold Mapping.offOf at hn ⊢
    rw [← h1]
    cases hf : m.frames.findIdx? (· == pa / 4096) with
    | none => rfl
    | some i =>
      rw [hf] at hn
      simp only [Option.map_some] at hn ⊢
      rw [show ((m.spage + i) * 4096 + qa % 4096) / 64 = ((m.spage + i) * 4096 + pa % 4096) / 64 by omega]
      split at hn
      · cases hn
      · next hc => rw [if_neg hc]
  · rfl

theorem stashAt_line {s : State} {pa qa : Nat} (h : pa / 64 = qa / 64) (hn : s.stashAt pa = none) : s.stashAt qa = none := by
  rw [stashAt_none] at hn ⊢
  intro kc hk
  have := hn kc hk
  unfold ownedIn at this ⊢
  rw [List.findSome?_eq_none_iff] at this ⊢
  exact fun m hm => owns_line pa qa m h (this m hm)

/-- Where no stash line stands in, a read is poisoned by the lines of memory alone (R299). -/
theorem isPoisoned_unowned {s : State} {pa n : Nat} (h0 : 0 < n) (h : ∀ j, j < n → s.stashAt (pa + j) = none) :
    s.isPoisoned pa n = s.poison.any fun l => decide (l * 64 < pa + n) && decide (pa < l * 64 + 64) := by
  unfold State.isPoisoned
  rw [show (List.range n).any _ = false from List.any_eq_false.2 fun i hi => by
    rw [h i (List.mem_range.1 hi)]
    exact Bool.false_ne_true]
  rw [Bool.and_false, Bool.or_false]
  congr 1
  funext l
  by_cases ha : l * 64 < pa + n
  · by_cases hb : pa < l * 64 + 64
    · have : s.stashAt (l * 64) = none := by
        by_cases hle : l * 64 ≤ pa
        · exact stashAt_line (by omega) (h 0 h0)
        · have := h (l * 64 - pa) (by omega)
          rwa [show pa + (l * 64 - pa) = l * 64 by omega] at this
      simp [this]
    · simp [hb]
  · simp [ha]

/-! ### What memory, tables and rings show -/

/-- t shows the bytes that s shows: the same cores, memory, windows and poison. -/
def SameView (s t : State) : Prop := t.cores = s.cores ∧ t.mem = s.mem ∧ t.win = s.win ∧ t.poison = s.poison

theorem SameView.stashAt {s t : State} (h : SameView s t) (a : Nat) : t.stashAt a = s.stashAt a := by
  rw [State.stashAt, State.stashAt, h.1]

theorem SameView.coreOf {s t : State} (h : SameView s t) (k : Nat) : t.coreOf k = s.coreOf k := by
  rw [State.coreOf, State.coreOf, h.1]

theorem SameView.win! {s t : State} (h : SameView s t) (a : Nat) : t.win! a = s.win! a := by
  rw [State.win!, State.win!, h.2.2.1]

theorem SameView.physByte {s t : State} (h : SameView s t) (a : Nat) : t.physByte a = s.physByte a := by
  unfold State.physByte
  rw [h.stashAt, h.2.1]
  simp only [h.coreOf]

theorem SameView.physRead {s t : State} (h : SameView s t) (a n : Nat) : t.physRead a n = s.physRead a n := by
  induction n generalizing a with
  | zero => rfl
  | succ n ih => rw [State.physRead, State.physRead, ih, h.physByte]

theorem SameView.physBytes {s t : State} (h : SameView s t) (a n : Nat) : t.physBytes a n = s.physBytes a n := by
  induction n generalizing a with
  | zero => rfl
  | succ n ih => rw [State.physBytes, State.physBytes, ih, h.physByte]

theorem SameView.isPoisoned {s t : State} (h : SameView s t) (a n : Nat) : t.isPoisoned a n = s.isPoisoned a n := by
  unfold State.isPoisoned
  simp only [h.stashAt, h.coreOf, h.1, h.2.2.2]

theorem SameView.walkTables {s t : State} (h : SameView s t) (q : Byte) (va : Nat) : t.walkTables q va = s.walkTables q va := by
  have hw : ∀ fuel l e, t.walkLoop va fuel l e = s.walkLoop va fuel l e := by
    intro fuel
    induction fuel with
    | zero => intro l e; rfl
    | succ f ih =>
      intro l e
      unfold State.walkLoop
      simp only [h.physRead, h.isPoisoned, ih]
  unfold State.walkTables
  rw [hw, h.win!]

theorem SameView.paOf {s t : State} (h : SameView s t) (q : Byte) (va : Nat) : t.paOf q va = s.paOf q va := by
  unfold State.paOf
  rw [h.walkTables]

theorem SameView.regionTable {s t : State} (h : SameView s t) (p : Nat) : t.regionTable p = s.regionTable p := by
  unfold State.regionTable
  simp only [h.win!, h.physBytes]

theorem SameView.regionAt {s t : State} (h : SameView s t) (pa : Nat) : t.regionAt pa = s.regionAt pa := by
  unfold State.regionAt
  simp only [h.regionTable, h.paOf]

/-! ### The gate and the caches -/

/-- What passing the gate leaves: only entries in the gate of the context's core (R386). -/
theorem keepGate_frame (s : State) (cid : Nat) (r : RegionEnt) (va : Nat) :
    { s.keepGate cid r va with cores := s.cores } = s ∧
      (∀ k, { (s.keepGate cid r va).coreOf k with gateR := (s.coreOf k).gateR, gateC := (s.coreOf k).gateC } = s.coreOf k) ∧
      ∀ pa, s.stashAt pa = none → (s.keepGate cid r va).stashAt pa = none := by
  have put : ∀ (c : Core), { c with gateR := (s.coreOf (coreKey cid)).gateR, gateC := (s.coreOf (coreKey cid)).gateC } = s.coreOf (coreKey cid) →
      c.maps = (s.coreOf (coreKey cid)).maps →
      { s.setCore (coreKey cid) c with cores := s.cores } = s ∧
      (∀ k, { (s.setCore (coreKey cid) c).coreOf k with gateR := (s.coreOf k).gateR, gateC := (s.coreOf k).gateC } = s.coreOf k) ∧
      ∀ pa, s.stashAt pa = none → (s.setCore (coreKey cid) c).stashAt pa = none := by
    intro c hc hm
    refine ⟨rfl, fun k => ?_, fun pa h => stashAt_setCore hm h⟩
    rw [State.coreOf_setCore]
    split
    · next h => subst h; exact hc
    · rfl
  unfold State.keepGate
  dsimp only
  split
  · split
    · exact put _ rfl rfl
    · exact ⟨rfl, fun k => rfl, fun _ h => h⟩
  · exact put _ rfl rfl

/-- t is s but for what the caches and the directory hold. -/
def CachesOnly (s t : State) : Prop := { t with dir := s.dir, caches := s.caches } = s

theorem CachesOnly.refl (s : State) : CachesOnly s s := rfl

theorem CachesOnly.trans {s t u : State} (h : CachesOnly s t) (h' : CachesOnly t u) : CachesOnly s u := by
  unfold CachesOnly at *
  show ({ ({ u with dir := t.dir, caches := t.caches } : State) with dir := s.dir, caches := s.caches } : State) = s
  rw [h', h]

theorem setCaches_caches (s : State) (c : Caches) : CachesOnly s { s with caches := c } := rfl
theorem setDir_caches (s : State) (line : Nat) (e : DirEnt) : CachesOnly s (s.setDir line e) := rfl
theorem invalidate_caches (s : State) (line : Nat) (k : Option Nat) (cpc : Bool) : CachesOnly s (s.invalidate line k cpc) := rfl

theorem l2Add_caches (s : State) (x : L2Line) : CachesOnly s (s.l2Add x) := by
  unfold State.l2Add; dsimp only; repeat' (first | exact rfl | split)

theorem l2Touch_caches (s : State) (line : Nat) (tag : Option Nat) : CachesOnly s (s.l2Touch line tag) := by
  unfold State.l2Touch; split
  · exact rfl
  · exact l2Add_caches _ _

theorem dirRoom_caches (s : State) (line : Nat) : CachesOnly s (s.dirRoom line) := by
  unfold State.dirRoom; repeat' (first | exact rfl | exact l2Add_caches _ _ | split)

theorem dirPut_caches (s : State) (line : Nat) (e : DirEnt) : CachesOnly s (s.dirPut line e) := by
  unfold State.dirPut; dsimp only; split
  · exact (dirRoom_caches s line).trans (setDir_caches _ _ _)
  · exact rfl

theorem dirTouch_caches (s : State) (line : Nat) (who : DirOwner) (write : Bool) : CachesOnly s (s.dirTouch line who write) := by
  unfold State.dirTouch; dsimp only
  repeat' (first | exact dirPut_caches _ _ _ | exact (invalidate_caches s _ _ _).trans (dirPut_caches _ _ _) | split)

theorem evicted_caches (s : State) (x : L1Line) (who : DirOwner) (last : Bool) : CachesOnly s (s.evicted x who last) := by
  have h : CachesOnly s (if x.dirty then s.l2Touch x.line x.cid else s) := by
    split
    · exact l2Touch_caches _ _ _
    · exact rfl
  unfold State.evicted
  dsimp only
  generalize (if x.dirty then s.l2Touch x.line x.cid else s) = u at h ⊢
  repeat' (first | exact h.trans (setDir_caches _ _ _) | split)

theorem l1Touch_caches (s : State) (k line cid : Nat) (write : Bool) : CachesOnly s (s.l1Touch k line cid write) := by
  unfold State.l1Touch; dsimp only
  split
  · exact rfl
  · split
    · exact (setCaches_caches s _).trans (evicted_caches _ _ _ _)
    · exact rfl

theorem cpcTouch_caches (s : State) (line : Nat) (write : Bool) : CachesOnly s (s.cpcTouch line write) := by
  unfold State.cpcTouch; dsimp only
  split
  · exact (setCaches_caches s _).trans (evicted_caches _ _ _ _)
  · exact rfl

/-- What an access to a line leaves: only the directory and what the caches hold (R286 to R295). -/
theorem touch_frame (s : State) (pa : Nat) (who : DirOwner) (tag : Option Nat) (write : Bool) :
    { s.touch pa who tag write with dir := s.dir, caches := s.caches } = s := by
  show CachesOnly s (s.touch pa who tag write)
  unfold State.touch
  dsimp only
  split
  · exact rfl
  · split
    · exact l2Touch_caches _ _ _
    · have h := (dirTouch_caches s (pa / 64) who write).trans (l2Touch_caches _ (pa / 64) tag)
      generalize ((s.dirTouch (pa / 64) who write).l2Touch (pa / 64) tag) = u at h ⊢
      repeat' (first | exact h | exact h.trans (l1Touch_caches _ _ _ _ _) | exact h.trans (cpcTouch_caches _ _ _) | split)

/-- What the accessors of a state read through a touch: everything as before. -/
theorem touchCtx_frame (s : State) (cid pa : Nat) (write : Bool) : { s.touchCtx cid pa write with dir := s.dir, caches := s.caches } = s :=
  touch_frame _ _ _ _ _

/-! ### Reading bytes -/

/-- Bytes no stash line stands in for read as memory's (R162). -/
theorem physRead_unowned (s : State) (pa n : Nat) (h : ∀ j, j < n → s.stashAt (pa + j) = none) : s.physRead pa n = s.mem.readLE pa n := by
  induction n generalizing pa with
  | zero => rfl
  | succ n ih =>
    rw [State.physRead, Memory.readLE, ih (pa + 1) (fun j hj => by rw [show pa + 1 + j = pa + (j + 1) by omega]; exact h (j + 1) (by omega))]
    have := h 0 (by omega)
    rw [Nat.add_zero] at this
    rw [State.physByte, this]

/-! ### Writing bytes -/

theorem SMap.read_map {α : Type} (d : α) (m : SMap α) (f : α → α) (hf : f d = d) (k : Nat) :
    SMap.read d (m.map fun kc => (kc.1, f kc.2)) k = f (SMap.read d m k) := by
  induction m with
  | nil => exact hf.symm
  | cons a m ih =>
    simp only [List.map_cons, SMap.read]
    split
    · rfl
    · exact ih

theorem Mapping.unfill_writable (m : Mapping) (pa : Nat) : (m.unfill pa).writable = m.writable := by
  unfold Mapping.unfill
  split
  · rfl
  · split <;> rfl

theorem ownedIn_unfill (pa pa' : Nat) (l : List Mapping) : ownedIn pa (l.map (·.unfill pa')) = ownedIn pa l := by
  unfold ownedIn
  rw [List.findSome?_map]
  congr 1
  funext m
  show owns pa (m.unfill pa') = owns pa m
  by_cases hw : m.writable = true
  · rw [show m.unfill pa' = m by unfold Mapping.unfill; rw [if_pos hw]]
  · unfold owns
    rw [if_neg (by rw [Mapping.unfill_writable]; exact hw), if_neg hw]

/-- Invalidating read-only copies changes the fill marks of read-only mappings only (R162). -/
theorem dropRO_frame (s : State) (pa : Nat) :
    { s.dropRO pa with cores := s.cores } = s ∧ (∀ k, { (s.dropRO pa).coreOf k with maps := (s.coreOf k).maps } = s.coreOf k) ∧
      ∀ a, s.stashAt a = none → (s.dropRO pa).stashAt a = none := by
  have hr : ∀ k, (s.dropRO pa).coreOf k = { s.coreOf k with maps := (s.coreOf k).maps.map (·.unfill pa) } := fun k =>
    SMap.read_map ({} : Core) s.cores (fun c => { c with maps := c.maps.map (·.unfill pa) }) rfl k
  refine ⟨rfl, fun k => by rw [hr], fun a h => ?_⟩
  rw [stashAt_none] at h ⊢
  intro kc hk
  obtain ⟨x, hx, rfl⟩ := List.mem_map.1 hk
  show ownedIn a (x.2.maps.map (·.unfill pa)) = none
  rw [ownedIn_unfill]; exact h x hx

/-- Where no stash line stands in, a write of n bytes changes memory alone: those bytes (R162). -/
theorem physPut_unowned (s : State) (pa n v : Nat) (h : ∀ j, j < n → s.stashAt (pa + j) = none) :
    s.physPut pa n v = { s with mem := s.mem.writeLE pa n v } := by
  induction n generalizing s pa v with
  | zero => rfl
  | succ n ih =>
    have h0 := h 0 (by omega)
    rw [Nat.add_zero] at h0
    have hp : s.putByte pa (BitVec.ofNat 8 v) = { s with mem := Memory.setByte s.mem pa (BitVec.ofNat 8 v) } := by
      rw [State.putByte, h0]
    rw [State.physPut, hp, ih _ _ _ (fun j hj => by
      have := h (j + 1) (by omega)
      rw [show pa + 1 + j = pa + (j + 1) by omega]; exact this)]
    rfl

/-- What an aligned write of fewer than 64 bytes to lines no stash stands in for leaves (R162, R280): the bytes, fill marks of read-only
mappings, reservations of harts. -/
theorem physWrite_unowned (s : State) (pa n v : Nat) (hn : n ≠ 64) (h : ∀ j, j < n → s.stashAt (pa + j) = none) :
    { s.physWrite pa n v with cores := s.cores, mem := s.mem, harts := s.harts } = s
      ∧ (s.physWrite pa n v).mem = s.mem.writeLE pa n v
      ∧ (∀ k, { (s.physWrite pa n v).coreOf k with maps := (s.coreOf k).maps } = s.coreOf k)
      ∧ (s.physWrite pa n v).ctxs = s.ctxs ∧ (s.physWrite pa n v).cur = s.cur := by
  obtain ⟨d1, d2, d3⟩ := dropRO_frame s pa
  have hw : s.physWrite pa n v = ((s.dropRO pa).physPut pa n v).loseResv pa n := by
    unfold State.physWrite; dsimp only; rw [if_neg hn]
  rw [hw, physPut_unowned _ _ _ _ fun j hj => d3 _ (h j hj)]
  exact ⟨rfl, rfl, d2, rfl, rfl⟩

end Sys2Proof.Machine
end

