-- ==== Sys2Proof/Laws/Answers.lean ====
section
/-! SUPPORT. Every operation that meanings share answers a next state. -/

set_option Elab.async false

namespace Sys2Proof.Laws.Answers

open Sys2Proof Sys2Proof.Machine

/-- The outcome is a next state. -/
def Ans (o : Out) : Prop := ∃ t, o = .next t

@[simp] theorem ans (t : State) : Ans (.next t) := ⟨t, rfl⟩

theorem ans_ite {c : Prop} [Decidable c] {a b : Out} (h : Ans a) (g : Ans b) : Ans (if c then a else b) := by split <;> assumption

@[simp] theorem ans_done (s : State) (d : Reg) (x : Word) : Ans (State.done s d x) := by
  unfold State.done; exact ans _

@[simp] theorem ans_trap (s : State) (code : Byte) (val : Word) : Ans (State.trap s code val) := by
  unfold State.trap; exact ans _

@[simp] theorem ans_illegal (s : State) (w : Word32) : Ans (State.illegal s w) := by
  unfold State.illegal; exact ans _

@[simp] theorem ans_finish (s : State) : Ans (State.finish s) := by
  unfold State.finish; dsimp only; repeat' (first | (with_reducible exact ans _) | (with_reducible split) | (simp; done))

@[simp] theorem ans_jump (s : State) (t : Word) : Ans (State.jump s t) := by
  unfold State.jump; split <;> exact ans _

@[simp] theorem ans_branch {n : Nat} (s : State) (taken : Bool) (off : BitVec n) : Ans (State.branch s taken off) := by
  unfold State.branch; with_reducible split <;> simp

@[simp] theorem ans_joinStream (s : State) (d : Reg) (t : BitVec 13) (start : Bool) : Ans (State.joinStream s d t start) := by
  unfold State.joinStream; dsimp only; repeat' (first | (with_reducible exact ans _) | (with_reducible split) | (simp; done))

@[simp] theorem ans_loadAt (s : State) (d : Reg) (ea : Word) (n : Nat) (signed : Bool) : Ans (State.loadAt s d ea n signed) := by
  unfold State.loadAt; with_reducible split <;> with_reducible first | exact ans _ | split <;> exact ans _

@[simp] theorem ans_storeAt (s : State) (ea : Word) (n : Nat) (v : Word) : Ans (State.storeAt s ea n v) := by
  unfold State.storeAt; with_reducible split <;> with_reducible first | exact ans _ | split <;> exact ans _

@[simp] theorem ans_ldv (s : State) (mode : BitVec 2) (d a b : Reg) (p : BitVec 3) (z : BitVec 2) : Ans (State.ldv s mode d a b p z) := by
  unfold State.ldv; dsimp only; repeat' (first | (with_reducible exact ans _) | (with_reducible split))

@[simp] theorem ans_amo (s : State) (op : BitVec 4) (d a b : Reg) (q z : BitVec 1) : Ans (State.amo s op d a b q z) := by
  unfold State.amo; dsimp only; split <;> exact ans _

@[simp] theorem ans_push (s : State) (e : Nat) (ss : Reg) (w : BitVec 2) (m : BitVec 1) (i : BitVec 15) : Ans (State.push s e ss w m i) := by
  unfold State.push; dsimp only; repeat' (first | (with_reducible exact ans _) | (with_reducible split) | (simp; done))

@[simp] theorem ans_cpStep (s : State) (k e : Nat) (c : Cmd) (n i aux res0 : Nat) (why : Option EStop) : Ans (State.cpStep s k e c n i aux res0 why) := by
  unfold State.cpStep; exact ans _

@[simp] theorem ans_wordCopy (s : State) (k e : Nat) (c : Cmd) (n : Nat) (src : Nat → State → Except EStop Int) (dst : Nat → Int) : Ans (State.wordCopy s k e c n src dst) := by
  unfold State.wordCopy; exact ans _

@[simp] theorem ans_fpDone (s : State) (d : Reg) (r : Rounded) : Ans (State.fpDone s d r) := by
  unfold State.fpDone; exact ans _

@[simp] theorem ans_mxDone (s : State) (k : Nat) (c : Cmd) (r : Regs) : Ans (State.mxDone s k c r) := by
  unfold State.mxDone; exact ans _

@[simp] theorem ans_mxFail (s : State) (k : Nat) (c : Cmd) (reason : Nat) : Ans (State.mxFail s k c reason) := by
  unfold State.mxFail; exact ans _

@[simp] theorem ans_sendMsg (s : State) (d : Reg) (kind h pcid : Nat) (dev : Option Byte) (seq right : Nat) (v : VReg) : Ans (State.sendMsg s d kind h pcid dev seq right v) := by
  unfold State.sendMsg; dsimp only; split <;> exact ans _

@[simp] theorem ans_htabFault (s : State) (h : BitVec 6) : Ans (State.htabFault s h) := by
  unfold State.htabFault; exact ans _

@[simp] theorem ans_vote (s : State) (d a : Reg) (c : BitVec 5) (isAnd : Bool) : Ans (State.vote s d a c isAnd) := by
  unfold State.vote; dsimp only; repeat' (first | (with_reducible exact ans _) | (with_reducible split) | (simp; done))

@[simp] theorem ans_applyTree (s : State) (n : Nat) (x : TreeCmd) (r : TreeRun) : Ans (State.applyTree s n x r) := by
  unfold State.applyTree; exact ans _

@[simp] theorem ans_treeEvent (s : State) (n kind : Nat) (run : State → Cmd → Tree → TreeRun) : Ans (State.treeEvent s n kind run) := by
  unfold State.treeEvent; repeat' (first | (with_reducible exact ans _) | (with_reducible split) | (simp; done))

@[simp] theorem ans_vdone (s : State) (d : Reg) (x : VReg) : Ans (State.vdone s d x) := by
  unfold State.vdone; exact ans _

@[simp] theorem ans_pdone (s : State) (d : BitVec 3) (x : PReg) : Ans (State.pdone s d x) := by
  unfold State.pdone; exact ans _

@[simp] theorem ans_vint (s : State) (d a b : Reg) (p : BitVec 3) (e : BitVec 2) (z : BitVec 1) (f : Nat → Nat → Nat → Nat → Nat) : Ans (State.vint s d a b p e z f) := by
  unfold State.vint; exact ans _

@[simp] theorem ans_vred (s : State) (d a : Reg) (p : BitVec 3) (e : BitVec 2) (f : Nat → Nat → Nat → Nat) : Ans (State.vred s d a p e f) := by
  unfold State.vred; exact ans _

@[simp] theorem ans_vfp (s : State) (d : Reg) (w : Nat) (p : PReg) (z : Bool) (old : VReg) (r : Nat → Rounded) : Ans (State.vfp s d w p z old r) := by
  unfold State.vfp; exact ans _

@[simp] theorem ans_vfp2 (s : State) (d a b : Reg) (p : BitVec 3) (e z f : BitVec 1) (op : Fmt → Mode → Nat → Nat → Nat → Rounded) : Ans (State.vfp2 s d a b p e z f op) := by
  unfold State.vfp2; exact ans _

@[simp] theorem ans_vfred (s : State) (d a : Reg) (p : BitVec 3) (e f : BitVec 1) (op : Fmt → Mode → Nat → Nat → Rounded) : Ans (State.vfred s d a p e f op) := by
  unfold State.vfred; exact ans _

@[simp] theorem ans_vcmp (s : State) (d : BitVec 3) (a b : Reg) (p : BitVec 3) (e : BitVec 2) (z : BitVec 1) (c : Nat → Nat → Nat → Bool) : Ans (State.vcmp s d a b p e z c) := by
  unfold State.vcmp; exact ans _

@[simp] theorem ans_vfcmp (s : State) (d : BitVec 3) (a b : Reg) (p : BitVec 3) (z : BitVec 1) (fm : Fmt) (c : Nat → Nat → Bool × BitVec 5) : Ans (State.vfcmp s d a b p z fm c) := by
  unfold State.vfcmp; exact ans _

@[simp] theorem ans_vperm (s : State) (d : Reg) (p : BitVec 3) (e : BitVec 2) (z : BitVec 1) (src : Nat → Nat → Nat) : Ans (State.vperm s d p e z src) := by
  unfold State.vperm; exact ans _

@[simp] theorem ans_vwiden (s : State) (d a : Reg) (src : Fmt) (k : Nat) (p : BitVec 3) (z : BitVec 1) : Ans (State.vwiden s d a src k p z) := by
  unfold State.vwiden; exact ans _

@[simp] theorem ans_vnarrow (s : State) (d a : Reg) (dst : Fmt) (k : Nat) (p : BitVec 3) (z : BitVec 1) : Ans (State.vnarrow s d a dst k p z) := by
  unfold State.vnarrow; exact ans _

@[simp] theorem ans_vload (s : State) (d : Reg) (p : PReg) (w : Nat) (z : Bool) (l : List (Nat × Word)) : Ans (State.vload s d p w z l) := by
  unfold State.vload; with_reducible split <;> with_reducible first | exact ans _ | split <;> exact ans _

@[simp] theorem ans_vstore (s : State) (t : Reg) (w : Nat) (l : List (Nat × Word)) : Ans (State.vstore s t w l) := by
  unfold State.vstore; with_reducible split <;> with_reducible first | exact ans _ | split <;> exact ans _

@[simp] theorem ans_sfuSend (s : State) (fn : BitVec 3) (d a : Reg) (p : BitVec 3) (z : BitVec 1) : Ans (State.sfuSend s fn d a p z) := by
  unfold State.sfuSend; exact ans _

end Sys2Proof.Laws.Answers
end

