-- ==== Sys2Proof/Laws/Bits.lean ====
section
/-! SUPPORT. Fields of a word that is written as a row of fields. -/

set_option Elab.async false

namespace Sys2Proof.Laws.Bits

/-- A field above the last part of a row lies in the parts before it. -/
theorem hi {v w : Nat} {x : BitVec v} {y : BitVec w} {a n : Nat} {r : BitVec n} (e : x.extractLsb' (a - w) n = r)
    (h : w ≤ a := by decide) : (x ++ y).extractLsb' a n = r := (BitVec.extractLsb'_append_eq_of_le h).trans e

/-- A field inside the last part of a row. -/
theorem lo {v w : Nat} {x : BitVec v} {y : BitVec w} {a n : Nat} {r : BitVec n} (e : y.extractLsb' a n = r)
    (h : a + n ≤ w := by decide) : (x ++ y).extractLsb' a n = r := (BitVec.extractLsb'_append_eq_of_add_le h).trans e

/-- A field of a named word. -/
theorem at_ {v : Nat} {u w : BitVec v} {a n : Nat} {r : BitVec n} (h : u = w) (e : w.extractLsb' a n = r) : u.extractLsb' a n = r :=
  h ▸ e

/-- A field that is a whole part. -/
theorem full {w : Nat} {x : BitVec w} : x.extractLsb' 0 w = x := BitVec.extractLsb'_eq_self

end Sys2Proof.Laws.Bits
end

