-- ==== Sys2Proof/Laws/Canonical.lean ====
section
/-! SUPPORT. Every operation and every instruction keeps the memory in its canonical form and never lowers SVNMIN: one lemma for each
definition that gives a state. -/

set_option Elab.async false

namespace Sys2Proof.Laws.Canonical

open Sys2Proof Sys2Proof.Machine

variable {ν : Nat}

/-- The memory of s is in canonical form, and SVNMIN is at least ν. -/
structure W (ν : Nat) (s : State) : Prop where
  mem : Memory.wf s.mem = true
  svn : ν ≤ s.svnMin
/-- The next state, if the outcome has one, is in W. -/
structure OutW (ν : Nat) (o : Out) : Prop where
  h : ∀ t, o = .next t → W ν t
/-- The same for the ways in which an act of an engine stops. -/
def GS (ν : Nat) : EStop → Prop
  | .dead t => W ν t
  | _ => True
/-- The same for a state that may be absent, and for one beside other results. -/
structure GO (ν : Nat) (o : Option State) : Prop where
  h : ∀ t, o = some t → W ν t
def GP (ν : Nat) {α : Type} (p : α × State) : Prop := W ν p.2
def GPP (ν : Nat) {α β : Type} (p : α × β × State) : Prop := W ν p.2.2
def GP5 (ν : Nat) {α β γ δ : Type} (p : α × β × γ × δ × State) : Prop := W ν p.2.2.2.2
structure GOP (ν : Nat) {α : Type} (o : Option (α × State)) : Prop where
  h : ∀ p, o = some p → W ν p.2
def TT {α : Type} (_ : α) : Prop := True
def GE (ν : Nat) {β : Type} (P : β → Prop) : Except EStop β → Prop
  | .ok b => P b
  | .error e => GS ν e
def GW (ν : Nat) : Option EStop → Prop
  | some e => GS ν e
  | none => True
def GR (ν : Nat) {α : Type} (p : State × α × Option EStop) : Prop := W ν p.1 ∧ GW ν p.2.2
def GR2 (ν : Nat) (p : State × Option EStop) : Prop := W ν p.1 ∧ GW ν p.2
def GT (ν : Nat) (r : TreeRun) : Prop := W ν r.after ∧ GW ν r.why
/-- The same for the results of a fetch, a check, a load and a translation. -/
def GF (ν : Nat) : Fetched → Prop
  | .stop t => W ν t
  | _ => True
def GC (ν : Nat) : Checked → Prop
  | .ok _ _ t => W ν t
  | .stop t => W ν t
def GV (ν : Nat) : VChecked → Prop
  | .ok _ t => W ν t
  | .stop t => W ν t
def GLd (ν : Nat) : Loaded → Prop
  | .val _ t => W ν t
  | .stop t => W ν t
def GVL (ν : Nat) : VLoaded → Prop
  | .vals _ t => W ν t
  | .stop t => W ν t
def GX (ν : Nat) : Xlated → Prop
  | .ok _ t => W ν t
  | .wait t => W ν t
  | _ => True
def GN (ν : Nat) : NextWord → Prop
  | .stop t => W ν t
  | _ => True
theorem W_cut {P : Prop} (x : State) (h : W ν x) (g : W ν x → P) : P := g h
theorem reset_wf : Memory.wf State.reset.mem = true := by rfl
theorem OutW_next {t : State} (h : W ν t) : OutW ν (.next t) := ⟨fun u hu => by cases hu; exact h⟩
theorem OutW_ite {c : Prop} [Decidable c] {a b : Out} (h : OutW ν a) (g : OutW ν b) : OutW ν (if c then a else b) := by split <;> assumption
theorem W_ite {c : Prop} [Decidable c] {a b : State} (h : c → W ν a) (g : ¬ c → W ν b) : W ν (if c then a else b) := by split <;> simp_all
theorem toW {s : State} (h : W ν s) : Memory.wf s.mem = true := h.mem
theorem toN {s : State} (h : W ν s) : ν ≤ s.svnMin := h.svn
theorem W_mk {s : State} (h : Memory.wf s.mem = true) (g : ν ≤ s.svnMin) : W ν s := ⟨h, g⟩
theorem W_same {s t : State} (h : W ν s) (hm : t.mem = s.mem) (hn : t.svnMin = s.svnMin) : W ν t := ⟨hm ▸ h.mem, hn ▸ h.svn⟩
theorem W_mem {s : State} {m : Memory} (h : W ν s) (hm : Memory.wf m = true) : W ν { s with mem := m } := ⟨hm, h.svn⟩
theorem le_raise {a n : Nat} (h : ν ≤ a) : ν ≤ Nat.max a n := Nat.le_trans h (Nat.le_max_left ..)
theorem por_reset (s : State) (h : W ν s) : W ν { State.reset with agenda := s.agenda, flash := s.flash, svnMin := s.svnMin } := W_mk reset_wf h.svn
theorem M_set {m : Memory} {a : Nat} {b : Byte} (h : Memory.wf m = true) : Memory.wf (m.setByte a b) = true := Memory.wf_setByte m a b h
theorem M_LE {m : Memory} {a n x : Nat} (h : Memory.wf m = true) : Memory.wf (m.writeLE a n x) = true := Memory.wf_writeLE m a n x h
theorem M_put {m : Memory} (a : Nat) (l : List Byte) (h : Memory.wf m = true) : Memory.wf (m.putBytes a l) = true := by
  induction l generalizing m a with
  | nil => exact h
  | cons b l ih => exact ih _ (M_set h)
theorem M_fold {α : Type} (f : Memory → α → Memory) (hf : ∀ m x, Memory.wf m = true → Memory.wf (f m x) = true) :
    ∀ (l : List α) (m : Memory), Memory.wf m = true → Memory.wf (l.foldl f m) = true
  | [], _, h => h
  | x :: l, m, h => M_fold f hf l _ (hf m x h)
theorem M_span {m : Memory} {a n : Nat} {d : SMap Byte} (h : Memory.wf m = true) : Memory.wf (m.setSpan a n d) = true :=
  M_fold _ (fun _ _ h => M_set h) _ _ (M_fold _ (fun _ _ h => M_set h) _ _ h)
theorem foldl_wf {α : Type} (f : State → α → State) (l : List α) (hf : ∀ s x, W ν s → W ν (f s x)) : ∀ s, W ν s → W ν (l.foldl f s) := by
  induction l with
  | nil => intro s h; exact h
  | cons a l ih => intro s h; exact ih _ (hf _ _ h)
theorem foldNat_wf (f : State → Nat → State) (n : Nat) : ∀ (lo : Nat), (∀ s x, W ν s → W ν (f s x)) → ∀ s, W ν s → W ν (foldNat f s lo n) := by
  induction n with
  | zero => intro lo hf s h; exact h
  | succ n ih => intro lo hf s h; exact ih _ hf _ (hf _ _ h)
-- uses
theorem GO_u {x t} (h : GO ν x) (e : x = some t) : W ν t := h.h t e
theorem GO_d {x s} (h : GO ν x) (hs : W ν s) : W ν (x.getD s) := by
  cases x
  · exact hs
  · exact h.h _ rfl
theorem GOP_u {α : Type} {a : α} {x t} (h : GOP ν x) (e : x = some (a, t)) : W ν t := h.h _ e
theorem GP_u {α : Type} {a : α} {x t} (h : GP ν x) (e : x = (a, t)) : W ν t := by subst e; exact h
theorem GP_s {α : Type} {x : α × State} (h : GP ν x) : W ν x.2 := h
theorem GP_su {α : Type} {x y : α × State} (h : GP ν x) (e : x = y) : W ν y.2 := by subst e; exact h
theorem GE_u {x t} (h : GE ν (W ν) x) (e : x = .ok t) : W ν t := by subst e; exact h
theorem GEP_u {α : Type} {a : α} {x t} (h : GE ν (GP ν) x) (e : x = .ok (a, t)) : W ν t := by subst e; exact h
theorem GEPP_u {α β : Type} {a : α} {b : β} {x t} (h : GE ν (GPP ν) x) (e : x = .ok (a, b, t)) : W ν t := by subst e; exact h
theorem GEP5_u {α β γ δ : Type} {a : α} {b : β} {c : γ} {d : δ} {x t} (h : GE ν (GP5 ν) x) (e : x = .ok (a, b, c, d, t)) : W ν t := by subst e; exact h
theorem GE_e {β : Type} {P : β → Prop} {x e} (h : GE ν P x) (g : x = .error e) : GS ν e := by subst g; exact h
theorem GE_eW {x e} (h : GE ν (W ν) x) (g : x = .error e) : GS ν e := GE_e h g
theorem GE_eP {α : Type} {x : Except EStop (α × State)} {e} (h : GE ν (GP ν) x) (g : x = .error e) : GS ν e := GE_e h g
theorem GE_ePP {α β : Type} {x : Except EStop (α × β × State)} {e} (h : GE ν (GPP ν) x) (g : x = .error e) : GS ν e := GE_e h g
theorem GE_eP5 {α β γ δ : Type} {x : Except EStop (α × β × γ × δ × State)} {e} (h : GE ν (GP5 ν) x) (g : x = .error e) : GS ν e := GE_e h g
theorem GF_u {x t} (h : GF ν x) (e : x = .stop t) : W ν t := by subst e; exact h
theorem GC_u {x t r p} (h : GC ν x) (e : x = .ok r p t) : W ν t := by subst e; exact h
theorem GC_v {x t} (h : GC ν x) (e : x = .stop t) : W ν t := by subst e; exact h
theorem GV_u {x t l} (h : GV ν x) (e : x = .ok l t) : W ν t := by subst e; exact h
theorem GV_v {x t} (h : GV ν x) (e : x = .stop t) : W ν t := by subst e; exact h
theorem GLd_u {x t v} (h : GLd ν x) (e : x = .val v t) : W ν t := by subst e; exact h
theorem GLd_v {x t} (h : GLd ν x) (e : x = .stop t) : W ν t := by subst e; exact h
theorem GVL_u {x t v} (h : GVL ν x) (e : x = .vals v t) : W ν t := by subst e; exact h
theorem GVL_v {x t} (h : GVL ν x) (e : x = .stop t) : W ν t := by subst e; exact h
theorem GX_u {x t v} (h : GX ν x) (e : x = .ok v t) : W ν t := by subst e; exact h
theorem GX_v {x t} (h : GX ν x) (e : x = .wait t) : W ν t := by subst e; exact h
theorem GN_v {x t} (h : GN ν x) (e : x = .stop t) : W ν t := by subst e; exact h
theorem GR_u {α : Type} {a : α} {o x t} (h : GR ν x) (e : x = (t, a, o)) : W ν t := by subst e; exact h.1
theorem GR_w {α : Type} {a : α} {o x t} (h : GR ν x) (e : x = (t, a, o)) : GW ν o := by subst e; exact h.2
theorem GR2_u {o x t} (h : GR2 ν x) (e : x = (t, o)) : W ν t := by subst e; exact h.1
theorem GR2_w {o x t} (h : GR2 ν x) (e : x = (t, o)) : GW ν o := by subst e; exact h.2
theorem GT_a {r} (h : GT ν r) : W ν r.after := h.1
theorem GT_w {r} (h : GT ν r) : GW ν r.why := h.2
theorem GW_d {x t} (h : GW ν x) (e : x = some (.dead t)) : W ν t := by subst e; exact h
theorem GW_d2 {t} (h : GW ν (some (.dead t))) : W ν t := h
theorem GR_x {α : Type} {a : α} {e x t} (h : GR ν x) (g : x = (t, a, some e)) : GS ν e := by subst g; exact h.2
theorem GR2_x {e x t} (h : GR2 ν x) (g : x = (t, some e)) : GS ν e := by subst g; exact h.2
theorem GW_x {e x} (h : GW ν x) (g : x = some e) : GS ν e := by subst g; exact h
-- makers
theorem GO_s {t} (h : W ν t) : GO ν (some t) := ⟨fun u hu => by cases hu; exact h⟩
theorem GO_n : GO ν none := ⟨fun u hu => by cases hu⟩
theorem GOP_s {α : Type} {a : α} {t} (h : W ν t) : GOP ν (some (a, t)) := ⟨fun u hu => by cases hu; exact h⟩
theorem GOP_n {α : Type} : GOP ν (none : Option (α × State)) := ⟨fun u hu => by cases hu⟩
theorem GP_m {α : Type} {a : α} {t} (h : W ν t) : GP ν (a, t) := h
theorem GPP_m {α β : Type} {a : α} {b : β} {t} (h : W ν t) : GPP ν (a, b, t) := h
theorem GP5_m {α β γ δ : Type} {a : α} {b : β} {c : γ} {d : δ} {t} (h : W ν t) : GP5 ν (a, b, c, d, t) := h
theorem GE_ok {β : Type} {P : β → Prop} {b} (h : P b) : GE ν P (.ok b) := h
theorem GE_pure {β : Type} {P : β → Prop} {b} (h : P b) : GE ν P (pure b) := h
theorem GE_er {β : Type} {P : β → Prop} {e} (h : GS ν e) : GE ν P (.error e) := h
theorem GS_f {r} : GS ν (.fail r) := trivial
theorem GS_w {a b} : GS ν (.wait a b) := trivial
theorem GS_d {t} (h : W ν t) : GS ν (.dead t) := h
theorem TT_m {α : Type} {a : α} : TT a := trivial
theorem GF_s {t} (h : W ν t) : GF ν (.stop t) := h
theorem GF_w {w} : GF ν (.word w) := trivial
theorem GC_o {r p t} (h : W ν t) : GC ν (.ok r p t) := h
theorem GC_s {t} (h : W ν t) : GC ν (.stop t) := h
theorem GV_o {l t} (h : W ν t) : GV ν (.ok l t) := h
theorem GV_s {t} (h : W ν t) : GV ν (.stop t) := h
theorem GLd_o {x t} (h : W ν t) : GLd ν (.val x t) := h
theorem GLd_s {t} (h : W ν t) : GLd ν (.stop t) := h
theorem GVL_o {l t} (h : W ν t) : GVL ν (.vals l t) := h
theorem GVL_s {t} (h : W ν t) : GVL ν (.stop t) := h
theorem GX_o {x t} (h : W ν t) : GX ν (.ok x t) := h
theorem GX_w {t} (h : W ν t) : GX ν (.wait t) := h
theorem GX_b : GX ν .bad := trivial
theorem GX_p : GX ν .poisoned := trivial
theorem GN_s {t} (h : W ν t) : GN ν (.stop t) := h
theorem GN_w {w} : GN ν (.word w) := trivial
theorem GN_n : GN ν .none := trivial
theorem GR_m {α : Type} {t : State} {a : α} {o} (h : W ν t) (g : GW ν o) : GR ν (t, a, o) := ⟨h, g⟩
theorem GR2_m {t : State} {o} (h : W ν t) (g : GW ν o) : GR2 ν (t, o) := ⟨h, g⟩
theorem GT_m {t : State} {o a b} (h : W ν t) (g : GW ν o) : GT ν { after := t, why := o, res0 := a, res1 := b } := ⟨h, g⟩
theorem GW_n : GW ν none := trivial
theorem GW_s {e} (h : GS ν e) : GW ν (some e) := h
theorem GE_b0 {α β : Type} {Q : β → Prop} {x : Except EStop α} {f} (hx : GE ν TT x) (hf : ∀ v, GE ν Q (f v)) : GE ν Q (x >>= f) := by cases x; exact hx; exact hf _
theorem GE_b1 {β : Type} {Q : β → Prop} {x : Except EStop State} {f} (hx : GE ν (W ν) x) (hf : ∀ v, W ν v → GE ν Q (f v)) : GE ν Q (x >>= f) := by cases x; exact hx; exact hf _ hx
theorem GE_b2 {α β : Type} {Q : β → Prop} {x : Except EStop (α × State)} {f} (hx : GE ν (GP ν) x) (hf : ∀ a v, W ν v → GE ν Q (f (a, v))) : GE ν Q (x >>= f) := by cases x; exact hx; exact hf _ _ hx
theorem GE_b3 {α γ β : Type} {Q : β → Prop} {x : Except EStop (α × γ × State)} {f} (hx : GE ν (GPP ν) x) (hf : ∀ a b v, W ν v → GE ν Q (f (a, b, v))) : GE ν Q (x >>= f) := by cases x; exact hx; exact hf _ _ _ hx
theorem GE_b5 {α γ δ ε β : Type} {Q : β → Prop} {x : Except EStop (α × γ × δ × ε × State)} {f} (hx : GE ν (GP5 ν) x) (hf : ∀ a b c d v, W ν v → GE ν Q (f (a, b, c, d, v))) : GE ν Q (x >>= f) := by cases x; exact hx; exact hf _ _ _ _ _ hx
theorem GE_map {α β : Type} {Q : β → Prop} {x : Except EStop α} {f} (hx : GE ν TT x) (hf : ∀ v, Q (f v)) : GE ν Q (x.map f) := by cases x; exact hx; exact hf _
theorem GO_b1 {x : Option State} {f} (hx : GO ν x) (hf : ∀ v, W ν v → GO ν (f v)) : GO ν (x >>= f) := by
  cases x
  · exact GO_n
  · exact hf _ (hx.h _ rfl)
theorem GO_b2 {α : Type} {x : Option (α × State)} {f} (hx : GOP ν x) (hf : ∀ a v, W ν v → GO ν (f (a, v))) : GO ν (x >>= f) := by
  cases x
  · exact GO_n
  · exact hf _ _ (hx.h _ rfl)
theorem rising_filter {α : Type} (p : Nat × α → Bool) : ∀ (m : SMap α) (lo : Nat), SMap.rising (some lo) m = true → SMap.rising (some lo) (m.filter p) = true
  | [], _, _ => rfl
  | e :: m, lo, h => by
    unfold SMap.rising at h
    simp only [Bool.and_eq_true, decide_eq_true_eq] at h
    have := rising_filter p m e.1 h.2
    rw [List.filter_cons]
    split
    · unfold SMap.rising
      simp only [Bool.and_eq_true, decide_eq_true_eq]
      exact ⟨h.1, this⟩
    · exact SMap.rising_weaken (Nat.le_of_lt h.1) this
theorem M_filter {m : Memory} {p} (h : Memory.wf m = true) : Memory.wf (List.filter p m) = true := by
  unfold Memory.wf SMap.wf at h ⊢
  rw [Bool.and_eq_true] at h ⊢
  refine ⟨?_, List.all_eq_true.2 fun e he => List.all_eq_true.1 h.2 e (List.mem_filter.1 he).1⟩
  have h1 := h.1
  clear h
  induction m with
  | nil => rfl
  | cons e m ih =>
    rw [List.filter_cons]
    unfold SMap.rising at h1
    split
    · unfold SMap.rising; exact rising_filter p m e.1 h1
    · apply ih
      cases m with
      | nil => rfl
      | cons e2 m =>
        unfold SMap.rising at h1 ⊢
        simp only [Bool.and_eq_true] at h1
        exact h1.2

theorem wf_State_setWin (s : State) (pa : Nat) (v : Word) (h0 : W ν s) : W ν (Sys2Proof.Machine.State.setWin s pa v) := by
  unfold Sys2Proof.Machine.State.setWin; repeat' (first | (with_reducible assumption) | (with_reducible refine toW (ν := ν) ?_) | (with_reducible apply toN) | ((with_reducible refine W_mk ?_ ?_) <;> dsimp -zeta only))
theorem wf_State_setWinFld (s : State) (pa lo n v : Nat) (h0 : W ν s) : W ν (Sys2Proof.Machine.State.setWinFld s pa lo n v) := by
  unfold Sys2Proof.Machine.State.setWinFld; repeat' (first | (with_reducible assumption) | (with_reducible apply wf_State_setWin))
theorem wf_State_setCtx (s : State) (cid : Nat) (c : Ctx) (h0 : W ν s) : W ν (Sys2Proof.Machine.State.setCtx s cid c) := by
  unfold Sys2Proof.Machine.State.setCtx; repeat' (first | (with_reducible assumption) | (with_reducible refine toW (ν := ν) ?_) | (with_reducible apply toN) | ((with_reducible refine W_mk ?_ ?_) <;> dsimp -zeta only))
theorem wf_State_setCore (s : State) (k : Nat) (c : Core) (h0 : W ν s) : W ν (Sys2Proof.Machine.State.setCore s k c) := by
  unfold Sys2Proof.Machine.State.setCore; repeat' (first | (with_reducible assumption) | (with_reducible refine toW (ν := ν) ?_) | (with_reducible apply toN) | ((with_reducible refine W_mk ?_ ?_) <;> dsimp -zeta only))
theorem wf_State_setGath (s : State) (g : Nat) (x : Gath) (h0 : W ν s) : W ν (Sys2Proof.Machine.State.setGath s g x) := by
  unfold Sys2Proof.Machine.State.setGath; repeat' (first | (with_reducible assumption) | (with_reducible refine toW (ν := ν) ?_) | (with_reducible apply toN) | ((with_reducible refine W_mk ?_ ?_) <;> dsimp -zeta only))
theorem wf_State_setRegs (s : State) (cid : Nat) (r : Regs) (h0 : W ν s) : W ν (Sys2Proof.Machine.State.setRegs s cid r) := by
  unfold Sys2Proof.Machine.State.setRegs; repeat' (first | (with_reducible assumption) | ((try lift_lets -underBinder); intro x) | (with_reducible apply wf_State_setCtx))
theorem wf_State_setCtl (s : State) (cid : Nat) (x : Ctl) (h0 : W ν s) : W ν (Sys2Proof.Machine.State.setCtl s cid x) := by
  unfold Sys2Proof.Machine.State.setCtl; repeat' (first | (with_reducible assumption) | ((try lift_lets -underBinder); intro x) | (with_reducible apply wf_State_setCtx))
theorem wf_State_setSched (s : State) (cid : Nat) (x : Sched) (h0 : W ν s) : W ν (Sys2Proof.Machine.State.setSched s cid x) := by
  unfold Sys2Proof.Machine.State.setSched; repeat' (first | (with_reducible assumption) | ((try lift_lets -underBinder); intro x) | (with_reducible apply wf_State_setCtx))
theorem wf_State_setWait (s : State) (cid : Nat) (w : Wait) (h0 : W ν s) : W ν (Sys2Proof.Machine.State.setWait s cid w) := by
  unfold Sys2Proof.Machine.State.setWait; repeat' (first | (with_reducible assumption) | ((try lift_lets -underBinder); intro x) | (with_reducible apply wf_State_setSched))
theorem wf_State_setS (s : State) (i : Reg) (x : Word) (h0 : W ν s) : W ν (Sys2Proof.Machine.State.setS s i x) := by
  unfold Sys2Proof.Machine.State.setS; repeat' (first | (with_reducible assumption) | (with_reducible apply wf_State_setRegs))
theorem wf_State_setV (s : State) (i : Reg) (x : VReg) (h0 : W ν s) : W ν (Sys2Proof.Machine.State.setV s i x) := by
  unfold Sys2Proof.Machine.State.setV; repeat' (first | (with_reducible assumption) | (with_reducible apply wf_State_setRegs))
theorem wf_State_setP (s : State) (i : BitVec 3) (x : PReg) (h0 : W ν s) : W ν (Sys2Proof.Machine.State.setP s i x) := by
  unfold Sys2Proof.Machine.State.setP; repeat' (first | (with_reducible assumption) | (with_reducible apply wf_State_setRegs))
theorem wf_State_addFlags (s : State) (f : BitVec 5) (h0 : W ν s) : W ν (Sys2Proof.Machine.State.addFlags s f) := by
  unfold Sys2Proof.Machine.State.addFlags; repeat' (first | (with_reducible assumption) | ((try lift_lets -underBinder); intro x) | (with_reducible apply wf_State_setCtl))
theorem wf_State_advance (s : State) (h0 : W ν s) : W ν (Sys2Proof.Machine.State.advance s) := by
  unfold Sys2Proof.Machine.State.advance; repeat' (first | (with_reducible assumption) | (with_reducible apply wf_State_setRegs))
theorem wf_State_advanceAt (s : State) (cid : Nat) (h0 : W ν s) : W ν (Sys2Proof.Machine.State.advanceAt s cid) := by
  unfold Sys2Proof.Machine.State.advanceAt; repeat' (first | (with_reducible assumption) | (with_reducible apply wf_State_setRegs))
theorem wf_State_done (s : State) (d : Reg) (x : Word) (h0 : W ν s) : OutW ν (Sys2Proof.Machine.State.done s d x) := by
  unfold Sys2Proof.Machine.State.done; repeat' (first | (with_reducible assumption) | (with_reducible apply wf_State_setS) | (with_reducible apply wf_State_advance) | (with_reducible apply OutW_next))
theorem wf_State_goto (s : State) (t : Word) (h0 : W ν s) : W ν (Sys2Proof.Machine.State.goto s t) := by
  unfold Sys2Proof.Machine.State.goto; repeat' (first | (with_reducible assumption) | ((try lift_lets -underBinder); intro x) | (with_reducible apply wf_State_setRegs))
theorem wf_State_setStream (s : State) (g k : Nat) (x : Stream) (h0 : W ν s) : W ν (Sys2Proof.Machine.State.setStream s g k x) := by
  unfold Sys2Proof.Machine.State.setStream; repeat' (first | (with_reducible assumption) | ((try lift_lets -underBinder); intro x) | (with_reducible apply wf_State_setGath))
theorem wf_State_joinEnds (s : State) (cid : Nat) (status : Nat) (h0 : W ν s) : W ν (Sys2Proof.Machine.State.joinEnds s cid status) := by
  unfold Sys2Proof.Machine.State.joinEnds; repeat' (first | (with_reducible assumption) | ((try lift_lets -underBinder); intro x) | (with_reducible apply wf_State_setCtx) | split)
theorem wf_State_stopIfEmpty (s : State) (g k : Nat) (h0 : W ν s) : W ν (Sys2Proof.Machine.State.stopIfEmpty s g k) := by
  unfold Sys2Proof.Machine.State.stopIfEmpty; repeat' (first | (with_reducible assumption) | ((try lift_lets -underBinder); intro x; refine W_cut (ν := ν) x ?_ ?_ <;> first | (intro hx; clear_value x) | unfold x) | ((try lift_lets -underBinder); intro x) | (with_reducible apply wf_State_setStream) | (with_reducible apply wf_State_joinEnds) | (with_reducible refine foldl_wf _ _ ?_ _ ?_; first | (intro x y hxy) | skip) | (with_reducible apply W_ite))
theorem wf_State_leaveOne (s : State) (cid : Nat) (strag : Bool) (h0 : W ν s) : W ν (Sys2Proof.Machine.State.leaveOne s cid strag) := by
  unfold Sys2Proof.Machine.State.leaveOne; repeat' (first | (with_reducible assumption) | ((try lift_lets -underBinder); intro x; refine W_cut (ν := ν) x ?_ ?_ <;> first | (intro hx; clear_value x) | unfold x) | ((try lift_lets -underBinder); intro x) | (with_reducible apply wf_State_setSched) | (with_reducible apply wf_State_setStream))
theorem wf_State_settle (s : State) (g k : Nat) (h0 : W ν s) : W ν (Sys2Proof.Machine.State.settle s g k) := by
  unfold Sys2Proof.Machine.State.settle; repeat' (first | (with_reducible assumption) | ((try lift_lets -underBinder); intro x; refine W_cut (ν := ν) x ?_ ?_ <;> first | (intro hx; clear_value x) | unfold x) | ((try lift_lets -underBinder); intro x) | (with_reducible apply wf_State_setStream) | (with_reducible apply wf_State_stopIfEmpty) | (with_reducible apply wf_State_leaveOne) | (with_reducible refine foldl_wf _ _ ?_ _ ?_; first | (intro x y hxy) | skip) | (with_reducible apply W_ite) | split)
theorem wf_State_detach (s : State) (cid : Nat) (h0 : W ν s) : W ν (Sys2Proof.Machine.State.detach s cid) := by
  unfold Sys2Proof.Machine.State.detach; repeat' (first | (with_reducible assumption) | ((try lift_lets -underBinder); intro x) | (with_reducible apply wf_State_setSched) | (with_reducible apply wf_State_stopIfEmpty) | (with_reducible apply wf_State_leaveOne) | (with_reducible apply wf_State_settle) | split)
theorem wf_State_endHold (s : State) (g k : Nat) (h0 : W ν s) : W ν (Sys2Proof.Machine.State.endHold s g k) := by
  unfold Sys2Proof.Machine.State.endHold; repeat' (first | (with_reducible assumption) | ((try lift_lets -underBinder); intro x; refine W_cut (ν := ν) x ?_ ?_ <;> first | (intro hx; clear_value x) | unfold x) | ((try lift_lets -underBinder); intro x) | (with_reducible apply wf_State_setCtx) | (with_reducible apply wf_State_setStream) | (with_reducible refine foldl_wf _ _ ?_ _ ?_; first | (intro x y hxy) | skip) | split)
theorem wf_State_holdCheck (s : State) (g k : Nat) (h0 : W ν s) : W ν (Sys2Proof.Machine.State.holdCheck s g k) := by
  unfold Sys2Proof.Machine.State.holdCheck; repeat' (first | (with_reducible assumption) | ((try lift_lets -underBinder); intro x) | (with_reducible apply wf_State_endHold) | (with_reducible apply W_ite))
theorem wf_State_bumpW (s : State) (cid : Nat) (k : BitVec 2) (h0 : W ν s) : W ν (Sys2Proof.Machine.State.bumpW s cid k) := by
  unfold Sys2Proof.Machine.State.bumpW; repeat' (first | (with_reducible assumption) | ((try lift_lets -underBinder); intro x) | (with_reducible apply wf_State_setRegs))
theorem wf_State_setLaunch (s : State) (l : Launch) (h0 : W ν s) : W ν (Sys2Proof.Machine.State.setLaunch s l) := by
  unfold Sys2Proof.Machine.State.setLaunch; repeat' (first | (with_reducible assumption) | (with_reducible refine toW (ν := ν) ?_) | (with_reducible apply toN) | ((with_reducible refine W_mk ?_ ?_) <;> dsimp -zeta only))
theorem wf_State_dropRO (s : State) (pa : Nat) (h0 : W ν s) : W ν (Sys2Proof.Machine.State.dropRO s pa) := by
  unfold Sys2Proof.Machine.State.dropRO; repeat' (first | (with_reducible assumption) | (with_reducible refine toW (ν := ν) ?_) | (with_reducible apply toN) | ((with_reducible refine W_mk ?_ ?_) <;> dsimp -zeta only))
theorem wf_State_putByte (s : State) (pa : Nat) (b : Byte) (h0 : W ν s) : W ν (Sys2Proof.Machine.State.putByte s pa b) := by
  unfold Sys2Proof.Machine.State.putByte; repeat' (first | (with_reducible assumption) | ((try lift_lets -underBinder); intro x) | (with_reducible apply wf_State_setCore) | (with_reducible apply M_set) | (with_reducible refine toW (ν := ν) ?_) | (with_reducible apply toN) | ((with_reducible refine W_mk ?_ ?_) <;> dsimp -zeta only) | split)
theorem wf_State_physPut (s : State) (pa n v : Nat) (h0 : W ν s) : W ν (s.physPut pa n v) := by
  induction n generalizing s pa v with
  | zero => exact h0
  | succ n ih => exact ih _ _ _ (wf_State_putByte _ _ _ h0)
theorem wf_State_loseResv (s : State) (pa n : Nat) (h0 : W ν s) : W ν (Sys2Proof.Machine.State.loseResv s pa n) := by
  unfold Sys2Proof.Machine.State.loseResv; repeat' (first | (with_reducible assumption) | (with_reducible refine toW (ν := ν) ?_) | (with_reducible apply toN) | ((with_reducible refine W_mk ?_ ?_) <;> dsimp -zeta only))
theorem wf_State_physWrite (s : State) (pa n v : Nat) (h0 : W ν s) : W ν (Sys2Proof.Machine.State.physWrite s pa n v) := by
  unfold Sys2Proof.Machine.State.physWrite; repeat' (first | (with_reducible assumption) | ((try lift_lets -underBinder); intro x; refine W_cut (ν := ν) x ?_ ?_ <;> first | (intro hx; clear_value x) | unfold x) | ((try lift_lets -underBinder); intro x) | (with_reducible apply wf_State_dropRO) | (with_reducible apply wf_State_physPut) | (with_reducible apply wf_State_loseResv) | (with_reducible refine toW (ν := ν) ?_) | (with_reducible apply toN) | ((with_reducible refine W_mk ?_ ?_) <;> dsimp -zeta only) | (with_reducible apply W_ite))
theorem wf_State_physWriteBytes (s : State) (pa : Nat) (bs : List Byte) (h0 : W ν s) : W ν (s.physWriteBytes pa bs) := by
  induction bs generalizing s pa with
  | nil => exact h0
  | cons b bs ih => exact ih _ _ (wf_State_loseResv _ _ _ (wf_State_putByte _ _ _ (wf_State_dropRO _ _ h0)))
theorem wf_State_dropTlb (s : State) (p : Tlb → Bool) (h0 : W ν s) : W ν (Sys2Proof.Machine.State.dropTlb s p) := by
  unfold Sys2Proof.Machine.State.dropTlb; repeat' (first | (with_reducible assumption) | (with_reducible refine toW (ν := ν) ?_) | (with_reducible apply toN) | ((with_reducible refine W_mk ?_ ?_) <;> dsimp -zeta only))
theorem wf_State_putImage (s : State) (key : Nat) (l : List VSlot) (h0 : W ν s) : W ν (s.putImage key l) := by
  unfold State.putImage
  refine foldl_wf _ _ (fun s x h => ?_) _ h0
  split
  · exact W_mem h (M_span (toW h))
  · exact h
theorem wf_State_setRing (s : State) (key : Nat) (l : List VSlot) (h0 : W ν s) : W ν (Sys2Proof.Machine.State.setRing s key l) := by
  unfold Sys2Proof.Machine.State.setRing; repeat' (first | (with_reducible assumption) | ((try lift_lets -underBinder); intro x) | (with_reducible apply wf_State_putImage) | (with_reducible refine toW (ν := ν) ?_) | (with_reducible apply toN) | ((with_reducible refine W_mk ?_ ?_) <;> dsimp -zeta only) | (with_reducible apply W_ite))
theorem wf_State_setHolder (s : State) (key : Nat) (h : Holder) (h0 : W ν s) : W ν (Sys2Proof.Machine.State.setHolder s key h) := by
  unfold Sys2Proof.Machine.State.setHolder; repeat' (first | (with_reducible assumption) | (with_reducible refine toW (ν := ν) ?_) | (with_reducible apply toN) | ((with_reducible refine W_mk ?_ ?_) <;> dsimp -zeta only))
theorem wf_State_setDir (s : State) (line : Nat) (e : DirEnt) (h0 : W ν s) : W ν (Sys2Proof.Machine.State.setDir s line e) := by
  unfold Sys2Proof.Machine.State.setDir; repeat' (first | (with_reducible assumption) | ((try lift_lets -underBinder); intro x) | (with_reducible refine toW (ν := ν) ?_) | (with_reducible apply toN) | ((with_reducible refine W_mk ?_ ?_) <;> dsimp -zeta only))
theorem wf_State_l2Add (s : State) (x : L2Line) (h0 : W ν s) : W ν (Sys2Proof.Machine.State.l2Add s x) := by
  unfold Sys2Proof.Machine.State.l2Add; repeat' (first | (with_reducible assumption) | ((try lift_lets -underBinder); intro x) | (with_reducible refine toW (ν := ν) ?_) | (with_reducible apply toN) | ((with_reducible refine W_mk ?_ ?_) <;> dsimp -zeta only) | (with_reducible apply W_ite) | split)
theorem wf_State_l2Touch (s : State) (line : Nat) (tag : Option Nat) (h0 : W ν s) : W ν (Sys2Proof.Machine.State.l2Touch s line tag) := by
  unfold Sys2Proof.Machine.State.l2Touch; repeat' (first | (with_reducible assumption) | ((try lift_lets -underBinder); intro x) | (with_reducible apply wf_State_l2Add) | (with_reducible refine toW (ν := ν) ?_) | (with_reducible apply toN) | ((with_reducible refine W_mk ?_ ?_) <;> dsimp -zeta only) | split)
theorem wf_State_invalidate (s : State) (line : Nat) (k : Option Nat) (cpc : Bool) (h0 : W ν s) : W ν (Sys2Proof.Machine.State.invalidate s line k cpc) := by
  unfold Sys2Proof.Machine.State.invalidate; repeat' (first | (with_reducible assumption) | ((try lift_lets -underBinder); intro x) | (with_reducible refine toW (ν := ν) ?_) | (with_reducible apply toN) | ((with_reducible refine W_mk ?_ ?_) <;> dsimp -zeta only))
theorem wf_State_evicted (s : State) (x : L1Line) (who : DirOwner) (last : Bool) (h0 : W ν s) : W ν (Sys2Proof.Machine.State.evicted s x who last) := by
  unfold Sys2Proof.Machine.State.evicted; repeat' (first | (with_reducible assumption) | ((try lift_lets -underBinder); intro x; refine W_cut (ν := ν) x ?_ ?_ <;> first | (intro hx; clear_value x) | unfold x) | ((try lift_lets -underBinder); intro x) | (with_reducible apply wf_State_setDir) | (with_reducible apply wf_State_l2Touch) | (with_reducible apply W_ite))
theorem wf_State_l1Touch (s : State) (k line cid : Nat) (write : Bool) (h0 : W ν s) : W ν (Sys2Proof.Machine.State.l1Touch s k line cid write) := by
  unfold Sys2Proof.Machine.State.l1Touch; repeat' (first | (with_reducible assumption) | ((try lift_lets -underBinder); intro x; refine W_cut (ν := ν) x ?_ ?_ <;> first | (intro hx; clear_value x) | unfold x) | ((try lift_lets -underBinder); intro x) | (with_reducible apply wf_State_evicted) | (with_reducible refine toW (ν := ν) ?_) | (with_reducible apply toN) | ((with_reducible refine W_mk ?_ ?_) <;> dsimp -zeta only) | split | (dsimp -zeta +zetaDelta only))
theorem wf_State_cpcTouch (s : State) (line : Nat) (write : Bool) (h0 : W ν s) : W ν (Sys2Proof.Machine.State.cpcTouch s line write) := by
  unfold Sys2Proof.Machine.State.cpcTouch; repeat' (first | (with_reducible assumption) | ((try lift_lets -underBinder); intro x; refine W_cut (ν := ν) x ?_ ?_ <;> first | (intro hx; clear_value x) | unfold x) | ((try lift_lets -underBinder); intro x) | (with_reducible apply wf_State_evicted) | (with_reducible refine toW (ν := ν) ?_) | (with_reducible apply toN) | ((with_reducible refine W_mk ?_ ?_) <;> dsimp -zeta only) | split | (dsimp -zeta +zetaDelta only))
theorem wf_State_dirRoom (s : State) (line : Nat) (h0 : W ν s) : W ν (Sys2Proof.Machine.State.dirRoom s line) := by
  unfold Sys2Proof.Machine.State.dirRoom; repeat' (first | (with_reducible assumption) | ((try lift_lets -underBinder); intro x) | (with_reducible apply wf_State_setDir) | (with_reducible apply wf_State_l2Add) | (with_reducible apply wf_State_invalidate) | (with_reducible apply W_ite) | split)
theorem wf_State_dirPut (s : State) (line : Nat) (e : DirEnt) (h0 : W ν s) : W ν (Sys2Proof.Machine.State.dirPut s line e) := by
  unfold Sys2Proof.Machine.State.dirPut; repeat' (first | (with_reducible assumption) | ((try lift_lets -underBinder); intro x; refine W_cut (ν := ν) x ?_ ?_ <;> first | (intro hx; clear_value x) | unfold x) | ((try lift_lets -underBinder); intro x) | (with_reducible apply wf_State_setDir) | (with_reducible apply wf_State_dirRoom) | (with_reducible apply W_ite))
theorem wf_State_dirTouch (s : State) (line : Nat) (who : DirOwner) (write : Bool) (h0 : W ν s) : W ν (Sys2Proof.Machine.State.dirTouch s line who write) := by
  unfold Sys2Proof.Machine.State.dirTouch; repeat' (first | (with_reducible assumption) | ((try lift_lets -underBinder); intro x) | (with_reducible apply wf_State_invalidate) | (with_reducible apply wf_State_dirPut) | (with_reducible apply W_ite) | split)
theorem wf_State_touch (s : State) (pa : Nat) (who : DirOwner) (tag : Option Nat) (write : Bool) (h0 : W ν s) : W ν (Sys2Proof.Machine.State.touch s pa who tag write) := by
  unfold Sys2Proof.Machine.State.touch; repeat' (first | (with_reducible assumption) | ((try lift_lets -underBinder); intro x; refine W_cut (ν := ν) x ?_ ?_ <;> first | (intro hx; clear_value x) | unfold x) | ((try lift_lets -underBinder); intro x) | (with_reducible apply wf_State_l2Touch) | (with_reducible apply wf_State_l1Touch) | (with_reducible apply wf_State_cpcTouch) | (with_reducible apply wf_State_dirTouch) | (with_reducible apply W_ite) | split)
theorem wf_State_touchCtx (s : State) (cid pa : Nat) (write : Bool) (h0 : W ν s) : W ν (Sys2Proof.Machine.State.touchCtx s cid pa write) := by
  unfold Sys2Proof.Machine.State.touchCtx; repeat' (first | (with_reducible assumption) | (with_reducible apply wf_State_touch))
theorem wf_State_touchFill (s : State) (k line : Nat) (m : Mapping) (h0 : W ν s) : W ν (Sys2Proof.Machine.State.touchFill s k line m) := by
  unfold Sys2Proof.Machine.State.touchFill; repeat' (first | (with_reducible assumption) | ((try lift_lets -underBinder); intro x; refine W_cut (ν := ν) x ?_ ?_ <;> first | (intro hx; clear_value x) | unfold x) | ((try lift_lets -underBinder); intro x) | (with_reducible apply wf_State_l2Touch) | (with_reducible apply wf_State_invalidate) | (with_reducible apply wf_State_dirPut) | (with_reducible apply W_ite))
theorem wf_State_stashLeaves (s : State) (k line : Nat) (h0 : W ν s) : W ν (Sys2Proof.Machine.State.stashLeaves s k line) := by
  unfold Sys2Proof.Machine.State.stashLeaves; repeat' (first | (with_reducible assumption) | (with_reducible apply wf_State_evicted))
theorem wf_State_dropCode (s : State) (t : Byte) (base size : Nat) (h0 : W ν s) : W ν (Sys2Proof.Machine.State.dropCode s t base size) := by
  unfold Sys2Proof.Machine.State.dropCode; repeat' (first | (with_reducible assumption) | ((try lift_lets -underBinder); intro x) | (with_reducible refine toW (ν := ν) ?_) | (with_reducible apply toN) | ((with_reducible refine W_mk ?_ ?_) <;> dsimp -zeta only))
theorem wf_State_keepGate (s : State) (cid : Nat) (r : RegionEnt) (va : Nat) (h0 : W ν s) : W ν (Sys2Proof.Machine.State.keepGate s cid r va) := by
  unfold Sys2Proof.Machine.State.keepGate; repeat' (first | (with_reducible assumption) | ((try lift_lets -underBinder); intro x) | (with_reducible apply wf_State_setCore) | (with_reducible apply W_ite) | split)
theorem wf_State_setTier (s : State) (g : Nat) (e : BitVec 128) (h0 : W ν s) : W ν (Sys2Proof.Machine.State.setTier s g e) := by
  unfold Sys2Proof.Machine.State.setTier; repeat' (first | (with_reducible assumption) | (with_reducible apply wf_State_physWriteBytes) | (with_reducible apply wf_State_touch))
theorem wf_State_addWalk (s : State) (g : Nat) (t : Byte) (va : Nat) (write : Bool) (r : Requester) (h0 : W ν s) : W ν (Sys2Proof.Machine.State.addWalk s g t va write r) := by
  unfold Sys2Proof.Machine.State.addWalk; repeat' (first | (with_reducible assumption) | ((try lift_lets -underBinder); intro x) | (with_reducible refine toW (ν := ν) ?_) | (with_reducible apply toN) | ((with_reducible refine W_mk ?_ ?_) <;> dsimp -zeta only) | (with_reducible apply W_ite))
theorem wf_State_fetchPage (s : State) (t : Byte) (va : Nat) (h0 : W ν s) : W ν (Sys2Proof.Machine.State.fetchPage s t va) := by
  unfold Sys2Proof.Machine.State.fetchPage; repeat' (first | (with_reducible assumption) | (with_reducible apply wf_State_addWalk))
theorem wf_State_vaWrite (s : State) (t : Byte) (va n v : Nat) (h0 : W ν s) : W ν (Sys2Proof.Machine.State.vaWrite s t va n v) := by
  unfold Sys2Proof.Machine.State.vaWrite; repeat' (first | (with_reducible assumption) | ((try lift_lets -underBinder); intro x) | (with_reducible apply wf_State_physWrite) | (with_reducible apply wf_State_touch) | (with_reducible apply wf_State_fetchPage) | (with_reducible refine toW (ν := ν) ?_) | (with_reducible apply toN) | ((with_reducible refine W_mk ?_ ?_) <;> dsimp -zeta only) | (with_reducible apply W_ite) | split)
theorem wf_State_setBar (s : State) (cid c : Nat) (b : BarSt) (h0 : W ν s) : W ν (Sys2Proof.Machine.State.setBar s cid c b) := by
  unfold Sys2Proof.Machine.State.setBar; repeat' (first | (with_reducible assumption) | ((try lift_lets -underBinder); intro x) | (with_reducible apply wf_State_setSched))
theorem wf_State_barEval (s : State) (p c : Nat) (h0 : W ν s) : W ν (Sys2Proof.Machine.State.barEval s p c) := by
  unfold Sys2Proof.Machine.State.barEval; repeat' (first | (with_reducible assumption) | ((try lift_lets -underBinder); intro x; refine W_cut (ν := ν) x ?_ ?_ <;> first | (intro hx; clear_value x) | unfold x) | ((try lift_lets -underBinder); intro x) | (with_reducible apply wf_State_setBar) | (with_reducible refine foldl_wf _ _ ?_ _ ?_; first | (intro x y hxy) | skip) | (with_reducible refine toW (ν := ν) ?_) | (with_reducible apply toN) | ((with_reducible refine W_mk ?_ ?_) <;> dsimp -zeta only) | (with_reducible apply W_ite))
theorem wf_State_barEvalOf (s : State) (cid c : Nat) (h0 : W ν s) : W ν (Sys2Proof.Machine.State.barEvalOf s cid c) := by
  unfold Sys2Proof.Machine.State.barEvalOf; repeat' (first | (with_reducible assumption) | (with_reducible apply wf_State_barEval) | split)
theorem wf_State_arrive (s : State) (cid c : Nat) (a o sstep : Bool) (h0 : W ν s) : W ν (Sys2Proof.Machine.State.arrive s cid c a o sstep) := by
  unfold Sys2Proof.Machine.State.arrive; repeat' (first | (with_reducible assumption) | ((try lift_lets -underBinder); intro x) | (with_reducible apply wf_State_setBar) | (with_reducible apply wf_State_barEvalOf) | (with_reducible apply W_ite))
theorem wf_State_withdraw (s : State) (cid : Nat) (h0 : W ν s) : W ν (Sys2Proof.Machine.State.withdraw s cid) := by
  unfold Sys2Proof.Machine.State.withdraw; repeat' (first | (with_reducible assumption) | ((try lift_lets -underBinder); intro x; refine W_cut (ν := ν) x ?_ ?_ <;> first | (intro hx; clear_value x) | unfold x) | ((try lift_lets -underBinder); intro x) | (with_reducible apply wf_State_setSched) | (with_reducible apply wf_State_barEvalOf) | (with_reducible refine foldNat_wf _ _ _ ?_ _ ?_; first | (intro x y hxy) | skip))
theorem wf_State_lineBack (s : State) (st : SMap Byte) (bad : Bool) (line pa : Nat) (h0 : W ν s) : W ν (Sys2Proof.Machine.State.lineBack s st bad line pa) := by
  unfold Sys2Proof.Machine.State.lineBack; repeat' (first | (with_reducible assumption) | ((try lift_lets -underBinder); intro x; refine W_cut (ν := ν) x ?_ ?_ <;> first | (intro hx; clear_value x) | unfold x) | ((try lift_lets -underBinder); intro x) | (with_reducible refine foldNat_wf _ _ _ ?_ _ ?_; first | (intro x y hxy) | skip) | (with_reducible apply M_set) | (with_reducible refine toW (ν := ν) ?_) | (with_reducible apply toN) | ((with_reducible refine W_mk ?_ ?_) <;> dsimp -zeta only))
theorem wf_State_writeBackLine (s : State) (k : Nat) (m : Mapping) (line : Nat) (h0 : W ν s) : W ν (Sys2Proof.Machine.State.writeBackLine s k m line) := by
  unfold Sys2Proof.Machine.State.writeBackLine; repeat' (first | (with_reducible assumption) | ((try lift_lets -underBinder); intro x) | (with_reducible apply wf_State_l2Touch) | (with_reducible apply wf_State_lineBack))
theorem wf_State_writeBack (s : State) (k : Nat) (m : Mapping) (h0 : W ν s) : W ν (Sys2Proof.Machine.State.writeBack s k m) := by
  unfold Sys2Proof.Machine.State.writeBack; repeat' (first | (with_reducible assumption) | ((try lift_lets -underBinder); intro x) | (with_reducible apply wf_State_writeBackLine) | (with_reducible refine foldl_wf _ _ ?_ _ ?_; first | (intro x y hxy) | skip) | (with_reducible apply W_ite))
theorem wf_State_unregister (s : State) (k : Nat) (m : Mapping) (h0 : W ν s) : W ν (Sys2Proof.Machine.State.unregister s k m) := by
  unfold Sys2Proof.Machine.State.unregister; repeat' (first | (with_reducible assumption) | (with_reducible apply wf_State_stashLeaves) | (with_reducible refine foldl_wf _ _ ?_ _ ?_; first | (intro x y hxy) | skip))
theorem wf_State_setMaps (s : State) (k : Nat) (ms : List Mapping) (h0 : W ν s) : W ν (Sys2Proof.Machine.State.setMaps s k ms) := by
  unfold Sys2Proof.Machine.State.setMaps; repeat' (first | (with_reducible assumption) | ((try lift_lets -underBinder); intro x) | (with_reducible apply wf_State_setCore))
theorem wf_State_dropMapping (s : State) (k : Nat) (m : Mapping) (h0 : W ν s) : W ν (Sys2Proof.Machine.State.dropMapping s k m) := by
  unfold Sys2Proof.Machine.State.dropMapping; repeat' (first | (with_reducible assumption) | (with_reducible apply wf_State_unregister) | (with_reducible apply wf_State_setMaps))
theorem wf_State_endMapping (s : State) (k : Nat) (m : Mapping) (h0 : W ν s) : W ν (Sys2Proof.Machine.State.endMapping s k m) := by
  unfold Sys2Proof.Machine.State.endMapping; repeat' (first | (with_reducible assumption) | (with_reducible apply wf_State_writeBack) | (with_reducible apply wf_State_dropMapping))
theorem wf_State_endSaved (s : State) (x : StashSave) (m : Mapping) (h0 : W ν s) : W ν (Sys2Proof.Machine.State.endSaved s x m) := by
  unfold Sys2Proof.Machine.State.endSaved; repeat' (first | (with_reducible assumption) | ((try lift_lets -underBinder); intro x) | (with_reducible apply wf_State_lineBack) | (with_reducible refine foldl_wf _ _ ?_ _ ?_; first | (intro x y hxy) | skip) | (with_reducible apply W_ite))
theorem wf_State_endMappings (s : State) (p : Mapping → Bool) (back : Bool) (h0 : W ν s) : W ν (Sys2Proof.Machine.State.endMappings s p back) := by
  unfold Sys2Proof.Machine.State.endMappings; repeat' (first | (with_reducible assumption) | ((try lift_lets -underBinder); intro x; refine W_cut (ν := ν) x ?_ ?_ <;> first | (intro hx; clear_value x) | unfold x) | ((try lift_lets -underBinder); intro x) | (with_reducible apply wf_State_dropMapping) | (with_reducible apply wf_State_endMapping) | (with_reducible apply wf_State_endSaved) | (with_reducible refine foldl_wf _ _ ?_ _ ?_; first | (intro x y hxy) | skip) | (with_reducible refine toW (ν := ν) ?_) | (with_reducible apply toN) | ((with_reducible refine W_mk ?_ ?_) <;> dsimp -zeta only) | (with_reducible apply W_ite))
theorem wf_State_parkCaps (s : State) (t : Byte) (cid : Nat) (h0 : W ν s) : W ν (Sys2Proof.Machine.State.parkCaps s t cid) := by
  unfold Sys2Proof.Machine.State.parkCaps; repeat' (first | (with_reducible assumption) | (with_reducible refine toW (ν := ν) ?_) | (with_reducible apply toN) | ((with_reducible refine W_mk ?_ ?_) <;> dsimp -zeta only))
theorem wf_State_unparkCaps (s : State) (t : Byte) (cid : Nat) (h0 : W ν s) : W ν (Sys2Proof.Machine.State.unparkCaps s t cid) := by
  unfold Sys2Proof.Machine.State.unparkCaps; repeat' (first | (with_reducible assumption) | (with_reducible refine toW (ν := ν) ?_) | (with_reducible apply toN) | ((with_reducible refine W_mk ?_ ?_) <;> dsimp -zeta only))
theorem wf_State_parkCtx (s : State) (t : Byte) (cid : Nat) (h0 : W ν s) : W ν (Sys2Proof.Machine.State.parkCtx s t cid) := by
  unfold Sys2Proof.Machine.State.parkCtx; repeat' (first | (with_reducible assumption) | ((try lift_lets -underBinder); intro x; refine W_cut (ν := ν) x ?_ ?_ <;> first | (intro hx; clear_value x) | unfold x) | ((try lift_lets -underBinder); intro x) | (with_reducible apply wf_State_setCtx) | (with_reducible apply wf_State_parkCaps) | (with_reducible refine toW (ν := ν) ?_) | (with_reducible apply toN) | ((with_reducible refine W_mk ?_ ?_) <;> dsimp -zeta only))
theorem wf_State_unparkCtx (s : State) (t : Byte) (cid : Nat) (h0 : W ν s) : W ν (Sys2Proof.Machine.State.unparkCtx s t cid) := by
  unfold Sys2Proof.Machine.State.unparkCtx; repeat' (first | (with_reducible assumption) | ((try lift_lets -underBinder); intro x; refine W_cut (ν := ν) x ?_ ?_ <;> first | (intro hx; clear_value x) | unfold x) | (with_reducible apply wf_State_setCtx) | (with_reducible apply wf_State_unparkCaps) | (with_reducible refine toW (ν := ν) ?_) | (with_reducible apply toN) | ((with_reducible refine W_mk ?_ ?_) <;> dsimp -zeta only) | split)
theorem wf_State_onOwner (s : State) (t : Byte) (cid : Nat) (f : State → State) (hf : ∀ s, W ν s → W ν (f s)) (h0 : W ν s) : W ν (s.onOwner t cid f) := by
  unfold State.onOwner; repeat' (first | (with_reducible assumption) | ((try lift_lets -underBinder); intro x; refine W_cut (ν := ν) x ?_ ?_ <;> first | (intro hx; clear_value x) | unfold x) | ((try lift_lets -underBinder); intro x) | (with_reducible apply hf) | (with_reducible apply wf_State_setCtx) | (with_reducible apply wf_State_parkCaps) | (with_reducible apply wf_State_unparkCaps) | (with_reducible apply wf_State_parkCtx) | (with_reducible apply wf_State_unparkCtx) | (with_reducible apply W_ite) | split)
theorem wf_State_putPacket (s : State) (t : Byte) (errq : Nat) (q : Option Nat) (bs : List Byte) (h0 : W ν s) : W ν (Sys2Proof.Machine.State.putPacket s t errq q bs) := by
  unfold Sys2Proof.Machine.State.putPacket; repeat' (first | (with_reducible assumption) | ((try lift_lets -underBinder); intro x; refine W_cut (ν := ν) x ?_ ?_ <;> first | (intro hx; clear_value x) | unfold x) | ((try lift_lets -underBinder); intro x) | (with_reducible apply wf_State_setWin) | (with_reducible apply wf_State_vaWrite) | (with_reducible refine foldNat_wf _ _ _ ?_ _ ?_; first | (intro x y hxy) | skip) | (with_reducible refine toW (ν := ν) ?_) | (with_reducible apply toN) | ((with_reducible refine W_mk ?_ ?_) <;> dsimp -zeta only) | (with_reducible apply W_ite) | split)
theorem wf_State_errPacket (s : State) (t : Byte) (errq : Nat) (q : Option Nat) (bs : List Byte) (h0 : W ν s) : W ν (Sys2Proof.Machine.State.errPacket s t errq q bs) := by
  unfold Sys2Proof.Machine.State.errPacket; repeat' (first | (with_reducible assumption) | ((try lift_lets -underBinder); intro x) | (with_reducible apply wf_State_fetchPage) | (with_reducible apply wf_State_putPacket) | (with_reducible refine toW (ν := ν) ?_) | (with_reducible apply toN) | ((with_reducible refine W_mk ?_ ?_) <;> dsimp -zeta only) | (with_reducible apply W_ite) | split)
theorem wf_State_flushPosts (s : State) (h0 : W ν s) : W ν (Sys2Proof.Machine.State.flushPosts s) := by
  unfold Sys2Proof.Machine.State.flushPosts; repeat' (first | (with_reducible assumption) | (with_reducible apply wf_State_fetchPage) | (with_reducible apply wf_State_vaWrite) | (with_reducible apply wf_State_putPacket) | (with_reducible refine foldl_wf _ _ ?_ _ ?_; first | (intro x y hxy) | skip) | (with_reducible refine toW (ν := ν) ?_) | (with_reducible apply toN) | ((with_reducible refine W_mk ?_ ?_) <;> dsimp -zeta only) | split)
theorem wf_State_reportLaunch (s : State) (l : Launch) (code : Byte) (sub : Nat) (val : Word) (cid : Nat) (h0 : W ν s) : W ν (Sys2Proof.Machine.State.reportLaunch s l code sub val cid) := by
  unfold Sys2Proof.Machine.State.reportLaunch; repeat' (first | (with_reducible assumption) | (with_reducible apply wf_State_errPacket) | split)
theorem wf_State_queueTask (s : State) (k : Nat) (q : Queued) (h0 : W ν s) : W ν (Sys2Proof.Machine.State.queueTask s k q) := by
  unfold Sys2Proof.Machine.State.queueTask; repeat' (first | (with_reducible assumption) | ((try lift_lets -underBinder); intro x) | (with_reducible apply wf_State_setCore) | (with_reducible apply wf_State_setLaunch) | (with_reducible apply W_ite) | split)
theorem wf_State_startLaunch (s : State) (t : Byte) (p : Nat) (src : Source) (pkt : Word) (pk : Packet) (rule : Option (BitVec 2)) (g : Graph) (armed : List TaskRec) (h0 : W ν s) : W ν (Sys2Proof.Machine.State.startLaunch s t p src pkt pk rule g armed) := by
  unfold Sys2Proof.Machine.State.startLaunch; repeat' (first | (with_reducible assumption) | ((try lift_lets -underBinder); intro x; refine W_cut (ν := ν) x ?_ ?_ <;> first | (intro hx; clear_value x) | unfold x) | ((try lift_lets -underBinder); intro x) | (with_reducible apply wf_State_setLaunch) | (with_reducible apply wf_State_queueTask) | (with_reducible refine foldl_wf _ _ ?_ _ ?_; first | (intro x y hxy) | skip) | (with_reducible refine toW (ν := ν) ?_) | (with_reducible apply toN) | ((with_reducible refine W_mk ?_ ?_) <;> dsimp -zeta only) | (with_reducible apply W_ite) | split)
theorem wf_State_exhaust (s : State) (cid : Nat) (h0 : W ν s) : W ν (Sys2Proof.Machine.State.exhaust s cid) := by
  unfold Sys2Proof.Machine.State.exhaust; repeat' (first | (with_reducible assumption) | ((try lift_lets -underBinder); intro x; refine W_cut (ν := ν) x ?_ ?_ <;> first | (intro hx; clear_value x) | unfold x) | ((try lift_lets -underBinder); intro x) | (with_reducible apply wf_State_setCtx) | (with_reducible apply wf_State_setSched) | (with_reducible apply wf_State_detach) | (with_reducible apply W_ite))
theorem wf_State_dropHandovers (s : State) (cid : Nat) (h0 : W ν s) : W ν (Sys2Proof.Machine.State.dropHandovers s cid) := by
  unfold Sys2Proof.Machine.State.dropHandovers; repeat' (first | (with_reducible assumption) | (with_reducible refine toW (ν := ν) ?_) | (with_reducible apply toN) | ((with_reducible refine W_mk ?_ ?_) <;> dsimp -zeta only))
theorem wf_State_startTask (s : State) (cid : Nat) (q : Queued) (h0 : W ν s) : W ν (Sys2Proof.Machine.State.startTask s cid q) := by
  unfold Sys2Proof.Machine.State.startTask; repeat' (first | (with_reducible assumption) | ((try lift_lets -underBinder); intro x; refine W_cut (ν := ν) x ?_ ?_ <;> first | (intro hx; clear_value x) | unfold x) | ((try lift_lets -underBinder); intro x) | (with_reducible apply wf_State_setCtx) | (with_reducible apply wf_State_setLaunch) | (with_reducible apply wf_State_setHolder) | (with_reducible apply wf_State_exhaust) | (with_reducible apply wf_State_dropHandovers) | (with_reducible refine foldl_wf _ _ ?_ _ ?_; first | (intro x y hxy) | skip) | (with_reducible refine toW (ν := ν) ?_) | (with_reducible apply toN) | ((with_reducible refine W_mk ?_ ?_) <;> dsimp -zeta only) | (with_reducible apply W_ite) | split)
theorem wf_State_takeWork (s : State) (cid : Nat) (h0 : W ν s) : W ν (Sys2Proof.Machine.State.takeWork s cid) := by
  unfold Sys2Proof.Machine.State.takeWork; repeat' (first | (with_reducible assumption) | ((try lift_lets -underBinder); intro x) | (with_reducible apply wf_State_setCore) | (with_reducible apply wf_State_setLaunch) | (with_reducible apply wf_State_startTask) | (with_reducible apply W_ite) | split)
theorem wf_State_freeCtx (s : State) (cid : Nat) (h0 : W ν s) : W ν (Sys2Proof.Machine.State.freeCtx s cid) := by
  unfold Sys2Proof.Machine.State.freeCtx; repeat' (first | (with_reducible assumption) | ((try lift_lets -underBinder); intro x; refine W_cut (ν := ν) x ?_ ?_ <;> first | (intro hx; clear_value x) | unfold x) | ((try lift_lets -underBinder); intro x) | (with_reducible apply wf_State_setCtx) | (with_reducible apply wf_State_stopIfEmpty) | (with_reducible apply wf_State_leaveOne) | (with_reducible apply wf_State_settle) | (with_reducible apply wf_State_holdCheck) | (with_reducible apply wf_State_withdraw) | (with_reducible apply W_ite))
theorem wf_State_release (s : State) (l : Launch) (i k : Nat) (h0 : W ν s) : W ν (Sys2Proof.Machine.State.release s l i k) := by
  unfold Sys2Proof.Machine.State.release; repeat' (first | (with_reducible assumption) | ((try lift_lets -underBinder); intro x; refine W_cut (ν := ν) x ?_ ?_ <;> first | (intro hx; clear_value x) | unfold x) | ((try lift_lets -underBinder); intro x) | (with_reducible apply wf_State_setLaunch) | (with_reducible apply wf_State_queueTask) | (with_reducible refine foldl_wf _ _ ?_ _ ?_; first | (intro x y hxy) | skip) | (with_reducible apply W_ite) | split)
theorem wf_State_endTask (s : State) (cid : Nat) (h0 : W ν s) : W ν (Sys2Proof.Machine.State.endTask s cid) := by
  unfold Sys2Proof.Machine.State.endTask; repeat' (first | (with_reducible assumption) | ((try lift_lets -underBinder); intro x; refine W_cut (ν := ν) x ?_ ?_ <;> first | (intro hx; clear_value x) | unfold x) | ((try lift_lets -underBinder); intro x) | (with_reducible apply wf_State_setLaunch) | (with_reducible apply wf_State_freeCtx) | (with_reducible apply wf_State_release) | split)
theorem wf_State_dropRejoin (s : State) (n : Nat) (h0 : W ν s) : W ν (Sys2Proof.Machine.State.dropRejoin s n) := by
  unfold Sys2Proof.Machine.State.dropRejoin; repeat' (first | (with_reducible assumption) | (with_reducible refine toW (ν := ν) ?_) | (with_reducible apply toN) | ((with_reducible refine W_mk ?_ ?_) <;> dsimp -zeta only))
theorem wf_State_returnGrants (s : State) (l : Launch) (h0 : W ν s) : W ν (Sys2Proof.Machine.State.returnGrants s l) := by
  unfold Sys2Proof.Machine.State.returnGrants; repeat' (first | (with_reducible assumption) | (with_reducible apply wf_State_setHolder) | (with_reducible refine foldl_wf _ _ ?_ _ ?_; first | (intro x y hxy) | skip) | split)
theorem wf_State_slotDone (s : State) (l : Launch) (h0 : W ν s) : W ν (Sys2Proof.Machine.State.slotDone s l) := by
  unfold Sys2Proof.Machine.State.slotDone; repeat' (first | (with_reducible assumption) | ((try lift_lets -underBinder); intro x; refine W_cut (ν := ν) x ?_ ?_ <;> first | (intro hx; clear_value x) | unfold x) | ((try lift_lets -underBinder); intro x) | (with_reducible apply wf_State_setWinFld) | (with_reducible refine toW (ν := ν) ?_) | (with_reducible apply toN) | ((with_reducible refine W_mk ?_ ?_) <;> dsimp -zeta only) | (with_reducible apply W_ite) | split)
theorem wf_State_completeLaunch (s : State) (l : Launch) (h0 : W ν s) : W ν (Sys2Proof.Machine.State.completeLaunch s l) := by
  unfold Sys2Proof.Machine.State.completeLaunch; repeat' (first | (with_reducible assumption) | ((try lift_lets -underBinder); intro x; refine W_cut (ν := ν) x ?_ ?_ <;> first | (intro hx; clear_value x) | unfold x) | ((try lift_lets -underBinder); intro x) | (with_reducible apply wf_State_vaWrite) | (with_reducible apply wf_State_endMappings) | (with_reducible apply wf_State_onOwner) | (with_reducible apply wf_State_endTask) | (with_reducible apply wf_State_dropRejoin) | (with_reducible apply wf_State_returnGrants) | (with_reducible apply wf_State_slotDone) | (with_reducible refine foldl_wf _ _ ?_ _ ?_; first | (intro x y hxy) | skip) | (with_reducible refine toW (ν := ν) ?_) | (with_reducible apply toN) | ((with_reducible refine W_mk ?_ ?_) <;> dsimp -zeta only))
theorem wf_State_discardWork (s : State) (p : Nat → Byte → Option Nat → Bool) (h0 : W ν s) : W ν (Sys2Proof.Machine.State.discardWork s p) := by
  unfold Sys2Proof.Machine.State.discardWork; repeat' (first | (with_reducible assumption) | (with_reducible refine toW (ν := ν) ?_) | (with_reducible apply toN) | ((with_reducible refine W_mk ?_ ?_) <;> dsimp -zeta only))
theorem wf_State_dropCaps (s : State) (cid : Nat) (h0 : W ν s) : W ν (Sys2Proof.Machine.State.dropCaps s cid) := by
  unfold Sys2Proof.Machine.State.dropCaps; repeat' (first | (with_reducible assumption) | (with_reducible refine toW (ν := ν) ?_) | (with_reducible apply toN) | ((with_reducible refine W_mk ?_ ?_) <;> dsimp -zeta only))
theorem wf_State_discardCtx (s : State) (cid : Nat) (h0 : W ν s) : W ν (Sys2Proof.Machine.State.discardCtx s cid) := by
  unfold Sys2Proof.Machine.State.discardCtx; repeat' (first | (with_reducible assumption) | ((try lift_lets -underBinder); intro x; refine W_cut (ν := ν) x ?_ ?_ <;> first | (intro hx; clear_value x) | unfold x) | ((try lift_lets -underBinder); intro x) | (with_reducible apply wf_State_setWinFld) | (with_reducible apply wf_State_setCtx) | (with_reducible apply wf_State_freeCtx) | (with_reducible apply wf_State_dropCaps) | (with_reducible refine toW (ν := ν) ?_) | (with_reducible apply toN) | ((with_reducible refine W_mk ?_ ?_) <;> dsimp -zeta only))
theorem wf_State_dropRest (s : State) (l : Launch) (h0 : W ν s) : W ν (Sys2Proof.Machine.State.dropRest s l) := by
  unfold Sys2Proof.Machine.State.dropRest; repeat' (first | (with_reducible assumption) | ((try lift_lets -underBinder); intro x; refine W_cut (ν := ν) x ?_ ?_ <;> first | (intro hx; clear_value x) | unfold x) | (with_reducible apply wf_State_endMappings) | (with_reducible apply wf_State_dropRejoin) | (with_reducible apply wf_State_returnGrants) | (with_reducible apply wf_State_slotDone) | (with_reducible apply wf_State_discardWork) | (with_reducible refine toW (ν := ν) ?_) | (with_reducible apply toN) | ((with_reducible refine W_mk ?_ ?_) <;> dsimp -zeta only))
theorem wf_State_dropLaunch (s : State) (l : Launch) (h0 : W ν s) : W ν (Sys2Proof.Machine.State.dropLaunch s l) := by
  unfold Sys2Proof.Machine.State.dropLaunch; repeat' (first | (with_reducible assumption) | ((try lift_lets -underBinder); intro x; refine W_cut (ν := ν) x ?_ ?_ <;> first | (intro hx; clear_value x) | unfold x) | ((try lift_lets -underBinder); intro x) | (with_reducible apply wf_State_onOwner) | (with_reducible apply wf_State_discardCtx) | (with_reducible apply wf_State_dropRest) | (with_reducible refine foldl_wf _ _ ?_ _ ?_; first | (intro x y hxy) | skip))
theorem wf_State_killLaunch (s : State) (l : Launch) (code : Byte) (sub : Nat) (val : Word) (cid : Nat) (h0 : W ν s) : W ν (Sys2Proof.Machine.State.killLaunch s l code sub val cid) := by
  unfold Sys2Proof.Machine.State.killLaunch; repeat' (first | (with_reducible assumption) | (with_reducible apply wf_State_reportLaunch) | (with_reducible apply wf_State_dropLaunch))
theorem wf_State_countTaken (s : State) (q n : Nat) (h0 : W ν s) : W ν (Sys2Proof.Machine.State.countTaken s q n) := by
  unfold Sys2Proof.Machine.State.countTaken; repeat' (first | (with_reducible assumption) | ((try lift_lets -underBinder); intro x) | (with_reducible apply wf_State_setWin))
theorem wf_State_drainQueue (s : State) (q : Nat) (code : Byte) (sub : Nat) (val : Word) (cid : Nat) (report : Bool) (h0 : W ν s) : W ν (Sys2Proof.Machine.State.drainQueue s q code sub val cid report) := by
  unfold Sys2Proof.Machine.State.drainQueue; repeat' (first | (with_reducible assumption) | ((try lift_lets -underBinder); intro x; refine W_cut (ν := ν) x ?_ ?_ <;> first | (intro hx; clear_value x) | unfold x) | ((try lift_lets -underBinder); intro x) | (with_reducible apply wf_State_vaWrite) | (with_reducible apply wf_State_reportLaunch) | (with_reducible apply wf_State_countTaken) | (with_reducible refine foldNat_wf _ _ _ ?_ _ ?_; first | (intro x y hxy) | skip) | (with_reducible apply W_ite))
theorem wf_State_killTenant (s : State) (t : Byte) (code : Byte) (sub : Nat) (val : Word) (cid : Nat) (report : Bool) (h0 : W ν s) : W ν (Sys2Proof.Machine.State.killTenant s t code sub val cid report) := by
  unfold Sys2Proof.Machine.State.killTenant; repeat' (first | (with_reducible assumption) | ((try lift_lets -underBinder); intro x; refine W_cut (ν := ν) x ?_ ?_ <;> first | (intro hx; clear_value x) | unfold x) | ((try lift_lets -underBinder); intro x) | (with_reducible apply wf_State_endMappings) | (with_reducible apply wf_State_discardWork) | (with_reducible apply wf_State_discardCtx) | (with_reducible apply wf_State_dropLaunch) | (with_reducible apply wf_State_killLaunch) | (with_reducible apply wf_State_drainQueue) | (with_reducible refine foldNat_wf _ _ _ ?_ _ ?_; first | (intro x y hxy) | skip) | (with_reducible refine foldl_wf _ _ ?_ _ ?_; first | (intro x y hxy) | skip) | (with_reducible refine toW (ν := ν) ?_) | (with_reducible apply toN) | ((with_reducible refine W_mk ?_ ?_) <;> dsimp -zeta only) | (with_reducible apply W_ite))
theorem wf_State_startKernel (s : State) (cid : Nat) (h0 : W ν s) : W ν (Sys2Proof.Machine.State.startKernel s cid) := by
  unfold Sys2Proof.Machine.State.startKernel; repeat' (first | (with_reducible assumption) | (with_reducible apply wf_State_setCtx))
theorem wf_State_kernelReset (s : State) (g : Nat) (h0 : W ν s) : W ν (Sys2Proof.Machine.State.kernelReset s g) := by
  unfold Sys2Proof.Machine.State.kernelReset; repeat' (first | (with_reducible assumption) | (with_reducible apply wf_State_startKernel))
theorem wf_State_partitionReset (s : State) (p : Nat) (val : Word) (cid : Nat) (h0 : W ν s) : W ν (Sys2Proof.Machine.State.partitionReset s p val cid) := by
  unfold Sys2Proof.Machine.State.partitionReset; repeat' (first | (with_reducible assumption) | ((try lift_lets -underBinder); intro x; refine W_cut (ν := ν) x ?_ ?_ <;> first | (intro hx; clear_value x) | unfold x) | (with_reducible apply wf_State_killTenant) | (with_reducible apply wf_State_kernelReset) | (with_reducible refine foldl_wf _ _ ?_ _ ?_; first | (intro x y hxy) | skip))
theorem wf_State_uncorr (s : State) (r : RegionEnt) (p : Nat) (val : Word) (cid : Nat) (h0 : W ν s) : W ν (Sys2Proof.Machine.State.uncorr s r p val cid) := by
  unfold Sys2Proof.Machine.State.uncorr; repeat' (first | (with_reducible assumption) | ((try lift_lets -underBinder); intro x) | (with_reducible apply wf_State_killTenant) | (with_reducible apply wf_State_partitionReset) | (with_reducible refine foldl_wf _ _ ?_ _ ?_; first | (intro x y hxy) | skip) | (with_reducible apply W_ite))
theorem wf_State_tablesBad (s : State) (g : Nat) (h0 : W ν s) : W ν (Sys2Proof.Machine.State.tablesBad s g) := by
  unfold Sys2Proof.Machine.State.tablesBad; repeat' (first | (with_reducible assumption) | (with_reducible apply wf_State_kernelReset) | (with_reducible apply wf_State_partitionReset) | split)
theorem wf_State_poisoned (s : State) (cid : Nat) (r : RegionEnt) (va : Word) (h0 : W ν s) : W ν (Sys2Proof.Machine.State.poisoned s cid r va) := by
  unfold Sys2Proof.Machine.State.poisoned; repeat' (first | (with_reducible assumption) | (with_reducible apply wf_State_kernelReset) | (with_reducible apply wf_State_uncorr) | split)
theorem wf_State_suspend (s : State) (cid : Nat) (code : Byte) (val : Word) (flags detail akind : Byte) (h0 : W ν s) : W ν (Sys2Proof.Machine.State.suspend s cid code val flags detail akind) := by
  unfold Sys2Proof.Machine.State.suspend; repeat' (first | (with_reducible assumption) | ((try lift_lets -underBinder); intro x; refine W_cut (ν := ν) x ?_ ?_ <;> first | (intro hx; clear_value x) | unfold x) | ((try lift_lets -underBinder); intro x) | (with_reducible apply wf_State_setWinFld) | (with_reducible apply wf_State_setCtx) | (with_reducible apply wf_State_detach) | (with_reducible apply wf_State_bumpW) | (with_reducible apply wf_State_physWrite) | (with_reducible apply wf_State_touch) | (with_reducible apply wf_State_kernelReset) | (with_reducible apply wf_State_partitionReset) | (with_reducible apply W_ite) | split)
theorem wf_State_trapAs (s : State) (cid : Nat) (code : Byte) (val : Word) (ak : Byte) (h0 : W ν s) : W ν (Sys2Proof.Machine.State.trapAs s cid code val ak) := by
  unfold Sys2Proof.Machine.State.trapAs; repeat' (first | (with_reducible assumption) | ((try lift_lets -underBinder); intro x; refine W_cut (ν := ν) x ?_ ?_ <;> first | (intro hx; clear_value x) | unfold x) | ((try lift_lets -underBinder); intro x) | (with_reducible apply wf_State_setCtx) | (with_reducible apply wf_State_detach) | (with_reducible apply wf_State_suspend) | (with_reducible apply W_ite))
theorem wf_State_trapAt (s : State) (cid : Nat) (code : Byte) (val : Word) (h0 : W ν s) : W ν (Sys2Proof.Machine.State.trapAt s cid code val) := by
  unfold Sys2Proof.Machine.State.trapAt; repeat' (first | (with_reducible assumption) | (with_reducible apply wf_State_trapAs))
theorem wf_State_trap (s : State) (code : Byte) (val : Word) (h0 : W ν s) : OutW ν (Sys2Proof.Machine.State.trap s code val) := by
  unfold Sys2Proof.Machine.State.trap; repeat' (first | (with_reducible assumption) | (with_reducible apply wf_State_trapAt) | (with_reducible apply OutW_next))
theorem wf_State_illegal (s : State) (w : Word32) (h0 : W ν s) : OutW ν (Sys2Proof.Machine.State.illegal s w) := by
  unfold Sys2Proof.Machine.State.illegal; repeat' (first | (with_reducible assumption) | (with_reducible apply wf_State_trap))
theorem wf_State_trapReturn (s : State) (isRep : Bool) (h0 : W ν s) : W ν (Sys2Proof.Machine.State.trapReturn s isRep) := by
  unfold Sys2Proof.Machine.State.trapReturn; repeat' (first | (with_reducible assumption) | ((try lift_lets -underBinder); intro x) | (with_reducible apply wf_State_setCtx))
theorem wf_State_park (s : State) (cid : Nat) (y : Why) (h0 : W ν s) : W ν (Sys2Proof.Machine.State.park s cid y) := by
  unfold Sys2Proof.Machine.State.park; repeat' (first | (with_reducible assumption) | ((try lift_lets -underBinder); intro x) | (with_reducible apply wf_State_setWait) | (with_reducible apply W_ite))
theorem wf_State_parkWalk (s : State) (cid va : Nat) (write : Bool) (ak : Byte) (h0 : W ν s) : W ν (Sys2Proof.Machine.State.parkWalk s cid va write ak) := by
  unfold Sys2Proof.Machine.State.parkWalk; repeat' (first | (with_reducible assumption) | (with_reducible apply wf_State_addWalk) | (with_reducible apply wf_State_park))
theorem wf_State_fetchAt (s : State) (cid : Nat) (va : Word) (h0 : W ν s) : GF ν (Sys2Proof.Machine.State.fetchAt s cid va) := by
  unfold Sys2Proof.Machine.State.fetchAt; repeat' (first | (with_reducible assumption) | ((try lift_lets -underBinder); intro x; have _q : _ → Fetched := x; try unfold x; clear x) | ((try lift_lets -underBinder); intro x) | (with_reducible apply wf_State_poisoned) | (with_reducible apply wf_State_suspend) | (with_reducible apply wf_State_trapAs) | (with_reducible apply wf_State_parkWalk) | (with_reducible apply GF_s) | (with_reducible apply GF_w) | split)
theorem wf_State_takeLine (s : State) (cid : Nat) (y : Option (Nat × CodeLine)) (priv : Bool) (h0 : W ν s) : W ν (Sys2Proof.Machine.State.takeLine s cid y priv) := by
  unfold Sys2Proof.Machine.State.takeLine; repeat' (first | (with_reducible assumption) | ((try lift_lets -underBinder); intro x; refine W_cut (ν := ν) x ?_ ?_ <;> first | (intro hx; clear_value x) | unfold x) | ((try lift_lets -underBinder); intro x) | (with_reducible apply wf_State_setGath) | (with_reducible apply wf_State_l2Touch) | (with_reducible apply W_ite) | split)
theorem wf_State_dequeue (s : State) (cid : Nat) (m : Msg) (h0 : W ν s) : W ν (Sys2Proof.Machine.State.dequeue s cid m) := by
  unfold Sys2Proof.Machine.State.dequeue; repeat' (first | (with_reducible assumption) | ((try lift_lets -underBinder); intro x; refine W_cut (ν := ν) x ?_ ?_ <;> first | (intro hx; clear_value x) | unfold x) | ((try lift_lets -underBinder); intro x) | (with_reducible apply wf_State_setCtx) | (with_reducible apply wf_State_setHolder) | (with_reducible apply W_ite) | split)
theorem wf_State_dispatch (s : State) (cid : Nat) (h0 : W ν s) : W ν (Sys2Proof.Machine.State.dispatch s cid) := by
  unfold Sys2Proof.Machine.State.dispatch; repeat' (first | (with_reducible assumption) | ((try lift_lets -underBinder); intro x; refine W_cut (ν := ν) x ?_ ?_ <;> first | (intro hx; clear_value x) | unfold x) | ((try lift_lets -underBinder); intro x) | (with_reducible apply wf_State_setCtx) | (with_reducible apply wf_State_advanceAt) | (with_reducible apply wf_State_detach) | (with_reducible apply wf_State_dequeue) | (with_reducible apply W_ite) | split)
theorem wf_State_endHandler (s : State) (cid : Nat) (h0 : W ν s) : W ν (Sys2Proof.Machine.State.endHandler s cid) := by
  unfold Sys2Proof.Machine.State.endHandler; repeat' (first | (with_reducible assumption) | ((try lift_lets -underBinder); intro x; refine W_cut (ν := ν) x ?_ ?_ <;> first | (intro hx; clear_value x) | unfold x) | ((try lift_lets -underBinder); intro x) | (with_reducible apply wf_State_setCtx) | (with_reducible apply wf_State_detach) | (with_reducible apply wf_State_freeCtx) | (with_reducible apply W_ite) | split)
theorem wf_State_finish (s : State) (h0 : W ν s) : OutW ν (Sys2Proof.Machine.State.finish s) := by
  unfold Sys2Proof.Machine.State.finish; repeat' (first | (with_reducible assumption) | ((try lift_lets -underBinder); intro x) | (with_reducible apply wf_State_setRegs) | (with_reducible apply wf_State_endTask) | (with_reducible apply wf_State_trap) | (with_reducible apply wf_State_park) | (with_reducible apply wf_State_endHandler) | (with_reducible apply OutW_next) | (with_reducible apply OutW_ite))
theorem wf_State_jump (s : State) (t : Word) (h0 : W ν s) : OutW ν (Sys2Proof.Machine.State.jump s t) := by
  unfold Sys2Proof.Machine.State.jump; repeat' (first | (with_reducible assumption) | (with_reducible apply wf_State_goto) | (with_reducible apply wf_State_trap) | (with_reducible apply OutW_next) | (with_reducible apply OutW_ite))
theorem wf_State_branch {n : Nat} (s : State) (taken : Bool) (off : BitVec n) (h0 : W ν s) : OutW ν (Sys2Proof.Machine.State.branch s taken off) := by
  unfold Sys2Proof.Machine.State.branch; repeat' (first | (with_reducible assumption) | (with_reducible apply wf_State_advance) | (with_reducible apply wf_State_jump) | (with_reducible apply OutW_next) | (with_reducible apply OutW_ite))
theorem wf_execBeq (a b : Reg) (o : BitVec 13) (s : State) (h0 : W ν s) : OutW ν (Sys2Proof.Machine.execBeq a b o s) := by
  unfold Sys2Proof.Machine.execBeq; repeat' (first | (with_reducible assumption) | (with_reducible apply wf_State_branch))
theorem wf_execBne (a b : Reg) (o : BitVec 13) (s : State) (h0 : W ν s) : OutW ν (Sys2Proof.Machine.execBne a b o s) := by
  unfold Sys2Proof.Machine.execBne; repeat' (first | (with_reducible assumption) | (with_reducible apply wf_State_branch))
theorem wf_execBlt (a b : Reg) (o : BitVec 13) (s : State) (h0 : W ν s) : OutW ν (Sys2Proof.Machine.execBlt a b o s) := by
  unfold Sys2Proof.Machine.execBlt; repeat' (first | (with_reducible assumption) | (with_reducible apply wf_State_branch))
theorem wf_execBge (a b : Reg) (o : BitVec 13) (s : State) (h0 : W ν s) : OutW ν (Sys2Proof.Machine.execBge a b o s) := by
  unfold Sys2Proof.Machine.execBge; repeat' (first | (with_reducible assumption) | (with_reducible apply wf_State_branch))
theorem wf_execBltu (a b : Reg) (o : BitVec 13) (s : State) (h0 : W ν s) : OutW ν (Sys2Proof.Machine.execBltu a b o s) := by
  unfold Sys2Proof.Machine.execBltu; repeat' (first | (with_reducible assumption) | (with_reducible apply wf_State_branch))
theorem wf_execBgeu (a b : Reg) (o : BitVec 13) (s : State) (h0 : W ν s) : OutW ν (Sys2Proof.Machine.execBgeu a b o s) := by
  unfold Sys2Proof.Machine.execBgeu; repeat' (first | (with_reducible assumption) | (with_reducible apply wf_State_branch))
theorem wf_execBeqz (a : Reg) (o : BitVec 18) (s : State) (h0 : W ν s) : OutW ν (Sys2Proof.Machine.execBeqz a o s) := by
  unfold Sys2Proof.Machine.execBeqz; repeat' (first | (with_reducible assumption) | (with_reducible apply wf_State_branch))
theorem wf_execBnez (a : Reg) (o : BitVec 18) (s : State) (h0 : W ν s) : OutW ν (Sys2Proof.Machine.execBnez a o s) := by
  unfold Sys2Proof.Machine.execBnez; repeat' (first | (with_reducible assumption) | (with_reducible apply wf_State_branch))
theorem wf_execBltz (a : Reg) (o : BitVec 18) (s : State) (h0 : W ν s) : OutW ν (Sys2Proof.Machine.execBltz a o s) := by
  unfold Sys2Proof.Machine.execBltz; repeat' (first | (with_reducible assumption) | (with_reducible apply wf_State_branch))
theorem wf_execBgez (a : Reg) (o : BitVec 18) (s : State) (h0 : W ν s) : OutW ν (Sys2Proof.Machine.execBgez a o s) := by
  unfold Sys2Proof.Machine.execBgez; repeat' (first | (with_reducible assumption) | (with_reducible apply wf_State_branch))
theorem wf_execBgtz (a : Reg) (o : BitVec 18) (s : State) (h0 : W ν s) : OutW ν (Sys2Proof.Machine.execBgtz a o s) := by
  unfold Sys2Proof.Machine.execBgtz; repeat' (first | (with_reducible assumption) | (with_reducible apply wf_State_branch))
theorem wf_execBlez (a : Reg) (o : BitVec 18) (s : State) (h0 : W ν s) : OutW ν (Sys2Proof.Machine.execBlez a o s) := by
  unfold Sys2Proof.Machine.execBlez; repeat' (first | (with_reducible assumption) | (with_reducible apply wf_State_branch))
theorem wf_execJal (o : BitVec 26) (s : State) (h0 : W ν s) : OutW ν (Sys2Proof.Machine.execJal o s) := by
  unfold Sys2Proof.Machine.execJal; repeat' (first | (with_reducible assumption) | ((try lift_lets -underBinder); intro x) | (with_reducible apply wf_State_setS) | (with_reducible apply wf_State_goto) | (with_reducible apply wf_State_trap) | (with_reducible apply OutW_next) | (with_reducible apply OutW_ite))
theorem wf_execJalr (d a : Reg) (i : BitVec 16) (s : State) (h0 : W ν s) : OutW ν (Sys2Proof.Machine.execJalr d a i s) := by
  unfold Sys2Proof.Machine.execJalr; repeat' (first | (with_reducible assumption) | ((try lift_lets -underBinder); intro x) | (with_reducible apply wf_State_setS) | (with_reducible apply wf_State_goto) | (with_reducible apply wf_State_trap) | (with_reducible apply OutW_next) | (with_reducible apply OutW_ite))
theorem wf_State_tryAttach (s : State) (cid : Nat) (h0 : W ν s) : W ν (Sys2Proof.Machine.State.tryAttach s cid) := by
  unfold Sys2Proof.Machine.State.tryAttach; repeat' (first | (with_reducible assumption) | ((try lift_lets -underBinder); intro x; refine W_cut (ν := ν) x ?_ ?_ <;> first | (intro hx; clear_value x) | unfold x) | ((try lift_lets -underBinder); intro x) | (with_reducible apply wf_State_setCtx) | (with_reducible apply wf_State_setStream) | (with_reducible apply wf_State_endHold) | (with_reducible apply W_ite) | split)
theorem wf_State_joinStream (s : State) (d : Reg) (t : BitVec 13) (start : Bool) (h0 : W ν s) : OutW ν (Sys2Proof.Machine.State.joinStream s d t start) := by
  unfold Sys2Proof.Machine.State.joinStream; repeat' (first | (with_reducible assumption) | ((try lift_lets -underBinder); intro x; refine W_cut (ν := ν) x ?_ ?_ <;> first | (intro hx; clear_value x) | unfold x) | ((try lift_lets -underBinder); intro x) | (with_reducible apply wf_State_setSched) | (with_reducible apply wf_State_setWait) | (with_reducible apply wf_State_setS) | (with_reducible apply wf_State_advance) | (with_reducible apply wf_State_done) | (with_reducible apply wf_State_setStream) | (with_reducible apply wf_State_tryAttach) | (with_reducible apply OutW_next) | (with_reducible apply OutW_ite) | split)
theorem wf_State_setRejoin (s : State) (g : Nat) (l : List Rejoin) (h0 : W ν s) : W ν (Sys2Proof.Machine.State.setRejoin s g l) := by
  unfold Sys2Proof.Machine.State.setRejoin; repeat' (first | (with_reducible assumption) | ((try lift_lets -underBinder); intro x) | (with_reducible apply wf_State_setGath))
theorem wf_execDetach (s : State) (h0 : W ν s) : OutW ν (Sys2Proof.Machine.execDetach s) := by
  unfold Sys2Proof.Machine.execDetach; repeat' (first | (with_reducible assumption) | (with_reducible apply wf_State_advance) | (with_reducible apply wf_State_detach) | (with_reducible apply wf_State_illegal) | (with_reducible apply OutW_next) | (with_reducible apply OutW_ite))
theorem wf_execAttach (d : Reg) (t : BitVec 13) (s : State) (h0 : W ν s) : OutW ν (Sys2Proof.Machine.execAttach d t s) := by
  unfold Sys2Proof.Machine.execAttach; repeat' (first | (with_reducible assumption) | (with_reducible apply wf_State_illegal) | (with_reducible apply wf_State_joinStream) | (with_reducible apply OutW_ite))
theorem wf_execJoin (d : Reg) (t : BitVec 13) (s : State) (h0 : W ν s) : OutW ν (Sys2Proof.Machine.execJoin d t s) := by
  unfold Sys2Proof.Machine.execJoin; repeat' (first | (with_reducible assumption) | (with_reducible apply wf_State_illegal) | (with_reducible apply wf_State_joinStream) | (with_reducible apply OutW_ite))
theorem wf_execDonate (d a : Reg) (s : State) (h0 : W ν s) : OutW ν (Sys2Proof.Machine.execDonate d a s) := by
  unfold Sys2Proof.Machine.execDonate; repeat' (first | (with_reducible assumption) | ((try lift_lets -underBinder); intro x) | (with_reducible apply wf_State_done) | (with_reducible apply wf_State_illegal) | (with_reducible apply wf_State_setRejoin) | (with_reducible apply OutW_ite))
theorem wf_execTakew (d a : Reg) (s : State) (h0 : W ν s) : OutW ν (Sys2Proof.Machine.execTakew d a s) := by
  unfold Sys2Proof.Machine.execTakew; repeat' (first | (with_reducible assumption) | ((try lift_lets -underBinder); intro x) | (with_reducible apply wf_State_setS) | (with_reducible apply wf_State_done) | (with_reducible apply wf_State_illegal) | (with_reducible apply wf_State_setRejoin) | (with_reducible apply OutW_ite) | split)
theorem wf_execGang (d : Reg) (s : State) (h0 : W ν s) : OutW ν (Sys2Proof.Machine.execGang d s) := by
  unfold Sys2Proof.Machine.execGang; repeat' (first | (with_reducible assumption) | ((try lift_lets -underBinder); intro x) | (with_reducible apply wf_State_done) | (with_reducible apply wf_State_illegal) | (with_reducible apply OutW_ite))
theorem wf_execRep (c : BitVec 6) (m s' : BitVec 3) (s : State) (h0 : W ν s) : OutW ν (Sys2Proof.Machine.execRep c m s' s) := by
  unfold Sys2Proof.Machine.execRep; repeat' (first | (with_reducible assumption) | ((try lift_lets -underBinder); intro x) | (with_reducible apply wf_State_setRegs) | (with_reducible apply wf_State_illegal) | (with_reducible apply wf_State_fetchAt) | (with_reducible apply OutW_next) | (with_reducible apply OutW_ite) | (with_reducible refine GF_u ?_ (by with_reducible assumption)) | split)
theorem wf_State_writeClass (s : State) (cid : Nat) (v : BitVec 2) (h0 : W ν s) : W ν (Sys2Proof.Machine.State.writeClass s cid v) := by
  unfold Sys2Proof.Machine.State.writeClass; repeat' (first | (with_reducible assumption) | ((try lift_lets -underBinder); intro x; refine W_cut (ν := ν) x ?_ ?_ <;> first | (intro hx; clear_value x) | unfold x) | ((try lift_lets -underBinder); intro x) | (with_reducible apply wf_State_setCtx) | (with_reducible apply wf_State_detach) | (with_reducible apply W_ite))
theorem wf_State_writeBmask (s : State) (cid : Nat) (v : Word32) (h0 : W ν s) : W ν (Sys2Proof.Machine.State.writeBmask s cid v) := by
  unfold Sys2Proof.Machine.State.writeBmask; repeat' (first | (with_reducible assumption) | ((try lift_lets -underBinder); intro x; refine W_cut (ν := ν) x ?_ ?_ <;> first | (intro hx; clear_value x) | unfold x) | ((try lift_lets -underBinder); intro x) | (with_reducible apply wf_State_setCtl) | (with_reducible apply wf_State_setBar) | (with_reducible apply wf_State_barEvalOf) | (with_reducible refine foldl_wf _ _ ?_ _ ?_; first | (intro x y hxy) | skip))
theorem wf_State_writeHtab (s : State) (cid : Nat) (v : Word) (h0 : W ν s) : W ν (Sys2Proof.Machine.State.writeHtab s cid v) := by
  unfold Sys2Proof.Machine.State.writeHtab; repeat' (first | (with_reducible assumption) | ((try lift_lets -underBinder); intro x) | (with_reducible apply wf_State_setCore))
theorem wf_State_ctlWrite (s : State) (cid : Nat) (a : BitVec 12) (v : Word) (h0 : W ν s) : GO ν (Sys2Proof.Machine.State.ctlWrite s cid a v) := by
  unfold Sys2Proof.Machine.State.ctlWrite; repeat' (first | (with_reducible assumption) | ((try lift_lets -underBinder); intro x) | (with_reducible apply wf_State_setCore) | (with_reducible apply wf_State_setCtl) | (with_reducible apply wf_State_writeClass) | (with_reducible apply wf_State_writeBmask) | (with_reducible apply wf_State_writeHtab) | (with_reducible apply GO_s) | (with_reducible apply GO_n) | split)
theorem wf_execNop (s : State) (h0 : W ν s) : OutW ν (Sys2Proof.Machine.execNop s) := by
  unfold Sys2Proof.Machine.execNop; repeat' (first | (with_reducible assumption) | (with_reducible apply wf_State_advance) | (with_reducible apply OutW_next))
theorem wf_execCtlr (d : Reg) (a : BitVec 12) (s : State) (h0 : W ν s) : OutW ν (Sys2Proof.Machine.execCtlr d a s) := by
  unfold Sys2Proof.Machine.execCtlr; repeat' (first | (with_reducible assumption) | ((try lift_lets -underBinder); intro x; refine W_cut (ν := ν) x ?_ ?_ <;> first | (intro hx; clear_value x) | unfold x) | ((try lift_lets -underBinder); intro x) | (with_reducible apply wf_State_setCtl) | (with_reducible apply wf_State_done) | (with_reducible apply wf_State_trap) | (with_reducible apply W_ite) | split)
theorem wf_execMxovfRead (d : Reg) (s : State) (h0 : W ν s) : OutW ν (Sys2Proof.Machine.execMxovfRead d s) := by
  unfold Sys2Proof.Machine.execMxovfRead; repeat' (first | (with_reducible assumption) | (with_reducible apply wf_execCtlr))
theorem wf_execWpRead (d : Reg) (ch : BitVec 1) (s : State) (h0 : W ν s) : OutW ν (Sys2Proof.Machine.execWpRead d ch s) := by
  unfold Sys2Proof.Machine.execWpRead; repeat' (first | (with_reducible assumption) | (with_reducible apply wf_execCtlr))
theorem wf_execCtlw (r : Reg) (a : BitVec 12) (s : State) (h0 : W ν s) : OutW ν (Sys2Proof.Machine.execCtlw r a s) := by
  unfold Sys2Proof.Machine.execCtlw; repeat' (first | (with_reducible assumption) | (with_reducible apply wf_State_advance) | (with_reducible apply wf_State_trap) | (with_reducible apply wf_State_ctlWrite) | (with_reducible apply OutW_next) | (with_reducible refine GO_u ?_ (by with_reducible assumption)) | split)
theorem wf_execPrioWrite (a : Reg) (s : State) (h0 : W ν s) : OutW ν (Sys2Proof.Machine.execPrioWrite a s) := by
  unfold Sys2Proof.Machine.execPrioWrite; repeat' (first | (with_reducible assumption) | (with_reducible apply wf_execCtlw))
theorem wf_execHtabWrite (a : Reg) (s : State) (h0 : W ν s) : OutW ν (Sys2Proof.Machine.execHtabWrite a s) := by
  unfold Sys2Proof.Machine.execHtabWrite; repeat' (first | (with_reducible assumption) | (with_reducible apply wf_execCtlw))
theorem wf_execMxidleWrite (a : Reg) (s : State) (h0 : W ν s) : OutW ν (Sys2Proof.Machine.execMxidleWrite a s) := by
  unfold Sys2Proof.Machine.execMxidleWrite; repeat' (first | (with_reducible assumption) | (with_reducible apply wf_execCtlw))
theorem wf_execTrap (i : BitVec 16) (s : State) (h0 : W ν s) : OutW ν (Sys2Proof.Machine.execTrap i s) := by
  unfold Sys2Proof.Machine.execTrap; repeat' (first | (with_reducible assumption) | (with_reducible apply wf_State_trap))
theorem wf_execBrk (i : BitVec 16) (s : State) (h0 : W ν s) : OutW ν (Sys2Proof.Machine.execBrk i s) := by
  unfold Sys2Proof.Machine.execBrk; repeat' (first | (with_reducible assumption) | (with_reducible apply wf_State_trap))
theorem wf_execTret (s : State) (h0 : W ν s) : OutW ν (Sys2Proof.Machine.execTret s) := by
  unfold Sys2Proof.Machine.execTret; repeat' (first | (with_reducible assumption) | (with_reducible apply wf_State_illegal) | (with_reducible apply wf_State_trapReturn) | (with_reducible apply OutW_next) | (with_reducible apply OutW_ite))
theorem wf_execIdle (s : State) (h0 : W ν s) : OutW ν (Sys2Proof.Machine.execIdle s) := by
  unfold Sys2Proof.Machine.execIdle; repeat' (first | (with_reducible assumption) | (with_reducible apply wf_State_setWait) | (with_reducible apply wf_State_advance) | (with_reducible apply OutW_next) | (with_reducible apply OutW_ite))
theorem wf_execHalt (s : State) (h0 : W ν s) : OutW ν (Sys2Proof.Machine.execHalt s) := by
  unfold Sys2Proof.Machine.execHalt; repeat' (first | (with_reducible assumption) | ((try lift_lets -underBinder); intro x) | (with_reducible apply wf_State_setSched) | (with_reducible apply wf_State_finish) | (with_reducible apply OutW_next) | (with_reducible apply OutW_ite))
theorem wf_execIllegal (s : State) (h0 : W ν s) : OutW ν (Sys2Proof.Machine.execIllegal s) := by
  unfold Sys2Proof.Machine.execIllegal; repeat' (first | (with_reducible assumption) | (with_reducible apply wf_State_illegal))
theorem wf_execReservedEncoding (w : BitVec 32) (s : State) (h0 : W ν s) : OutW ν (Sys2Proof.Machine.execReservedEncoding w s) := by
  unfold Sys2Proof.Machine.execReservedEncoding; repeat' (first | (with_reducible assumption) | (with_reducible apply wf_State_illegal))
theorem wf_State_ldvGives (s : State) (cid : Nat) (w : LdvWait) (v : Word) (p : PReg) (h0 : W ν s) : W ν (Sys2Proof.Machine.State.ldvGives s cid w v p) := by
  unfold Sys2Proof.Machine.State.ldvGives; repeat' (first | (with_reducible assumption) | ((try lift_lets -underBinder); intro x) | (with_reducible apply wf_State_setCtx))
theorem wf_State_wakeTrapAs (s : State) (cid : Nat) (code : Byte) (val : Word) (ak : Byte) (h0 : W ν s) : W ν (Sys2Proof.Machine.State.wakeTrapAs s cid code val ak) := by
  unfold Sys2Proof.Machine.State.wakeTrapAs; repeat' (first | (with_reducible assumption) | ((try lift_lets -underBinder); intro x) | (with_reducible apply wf_State_setSched) | (with_reducible apply wf_State_trapAs))
theorem wf_State_wakeTrap (s : State) (cid : Nat) (code : Byte) (val : Word) (h0 : W ν s) : W ν (Sys2Proof.Machine.State.wakeTrap s cid code val) := by
  unfold Sys2Proof.Machine.State.wakeTrap; repeat' (first | (with_reducible assumption) | (with_reducible apply wf_State_wakeTrapAs))
theorem wf_State_ldvTry (s : State) (cid : Nat) (w : LdvWait) (l : List VSlot) (h0 : W ν s) : W ν (Sys2Proof.Machine.State.ldvTry s cid w l) := by
  unfold Sys2Proof.Machine.State.ldvTry; repeat' (first | (with_reducible assumption) | (with_reducible apply wf_State_ldvGives) | (with_reducible apply wf_State_wakeTrap) | split)
theorem wf_State_ldvLate (s : State) (cid : Nat) (w : LdvWait) (h0 : W ν s) : W ν (Sys2Proof.Machine.State.ldvLate s cid w) := by
  unfold Sys2Proof.Machine.State.ldvLate; repeat' (first | (with_reducible assumption) | ((try lift_lets -underBinder); intro x) | (with_reducible apply wf_State_poisoned) | (with_reducible apply wf_State_ldvGives) | (with_reducible apply wf_State_wakeTrap) | (with_reducible apply W_ite))
theorem wf_State_ldvResume (s : State) (cid : Nat) (w : LdvWait) (h0 : W ν s) : W ν (Sys2Proof.Machine.State.ldvResume s cid w) := by
  unfold Sys2Proof.Machine.State.ldvResume; repeat' (first | (with_reducible assumption) | ((try lift_lets -underBinder); intro x) | (with_reducible apply wf_State_ldvTry) | (with_reducible apply wf_State_ldvLate) | (with_reducible apply W_ite))
theorem wf_State_reresolve (s : State) (key : Nat) (l : List VSlot) (h0 : W ν s) : W ν (Sys2Proof.Machine.State.reresolve s key l) := by
  unfold Sys2Proof.Machine.State.reresolve; repeat' (first | (with_reducible assumption) | ((try lift_lets -underBinder); intro x; refine W_cut (ν := ν) x ?_ ?_ <;> first | (intro hx; clear_value x) | unfold x) | ((try lift_lets -underBinder); intro x) | (with_reducible apply wf_State_setCtx) | (with_reducible apply wf_State_ldvTry) | (with_reducible apply wf_State_ldvLate) | (with_reducible refine foldl_wf _ _ ?_ _ ?_; first | (intro x y hxy) | skip) | (with_reducible refine toW (ν := ν) ?_) | (with_reducible apply toN) | ((with_reducible refine W_mk ?_ ?_) <;> dsimp -zeta only) | (with_reducible apply W_ite) | split)
theorem wf_State_resumeCtx (s : State) (cid : Nat) (h0 : W ν s) : W ν (Sys2Proof.Machine.State.resumeCtx s cid) := by
  unfold Sys2Proof.Machine.State.resumeCtx; repeat' (first | (with_reducible assumption) | (with_reducible apply wf_State_ldvResume) | split)
theorem wf_State_resumeTenant (s : State) (p : Nat) (t : Byte) (h0 : W ν s) : W ν (Sys2Proof.Machine.State.resumeTenant s p t) := by
  unfold Sys2Proof.Machine.State.resumeTenant; repeat' (first | (with_reducible assumption) | ((try lift_lets -underBinder); intro x) | (with_reducible apply wf_State_resumeCtx) | (with_reducible refine foldl_wf _ _ ?_ _ ?_; first | (intro x y hxy) | skip) | (with_reducible apply W_ite))
theorem wf_State_setRunning (s : State) (p : Nat) (t : Byte) (h0 : W ν s) : W ν (Sys2Proof.Machine.State.setRunning s p t) := by
  unfold Sys2Proof.Machine.State.setRunning; repeat' (first | (with_reducible assumption) | (with_reducible apply wf_State_setWin))
theorem wf_State_vwStat (s : State) (w : Nat) (busy res ver : Nat) (h0 : W ν s) : W ν (Sys2Proof.Machine.State.vwStat s w busy res ver) := by
  unfold Sys2Proof.Machine.State.vwStat; repeat' (first | (with_reducible assumption) | (with_reducible apply wf_State_setWin))
theorem wf_State_vwTry (s : State) (w : Nat) (l : List VSlot) (h0 : W ν s) : W ν (Sys2Proof.Machine.State.vwTry s w l) := by
  unfold Sys2Proof.Machine.State.vwTry; repeat' (first | (with_reducible assumption) | ((try lift_lets -underBinder); intro x) | (with_reducible apply wf_State_vwStat) | (with_reducible refine toW (ν := ν) ?_) | (with_reducible apply toN) | ((with_reducible refine W_mk ?_ ?_) <;> dsimp -zeta only) | split)
theorem wf_State_vwLate (s : State) (w : Nat) (h0 : W ν s) : W ν (Sys2Proof.Machine.State.vwLate s w) := by
  unfold Sys2Proof.Machine.State.vwLate; repeat' (first | (with_reducible assumption) | (with_reducible apply wf_State_vwStat))
theorem wf_State_vwReresolve (s : State) (key : Nat) (l : List VSlot) (h0 : W ν s) : W ν (Sys2Proof.Machine.State.vwReresolve s key l) := by
  unfold Sys2Proof.Machine.State.vwReresolve; repeat' (first | (with_reducible assumption) | ((try lift_lets -underBinder); intro x) | (with_reducible apply wf_State_vwTry) | (with_reducible apply wf_State_vwLate) | (with_reducible refine foldNat_wf _ _ _ ?_ _ ?_; first | (intro x y hxy) | skip) | (with_reducible apply W_ite))
theorem wf_State_vwRevoke (s : State) (key i : Nat) (h0 : W ν s) : W ν (Sys2Proof.Machine.State.vwRevoke s key i) := by
  unfold Sys2Proof.Machine.State.vwRevoke; repeat' (first | (with_reducible assumption) | ((try lift_lets -underBinder); intro x) | (with_reducible apply wf_State_vwStat) | (with_reducible refine foldNat_wf _ _ _ ?_ _ ?_; first | (intro x y hxy) | skip) | (with_reducible apply W_ite))
theorem wf_State_ringChanged (s : State) (key : Nat) (l : List VSlot) (h0 : W ν s) : W ν (Sys2Proof.Machine.State.ringChanged s key l) := by
  unfold Sys2Proof.Machine.State.ringChanged; repeat' (first | (with_reducible assumption) | (with_reducible apply wf_State_setRing) | (with_reducible apply wf_State_reresolve) | (with_reducible apply wf_State_vwReresolve))
theorem wf_State_openV (s : State) (key depth : Nat) (v : Word32) (h0 : W ν s) : W ν (Sys2Proof.Machine.State.openV s key depth v) := by
  unfold Sys2Proof.Machine.State.openV; repeat' (first | (with_reducible assumption) | ((try lift_lets -underBinder); intro x) | (with_reducible apply wf_State_vwRevoke) | (with_reducible apply wf_State_ringChanged))
theorem wf_State_pairSeal (s : State) (key len : Nat) (x : VSlot) (h0 : W ν s) : W ν (Sys2Proof.Machine.State.pairSeal s key len x) := by
  unfold Sys2Proof.Machine.State.pairSeal; repeat' (first | (with_reducible assumption) | ((try lift_lets -underBinder); intro x) | (with_reducible refine foldl_wf _ _ ?_ _ ?_; first | (intro x y hxy) | skip) | (with_reducible refine toW (ν := ν) ?_) | (with_reducible apply toN) | ((with_reducible refine W_mk ?_ ?_) <;> dsimp -zeta only) | (with_reducible apply W_ite))
theorem wf_State_sealV (s : State) (key depth len i : Nat) (h0 : W ν s) : W ν (Sys2Proof.Machine.State.sealV s key depth len i) := by
  unfold Sys2Proof.Machine.State.sealV; repeat' (first | (with_reducible assumption) | ((try lift_lets -underBinder); intro x) | (with_reducible apply wf_State_ringChanged) | (with_reducible apply wf_State_pairSeal))
theorem wf_State_reclaimV (s : State) (key depth : Nat) (u : Word32) (h0 : W ν s) : W ν (Sys2Proof.Machine.State.reclaimV s key depth u) := by
  unfold Sys2Proof.Machine.State.reclaimV; repeat' (first | (with_reducible assumption) | ((try lift_lets -underBinder); intro x) | (with_reducible apply wf_State_setRing))
theorem wf_State_putEntry (s : State) (ea e : Nat) (h0 : W ν s) : W ν (Sys2Proof.Machine.State.putEntry s ea e) := by
  unfold Sys2Proof.Machine.State.putEntry; repeat' (first | (with_reducible assumption) | (with_reducible apply wf_State_physWrite) | (with_reducible apply wf_State_touch))
theorem wf_State_touchSpan (s : State) (pa n : Nat) (write : Bool) (h0 : W ν s) : W ν (Sys2Proof.Machine.State.touchSpan s pa n write) := by
  unfold Sys2Proof.Machine.State.touchSpan; repeat' (first | (with_reducible assumption) | (with_reducible apply wf_State_touch) | (with_reducible refine foldNat_wf _ _ _ ?_ _ ?_; first | (intro x y hxy) | skip))
theorem wf_State_pushFrame (s : State) (f : Nat) (h0 : W ν s) : W ν (Sys2Proof.Machine.State.pushFrame s f) := by
  unfold Sys2Proof.Machine.State.pushFrame; repeat' (first | (with_reducible assumption) | (with_reducible apply wf_State_setWinFld) | (with_reducible apply wf_State_physWrite))
theorem wf_State_popFrame (s : State) (g : Nat) (h0 : W ν s) : W ν (Sys2Proof.Machine.State.popFrame s g) := by
  unfold Sys2Proof.Machine.State.popFrame; repeat' (first | (with_reducible assumption) | (with_reducible apply wf_State_setWinFld) | (with_reducible apply wf_State_physWrite))
theorem wf_State_addFrames (s : State) (t : Byte) (n : Nat) (up : Bool) (h0 : W ν s) : W ν (Sys2Proof.Machine.State.addFrames s t n up) := by
  unfold Sys2Proof.Machine.State.addFrames; repeat' (first | (with_reducible assumption) | ((try lift_lets -underBinder); intro x) | (with_reducible apply wf_State_setWinFld))
theorem wf_State_dropPage (s : State) (t : Byte) (va log2 : Nat) (h0 : W ν s) : W ν (Sys2Proof.Machine.State.dropPage s t va log2) := by
  unfold Sys2Proof.Machine.State.dropPage; repeat' (first | (with_reducible assumption) | (with_reducible apply wf_State_dropTlb))
theorem wf_State_readyUp (s : State) (t : Byte) (new : Word) (h0 : W ν s) : W ν (Sys2Proof.Machine.State.readyUp s t new) := by
  unfold Sys2Proof.Machine.State.readyUp; repeat' (first | (with_reducible assumption) | ((try lift_lets -underBinder); intro x; refine W_cut (ν := ν) x ?_ ?_ <;> first | (intro hx; clear_value x) | unfold x) | ((try lift_lets -underBinder); intro x) | (with_reducible apply wf_State_setWin) | (with_reducible apply wf_State_resumeTenant) | (with_reducible apply wf_State_setRunning) | (with_reducible refine toW (ν := ν) ?_) | (with_reducible apply toN) | ((with_reducible refine W_mk ?_ ?_) <;> dsimp -zeta only) | (with_reducible apply W_ite) | split)
theorem wf_State_recount (s : State) (t : Byte) (g : Nat) (up : Bool) (h0 : W ν s) : W ν (Sys2Proof.Machine.State.recount s t g up) := by
  unfold Sys2Proof.Machine.State.recount; repeat' (first | (with_reducible assumption) | ((try lift_lets -underBinder); intro x) | (with_reducible apply wf_State_readyUp) | (with_reducible apply W_ite))
theorem wf_State_mapCode (s : State) (f : Sched → Sched) (h0 : W ν s) : W ν (Sys2Proof.Machine.State.mapCode s f) := by
  unfold Sys2Proof.Machine.State.mapCode; repeat' (first | (with_reducible assumption) | (with_reducible refine toW (ν := ν) ?_) | (with_reducible apply toN) | ((with_reducible refine W_mk ?_ ?_) <;> dsimp -zeta only))
theorem wf_State_recallFrame (s : State) (f : Nat) (h0 : W ν s) : W ν (Sys2Proof.Machine.State.recallFrame s f) := by
  unfold Sys2Proof.Machine.State.recallFrame; repeat' (first | (with_reducible assumption) | ((try lift_lets -underBinder); intro x) | (with_reducible refine toW (ν := ν) ?_) | (with_reducible apply toN) | ((with_reducible refine W_mk ?_ ?_) <;> dsimp -zeta only))
theorem wf_State_dropMove (s : State) (g : Nat) (up : Bool) (h0 : W ν s) : W ν (Sys2Proof.Machine.State.dropMove s g up) := by
  unfold Sys2Proof.Machine.State.dropMove; repeat' (first | (with_reducible assumption) | (with_reducible refine toW (ν := ν) ?_) | (with_reducible apply toN) | ((with_reducible refine W_mk ?_ ?_) <;> dsimp -zeta only))
theorem wf_State_startDown (s : State) (g : Nat) (h0 : W ν s) : W ν (Sys2Proof.Machine.State.startDown s g) := by
  unfold Sys2Proof.Machine.State.startDown; repeat' (first | (with_reducible assumption) | ((try lift_lets -underBinder); intro x; refine W_cut (ν := ν) x ?_ ?_ <;> first | (intro hx; clear_value x) | unfold x) | ((try lift_lets -underBinder); intro x) | (with_reducible apply wf_State_putEntry) | (with_reducible apply wf_State_dropPage) | (with_reducible apply wf_State_dropMove) | (with_reducible refine toW (ν := ν) ?_) | (with_reducible apply toN) | ((with_reducible refine W_mk ?_ ?_) <;> dsimp -zeta only) | (with_reducible apply W_ite) | split)
theorem wf_State_storeSlot (s : State) (g f : Nat) (h0 : W ν s) : W ν (Sys2Proof.Machine.State.storeSlot s g f) := by
  unfold Sys2Proof.Machine.State.storeSlot; repeat' (first | (with_reducible assumption) | ((try lift_lets -underBinder); intro x) | (with_reducible apply wf_State_setTier) | (with_reducible apply wf_State_touchSpan) | (with_reducible apply M_put) | (with_reducible refine toW (ν := ν) ?_) | (with_reducible apply toN) | ((with_reducible refine W_mk ?_ ?_) <;> dsimp -zeta only))
theorem wf_State_endDown (s : State) (g ea old : Nat) (h0 : W ν s) : W ν (Sys2Proof.Machine.State.endDown s g ea old) := by
  unfold Sys2Proof.Machine.State.endDown; repeat' (first | (with_reducible assumption) | ((try lift_lets -underBinder); intro x; refine W_cut (ν := ν) x ?_ ?_ <;> first | (intro hx; clear_value x) | unfold x) | ((try lift_lets -underBinder); intro x) | (with_reducible apply wf_State_setTier) | (with_reducible apply wf_State_putEntry) | (with_reducible apply wf_State_pushFrame) | (with_reducible apply wf_State_addFrames) | (with_reducible apply wf_State_recount) | (with_reducible apply wf_State_mapCode) | (with_reducible apply wf_State_recallFrame) | (with_reducible apply wf_State_dropMove) | (with_reducible apply wf_State_storeSlot) | (with_reducible refine toW (ν := ν) ?_) | (with_reducible apply toN) | ((with_reducible refine W_mk ?_ ?_) <;> dsimp -zeta only) | (with_reducible apply W_ite))
theorem wf_State_upMove (s : State) (g : Nat) (h0 : W ν s) : W ν (Sys2Proof.Machine.State.upMove s g) := by
  unfold Sys2Proof.Machine.State.upMove; repeat' (first | (with_reducible assumption) | ((try lift_lets -underBinder); intro x; refine W_cut (ν := ν) x ?_ ?_ <;> first | (intro hx; clear_value x) | unfold x) | ((try lift_lets -underBinder); intro x) | (with_reducible apply wf_State_setTier) | (with_reducible apply wf_State_putEntry) | (with_reducible apply wf_State_touchSpan) | (with_reducible apply wf_State_popFrame) | (with_reducible apply wf_State_addFrames) | (with_reducible apply wf_State_recount) | (with_reducible apply wf_State_mapCode) | (with_reducible apply M_put) | (with_reducible refine toW (ν := ν) ?_) | (with_reducible apply toN) | ((with_reducible refine W_mk ?_ ?_) <;> dsimp -zeta only) | (with_reducible apply W_ite) | split)
theorem wf_State_stuck (s : State) (g : Nat) (h0 : W ν s) : W ν (Sys2Proof.Machine.State.stuck s g) := by
  unfold Sys2Proof.Machine.State.stuck; repeat' (first | (with_reducible assumption) | ((try lift_lets -underBinder); intro x) | (with_reducible apply wf_State_setWinFld) | (with_reducible apply W_ite))
theorem wf_execDownMove (n : BitVec 26) (s : State) (h0 : W ν s) : OutW ν (Sys2Proof.Machine.execDownMove n s) := by
  unfold Sys2Proof.Machine.execDownMove; repeat' (first | (with_reducible assumption) | ((try lift_lets -underBinder); intro x) | (with_reducible apply wf_State_startDown) | (with_reducible apply wf_State_endDown) | (with_reducible apply OutW_next) | (with_reducible apply OutW_ite) | split)
theorem wf_State_moveFirst (s : State) (v : Nat) (h0 : W ν s) : W ν (Sys2Proof.Machine.State.moveFirst s v) := by
  unfold Sys2Proof.Machine.State.moveFirst; repeat' (first | (with_reducible assumption) | ((try lift_lets -underBinder); intro x) | (with_reducible refine toW (ν := ν) ?_) | (with_reducible apply toN) | ((with_reducible refine W_mk ?_ ?_) <;> dsimp -zeta only) | (with_reducible apply W_ite))
theorem wf_State_runUp (s : State) (g : Nat) (h0 : W ν s) : W ν (Sys2Proof.Machine.State.runUp s g) := by
  unfold Sys2Proof.Machine.State.runUp; repeat' (first | (with_reducible assumption) | ((try lift_lets -underBinder); intro x) | (with_reducible apply wf_State_killTenant) | (with_reducible apply wf_State_dropMove) | (with_reducible apply wf_State_upMove) | (with_reducible apply wf_State_stuck) | (with_reducible apply wf_State_moveFirst) | (with_reducible apply W_ite) | split)
theorem wf_execUpMove (n : BitVec 26) (s : State) (h0 : W ν s) : OutW ν (Sys2Proof.Machine.execUpMove n s) := by
  unfold Sys2Proof.Machine.execUpMove; repeat' (first | (with_reducible assumption) | ((try lift_lets -underBinder); intro x) | (with_reducible apply wf_State_runUp) | (with_reducible apply OutW_next) | (with_reducible apply OutW_ite))
theorem wf_State_demandMove (s : State) (g : Nat) (h0 : W ν s) : W ν (Sys2Proof.Machine.State.demandMove s g) := by
  unfold Sys2Proof.Machine.State.demandMove; repeat' (first | (with_reducible assumption) | ((try lift_lets -underBinder); intro x) | (with_reducible refine toW (ν := ν) ?_) | (with_reducible apply toN) | ((with_reducible refine W_mk ?_ ?_) <;> dsimp -zeta only) | (with_reducible apply W_ite))
theorem wf_State_pullFails (s : State) (p : Pull) (h0 : W ν s) : W ν (Sys2Proof.Machine.State.pullFails s p) := by
  unfold Sys2Proof.Machine.State.pullFails; repeat' (first | (with_reducible assumption) | (with_reducible apply wf_State_killTenant))
theorem wf_State_addPull (s : State) (t : Byte) (ea log2 va srcPa : Nat) (demand : Bool) (h0 : W ν s) : W ν (Sys2Proof.Machine.State.addPull s t ea log2 va srcPa demand) := by
  unfold Sys2Proof.Machine.State.addPull; repeat' (first | (with_reducible assumption) | ((try lift_lets -underBinder); intro x) | (with_reducible apply wf_State_pullFails) | (with_reducible refine toW (ν := ν) ?_) | (with_reducible apply toN) | ((with_reducible refine W_mk ?_ ?_) <;> dsimp -zeta only) | (with_reducible apply W_ite))
theorem wf_State_recordGran (s : State) (t : Byte) (g : Nat) (h0 : W ν s) : W ν (Sys2Proof.Machine.State.recordGran s t g) := by
  unfold Sys2Proof.Machine.State.recordGran; repeat' (first | (with_reducible assumption) | ((try lift_lets -underBinder); intro x) | (with_reducible apply wf_State_setWinFld) | (with_reducible apply wf_State_physWrite) | (with_reducible apply wf_State_setTier) | (with_reducible apply W_ite))
theorem wf_State_markLeaf (s : State) (t : Byte) (ea pa e : Nat) (write : Bool) (h0 : W ν s) : W ν (Sys2Proof.Machine.State.markLeaf s t ea pa e write) := by
  unfold Sys2Proof.Machine.State.markLeaf; repeat' (first | (with_reducible assumption) | ((try lift_lets -underBinder); intro x; refine W_cut (ν := ν) x ?_ ?_ <;> first | (intro hx; clear_value x) | unfold x) | ((try lift_lets -underBinder); intro x) | (with_reducible apply wf_State_setTier) | (with_reducible apply wf_State_putEntry) | (with_reducible apply wf_State_recordGran) | (with_reducible apply W_ite))
theorem wf_State_fillBoth (s : State) (core : Nat) (e : Tlb) (h0 : W ν s) : W ν (Sys2Proof.Machine.State.fillBoth s core e) := by
  unfold Sys2Proof.Machine.State.fillBoth; repeat' (first | (with_reducible assumption) | ((try lift_lets -underBinder); intro x; refine W_cut (ν := ν) x ?_ ?_ <;> first | (intro hx; clear_value x) | unfold x) | ((try lift_lets -underBinder); intro x) | (with_reducible apply wf_State_setCore) | (with_reducible apply wf_State_setGath))
theorem wf_State_walkWaits (s : State) (w : Walk) (h0 : W ν s) : W ν (Sys2Proof.Machine.State.walkWaits s w) := by
  unfold Sys2Proof.Machine.State.walkWaits; repeat' (first | (with_reducible assumption) | (with_reducible apply wf_State_demandMove) | (with_reducible apply wf_State_addPull) | split)
theorem wf_execWalk (n : Nat) (s : State) (h0 : W ν s) : OutW ν (Sys2Proof.Machine.execWalk n s) := by
  unfold Sys2Proof.Machine.execWalk; repeat' (first | (with_reducible assumption) | ((try lift_lets -underBinder); intro x) | (with_reducible apply wf_State_walkWaits) | (with_reducible apply OutW_next) | (with_reducible apply OutW_ite) | (with_reducible refine toW (ν := ν) ?_) | (with_reducible apply toN) | ((with_reducible refine W_mk ?_ ?_) <;> dsimp -zeta only) | split)
theorem wf_State_walkFailed (s : State) (cid detail : Nat) (h0 : W ν s) : W ν (Sys2Proof.Machine.State.walkFailed s cid detail) := by
  unfold Sys2Proof.Machine.State.walkFailed; repeat' (first | (with_reducible assumption) | ((try lift_lets -underBinder); intro x) | (with_reducible apply wf_State_suspend) | (with_reducible apply W_ite) | split)
theorem wf_State_walkFault (s : State) (t : Byte) (r : Requester) (detail : Nat) (h0 : W ν s) : W ν (Sys2Proof.Machine.State.walkFault s t r detail) := by
  unfold Sys2Proof.Machine.State.walkFault; repeat' (first | (with_reducible assumption) | ((try lift_lets -underBinder); intro x) | (with_reducible apply wf_State_onOwner) | (with_reducible apply wf_State_walkFailed) | split)
theorem wf_State_walkDone (s : State) (e : Tlb) (r : Requester) (h0 : W ν s) : W ν (Sys2Proof.Machine.State.walkDone s e r) := by
  unfold Sys2Proof.Machine.State.walkDone; repeat' (first | (with_reducible assumption) | (with_reducible apply wf_State_flushPosts) | (with_reducible apply wf_State_fillBoth) | split)
theorem wf_State_touchWalk (s : State) (t : Byte) (va : Nat) (h0 : W ν s) : W ν (Sys2Proof.Machine.State.touchWalk s t va) := by
  unfold Sys2Proof.Machine.State.touchWalk; repeat' (first | (with_reducible assumption) | (with_reducible apply wf_State_touch) | (with_reducible refine foldl_wf _ _ ?_ _ ?_; first | (intro x y hxy) | skip))
theorem wf_execWalkEnd (n : Nat) (s : State) (h0 : W ν s) : OutW ν (Sys2Proof.Machine.execWalkEnd n s) := by
  unfold Sys2Proof.Machine.execWalkEnd; repeat' (first | (with_reducible assumption) | ((try lift_lets -underBinder); intro x; refine W_cut (ν := ν) x ?_ ?_ <;> first | (intro hx; clear_value x) | unfold x) | (with_reducible apply wf_State_flushPosts) | (with_reducible apply wf_State_partitionReset) | (with_reducible apply wf_State_markLeaf) | (with_reducible apply wf_State_walkWaits) | (with_reducible apply wf_State_walkFault) | (with_reducible apply wf_State_walkDone) | (with_reducible apply wf_State_touchWalk) | (with_reducible refine foldl_wf _ _ ?_ _ ?_; first | (intro x y hxy) | skip) | (with_reducible apply OutW_next) | (with_reducible apply OutW_ite) | (with_reducible refine toW (ν := ν) ?_) | (with_reducible apply toN) | ((with_reducible refine W_mk ?_ ?_) <;> dsimp -zeta only) | split)
theorem wf_State_xlate (s : State) (core e : Nat) (t : Byte) (va : Nat) (write : Bool) (h0 : W ν s) : GX ν (Sys2Proof.Machine.State.xlate s core e t va write) := by
  unfold Sys2Proof.Machine.State.xlate; repeat' (first | (with_reducible assumption) | (with_reducible apply wf_State_addWalk) | (with_reducible apply wf_State_markLeaf) | (with_reducible apply wf_State_fillBoth) | (with_reducible apply wf_State_touchWalk) | (with_reducible apply GX_o) | (with_reducible apply GX_w) | (with_reducible apply GX_b) | (with_reducible apply GX_p) | split)
theorem wf_State_xinv (s : State) (v : Word) (h0 : W ν s) : GO ν (Sys2Proof.Machine.State.xinv s v) := by
  unfold Sys2Proof.Machine.State.xinv; repeat' (first | (with_reducible assumption) | ((try lift_lets -underBinder); intro x; refine W_cut (ν := ν) x ?_ ?_ <;> first | (intro hx; clear_value x) | unfold x) | ((try lift_lets -underBinder); intro x) | (with_reducible apply wf_State_setWinFld) | (with_reducible apply wf_State_dropTlb) | (with_reducible apply GO_s) | (with_reducible apply GO_n) | split)
theorem wf_execXinv (v : BitVec 64) (s : State) (h0 : W ν s) : OutW ν (Sys2Proof.Machine.execXinv v s) := by
  unfold Sys2Proof.Machine.execXinv; repeat' (first | (with_reducible assumption) | (with_reducible apply wf_State_xinv) | (with_reducible apply OutW_next) | (with_reducible refine GO_d ?_ ?_))
theorem wf_execXinvDone (s : State) (h0 : W ν s) : OutW ν (Sys2Proof.Machine.execXinvDone s) := by
  unfold Sys2Proof.Machine.execXinvDone; repeat' (first | (with_reducible assumption) | (with_reducible apply wf_State_setWinFld) | (with_reducible apply OutW_next))
theorem wf_State_heardNow (s : State) (h0 : W ν s) : W ν (Sys2Proof.Machine.State.heardNow s) := by
  unfold Sys2Proof.Machine.State.heardNow; repeat' (first | (with_reducible assumption) | ((try lift_lets -underBinder); intro x) | (with_reducible apply wf_State_setWinFld) | (with_reducible refine toW (ν := ν) ?_) | (with_reducible apply toN) | ((with_reducible refine W_mk ?_ ?_) <;> dsimp -zeta only))
theorem wf_State_hear (s : State) (dev : Nat) (h0 : W ν s) : W ν (Sys2Proof.Machine.State.hear s dev) := by
  unfold Sys2Proof.Machine.State.hear; repeat' (first | (with_reducible assumption) | ((try lift_lets -underBinder); intro x) | (with_reducible apply wf_State_heardNow) | (with_reducible apply W_ite))
theorem wf_State_takeFrames (s : State) (f n : Nat) (h0 : W ν s) : W ν (Sys2Proof.Machine.State.takeFrames s f n) := by
  unfold Sys2Proof.Machine.State.takeFrames; repeat' (first | (with_reducible assumption) | ((try lift_lets -underBinder); intro x; refine W_cut (ν := ν) x ?_ ?_ <;> first | (intro hx; clear_value x) | unfold x) | ((try lift_lets -underBinder); intro x) | (with_reducible apply wf_State_setWinFld) | (with_reducible apply wf_State_physWrite) | (with_reducible refine foldNat_wf _ _ _ ?_ _ ?_; first | (intro x y hxy) | skip))
theorem wf_State_migrationDone (s : State) (t : Byte) (h0 : W ν s) : W ν (Sys2Proof.Machine.State.migrationDone s t) := by
  unfold Sys2Proof.Machine.State.migrationDone; repeat' (first | (with_reducible assumption) | ((try lift_lets -underBinder); intro x) | (with_reducible apply wf_State_setWin) | (with_reducible apply W_ite))
theorem wf_State_landPull (s : State) (n : Nat) (p : Pull) (page : List Byte) (f : Nat) (h0 : W ν s) : W ν (Sys2Proof.Machine.State.landPull s n p page f) := by
  unfold Sys2Proof.Machine.State.landPull; repeat' (first | (with_reducible assumption) | ((try lift_lets -underBinder); intro x; refine W_cut (ν := ν) x ?_ ?_ <;> first | (intro hx; clear_value x) | unfold x) | ((try lift_lets -underBinder); intro x) | (with_reducible apply wf_State_putEntry) | (with_reducible apply wf_State_touchSpan) | (with_reducible apply wf_State_addFrames) | (with_reducible apply wf_State_mapCode) | (with_reducible apply wf_State_takeFrames) | (with_reducible apply wf_State_migrationDone) | (with_reducible apply M_put) | (with_reducible refine toW (ν := ν) ?_) | (with_reducible apply toN) | ((with_reducible refine W_mk ?_ ?_) <;> dsimp -zeta only))
theorem wf_State_placePull (s : State) (n : Nat) (p : Pull) (page : List Byte) (h0 : W ν s) : W ν (Sys2Proof.Machine.State.placePull s n p page) := by
  unfold Sys2Proof.Machine.State.placePull; repeat' (first | (with_reducible assumption) | ((try lift_lets -underBinder); intro x; refine W_cut (ν := ν) x ?_ ?_ <;> first | (intro hx; clear_value x) | unfold x) | (with_reducible apply wf_State_moveFirst) | (with_reducible apply wf_State_landPull) | (with_reducible refine toW (ν := ν) ?_) | (with_reducible apply toN) | ((with_reducible refine W_mk ?_ ?_) <;> dsimp -zeta only) | split)
theorem wf_execPullResponse (n : Nat) (page : List (BitVec 8)) (s : State) (h0 : W ν s) : OutW ν (Sys2Proof.Machine.execPullResponse n page s) := by
  unfold Sys2Proof.Machine.execPullResponse; repeat' (first | (with_reducible assumption) | ((try lift_lets -underBinder); intro x; refine W_cut (ν := ν) x ?_ ?_ <;> first | (intro hx; clear_value x) | unfold x) | ((try lift_lets -underBinder); intro x) | (with_reducible apply wf_State_pullFails) | (with_reducible apply wf_State_hear) | (with_reducible apply wf_State_placePull) | (with_reducible apply OutW_next) | (with_reducible apply W_ite) | split)
theorem wf_execPullTimeout (n : Nat) (s : State) (h0 : W ν s) : OutW ν (Sys2Proof.Machine.execPullTimeout n s) := by
  unfold Sys2Proof.Machine.execPullTimeout; repeat' (first | (with_reducible assumption) | (with_reducible apply wf_State_pullFails) | (with_reducible apply OutW_next) | (with_reducible apply OutW_ite) | split)
theorem wf_execBackgroundPull (t : BitVec 8) (s : State) (h0 : W ν s) : OutW ν (Sys2Proof.Machine.execBackgroundPull t s) := by
  unfold Sys2Proof.Machine.execBackgroundPull; repeat' (first | (with_reducible assumption) | (with_reducible apply wf_State_addPull) | (with_reducible apply wf_State_migrationDone) | (with_reducible apply OutW_next) | (with_reducible apply OutW_ite) | split)
theorem wf_execPullRequest (dev : BitVec 8) (pa : BitVec 52) (sz : BitVec 2) (s : State) (h0 : W ν s) : OutW ν (Sys2Proof.Machine.execPullRequest dev pa sz s) := by
  unfold Sys2Proof.Machine.execPullRequest; repeat' (first | (with_reducible assumption) | ((try lift_lets -underBinder); intro x; refine W_cut (ν := ν) x ?_ ?_ <;> first | (intro hx; clear_value x) | unfold x) | ((try lift_lets -underBinder); intro x) | (with_reducible apply wf_State_hear) | (with_reducible apply OutW_next) | (with_reducible refine toW (ν := ν) ?_) | (with_reducible apply toN) | ((with_reducible refine W_mk ?_ ?_) <;> dsimp -zeta only))
theorem wf_execScrub (_ch : BitVec 5) (s : State) (h0 : W ν s) : OutW ν (Sys2Proof.Machine.execScrub _ch s) := by
  unfold Sys2Proof.Machine.execScrub; repeat' (first | (with_reducible assumption) | (with_reducible apply OutW_next))
theorem wf_execMecntRead (ch : BitVec 5) (s : State) (h0 : W ν s) : OutW ν (Sys2Proof.Machine.execMecntRead ch s) := by
  unfold Sys2Proof.Machine.execMecntRead; repeat' (first | (with_reducible assumption) | ((try lift_lets -underBinder); intro x) | (with_reducible apply wf_State_setWin) | (with_reducible apply OutW_next) | (with_reducible refine toW (ν := ν) ?_) | (with_reducible apply toN) | ((with_reducible refine W_mk ?_ ?_) <;> dsimp -zeta only))
theorem wf_execMelastClear (ch : BitVec 5) (s : State) (h0 : W ν s) : OutW ν (Sys2Proof.Machine.execMelastClear ch s) := by
  unfold Sys2Proof.Machine.execMelastClear; repeat' (first | (with_reducible assumption) | (with_reducible apply wf_State_setWinFld) | (with_reducible apply OutW_next))
theorem wf_State_poisonLine (s : State) (line : Nat) (h0 : W ν s) : W ν (Sys2Proof.Machine.State.poisonLine s line) := by
  unfold Sys2Proof.Machine.State.poisonLine; repeat' (first | (with_reducible assumption) | (with_reducible refine toW (ν := ν) ?_) | (with_reducible apply toN) | ((with_reducible refine W_mk ?_ ?_) <;> dsimp -zeta only))
theorem wf_State_cacheError (s : State) (line : Nat) (h0 : W ν s) : W ν (Sys2Proof.Machine.State.cacheError s line) := by
  unfold Sys2Proof.Machine.State.cacheError; repeat' (first | (with_reducible assumption) | ((try lift_lets -underBinder); intro x) | (with_reducible apply wf_State_poisonLine) | (with_reducible apply W_ite))
theorem wf_State_stashError (s : State) (k w : Nat) (h0 : W ν s) : W ν (Sys2Proof.Machine.State.stashError s k w) := by
  unfold Sys2Proof.Machine.State.stashError; repeat' (first | (with_reducible assumption) | ((try lift_lets -underBinder); intro x) | (with_reducible apply wf_State_setCore) | (with_reducible apply W_ite))
theorem wf_State_countError (s : State) (ch line : Nat) (uncorr : Bool) (h0 : W ν s) : W ν (Sys2Proof.Machine.State.countError s ch line uncorr) := by
  unfold Sys2Proof.Machine.State.countError; repeat' (first | (with_reducible assumption) | ((try lift_lets -underBinder); intro x; refine W_cut (ν := ν) x ?_ ?_ <;> first | (intro hx; clear_value x) | unfold x) | ((try lift_lets -underBinder); intro x) | (with_reducible apply wf_State_setWin) | (with_reducible apply wf_State_poisonLine) | (with_reducible apply W_ite))
theorem wf_State_setPart (s : State) (p : Nat) (x : PartSt) (h0 : W ν s) : W ν (Sys2Proof.Machine.State.setPart s p x) := by
  unfold Sys2Proof.Machine.State.setPart; repeat' (first | (with_reducible assumption) | (with_reducible refine toW (ν := ν) ?_) | (with_reducible apply toN) | ((with_reducible refine W_mk ?_ ?_) <;> dsimp -zeta only))
theorem wf_execTaskStart (cid : BitVec 12) (s : State) (h0 : W ν s) : OutW ν (Sys2Proof.Machine.execTaskStart cid s) := by
  unfold Sys2Proof.Machine.execTaskStart; repeat' (first | (with_reducible assumption) | (with_reducible apply wf_State_takeWork) | (with_reducible apply OutW_next))
theorem wf_execStealRequest (g : BitVec 6) (c : BitVec 4) (s : State) (h0 : W ν s) : OutW ν (Sys2Proof.Machine.execStealRequest g c s) := by
  unfold Sys2Proof.Machine.execStealRequest; repeat' (first | (with_reducible assumption) | ((try lift_lets -underBinder); intro x; refine W_cut (ν := ν) x ?_ ?_ <;> first | (intro hx; clear_value x) | unfold x) | ((try lift_lets -underBinder); intro x) | (with_reducible apply wf_State_setCore) | (with_reducible apply wf_State_queueTask) | (with_reducible apply wf_State_startTask) | (with_reducible apply OutW_next) | (with_reducible apply OutW_ite) | (with_reducible apply W_ite) | split)
theorem wf_execStealRoundWait (g : BitVec 6) (c : BitVec 4) (s : State) (h0 : W ν s) : OutW ν (Sys2Proof.Machine.execStealRoundWait g c s) := by
  unfold Sys2Proof.Machine.execStealRoundWait; repeat' (first | (with_reducible assumption) | ((try lift_lets -underBinder); intro x) | (with_reducible apply wf_State_takeWork) | (with_reducible apply OutW_next) | (with_reducible apply OutW_ite) | split)
theorem wf_State_moveEntries (a b n : Nat) (s : State) (h0 : W ν s) : W ν (State.moveEntries a b n s) := by
  induction n generalizing s with
  | zero => exact h0
  | succ n ih => unfold State.moveEntries; repeat' (first | (with_reducible assumption) | ((try lift_lets -underBinder); intro x; refine W_cut (ν := ν) x ?_ ?_ <;> first | (intro hx; clear_value x) | unfold x) | ((try lift_lets -underBinder); intro x) | (with_reducible apply ih) | (with_reducible apply wf_State_setCore) | (with_reducible apply W_ite) | split)
theorem wf_execLoadAverage (g : BitVec 6) (s : State) (h0 : W ν s) : OutW ν (Sys2Proof.Machine.execLoadAverage g s) := by
  unfold Sys2Proof.Machine.execLoadAverage; repeat' (first | (with_reducible assumption) | ((try lift_lets -underBinder); intro x; refine W_cut (ν := ν) x ?_ ?_ <;> first | (intro hx; clear_value x) | unfold x) | ((try lift_lets -underBinder); intro x) | (with_reducible apply wf_State_setGath) | (with_reducible apply wf_State_moveEntries) | (with_reducible refine foldl_wf _ _ ?_ _ ?_; first | (intro x y hxy) | skip) | (with_reducible apply OutW_next) | (with_reducible apply OutW_ite) | (with_reducible apply W_ite) | split)
theorem wf_execLaunchComplete (n : Nat) (s : State) (h0 : W ν s) : OutW ν (Sys2Proof.Machine.execLaunchComplete n s) := by
  unfold Sys2Proof.Machine.execLaunchComplete; repeat' (first | (with_reducible assumption) | ((try lift_lets -underBinder); intro x) | (with_reducible apply wf_State_completeLaunch) | (with_reducible apply OutW_next) | (with_reducible apply W_ite) | split)
theorem wf_execBudgetExhausted (cid : BitVec 12) (s : State) (h0 : W ν s) : OutW ν (Sys2Proof.Machine.execBudgetExhausted cid s) := by
  unfold Sys2Proof.Machine.execBudgetExhausted; repeat' (first | (with_reducible assumption) | ((try lift_lets -underBinder); intro x) | (with_reducible apply wf_State_exhaust) | (with_reducible apply OutW_next) | (with_reducible apply OutW_ite))
theorem wf_State_charge (s : State) (cid : Nat) (h0 : W ν s) : W ν (Sys2Proof.Machine.State.charge s cid) := by
  unfold Sys2Proof.Machine.State.charge; repeat' (first | (with_reducible assumption) | ((try lift_lets -underBinder); intro x; refine W_cut (ν := ν) x ?_ ?_ <;> first | (intro hx; clear_value x) | unfold x) | ((try lift_lets -underBinder); intro x) | (with_reducible apply wf_State_setCtl) | (with_reducible apply wf_State_exhaust) | (with_reducible apply W_ite))
theorem wf_State_reassign (s : State) (cid : Nat) (old new : Option Byte) (h0 : W ν s) : W ν (Sys2Proof.Machine.State.reassign s cid old new) := by
  unfold Sys2Proof.Machine.State.reassign; repeat' (first | (with_reducible assumption) | ((try lift_lets -underBinder); intro x; refine W_cut (ν := ν) x ?_ ?_ <;> first | (intro hx; clear_value x) | unfold x) | ((try lift_lets -underBinder); intro x) | (with_reducible apply wf_State_setCtx) | (with_reducible apply wf_State_detach) | (with_reducible apply wf_State_parkCtx) | (with_reducible apply wf_State_unparkCtx) | (with_reducible apply wf_State_resumeCtx) | (with_reducible apply W_ite) | split)
theorem wf_State_writeSlotmap (s : State) (g c : Nat) (v : Word) (h0 : W ν s) : W ν (Sys2Proof.Machine.State.writeSlotmap s g c v) := by
  unfold Sys2Proof.Machine.State.writeSlotmap; repeat' (first | (with_reducible assumption) | ((try lift_lets -underBinder); intro x; refine W_cut (ν := ν) x ?_ ?_ <;> first | (intro hx; clear_value x) | unfold x) | ((try lift_lets -underBinder); intro x) | (with_reducible apply wf_State_setWin) | (with_reducible apply wf_State_setCore) | (with_reducible apply wf_State_reassign) | (with_reducible refine foldl_wf _ _ ?_ _ ?_; first | (intro x y hxy) | skip) | (with_reducible apply W_ite))
theorem wf_execSlotmapWrite (g : BitVec 6) (c : BitVec 3) (v : BitVec 64) (s : State) (h0 : W ν s) : OutW ν (Sys2Proof.Machine.execSlotmapWrite g c v s) := by
  unfold Sys2Proof.Machine.execSlotmapWrite; repeat' (first | (with_reducible assumption) | (with_reducible apply wf_State_writeSlotmap) | (with_reducible apply OutW_next))
theorem wf_State_writePcfg (s : State) (p : Nat) (v : Word) (h0 : W ν s) : W ν (Sys2Proof.Machine.State.writePcfg s p v) := by
  unfold Sys2Proof.Machine.State.writePcfg; repeat' (first | (with_reducible assumption) | ((try lift_lets -underBinder); intro x; refine W_cut (ν := ν) x ?_ ?_ <;> first | (intro hx; clear_value x) | unfold x) | ((try lift_lets -underBinder); intro x) | (with_reducible apply wf_State_setWin) | (with_reducible apply wf_State_setWinFld) | (with_reducible apply W_ite))
theorem wf_execPcfgWrite (p : BitVec 6) (v : BitVec 64) (s : State) (h0 : W ν s) : OutW ν (Sys2Proof.Machine.execPcfgWrite p v s) := by
  unfold Sys2Proof.Machine.execPcfgWrite; repeat' (first | (with_reducible assumption) | (with_reducible apply wf_State_writePcfg) | (with_reducible apply OutW_next))
theorem wf_State_writePreq (s : State) (p : Nat) (v : Word) (h0 : W ν s) : W ν (Sys2Proof.Machine.State.writePreq s p v) := by
  unfold Sys2Proof.Machine.State.writePreq; repeat' (first | (with_reducible assumption) | ((try lift_lets -underBinder); intro x) | (with_reducible apply wf_State_setWin) | (with_reducible apply wf_State_setPart))
theorem wf_execSwitchRequest (p : BitVec 6) (v : BitVec 64) (s : State) (h0 : W ν s) : OutW ν (Sys2Proof.Machine.execSwitchRequest p v s) := by
  unfold Sys2Proof.Machine.execSwitchRequest; repeat' (first | (with_reducible assumption) | (with_reducible apply wf_State_writePreq) | (with_reducible apply OutW_next))
theorem wf_execResizeRequest (p : BitVec 6) (v : BitVec 64) (s : State) (h0 : W ν s) : OutW ν (Sys2Proof.Machine.execResizeRequest p v s) := by
  unfold Sys2Proof.Machine.execResizeRequest; repeat' (first | (with_reducible assumption) | (with_reducible apply wf_State_writePreq) | (with_reducible apply OutW_next))
theorem wf_execSliceExpiry (p : BitVec 6) (s : State) (h0 : W ν s) : OutW ν (Sys2Proof.Machine.execSliceExpiry p s) := by
  unfold Sys2Proof.Machine.execSliceExpiry; repeat' (first | (with_reducible assumption) | ((try lift_lets -underBinder); intro x) | (with_reducible apply wf_State_writePreq) | (with_reducible apply OutW_next) | (with_reducible apply OutW_ite) | split)
theorem wf_State_saveCore (s : State) (k : Nat) (t : Byte) (h0 : W ν s) : W ν (Sys2Proof.Machine.State.saveCore s k t) := by
  unfold Sys2Proof.Machine.State.saveCore; repeat' (first | (with_reducible assumption) | ((try lift_lets -underBinder); intro x; refine W_cut (ν := ν) x ?_ ?_ <;> first | (intro hx; clear_value x) | unfold x) | ((try lift_lets -underBinder); intro x) | (with_reducible apply wf_State_setCore) | (with_reducible apply wf_State_writeBack) | (with_reducible apply wf_State_unregister) | (with_reducible apply wf_State_setMaps) | (with_reducible refine foldl_wf _ _ ?_ _ ?_; first | (intro x y hxy) | skip) | (with_reducible refine toW (ν := ν) ?_) | (with_reducible apply toN) | ((with_reducible refine W_mk ?_ ?_) <;> dsimp -zeta only))
theorem wf_State_loadCore (s : State) (k : Nat) (t : Byte) (h0 : W ν s) : W ν (Sys2Proof.Machine.State.loadCore s k t) := by
  unfold Sys2Proof.Machine.State.loadCore; repeat' (first | (with_reducible assumption) | ((try lift_lets -underBinder); intro x; refine W_cut (ν := ν) x ?_ ?_ <;> first | (intro hx; clear_value x) | unfold x) | ((try lift_lets -underBinder); intro x) | (with_reducible apply wf_State_setCore) | (with_reducible apply wf_State_touchFill) | (with_reducible refine foldl_wf _ _ ?_ _ ?_; first | (intro x y hxy) | skip) | (with_reducible refine toW (ν := ν) ?_) | (with_reducible apply toN) | ((with_reducible refine W_mk ?_ ?_) <;> dsimp -zeta only) | split)
theorem wf_State_swapCore (s : State) (k : Nat) (out' in' : Option Byte) (h0 : W ν s) : W ν (Sys2Proof.Machine.State.swapCore s k out' in') := by
  unfold Sys2Proof.Machine.State.swapCore; repeat' (first | (with_reducible assumption) | ((try lift_lets -underBinder); intro x; refine W_cut (ν := ν) x ?_ ?_ <;> first | (intro hx; clear_value x) | unfold x) | (with_reducible apply wf_State_saveCore) | (with_reducible apply wf_State_loadCore) | split)
theorem wf_State_flipBuf (s : State) (t : Byte) (h0 : W ν s) : W ν (Sys2Proof.Machine.State.flipBuf s t) := by
  unfold Sys2Proof.Machine.State.flipBuf; repeat' (first | (with_reducible assumption) | (with_reducible refine toW (ν := ν) ?_) | (with_reducible apply toN) | ((with_reducible refine W_mk ?_ ?_) <;> dsimp -zeta only))
theorem wf_State_unqueue (s : State) (gs : List Nat) (h0 : W ν s) : W ν (Sys2Proof.Machine.State.unqueue s gs) := by
  unfold Sys2Proof.Machine.State.unqueue; repeat' (first | (with_reducible assumption) | (with_reducible refine toW (ν := ν) ?_) | (with_reducible apply toN) | ((with_reducible refine W_mk ?_ ?_) <;> dsimp -zeta only))
theorem wf_State_switchIn (s : State) (p : Nat) (t : Byte) (h0 : W ν s) : W ν (Sys2Proof.Machine.State.switchIn s p t) := by
  unfold Sys2Proof.Machine.State.switchIn; repeat' (first | (with_reducible assumption) | ((try lift_lets -underBinder); intro x; refine W_cut (ν := ν) x ?_ ?_ <;> first | (intro hx; clear_value x) | unfold x) | ((try lift_lets -underBinder); intro x) | (with_reducible apply wf_State_setWin) | (with_reducible apply wf_State_setTier) | (with_reducible apply wf_State_readyUp) | (with_reducible apply wf_State_setPart) | (with_reducible apply wf_State_flipBuf) | (with_reducible refine foldl_wf _ _ ?_ _ ?_; first | (intro x y hxy) | skip) | (with_reducible refine toW (ν := ν) ?_) | (with_reducible apply toN) | ((with_reducible refine W_mk ?_ ?_) <;> dsimp -zeta only))
theorem wf_State_switch (s : State) (p : Nat) (out' : Option Byte) (t : Byte) (h0 : W ν s) : W ν (Sys2Proof.Machine.State.switch s p out' t) := by
  unfold Sys2Proof.Machine.State.switch; repeat' (first | (with_reducible assumption) | ((try lift_lets -underBinder); intro x; refine W_cut (ν := ν) x ?_ ?_ <;> first | (intro hx; clear_value x) | unfold x) | ((try lift_lets -underBinder); intro x) | (with_reducible apply wf_State_dropTlb) | (with_reducible apply wf_State_setPart) | (with_reducible apply wf_State_swapCore) | (with_reducible apply wf_State_switchIn) | (with_reducible refine foldl_wf _ _ ?_ _ ?_; first | (intro x y hxy) | skip) | split)
theorem wf_State_skipStuck (s : State) (p : Nat) (t : Byte) (h0 : W ν s) : W ν (Sys2Proof.Machine.State.skipStuck s p t) := by
  unfold Sys2Proof.Machine.State.skipStuck; repeat' (first | (with_reducible assumption) | ((try lift_lets -underBinder); intro x; refine W_cut (ν := ν) x ?_ ?_ <;> first | (intro hx; clear_value x) | unfold x) | ((try lift_lets -underBinder); intro x) | (with_reducible apply wf_State_setWin) | (with_reducible apply wf_State_setWinFld) | (with_reducible apply wf_State_setPart) | (with_reducible apply wf_State_swapCore) | (with_reducible apply wf_State_flipBuf) | (with_reducible apply wf_State_unqueue) | (with_reducible refine foldl_wf _ _ ?_ _ ?_; first | (intro x y hxy) | skip) | (with_reducible refine toW (ν := ν) ?_) | (with_reducible apply toN) | ((with_reducible refine W_mk ?_ ?_) <;> dsimp -zeta only))
theorem wf_State_afterSkip (s : State) (p : Nat) (h0 : W ν s) : W ν (Sys2Proof.Machine.State.afterSkip s p) := by
  unfold Sys2Proof.Machine.State.afterSkip; repeat' (first | (with_reducible assumption) | ((try lift_lets -underBinder); intro x; refine W_cut (ν := ν) x ?_ ?_ <;> first | (intro hx; clear_value x) | unfold x) | ((try lift_lets -underBinder); intro x) | (with_reducible apply wf_State_resumeTenant) | (with_reducible apply wf_State_setPart) | (with_reducible apply wf_State_swapCore) | (with_reducible apply wf_State_unqueue) | (with_reducible apply wf_State_switchIn) | (with_reducible refine foldl_wf _ _ ?_ _ ?_; first | (intro x y hxy) | skip) | split)
theorem wf_execTenantSwitch (p : BitVec 6) (s : State) (h0 : W ν s) : OutW ν (Sys2Proof.Machine.execTenantSwitch p s) := by
  unfold Sys2Proof.Machine.execTenantSwitch; repeat' (first | (with_reducible assumption) | ((try lift_lets -underBinder); intro x; refine W_cut (ν := ν) x ?_ ?_ <;> first | (intro hx; clear_value x) | unfold x) | ((try lift_lets -underBinder); intro x) | (with_reducible apply wf_State_setWin) | (with_reducible apply wf_State_setWinFld) | (with_reducible apply wf_State_setPart) | (with_reducible apply wf_State_switch) | (with_reducible apply wf_State_skipStuck) | (with_reducible apply wf_State_afterSkip) | (with_reducible apply OutW_next) | (with_reducible apply OutW_ite) | (with_reducible apply W_ite) | split)
theorem wf_State_abortResize (s : State) (l : Launch) (h0 : W ν s) : W ν (Sys2Proof.Machine.State.abortResize s l) := by
  unfold Sys2Proof.Machine.State.abortResize; repeat' (first | (with_reducible assumption) | ((try lift_lets -underBinder); intro x; refine W_cut (ν := ν) x ?_ ?_ <;> first | (intro hx; clear_value x) | unfold x) | ((try lift_lets -underBinder); intro x) | (with_reducible apply wf_State_onOwner) | (with_reducible apply wf_State_reportLaunch) | (with_reducible apply wf_State_discardCtx) | (with_reducible apply wf_State_dropRest) | (with_reducible apply wf_State_suspend) | (with_reducible refine foldl_wf _ _ ?_ _ ?_; first | (intro x y hxy) | skip))
theorem wf_State_requeue (s : State) (cid : Nat) (h0 : W ν s) : W ν (Sys2Proof.Machine.State.requeue s cid) := by
  unfold Sys2Proof.Machine.State.requeue; repeat' (first | (with_reducible assumption) | ((try lift_lets -underBinder); intro x; refine W_cut (ν := ν) x ?_ ?_ <;> first | (intro hx; clear_value x) | unfold x) | ((try lift_lets -underBinder); intro x) | (with_reducible apply wf_State_setLaunch) | (with_reducible apply wf_State_endMappings) | (with_reducible apply wf_State_discardWork) | (with_reducible apply wf_State_discardCtx) | split)
theorem wf_State_dequeToRings (s : State) (k : Nat) (h0 : W ν s) : W ν (Sys2Proof.Machine.State.dequeToRings s k) := by
  unfold Sys2Proof.Machine.State.dequeToRings; repeat' (first | (with_reducible assumption) | ((try lift_lets -underBinder); intro x; refine W_cut (ν := ν) x ?_ ?_ <;> first | (intro hx; clear_value x) | unfold x) | ((try lift_lets -underBinder); intro x) | (with_reducible apply wf_State_setCore) | (with_reducible apply wf_State_setLaunch) | (with_reducible refine foldl_wf _ _ ?_ _ ?_; first | (intro x y hxy) | skip) | (with_reducible refine toW (ν := ν) ?_) | (with_reducible apply toN) | ((with_reducible refine W_mk ?_ ?_) <;> dsimp -zeta only) | split)
theorem wf_State_resize (s : State) (p nb nl : Nat) (h0 : W ν s) : W ν (Sys2Proof.Machine.State.resize s p nb nl) := by
  unfold Sys2Proof.Machine.State.resize; repeat' (first | (with_reducible assumption) | ((try lift_lets -underBinder); intro x; refine W_cut (ν := ν) x ?_ ?_ <;> first | (intro hx; clear_value x) | unfold x) | ((try lift_lets -underBinder); intro x) | (with_reducible apply wf_State_setWin) | (with_reducible apply wf_State_dropTlb) | (with_reducible apply wf_State_onOwner) | (with_reducible apply wf_State_abortResize) | (with_reducible apply wf_State_requeue) | (with_reducible apply wf_State_dequeToRings) | (with_reducible refine foldl_wf _ _ ?_ _ ?_; first | (intro x y hxy) | skip) | (with_reducible apply W_ite) | split)
theorem wf_execPartitionResize (p : BitVec 6) (s : State) (h0 : W ν s) : OutW ν (Sys2Proof.Machine.execPartitionResize p s) := by
  unfold Sys2Proof.Machine.execPartitionResize; repeat' (first | (with_reducible assumption) | ((try lift_lets -underBinder); intro x; refine W_cut (ν := ν) x ?_ ?_ <;> first | (intro hx; clear_value x) | unfold x) | ((try lift_lets -underBinder); intro x) | (with_reducible apply wf_State_setWin) | (with_reducible apply wf_State_setPart) | (with_reducible apply wf_State_resize) | (with_reducible apply OutW_next) | (with_reducible apply OutW_ite) | (with_reducible apply W_ite) | split)
theorem wf_State_setDom (s : State) (d : Nat) (x : Dom) (h0 : W ν s) : W ν (Sys2Proof.Machine.State.setDom s d x) := by
  unfold Sys2Proof.Machine.State.setDom; repeat' (first | (with_reducible assumption) | (with_reducible refine toW (ν := ν) ?_) | (with_reducible apply toN) | ((with_reducible refine W_mk ?_ ?_) <;> dsimp -zeta only))
theorem wf_State_setInst (s : State) (d x : Nat) (i : SlotInst) (h0 : W ν s) : W ν (Sys2Proof.Machine.State.setInst s d x i) := by
  unfold Sys2Proof.Machine.State.setInst; repeat' (first | (with_reducible assumption) | (with_reducible refine toW (ν := ν) ?_) | (with_reducible apply toN) | ((with_reducible refine W_mk ?_ ?_) <;> dsimp -zeta only))
theorem wf_State_kfClear (s : State) (cid : Nat) (h0 : W ν s) : W ν (Sys2Proof.Machine.State.kfClear s cid) := by
  unfold Sys2Proof.Machine.State.kfClear; repeat' (first | (with_reducible assumption) | (with_reducible apply wf_State_setWinFld))
theorem wf_State_dropRecord (s : State) (cid : Nat) (h0 : W ν s) : W ν (Sys2Proof.Machine.State.dropRecord s cid) := by
  unfold Sys2Proof.Machine.State.dropRecord; repeat' (first | (with_reducible assumption) | ((try lift_lets -underBinder); intro x) | (with_reducible apply wf_State_setSched) | (with_reducible apply wf_State_discardCtx) | (with_reducible apply wf_State_endHandler) | (with_reducible apply W_ite) | split)
theorem wf_State_kRetry (s : State) (cid : Nat) (h0 : W ν s) : W ν (Sys2Proof.Machine.State.kRetry s cid) := by
  unfold Sys2Proof.Machine.State.kRetry; repeat' (first | (with_reducible assumption) | ((try lift_lets -underBinder); intro x; refine W_cut (ν := ν) x ?_ ?_ <;> first | (intro hx; clear_value x) | unfold x) | ((try lift_lets -underBinder); intro x) | (with_reducible apply wf_State_setCtx) | (with_reducible apply wf_State_kfClear) | split)
theorem wf_State_kAbort (s : State) (cid : Nat) (h0 : W ν s) : W ν (Sys2Proof.Machine.State.kAbort s cid) := by
  unfold Sys2Proof.Machine.State.kAbort; repeat' (first | (with_reducible assumption) | ((try lift_lets -underBinder); intro x; refine W_cut (ν := ν) x ?_ ?_ <;> first | (intro hx; clear_value x) | unfold x) | ((try lift_lets -underBinder); intro x) | (with_reducible apply wf_State_killLaunch) | (with_reducible apply wf_State_kfClear) | (with_reducible apply wf_State_dropRecord) | split)
theorem wf_State_kKill (s : State) (cid : Nat) (h0 : W ν s) : W ν (Sys2Proof.Machine.State.kKill s cid) := by
  unfold Sys2Proof.Machine.State.kKill; repeat' (first | (with_reducible assumption) | ((try lift_lets -underBinder); intro x; refine W_cut (ν := ν) x ?_ ?_ <;> first | (intro hx; clear_value x) | unfold x) | ((try lift_lets -underBinder); intro x) | (with_reducible apply wf_State_killTenant) | (with_reducible apply wf_State_kfClear) | (with_reducible apply wf_State_dropRecord) | (with_reducible apply W_ite) | split)
theorem wf_execKresumeRetry (cid : BitVec 12) (s : State) (h0 : W ν s) : OutW ν (Sys2Proof.Machine.execKresumeRetry cid s) := by
  unfold Sys2Proof.Machine.execKresumeRetry; repeat' (first | (with_reducible assumption) | ((try lift_lets -underBinder); intro x) | (with_reducible apply wf_State_kRetry) | (with_reducible apply OutW_next) | (with_reducible apply W_ite))
theorem wf_execKresumeAbort (cid : BitVec 12) (s : State) (h0 : W ν s) : OutW ν (Sys2Proof.Machine.execKresumeAbort cid s) := by
  unfold Sys2Proof.Machine.execKresumeAbort; repeat' (first | (with_reducible assumption) | ((try lift_lets -underBinder); intro x) | (with_reducible apply wf_State_kAbort) | (with_reducible apply OutW_next) | (with_reducible apply W_ite))
theorem wf_execKresumeKill (cid : BitVec 12) (s : State) (h0 : W ν s) : OutW ν (Sys2Proof.Machine.execKresumeKill cid s) := by
  unfold Sys2Proof.Machine.execKresumeKill; repeat' (first | (with_reducible assumption) | ((try lift_lets -underBinder); intro x) | (with_reducible apply wf_State_kKill) | (with_reducible apply OutW_next) | (with_reducible apply W_ite))
theorem wf_State_writeKresume (s : State) (v : Word) (h0 : W ν s) : W ν (Sys2Proof.Machine.State.writeKresume s v) := by
  unfold Sys2Proof.Machine.State.writeKresume; repeat' (first | (with_reducible assumption) | ((try lift_lets -underBinder); intro x) | (with_reducible apply wf_State_kRetry) | (with_reducible apply wf_State_kAbort) | (with_reducible apply wf_State_kKill) | (with_reducible apply W_ite) | split)
theorem wf_State_forget (s : State) (h0 : W ν s) : W ν (Sys2Proof.Machine.State.forget s) := by
  unfold Sys2Proof.Machine.State.forget; repeat' (first | (with_reducible assumption) | ((try lift_lets -underBinder); intro x) | (with_reducible refine toW (ν := ν) ?_) | (with_reducible apply toN) | ((with_reducible refine W_mk ?_ ?_) <;> dsimp -zeta only))
theorem wf_State_ginv (s : State) (d : Nat) (v : Word) (h0 : W ν s) : GO ν (Sys2Proof.Machine.State.ginv s d v) := by
  unfold Sys2Proof.Machine.State.ginv; repeat' (first | (with_reducible assumption) | ((try lift_lets -underBinder); intro x; refine W_cut (ν := ν) x ?_ ?_ <;> first | (intro hx; clear_value x) | unfold x) | ((try lift_lets -underBinder); intro x) | (with_reducible apply wf_State_setWinFld) | (with_reducible apply wf_State_forget) | (with_reducible refine toW (ν := ν) ?_) | (with_reducible apply toN) | ((with_reducible refine W_mk ?_ ?_) <;> dsimp -zeta only) | (with_reducible apply W_ite) | (with_reducible apply GO_s) | (with_reducible apply GO_n) | split)
theorem wf_execGinv (die : BitVec 2) (v : BitVec 64) (s : State) (h0 : W ν s) : OutW ν (Sys2Proof.Machine.execGinv die v s) := by
  unfold Sys2Proof.Machine.execGinv; repeat' (first | (with_reducible assumption) | (with_reducible apply wf_State_ginv) | (with_reducible apply OutW_next) | (with_reducible refine GO_d ?_ ?_))
theorem wf_execGinvDone (die : BitVec 2) (s : State) (h0 : W ν s) : OutW ν (Sys2Proof.Machine.execGinvDone die s) := by
  unfold Sys2Proof.Machine.execGinvDone; repeat' (first | (with_reducible assumption) | (with_reducible apply wf_State_setWinFld) | (with_reducible apply OutW_next))
theorem wf_execKernelCoreReset (g : BitVec 6) (s : State) (h0 : W ν s) : OutW ν (Sys2Proof.Machine.execKernelCoreReset g s) := by
  unfold Sys2Proof.Machine.execKernelCoreReset; repeat' (first | (with_reducible assumption) | (with_reducible apply wf_State_kernelReset) | (with_reducible apply OutW_next))
theorem wf_State_writeLqcfg (s : State) (q : Nat) (v : Word) (h0 : W ν s) : W ν (Sys2Proof.Machine.State.writeLqcfg s q v) := by
  unfold Sys2Proof.Machine.State.writeLqcfg; repeat' (first | (with_reducible assumption) | ((try lift_lets -underBinder); intro x) | (with_reducible apply wf_State_setWin) | (with_reducible apply W_ite))
theorem wf_execQueueEnable (q : BitVec 10) (v : BitVec 64) (s : State) (h0 : W ν s) : OutW ν (Sys2Proof.Machine.execQueueEnable q v s) := by
  unfold Sys2Proof.Machine.execQueueEnable; repeat' (first | (with_reducible assumption) | (with_reducible apply wf_State_writeLqcfg) | (with_reducible apply OutW_next))
theorem wf_execLqstRead (q : BitVec 10) (s : State) (h0 : W ν s) : OutW ν (Sys2Proof.Machine.execLqstRead q s) := by
  unfold Sys2Proof.Machine.execLqstRead; repeat' (first | (with_reducible assumption) | ((try lift_lets -underBinder); intro x) | (with_reducible apply wf_State_setWin) | (with_reducible apply OutW_next) | (with_reducible refine toW (ν := ν) ?_) | (with_reducible apply toN) | ((with_reducible refine W_mk ?_ ?_) <;> dsimp -zeta only))
theorem wf_State_takePacket (s : State) (t : Byte) (p q ridx pkt : Nat) (h0 : W ν s) : W ν (Sys2Proof.Machine.State.takePacket s t p q ridx pkt) := by
  unfold Sys2Proof.Machine.State.takePacket; repeat' (first | (with_reducible assumption) | ((try lift_lets -underBinder); intro x) | (with_reducible apply wf_State_reportLaunch) | (with_reducible apply wf_State_startLaunch) | split)
theorem wf_State_raiseVint (s : State) (f : Byte) (b : Nat) (h0 : W ν s) : W ν (Sys2Proof.Machine.State.raiseVint s f b) := by
  unfold Sys2Proof.Machine.State.raiseVint; repeat' (first | (with_reducible assumption) | ((try lift_lets -underBinder); intro x) | (with_reducible refine toW (ν := ν) ?_) | (with_reducible apply toN) | ((with_reducible refine W_mk ?_ ?_) <;> dsimp -zeta only) | (with_reducible apply W_ite))
theorem wf_State_examine (s : State) (q : Nat) (h0 : W ν s) : W ν (Sys2Proof.Machine.State.examine s q) := by
  unfold Sys2Proof.Machine.State.examine; repeat' (first | (with_reducible assumption) | ((try lift_lets -underBinder); intro x; refine W_cut (ν := ν) x ?_ ?_ <;> first | (intro hx; clear_value x) | unfold x) | ((try lift_lets -underBinder); intro x) | (with_reducible apply wf_State_setWinFld) | (with_reducible apply wf_State_fetchPage) | (with_reducible apply wf_State_vaWrite) | (with_reducible apply wf_State_errPacket) | (with_reducible apply wf_State_countTaken) | (with_reducible apply wf_State_takePacket) | (with_reducible apply wf_State_raiseVint) | (with_reducible apply W_ite) | split)
theorem wf_execQueuePoll (q : BitVec 10) (s : State) (h0 : W ν s) : OutW ν (Sys2Proof.Machine.execQueuePoll q s) := by
  unfold Sys2Proof.Machine.execQueuePoll; repeat' (first | (with_reducible assumption) | (with_reducible apply wf_State_examine) | (with_reducible apply OutW_next))
theorem wf_execVdbell (fn : BitVec 8) (q : BitVec 10) (s : State) (h0 : W ν s) : OutW ν (Sys2Proof.Machine.execVdbell fn q s) := by
  unfold Sys2Proof.Machine.execVdbell; repeat' (first | (with_reducible assumption) | ((try lift_lets -underBinder); intro x) | (with_reducible apply wf_State_examine) | (with_reducible apply OutW_next) | (with_reducible apply W_ite))
theorem wf_execVintClear (fn : BitVec 8) (v : BitVec 64) (s : State) (h0 : W ν s) : OutW ν (Sys2Proof.Machine.execVintClear fn v s) := by
  unfold Sys2Proof.Machine.execVintClear; repeat' (first | (with_reducible assumption) | ((try lift_lets -underBinder); intro x) | (with_reducible apply OutW_next) | (with_reducible refine toW (ν := ν) ?_) | (with_reducible apply toN) | ((with_reducible refine W_mk ?_ ?_) <;> dsimp -zeta only))
theorem flr_body : @execFunctionLevelReset = fun fn s =>
  if fn = 0 ∨ 128 < fn.toNat then .next s else
  let mine := fun (q : Nat) => s.lqFunc q == fn
  let s := (s.launches.filter fun l => match l.src with
    | .queue q _ => mine q
    | .slot _ _ => false).foldl (fun s l => s.dropLaunch l) s
  let s := foldNat (fun s q =>
    if s.lqFunc q == fn && s.lqEn q then
      let t := s.lqTenant q
      let s := s.vaWrite t (s.lqBase q + 8) 8 (s.vaRead t (s.lqBase q) 8)
      s.setWinFld (rLQ q 0x10) 16 1 0
    else s) s 0 1024
  .next { s with vfs := SMap.write {} s.vfs fn.toNat {} } := rfl
theorem flr_end (fn : BitVec 8) (w : State) (hw : W ν w) : OutW ν (.next { w with vfs := SMap.write {} w.vfs fn.toNat {} }) := OutW_next (W_same hw rfl rfl)
theorem wf_execFunctionLevelReset (fn : BitVec 8) (s : State) (h0 : W ν s) : OutW ν (execFunctionLevelReset fn s) := by
  rw [flr_body]
  dsimp -zeta only
  (with_reducible refine OutW_ite (OutW_next h0) ?_)
  lift_lets -underBinder
  intro mine v
  have hv : W ν v := foldl_wf _ _ (fun s x h => wf_State_dropLaunch _ _ h) _ h0
  clear_value v
  intro w
  have hw : W ν w := by
    refine foldNat_wf _ _ _ ?_ _ hv
    intro s x h
    dsimp only
    with_reducible refine W_ite (fun _ => ?_) (fun _ => h)
    with_reducible refine wf_State_setWinFld _ _ _ _ _ ?_
    with_reducible refine wf_State_vaWrite _ _ _ _ _ h
  clear_value w
  with_reducible exact flr_end fn w hw
theorem wf_execPtpSync (t : BitVec 64) (s : State) (h0 : W ν s) : OutW ν (Sys2Proof.Machine.execPtpSync t s) := by
  unfold Sys2Proof.Machine.execPtpSync; repeat' (first | (with_reducible assumption) | ((try lift_lets -underBinder); intro x; refine W_cut (ν := ν) x ?_ ?_ <;> first | (intro hx; clear_value x) | unfold x) | ((try lift_lets -underBinder); intro x) | (with_reducible apply wf_State_setWin) | (with_reducible apply OutW_next) | (with_reducible apply OutW_ite) | (with_reducible refine toW (ν := ν) ?_) | (with_reducible apply toN) | ((with_reducible refine W_mk ?_ ?_) <;> dsimp -zeta only) | (with_reducible apply W_ite))
theorem wf_execHoldover (s : State) (h0 : W ν s) : OutW ν (Sys2Proof.Machine.execHoldover s) := by
  unfold Sys2Proof.Machine.execHoldover; repeat' (first | (with_reducible assumption) | ((try lift_lets -underBinder); intro x) | (with_reducible apply wf_State_setWinFld) | (with_reducible apply OutW_next) | (with_reducible apply W_ite))
theorem wf_State_touchSlot (s : State) (key i off n : Nat) (write : Bool) (h0 : W ν s) : W ν (Sys2Proof.Machine.State.touchSlot s key i off n write) := by
  unfold Sys2Proof.Machine.State.touchSlot; repeat' (first | (with_reducible assumption) | (with_reducible apply wf_State_touch) | (with_reducible refine foldNat_wf _ _ _ ?_ _ ?_; first | (intro x y hxy) | skip) | split)
theorem wf_State_putVersion (s : State) (key : Nat) (v : Word32) (off n x : Nat) (h0 : W ν s) : W ν (Sys2Proof.Machine.State.putVersion s key v off n x) := by
  unfold Sys2Proof.Machine.State.putVersion; repeat' (first | (with_reducible assumption) | ((try lift_lets -underBinder); intro x) | (with_reducible apply wf_State_setRing) | (with_reducible apply wf_State_touchSlot) | split)
theorem wf_State_putVersionBytes (s : State) (key : Nat) (v : Word32) (off : Nat) (l : List Byte) (h0 : W ν s) : W ν (s.putVersionBytes key v off l) := by
  induction l generalizing s off with
  | nil => exact h0
  | cons b bs ih => unfold State.putVersionBytes; repeat' (first | (with_reducible assumption) | (with_reducible apply ih) | (with_reducible apply wf_State_putVersion))
theorem wf_State_openImage (s : State) (d : Nat) (n : Nat) (h0 : W ν s) : W ν (Sys2Proof.Machine.State.openImage s d n) := by
  unfold Sys2Proof.Machine.State.openImage; repeat' (first | (with_reducible assumption) | ((try lift_lets -underBinder); intro x; refine W_cut (ν := ν) x ?_ ?_ <;> first | (intro hx; clear_value x) | unfold x) | ((try lift_lets -underBinder); intro x) | (with_reducible apply wf_State_openV) | (with_reducible apply wf_State_putVersion) | (with_reducible refine foldl_wf _ _ ?_ _ ?_; first | (intro x y hxy) | skip) | (with_reducible apply W_ite))
theorem failSlot_body : @State.failSlot = fun s d x sub =>
    let l := s.untaken (s.slotOwner d x) (.slot d x) (s.slotPkt d x)
    let s := (s.setWinFld (rSLOTA d x) 32 1 0).setWinFld (rSLOTST d x) 4 4 1
    match s.ownRegion (s.slotPart d x) l.tenant l.packet.errq.toNat with
    | some r => if r.kind = kQUEUE ∧ r.base = l.packet.errq.toNat then s.reportLaunch l cMALFORMED sub 0 0xFFFF else s
    | none => s := rfl
theorem wf_State_failSlot (s : State) (d x sub : Nat) (h0 : W ν s) : W ν (s.failSlot d x sub) := by
  rw [failSlot_body]
  dsimp -zeta only
  have hv := wf_State_setWinFld _ (rSLOTST d x) 4 4 1 (wf_State_setWinFld s (rSLOTA d x) 32 1 0 h0)
  lift_lets -underBinder
  intro l v
  replace hv : W ν v := hv
  clear_value v l
  split
  · with_reducible refine W_ite (fun _ => ?_) (fun _ => hv)
    with_reducible exact wf_State_reportLaunch _ _ _ _ _ _ hv
  · with_reducible exact hv
theorem wf_State_checkSlot (s : State) (d x : Nat) (h0 : W ν s) : W ν (Sys2Proof.Machine.State.checkSlot s d x) := by
  unfold Sys2Proof.Machine.State.checkSlot; repeat' (first | (with_reducible assumption) | ((try lift_lets -underBinder); intro x; refine W_cut (ν := ν) x ?_ ?_ <;> first | (intro hx; clear_value x) | unfold x) | ((try lift_lets -underBinder); intro x) | (with_reducible apply wf_State_setWinFld) | (with_reducible apply wf_State_setInst) | (with_reducible apply wf_State_failSlot) | (with_reducible apply W_ite) | split)
theorem wf_State_slotWritten (s : State) (d x : Nat) (h0 : W ν s) : W ν (Sys2Proof.Machine.State.slotWritten s d x) := by
  unfold Sys2Proof.Machine.State.slotWritten; repeat' (first | (with_reducible assumption) | ((try lift_lets -underBinder); intro x; refine W_cut (ν := ν) x ?_ ?_ <;> first | (intro hx; clear_value x) | unfold x) | ((try lift_lets -underBinder); intro x) | (with_reducible apply wf_State_setInst) | (with_reducible apply wf_State_checkSlot) | (with_reducible apply W_ite))
theorem wf_State_writeSlota (s : State) (d x : Nat) (v : Word) (h0 : W ν s) : W ν (Sys2Proof.Machine.State.writeSlota s d x v) := by
  unfold Sys2Proof.Machine.State.writeSlota; repeat' (first | (with_reducible assumption) | (with_reducible apply wf_State_setWin) | (with_reducible apply wf_State_slotWritten))
theorem wf_State_writeSlotb (s : State) (d x : Nat) (v : Word) (h0 : W ν s) : W ν (Sys2Proof.Machine.State.writeSlotb s d x v) := by
  unfold Sys2Proof.Machine.State.writeSlotb; repeat' (first | (with_reducible assumption) | (with_reducible apply wf_State_setWin) | (with_reducible apply wf_State_slotWritten))
theorem wf_execSlotWrite (d : BitVec 3) (x : BitVec 8) (v : BitVec 64) (s : State) (h0 : W ν s) : OutW ν (Sys2Proof.Machine.execSlotWrite d x v s) := by
  unfold Sys2Proof.Machine.execSlotWrite; repeat' (first | (with_reducible assumption) | (with_reducible apply wf_State_writeSlota) | (with_reducible apply OutW_next))
theorem wf_execSlotstRead (d : BitVec 3) (x : BitVec 8) (s : State) (h0 : W ν s) : OutW ν (Sys2Proof.Machine.execSlotstRead d x s) := by
  unfold Sys2Proof.Machine.execSlotstRead; repeat' (first | (with_reducible assumption) | ((try lift_lets -underBinder); intro x) | (with_reducible apply wf_State_setWinFld) | (with_reducible apply OutW_next) | (with_reducible refine toW (ν := ν) ?_) | (with_reducible apply toN) | ((with_reducible refine W_mk ?_ ?_) <;> dsimp -zeta only))
theorem wf_State_imageRing (s : State) (d : Nat) (h0 : W ν s) : W ν (Sys2Proof.Machine.State.imageRing s d) := by
  unfold Sys2Proof.Machine.State.imageRing; repeat' (first | (with_reducible assumption) | ((try lift_lets -underBinder); intro x) | (with_reducible apply wf_State_setRing) | (with_reducible apply wf_State_vwRevoke) | (with_reducible apply wf_State_setDom) | (with_reducible apply W_ite))
theorem wf_State_enableDom (s : State) (d : Nat) (pair : Bool) (h0 : W ν s) : W ν (Sys2Proof.Machine.State.enableDom s d pair) := by
  unfold Sys2Proof.Machine.State.enableDom; repeat' (first | (with_reducible assumption) | ((try lift_lets -underBinder); intro x; refine W_cut (ν := ν) x ?_ ?_ <;> first | (intro hx; clear_value x) | unfold x) | ((try lift_lets -underBinder); intro x) | (with_reducible apply wf_State_setWin) | (with_reducible apply wf_State_setWinFld) | (with_reducible apply wf_State_setHolder) | (with_reducible apply wf_State_setDom) | (with_reducible apply wf_State_setInst) | (with_reducible apply wf_State_openImage) | (with_reducible apply wf_State_checkSlot) | (with_reducible apply wf_State_imageRing) | (with_reducible refine foldl_wf _ _ ?_ _ ?_; first | (intro x y hxy) | skip) | (with_reducible refine toW (ν := ν) ?_) | (with_reducible apply toN) | ((with_reducible refine W_mk ?_ ?_) <;> dsimp -zeta only) | (with_reducible apply W_ite))
theorem wf_State_writeCdctl (s : State) (d : Nat) (v : Word) (h0 : W ν s) : W ν (Sys2Proof.Machine.State.writeCdctl s d v) := by
  unfold Sys2Proof.Machine.State.writeCdctl; repeat' (first | (with_reducible assumption) | ((try lift_lets -underBinder); intro x) | (with_reducible apply wf_State_setWinFld) | (with_reducible apply wf_State_setDom) | (with_reducible apply wf_State_enableDom) | (with_reducible apply W_ite))
theorem wf_execDomainEnable (d : BitVec 3) (s : State) (h0 : W ν s) : OutW ν (Sys2Proof.Machine.execDomainEnable d s) := by
  unfold Sys2Proof.Machine.execDomainEnable; repeat' (first | (with_reducible assumption) | (with_reducible apply wf_State_writeCdctl) | (with_reducible apply OutW_next))
theorem wf_execDomainDisable (d : BitVec 3) (s : State) (h0 : W ν s) : OutW ν (Sys2Proof.Machine.execDomainDisable d s) := by
  unfold Sys2Proof.Machine.execDomainDisable; repeat' (first | (with_reducible assumption) | (with_reducible apply wf_State_writeCdctl) | (with_reducible apply OutW_next))
theorem wf_State_refill (s : State) (cid : Nat) (h0 : W ν s) : W ν (Sys2Proof.Machine.State.refill s cid) := by
  unfold Sys2Proof.Machine.State.refill; repeat' (first | (with_reducible assumption) | ((try lift_lets -underBinder); intro x; refine W_cut (ν := ν) x ?_ ?_ <;> first | (intro hx; clear_value x) | unfold x) | ((try lift_lets -underBinder); intro x) | (with_reducible apply wf_State_setCtx) | (with_reducible apply wf_State_setCtl) | (with_reducible apply wf_State_detach) | (with_reducible apply wf_State_exhaust) | (with_reducible apply W_ite))
theorem wf_State_setEnvelope (s : State) (e : Nat) (throt : Bool) (h0 : W ν s) : W ν (Sys2Proof.Machine.State.setEnvelope s e throt) := by
  unfold Sys2Proof.Machine.State.setEnvelope; repeat' (first | (with_reducible assumption) | (with_reducible apply wf_State_setWin) | (with_reducible refine toW (ν := ν) ?_) | (with_reducible apply toN) | ((with_reducible refine W_mk ?_ ?_) <;> dsimp -zeta only))
theorem wf_State_unyield (s : State) (cid : Nat) (h0 : W ν s) : W ν (Sys2Proof.Machine.State.unyield s cid) := by
  unfold Sys2Proof.Machine.State.unyield; repeat' (first | (with_reducible assumption) | ((try lift_lets -underBinder); intro x) | (with_reducible apply wf_State_setSched))
theorem wf_State_eachOfDomain (s : State) (d : Nat) (f : Nat → State → State) (hf : ∀ n s, W ν s → W ν (f n s)) (h0 : W ν s) : W ν (s.eachOfDomain d f) := by
  unfold State.eachOfDomain
  exact foldl_wf _ _ (fun s x h => wf_State_onOwner _ _ _ _ (fun s h => hf _ _ h) h) _ (foldl_wf _ _ (fun s x h => hf _ _ h) _ h0)
theorem wf_State_pairFrees (s : State) (p : Nat) (h0 : W ν s) : W ν (Sys2Proof.Machine.State.pairFrees s p) := by
  unfold Sys2Proof.Machine.State.pairFrees; repeat' (first | (with_reducible assumption) | ((try lift_lets -underBinder); intro x) | (with_reducible apply wf_State_setPart) | (with_reducible apply W_ite))
theorem wf_State_pairRestart (s : State) (d : Nat) (n : Word) (h0 : W ν s) : W ν (Sys2Proof.Machine.State.pairRestart s d n) := by
  unfold Sys2Proof.Machine.State.pairRestart; repeat' (first | (with_reducible assumption) | ((try lift_lets -underBinder); intro x) | (with_reducible apply wf_State_pairFrees) | (with_reducible refine foldl_wf _ _ ?_ _ ?_; first | (intro x y hxy) | skip) | (with_reducible refine toW (ν := ν) ?_) | (with_reducible apply toN) | ((with_reducible refine W_mk ?_ ?_) <;> dsimp -zeta only) | (with_reducible apply W_ite))
theorem wf_execCycleStart (d : BitVec 3) (s : State) (h0 : W ν s) : OutW ν (Sys2Proof.Machine.execCycleStart d s) := by
  unfold Sys2Proof.Machine.execCycleStart; repeat' (first | (with_reducible assumption) | ((try lift_lets -underBinder); intro x; refine W_cut (ν := ν) x ?_ ?_ <;> first | (intro hx; clear_value x) | unfold x) | ((try lift_lets -underBinder); intro x) | (with_reducible apply wf_State_setWinFld) | (with_reducible apply wf_State_setDom) | (with_reducible apply wf_State_refill) | (with_reducible apply wf_State_setEnvelope) | (with_reducible apply wf_State_unyield) | (with_reducible apply wf_State_eachOfDomain) | (with_reducible apply wf_State_pairRestart) | (with_reducible apply OutW_next) | (with_reducible apply OutW_ite) | (with_reducible apply W_ite) | split)
theorem wf_State_countSf (s : State) (f lo : Nat) (h0 : W ν s) : W ν (Sys2Proof.Machine.State.countSf s f lo) := by
  unfold Sys2Proof.Machine.State.countSf; repeat' (first | (with_reducible assumption) | ((try lift_lets -underBinder); intro x) | (with_reducible apply wf_State_setWin))
theorem wf_State_placeFrame (s : State) (f : Nat) (v : Word32) (payload : List Byte) (carried : Bool) (h0 : W ν s) : W ν (Sys2Proof.Machine.State.placeFrame s f v payload carried) := by
  unfold Sys2Proof.Machine.State.placeFrame; repeat' (first | (with_reducible assumption) | ((try lift_lets -underBinder); intro x; refine W_cut (ν := ν) x ?_ ?_ <;> first | (intro hx; clear_value x) | unfold x) | ((try lift_lets -underBinder); intro x) | (with_reducible apply wf_State_putVersion) | (with_reducible apply wf_State_putVersionBytes) | split)
theorem wf_State_releaseHeld (s : State) (d : Nat) (v : Word32) (h0 : W ν s) : W ν (Sys2Proof.Machine.State.releaseHeld s d v) := by
  unfold Sys2Proof.Machine.State.releaseHeld; repeat' (first | (with_reducible assumption) | ((try lift_lets -underBinder); intro x; refine W_cut (ν := ν) x ?_ ?_ <;> first | (intro hx; clear_value x) | unfold x) | ((try lift_lets -underBinder); intro x) | (with_reducible apply wf_State_countSf) | (with_reducible apply wf_State_placeFrame) | (with_reducible refine foldl_wf _ _ ?_ _ ?_; first | (intro x y hxy) | skip) | (with_reducible refine toW (ν := ν) ?_) | (with_reducible apply toN) | ((with_reducible refine W_mk ?_ ?_) <;> dsimp -zeta only) | (with_reducible apply W_ite))
theorem wf_execLatch (d : BitVec 3) (s : State) (h0 : W ν s) : OutW ν (Sys2Proof.Machine.execLatch d s) := by
  unfold Sys2Proof.Machine.execLatch; repeat' (first | (with_reducible assumption) | ((try lift_lets -underBinder); intro x; refine W_cut (ν := ν) x ?_ ?_ <;> first | (intro hx; clear_value x) | unfold x) | ((try lift_lets -underBinder); intro x) | (with_reducible apply wf_State_setWinFld) | (with_reducible apply wf_State_sealV) | (with_reducible apply wf_State_setDom) | (with_reducible apply wf_State_openImage) | (with_reducible apply wf_State_releaseHeld) | (with_reducible apply OutW_next) | (with_reducible apply OutW_ite) | split)
theorem wf_State_launchSlot (s : State) (d x : Nat) (h0 : W ν s) : W ν (Sys2Proof.Machine.State.launchSlot s d x) := by
  unfold Sys2Proof.Machine.State.launchSlot; repeat' (first | (with_reducible assumption) | ((try lift_lets -underBinder); intro x; refine W_cut (ν := ν) x ?_ ?_ <;> first | (intro hx; clear_value x) | unfold x) | ((try lift_lets -underBinder); intro x) | (with_reducible apply wf_State_setWin) | (with_reducible apply wf_State_startLaunch) | (with_reducible apply wf_State_setInst))
theorem wf_State_bumpSlot (s : State) (d x lo : Nat) (h0 : W ν s) : W ν (Sys2Proof.Machine.State.bumpSlot s d x lo) := by
  unfold Sys2Proof.Machine.State.bumpSlot; repeat' (first | (with_reducible assumption) | ((try lift_lets -underBinder); intro x) | (with_reducible apply wf_State_setWin))
theorem wf_State_tryLaunch (s : State) (d x : Nat) (h0 : W ν s) : W ν (Sys2Proof.Machine.State.tryLaunch s d x) := by
  unfold Sys2Proof.Machine.State.tryLaunch; repeat' (first | (with_reducible assumption) | ((try lift_lets -underBinder); intro x; refine W_cut (ν := ν) x ?_ ?_ <;> first | (intro hx; clear_value x) | unfold x) | ((try lift_lets -underBinder); intro x) | (with_reducible apply wf_State_setWinFld) | (with_reducible apply wf_State_setInst) | (with_reducible apply wf_State_failSlot) | (with_reducible apply wf_State_launchSlot) | (with_reducible apply wf_State_bumpSlot) | (with_reducible apply W_ite) | split)
theorem wf_State_overrun (s : State) (d x : Nat) (h0 : W ν s) : W ν (Sys2Proof.Machine.State.overrun s d x) := by
  unfold Sys2Proof.Machine.State.overrun; repeat' (first | (with_reducible assumption) | ((try lift_lets -underBinder); intro x; refine W_cut (ν := ν) x ?_ ?_ <;> first | (intro hx; clear_value x) | unfold x) | ((try lift_lets -underBinder); intro x) | (with_reducible apply wf_State_setWinFld) | (with_reducible apply wf_State_setInst) | (with_reducible apply wf_State_failSlot) | (with_reducible apply wf_State_bumpSlot) | (with_reducible apply W_ite) | split)
theorem wf_execSlotInstant (d : BitVec 3) (x : BitVec 8) (s : State) (h0 : W ν s) : OutW ν (Sys2Proof.Machine.execSlotInstant d x s) := by
  unfold Sys2Proof.Machine.execSlotInstant; repeat' (first | (with_reducible assumption) | ((try lift_lets -underBinder); intro x; refine W_cut (ν := ν) x ?_ ?_ <;> first | (intro hx; clear_value x) | unfold x) | ((try lift_lets -underBinder); intro x) | (with_reducible apply wf_State_fetchPage) | (with_reducible apply wf_State_setInst) | (with_reducible apply wf_State_failSlot) | (with_reducible apply wf_State_bumpSlot) | (with_reducible apply wf_State_tryLaunch) | (with_reducible apply wf_State_overrun) | (with_reducible apply OutW_next) | (with_reducible apply OutW_ite) | split)
theorem wf_execDeferredLaunch (d : BitVec 3) (x : BitVec 8) (s : State) (h0 : W ν s) : OutW ν (Sys2Proof.Machine.execDeferredLaunch d x s) := by
  unfold Sys2Proof.Machine.execDeferredLaunch; repeat' (first | (with_reducible assumption) | ((try lift_lets -underBinder); intro x) | (with_reducible apply wf_State_fetchPage) | (with_reducible apply wf_State_tryLaunch) | (with_reducible apply OutW_next) | (with_reducible apply OutW_ite) | split)
theorem wf_State_writeSfid (s : State) (f : Nat) (v : Word) (h0 : W ν s) : W ν (Sys2Proof.Machine.State.writeSfid s f v) := by
  unfold Sys2Proof.Machine.State.writeSfid; repeat' (first | (with_reducible assumption) | ((try lift_lets -underBinder); intro x) | (with_reducible apply wf_State_setWin))
theorem wf_execFilterWrite (f : BitVec 10) (v : BitVec 64) (s : State) (h0 : W ν s) : OutW ν (Sys2Proof.Machine.execFilterWrite f v s) := by
  unfold Sys2Proof.Machine.execFilterWrite; repeat' (first | (with_reducible assumption) | (with_reducible apply wf_State_writeSfid) | (with_reducible apply OutW_next))
theorem wf_execSfcntRead (f : BitVec 10) (s : State) (h0 : W ν s) : OutW ν (Sys2Proof.Machine.execSfcntRead f s) := by
  unfold Sys2Proof.Machine.execSfcntRead; repeat' (first | (with_reducible assumption) | ((try lift_lets -underBinder); intro x) | (with_reducible apply wf_State_setWin) | (with_reducible apply OutW_next) | (with_reducible refine toW (ν := ν) ?_) | (with_reducible apply toN) | ((with_reducible refine W_mk ?_ ?_) <;> dsimp -zeta only))
theorem wf_State_setFilter (s : State) (f : Nat) (x : FilterSt) (h0 : W ν s) : W ν (Sys2Proof.Machine.State.setFilter s f x) := by
  unfold Sys2Proof.Machine.State.setFilter; repeat' (first | (with_reducible assumption) | (with_reducible refine toW (ν := ν) ?_) | (with_reducible apply toN) | ((with_reducible refine W_mk ?_ ?_) <;> dsimp -zeta only))
theorem wf_State_meter (s : State) (m n : Nat) (h0 : W ν s) : GO ν (Sys2Proof.Machine.State.meter s m n) := by
  unfold Sys2Proof.Machine.State.meter; repeat' (first | (with_reducible assumption) | ((try lift_lets -underBinder); intro x) | (with_reducible refine toW (ν := ν) ?_) | (with_reducible apply toN) | ((with_reducible refine W_mk ?_ ?_) <;> dsimp -zeta only) | (with_reducible apply GO_s) | (with_reducible apply GO_n) | split)
theorem wf_State_lateFrame (s : State) (f : Nat) (payload : List Byte) (h0 : W ν s) : W ν (Sys2Proof.Machine.State.lateFrame s f payload) := by
  unfold Sys2Proof.Machine.State.lateFrame; repeat' (first | (with_reducible assumption) | ((try lift_lets -underBinder); intro x; refine W_cut (ν := ν) x ?_ ?_ <;> first | (intro hx; clear_value x) | unfold x) | ((try lift_lets -underBinder); intro x) | (with_reducible apply wf_State_countSf) | (with_reducible apply wf_State_placeFrame) | (with_reducible apply W_ite))
theorem wf_State_imageFrame (s : State) (f : Nat) (x : Frame) (h0 : W ν s) : W ν (Sys2Proof.Machine.State.imageFrame s f x) := by
  unfold Sys2Proof.Machine.State.imageFrame; repeat' (first | (with_reducible assumption) | ((try lift_lets -underBinder); intro x) | (with_reducible apply wf_State_countSf) | (with_reducible apply wf_State_placeFrame) | (with_reducible apply wf_State_setFilter) | (with_reducible apply wf_State_lateFrame) | (with_reducible apply W_ite) | split)
theorem wf_State_bulkFrame (s : State) (f : Nat) (x : Frame) (h0 : W ν s) : W ν (Sys2Proof.Machine.State.bulkFrame s f x) := by
  unfold Sys2Proof.Machine.State.bulkFrame; repeat' (first | (with_reducible assumption) | ((try lift_lets -underBinder); intro x; refine W_cut (ν := ν) x ?_ ?_ <;> first | (intro hx; clear_value x) | unfold x) | ((try lift_lets -underBinder); intro x) | (with_reducible apply wf_State_vaWrite) | (with_reducible apply wf_State_countSf) | (with_reducible apply wf_State_setFilter) | (with_reducible refine foldl_wf _ _ ?_ _ ?_; first | (intro x y hxy) | skip) | (with_reducible apply W_ite))
theorem wf_execFrameIngress (x : Frame) (s : State) (h0 : W ν s) : OutW ν (Sys2Proof.Machine.execFrameIngress x s) := by
  unfold Sys2Proof.Machine.execFrameIngress; repeat' (first | (with_reducible assumption) | ((try lift_lets -underBinder); intro x; refine W_cut (ν := ν) x ?_ ?_ <;> first | (intro hx; clear_value x) | unfold x) | ((try lift_lets -underBinder); intro x) | (with_reducible apply wf_State_countSf) | (with_reducible apply wf_State_setFilter) | (with_reducible apply wf_State_meter) | (with_reducible apply wf_State_imageFrame) | (with_reducible apply wf_State_bulkFrame) | (with_reducible apply OutW_next) | (with_reducible apply OutW_ite) | (with_reducible apply W_ite) | (with_reducible apply GO_s) | (with_reducible refine GO_u ?_ (by with_reducible assumption)) | split | (dsimp -zeta +zetaDelta only))
theorem wf_State_countEg (s : State) (e lo n : Nat) (h0 : W ν s) : W ν (Sys2Proof.Machine.State.countEg s e lo n) := by
  unfold Sys2Proof.Machine.State.countEg; repeat' (first | (with_reducible assumption) | ((try lift_lets -underBinder); intro x) | (with_reducible apply wf_State_setWin))
theorem wf_State_sendPort (s : State) (p : Nat) (h0 : W ν s) : W ν (Sys2Proof.Machine.State.sendPort s p) := by
  unfold Sys2Proof.Machine.State.sendPort; repeat' (first | (with_reducible assumption) | ((try lift_lets -underBinder); intro x) | (with_reducible apply wf_State_countEg) | (with_reducible refine toW (ν := ν) ?_) | (with_reducible apply toN) | ((with_reducible refine W_mk ?_ ?_) <;> dsimp -zeta only) | split)
theorem wf_execGclInterval (p : BitVec 3) (s : State) (h0 : W ν s) : OutW ν (Sys2Proof.Machine.execGclInterval p s) := by
  unfold Sys2Proof.Machine.execGclInterval; repeat' (first | (with_reducible assumption) | (with_reducible apply wf_State_sendPort) | (with_reducible apply OutW_next))
theorem wf_State_diverge (s : State) (d : Nat) (u : Word32) (h0 : W ν s) : W ν (s.diverge d u) := by
  rw [State.diverge.eq_1]
  have hv := wf_State_killTenant s (s.cdTenant d) cDIVERGE 0 (word u.toNat) 65535 false h0
  generalize s.killTenant (s.cdTenant d) cDIVERGE 0 (word u.toNat) 65535 false = v at hv ⊢
  generalize findNat _ 0 256 = o
  cases o with
  | none => with_reducible exact hv
  | some x => with_reducible exact wf_State_reportLaunch _ _ _ _ _ _ hv
theorem wf_State_countPair (s : State) (lo n : Nat) (h0 : W ν s) : W ν (Sys2Proof.Machine.State.countPair s lo n) := by
  unfold Sys2Proof.Machine.State.countPair; repeat' (first | (with_reducible assumption) | ((try lift_lets -underBinder); intro x) | (with_reducible apply wf_State_setWin))
theorem wf_State_egressOne (s : State) (m : Word) (len : Nat) (u : Option VSlot) (sup : Bool) (e : Nat) (h0 : W ν s) : W ν (Sys2Proof.Machine.State.egressOne s m len u sup e) := by
  unfold Sys2Proof.Machine.State.egressOne; repeat' (first | (with_reducible assumption) | ((try lift_lets -underBinder); intro x; refine W_cut (ν := ν) x ?_ ?_ <;> first | (intro hx; clear_value x) | unfold x) | ((try lift_lets -underBinder); intro x) | (with_reducible apply wf_State_countEg) | (with_reducible refine toW (ν := ν) ?_) | (with_reducible apply toN) | ((with_reducible refine W_mk ?_ ?_) <;> dsimp -zeta only) | (with_reducible apply W_ite) | split)
theorem wf_execEgress (d : BitVec 3) (s : State) (h0 : W ν s) : OutW ν (Sys2Proof.Machine.execEgress d s) := by
  unfold Sys2Proof.Machine.execEgress; repeat' (first | (with_reducible assumption) | ((try lift_lets -underBinder); intro x; refine W_cut (ν := ν) x ?_ ?_ <;> first | (intro hx; clear_value x) | unfold x) | ((try lift_lets -underBinder); intro x) | (with_reducible apply wf_State_setWinFld) | (with_reducible apply wf_State_setDom) | (with_reducible apply wf_State_sendPort) | (with_reducible apply wf_State_diverge) | (with_reducible apply wf_State_countPair) | (with_reducible apply wf_State_egressOne) | (with_reducible refine foldl_wf _ _ ?_ _ ?_; first | (intro x y hxy) | skip) | (with_reducible apply OutW_next) | (with_reducible apply OutW_ite) | (with_reducible refine toW (ν := ν) ?_) | (with_reducible apply toN) | ((with_reducible refine W_mk ?_ ?_) <;> dsimp -zeta only) | split)
theorem wf_State_writeEgcfg (s : State) (e : Nat) (v : Word) (h0 : W ν s) : W ν (Sys2Proof.Machine.State.writeEgcfg s e v) := by
  unfold Sys2Proof.Machine.State.writeEgcfg; repeat' (first | (with_reducible assumption) | ((try lift_lets -underBinder); intro x) | (with_reducible apply wf_State_setWin))
theorem wf_State_writeEgfield (s : State) (e off : Nat) (v : Word) (h0 : W ν s) : W ν (Sys2Proof.Machine.State.writeEgfield s e off v) := by
  unfold Sys2Proof.Machine.State.writeEgfield; repeat' (first | (with_reducible assumption) | ((try lift_lets -underBinder); intro x) | (with_reducible apply wf_State_setWin) | (with_reducible apply W_ite))
theorem wf_execEgressStreamEnable (e : BitVec 14) (v : BitVec 64) (s : State) (h0 : W ν s) : OutW ν (Sys2Proof.Machine.execEgressStreamEnable e v s) := by
  unfold Sys2Proof.Machine.execEgressStreamEnable; repeat' (first | (with_reducible assumption) | (with_reducible apply wf_State_writeEgcfg) | (with_reducible apply OutW_next))
theorem wf_execEgcntRead (e : BitVec 14) (s : State) (h0 : W ν s) : OutW ν (Sys2Proof.Machine.execEgcntRead e s) := by
  unfold Sys2Proof.Machine.execEgcntRead; repeat' (first | (with_reducible assumption) | ((try lift_lets -underBinder); intro x) | (with_reducible apply wf_State_setWin) | (with_reducible apply OutW_next) | (with_reducible refine toW (ν := ν) ?_) | (with_reducible apply toN) | ((with_reducible refine W_mk ?_ ?_) <;> dsimp -zeta only))
theorem wf_State_vwOpen (s : State) (w : Nat) (h0 : W ν s) : W ν (Sys2Proof.Machine.State.vwOpen s w) := by
  unfold Sys2Proof.Machine.State.vwOpen; repeat' (first | (with_reducible assumption) | ((try lift_lets -underBinder); intro x; refine W_cut (ν := ν) x ?_ ?_ <;> first | (intro hx; clear_value x) | unfold x) | ((try lift_lets -underBinder); intro x) | (with_reducible apply wf_State_vwStat) | (with_reducible apply wf_State_vwTry) | (with_reducible refine toW (ν := ν) ?_) | (with_reducible apply toN) | ((with_reducible refine W_mk ?_ ?_) <;> dsimp -zeta only) | (with_reducible apply W_ite) | split | (dsimp -zeta +zetaDelta only))
theorem wf_execVwopen (w : BitVec 6) (s : State) (h0 : W ν s) : OutW ν (Sys2Proof.Machine.execVwopen w s) := by
  unfold Sys2Proof.Machine.execVwopen; repeat' (first | (with_reducible assumption) | (with_reducible apply wf_State_vwOpen) | (with_reducible apply OutW_next))
theorem wf_execVwDeadline (w : BitVec 6) (s : State) (h0 : W ν s) : OutW ν (Sys2Proof.Machine.execVwDeadline w s) := by
  unfold Sys2Proof.Machine.execVwDeadline; repeat' (first | (with_reducible assumption) | ((try lift_lets -underBinder); intro x) | (with_reducible apply wf_State_vwLate) | (with_reducible apply OutW_next) | (with_reducible apply W_ite))
theorem wf_State_startResync (s : State) (h0 : W ν s) : W ν (Sys2Proof.Machine.State.startResync s) := by
  unfold Sys2Proof.Machine.State.startResync; repeat' (first | (with_reducible assumption) | ((try lift_lets -underBinder); intro x; refine W_cut (ν := ν) x ?_ ?_ <;> first | (intro hx; clear_value x) | unfold x) | ((try lift_lets -underBinder); intro x) | (with_reducible apply wf_State_setWinFld) | (with_reducible refine toW (ν := ν) ?_) | (with_reducible apply toN) | ((with_reducible refine W_mk ?_ ?_) <;> dsimp -zeta only))
theorem wf_State_askResync (s : State) (h0 : W ν s) : W ν (Sys2Proof.Machine.State.askResync s) := by
  unfold Sys2Proof.Machine.State.askResync; repeat' (first | (with_reducible assumption) | (with_reducible apply wf_State_startResync) | (with_reducible refine toW (ν := ν) ?_) | (with_reducible apply toN) | ((with_reducible refine W_mk ?_ ?_) <;> dsimp -zeta only))
theorem wf_State_endPair (s : State) (h0 : W ν s) : W ν (Sys2Proof.Machine.State.endPair s) := by
  unfold Sys2Proof.Machine.State.endPair; repeat' (first | (with_reducible assumption) | ((try lift_lets -underBinder); intro x) | (with_reducible apply wf_State_pairFrees) | (with_reducible refine foldl_wf _ _ ?_ _ ?_; first | (intro x y hxy) | skip) | (with_reducible refine toW (ν := ν) ?_) | (with_reducible apply toN) | ((with_reducible refine W_mk ?_ ?_) <;> dsimp -zeta only))
theorem wf_State_writePairctl (s : State) (v : Word) (h0 : W ν s) : W ν (Sys2Proof.Machine.State.writePairctl s v) := by
  unfold Sys2Proof.Machine.State.writePairctl; repeat' (first | (with_reducible assumption) | ((try lift_lets -underBinder); intro x; refine W_cut (ν := ν) x ?_ ?_ <;> first | (intro hx; clear_value x) | unfold x) | ((try lift_lets -underBinder); intro x) | (with_reducible apply wf_State_setWin) | (with_reducible apply wf_State_setWinFld) | (with_reducible apply wf_State_askResync) | (with_reducible apply wf_State_endPair) | (with_reducible refine toW (ν := ν) ?_) | (with_reducible apply toN) | ((with_reducible refine W_mk ?_ ?_) <;> dsimp -zeta only) | (with_reducible apply W_ite))
theorem wf_execPairctlEnWrite (v : BitVec 64) (s : State) (h0 : W ν s) : OutW ν (Sys2Proof.Machine.execPairctlEnWrite v s) := by
  unfold Sys2Proof.Machine.execPairctlEnWrite; repeat' (first | (with_reducible assumption) | (with_reducible apply wf_State_writePairctl) | (with_reducible apply OutW_next))
theorem wf_execPairstRead (s : State) (h0 : W ν s) : OutW ν (Sys2Proof.Machine.execPairstRead s) := by
  unfold Sys2Proof.Machine.execPairstRead; repeat' (first | (with_reducible assumption) | (with_reducible apply wf_State_setWinFld) | (with_reducible apply OutW_next) | (with_reducible refine toW (ν := ν) ?_) | (with_reducible apply toN) | ((with_reducible refine W_mk ?_ ?_) <;> dsimp -zeta only))
theorem wf_execPairDigest (d : BitVec 3) (u : BitVec 32) (h : BitVec 256) (s : State) (h0 : W ν s) : OutW ν (Sys2Proof.Machine.execPairDigest d u h s) := by
  unfold Sys2Proof.Machine.execPairDigest; repeat' (first | (with_reducible assumption) | ((try lift_lets -underBinder); intro x) | (with_reducible apply wf_State_heardNow) | (with_reducible apply OutW_next) | (with_reducible refine toW (ν := ν) ?_) | (with_reducible apply toN) | ((with_reducible refine W_mk ?_ ?_) <;> dsimp -zeta only))
theorem wf_execPairLoss (s : State) (h0 : W ν s) : OutW ν (Sys2Proof.Machine.execPairLoss s) := by
  unfold Sys2Proof.Machine.execPairLoss; repeat' (first | (with_reducible assumption) | ((try lift_lets -underBinder); intro x) | (with_reducible apply wf_State_setWinFld) | (with_reducible apply OutW_next) | (with_reducible apply W_ite))
theorem wf_execResync (s : State) (h0 : W ν s) : OutW ν (Sys2Proof.Machine.execResync s) := by
  unfold Sys2Proof.Machine.execResync; repeat' (first | (with_reducible assumption) | ((try lift_lets -underBinder); intro x) | (with_reducible apply wf_State_heardNow) | (with_reducible apply wf_State_startResync) | (with_reducible apply wf_State_askResync) | (with_reducible apply OutW_next) | (with_reducible apply W_ite))
theorem wf_State_landPair (s : State) (x : PairData) (h0 : W ν s) : W ν (Sys2Proof.Machine.State.landPair s x) := by
  unfold Sys2Proof.Machine.State.landPair; repeat' (first | (with_reducible assumption) | ((try lift_lets -underBinder); intro x; refine W_cut (ν := ν) x ?_ ?_ <;> first | (intro hx; clear_value x) | unfold x) | ((try lift_lets -underBinder); intro x) | (with_reducible apply wf_State_vaWrite) | (with_reducible apply wf_State_ringChanged) | (with_reducible refine foldl_wf _ _ ?_ _ ?_; first | (intro x y hxy) | skip) | (with_reducible refine toW (ν := ν) ?_) | (with_reducible apply toN) | ((with_reducible refine W_mk ?_ ?_) <;> dsimp -zeta only) | (with_reducible apply W_ite) | split)
theorem wf_State_pairArrives (s : State) (x : PairData) (h0 : W ν s) : W ν (Sys2Proof.Machine.State.pairArrives s x) := by
  unfold Sys2Proof.Machine.State.pairArrives; repeat' (first | (with_reducible assumption) | ((try lift_lets -underBinder); intro x) | (with_reducible apply wf_State_heardNow) | (with_reducible apply wf_State_landPair) | (with_reducible apply W_ite))
theorem wf_State_pairStarts (s : State) (l : List (Nat × Word)) (h0 : W ν s) : W ν (Sys2Proof.Machine.State.pairStarts s l) := by
  unfold Sys2Proof.Machine.State.pairStarts; repeat' (first | (with_reducible assumption) | ((try lift_lets -underBinder); intro x) | (with_reducible apply wf_State_heardNow) | (with_reducible refine toW (ν := ν) ?_) | (with_reducible apply toN) | ((with_reducible refine W_mk ?_ ?_) <;> dsimp -zeta only) | (with_reducible apply W_ite))
theorem wf_execResyncCopyEnd (s : State) (h0 : W ν s) : OutW ν (Sys2Proof.Machine.execResyncCopyEnd s) := by
  unfold Sys2Proof.Machine.execResyncCopyEnd; repeat' (first | (with_reducible assumption) | ((try lift_lets -underBinder); intro x; refine W_cut (ν := ν) x ?_ ?_ <;> first | (intro hx; clear_value x) | unfold x) | ((try lift_lets -underBinder); intro x) | (with_reducible apply wf_State_setWinFld) | (with_reducible apply OutW_next) | (with_reducible apply OutW_ite) | (with_reducible refine toW (ν := ν) ?_) | (with_reducible apply toN) | ((with_reducible refine W_mk ?_ ?_) <;> dsimp -zeta only) | (with_reducible apply W_ite))
theorem wf_State_setLinkSt (s : State) (m : LinkEnd) (x : LinkSt) (h0 : W ν s) : W ν (Sys2Proof.Machine.State.setLinkSt s m x) := by
  unfold Sys2Proof.Machine.State.setLinkSt; repeat' (first | (with_reducible assumption) | (with_reducible refine toW (ν := ν) ?_) | (with_reducible apply toN) | ((with_reducible refine W_mk ?_ ?_) <;> dsimp -zeta only))
theorem wf_State_atBoth (s : State) (m : LinkEnd) (f : State → LinkEnd → State) (hf : ∀ s m, W ν s → W ν (f s m)) (h0 : W ν s) : W ν (s.atBoth m f) := by
  unfold State.atBoth; repeat' (first | (with_reducible assumption) | (with_reducible apply hf) | (with_reducible refine foldl_wf _ _ ?_ _ ?_; first | (intro x y hxy) | skip))
theorem wf_State_setLink (s : State) (m : LinkEnd) (st : Nat) (retrain fromAct : Bool) (h0 : W ν s) : W ν (Sys2Proof.Machine.State.setLink s m st retrain fromAct) := by
  unfold Sys2Proof.Machine.State.setLink; repeat' (first | (with_reducible assumption) | ((try lift_lets -underBinder); intro x) | (with_reducible apply wf_State_setWinFld) | (with_reducible apply wf_State_setLinkSt) | (with_reducible apply wf_State_atBoth))
theorem wf_State_linkEvent (s : State) (m : LinkEnd) (b : Nat) (h0 : W ν s) : W ν (Sys2Proof.Machine.State.linkEvent s m b) := by
  unfold Sys2Proof.Machine.State.linkEvent; repeat' (first | (with_reducible assumption) | ((try lift_lets -underBinder); intro x) | (with_reducible apply wf_State_setWinFld) | (with_reducible apply wf_State_atBoth))
theorem wf_State_linkGone (s : State) (m : LinkEnd) (b : Nat) (h0 : W ν s) : W ν (Sys2Proof.Machine.State.linkGone s m b) := by
  unfold Sys2Proof.Machine.State.linkGone; repeat' (first | (with_reducible assumption) | ((try lift_lets -underBinder); intro x; refine W_cut (ν := ν) x ?_ ?_ <;> first | (intro hx; clear_value x) | unfold x) | ((try lift_lets -underBinder); intro x) | (with_reducible apply wf_State_setLink) | (with_reducible apply wf_State_linkEvent) | (with_reducible refine toW (ν := ν) ?_) | (with_reducible apply toN) | ((with_reducible refine W_mk ?_ ?_) <;> dsimp -zeta only) | (with_reducible apply W_ite))
theorem wf_State_pauseLink (s : State) (m : LinkEnd) (h0 : W ν s) : W ν (Sys2Proof.Machine.State.pauseLink s m) := by
  unfold Sys2Proof.Machine.State.pauseLink; repeat' (first | (with_reducible assumption) | ((try lift_lets -underBinder); intro x) | (with_reducible apply wf_State_setLink) | (with_reducible apply wf_State_linkEvent) | (with_reducible apply W_ite))
theorem wf_execPause (m : LinkEnd) (s : State) (h0 : W ν s) : OutW ν (Sys2Proof.Machine.execPause m s) := by
  unfold Sys2Proof.Machine.execPause; repeat' (first | (with_reducible assumption) | ((try lift_lets -underBinder); intro x) | (with_reducible apply wf_State_pauseLink) | (with_reducible apply OutW_next) | (with_reducible apply W_ite))
theorem wf_State_latchEnds (s : State) (m : LinkEnd) (h0 : W ν s) : W ν (Sys2Proof.Machine.State.latchEnds s m) := by
  unfold Sys2Proof.Machine.State.latchEnds; repeat' (first | (with_reducible assumption) | ((try lift_lets -underBinder); intro x) | (with_reducible apply wf_State_setLinkSt) | (with_reducible apply wf_State_atBoth))
theorem wf_State_retrainLink (s : State) (m : LinkEnd) (h0 : W ν s) : W ν (Sys2Proof.Machine.State.retrainLink s m) := by
  unfold Sys2Proof.Machine.State.retrainLink; repeat' (first | (with_reducible assumption) | ((try lift_lets -underBinder); intro x) | (with_reducible apply wf_State_setLink) | (with_reducible apply wf_State_linkEvent) | (with_reducible apply wf_State_latchEnds) | (with_reducible apply W_ite))
theorem wf_execRetrain (m : LinkEnd) (s : State) (h0 : W ν s) : OutW ν (Sys2Proof.Machine.execRetrain m s) := by
  unfold Sys2Proof.Machine.execRetrain; repeat' (first | (with_reducible assumption) | ((try lift_lets -underBinder); intro x) | (with_reducible apply wf_State_retrainLink) | (with_reducible apply OutW_next) | (with_reducible apply W_ite))
theorem wf_State_resumeLink (s : State) (m : LinkEnd) (h0 : W ν s) : W ν (Sys2Proof.Machine.State.resumeLink s m) := by
  unfold Sys2Proof.Machine.State.resumeLink; repeat' (first | (with_reducible assumption) | ((try lift_lets -underBinder); intro x) | (with_reducible apply wf_State_setLink) | (with_reducible apply wf_State_linkEvent) | (with_reducible apply W_ite))
theorem wf_execResume (m : LinkEnd) (s : State) (h0 : W ν s) : OutW ν (Sys2Proof.Machine.execResume m s) := by
  unfold Sys2Proof.Machine.execResume; repeat' (first | (with_reducible assumption) | ((try lift_lets -underBinder); intro x) | (with_reducible apply wf_State_resumeLink) | (with_reducible apply OutW_next) | (with_reducible apply W_ite))
theorem wf_State_writeUccmd (s : State) (m : LinkEnd) (v : Word) (h0 : W ν s) : W ν (Sys2Proof.Machine.State.writeUccmd s m v) := by
  unfold Sys2Proof.Machine.State.writeUccmd; repeat' (first | (with_reducible assumption) | (with_reducible apply wf_State_pauseLink) | (with_reducible apply wf_State_retrainLink) | (with_reducible apply wf_State_resumeLink) | split)
theorem wf_execPauseDone (m : LinkEnd) (s : State) (h0 : W ν s) : OutW ν (Sys2Proof.Machine.execPauseDone m s) := by
  unfold Sys2Proof.Machine.execPauseDone; repeat' (first | (with_reducible assumption) | ((try lift_lets -underBinder); intro x) | (with_reducible apply wf_State_setLink) | (with_reducible apply OutW_next) | (with_reducible apply OutW_ite) | (with_reducible apply W_ite))
theorem wf_execPauseTimeout (m : LinkEnd) (s : State) (h0 : W ν s) : OutW ν (Sys2Proof.Machine.execPauseTimeout m s) := by
  unfold Sys2Proof.Machine.execPauseTimeout; repeat' (first | (with_reducible assumption) | (with_reducible apply wf_State_linkGone) | (with_reducible apply OutW_next) | (with_reducible apply OutW_ite))
theorem wf_execTrainingEnd (m : LinkEnd) (ok : Bool) (s : State) (h0 : W ν s) : OutW ν (Sys2Proof.Machine.execTrainingEnd m ok s) := by
  unfold Sys2Proof.Machine.execTrainingEnd; repeat' (first | (with_reducible assumption) | ((try lift_lets -underBinder); intro x; refine W_cut (ν := ν) x ?_ ?_ <;> first | (intro hx; clear_value x) | unfold x) | ((try lift_lets -underBinder); intro x) | (with_reducible apply wf_State_setWinFld) | (with_reducible apply wf_State_atBoth) | (with_reducible apply wf_State_setLink) | (with_reducible apply wf_State_linkGone) | (with_reducible apply OutW_next) | (with_reducible apply OutW_ite))
theorem wf_State_raiseAlert (s : State) (m : LinkEnd) (h0 : W ν s) : W ν (Sys2Proof.Machine.State.raiseAlert s m) := by
  unfold Sys2Proof.Machine.State.raiseAlert; repeat' (first | (with_reducible assumption) | ((try lift_lets -underBinder); intro x; refine W_cut (ν := ν) x ?_ ?_ <;> first | (intro hx; clear_value x) | unfold x) | ((try lift_lets -underBinder); intro x) | (with_reducible apply wf_State_setWinFld) | (with_reducible apply wf_State_bumpW) | (with_reducible refine toW (ν := ν) ?_) | (with_reducible apply toN) | ((with_reducible refine W_mk ?_ ?_) <;> dsimp -zeta only) | (with_reducible apply W_ite))
theorem wf_execFlitRetry (m : LinkEnd) (s : State) (h0 : W ν s) : OutW ν (Sys2Proof.Machine.execFlitRetry m s) := by
  unfold Sys2Proof.Machine.execFlitRetry; repeat' (first | (with_reducible assumption) | ((try lift_lets -underBinder); intro x; refine W_cut (ν := ν) x ?_ ?_ <;> first | (intro hx; clear_value x) | unfold x) | ((try lift_lets -underBinder); intro x) | (with_reducible apply wf_State_setWin) | (with_reducible apply wf_State_setLinkSt) | (with_reducible apply wf_State_raiseAlert) | (with_reducible apply OutW_next) | (with_reducible apply OutW_ite))
theorem wf_execRetryInterval (m : LinkEnd) (s : State) (h0 : W ν s) : OutW ν (Sys2Proof.Machine.execRetryInterval m s) := by
  unfold Sys2Proof.Machine.execRetryInterval; repeat' (first | (with_reducible assumption) | ((try lift_lets -underBinder); intro x) | (with_reducible apply wf_State_setLinkSt) | (with_reducible apply wf_State_raiseAlert) | (with_reducible apply OutW_next) | (with_reducible apply OutW_ite))
theorem wf_execLinkDown (m : LinkEnd) (s : State) (h0 : W ν s) : OutW ν (Sys2Proof.Machine.execLinkDown m s) := by
  unfold Sys2Proof.Machine.execLinkDown; repeat' (first | (with_reducible assumption) | ((try lift_lets -underBinder); intro x) | (with_reducible apply wf_State_linkGone) | (with_reducible apply OutW_next) | (with_reducible apply W_ite))
theorem wf_execUcevtClear (m : LinkEnd) (v : BitVec 64) (s : State) (h0 : W ν s) : OutW ν (Sys2Proof.Machine.execUcevtClear m v s) := by
  unfold Sys2Proof.Machine.execUcevtClear; repeat' (first | (with_reducible assumption) | ((try lift_lets -underBinder); intro x) | (with_reducible apply wf_State_setWin) | (with_reducible apply OutW_next) | (with_reducible apply W_ite))
theorem wf_execUcretryRead (m : LinkEnd) (s : State) (h0 : W ν s) : OutW ν (Sys2Proof.Machine.execUcretryRead m s) := by
  unfold Sys2Proof.Machine.execUcretryRead; repeat' (first | (with_reducible assumption) | (with_reducible apply wf_State_setWin) | (with_reducible apply OutW_next) | (with_reducible apply OutW_ite) | (with_reducible refine toW (ν := ν) ?_) | (with_reducible apply toN) | ((with_reducible refine W_mk ?_ ?_) <;> dsimp -zeta only))
theorem wf_execUclerrRead (m : LinkEnd) (j : BitVec 4) (s : State) (h0 : W ν s) : OutW ν (Sys2Proof.Machine.execUclerrRead m j s) := by
  unfold Sys2Proof.Machine.execUclerrRead; repeat' (first | (with_reducible assumption) | ((try lift_lets -underBinder); intro x) | (with_reducible apply wf_State_setWin) | (with_reducible apply OutW_next) | (with_reducible apply OutW_ite) | (with_reducible refine toW (ν := ν) ?_) | (with_reducible apply toN) | ((with_reducible refine W_mk ?_ ?_) <;> dsimp -zeta only))
theorem wf_State_countLane (s : State) (m : LinkEnd) (lane : Nat) (h0 : W ν s) : W ν (Sys2Proof.Machine.State.countLane s m lane) := by
  unfold Sys2Proof.Machine.State.countLane; repeat' (first | (with_reducible assumption) | ((try lift_lets -underBinder); intro x) | (with_reducible apply wf_State_setWin) | (with_reducible apply W_ite))
theorem wf_State_lostRoutes (s : State) (h0 : W ν s) : W ν (Sys2Proof.Machine.State.lostRoutes s) := by
  unfold Sys2Proof.Machine.State.lostRoutes; repeat' (first | (with_reducible assumption) | ((try lift_lets -underBinder); intro x; refine W_cut (ν := ν) x ?_ ?_ <;> first | (intro hx; clear_value x) | unfold x) | (with_reducible apply wf_State_pullFails) | (with_reducible refine foldl_wf _ _ ?_ _ ?_; first | (intro x y hxy) | skip) | (with_reducible refine toW (ν := ν) ?_) | (with_reducible apply toN) | ((with_reducible refine W_mk ?_ ?_) <;> dsimp -zeta only))
theorem wf_State_enDown (s : State) (p : Nat) (h0 : W ν s) : W ν (Sys2Proof.Machine.State.enDown s p) := by
  unfold Sys2Proof.Machine.State.enDown; repeat' (first | (with_reducible assumption) | (with_reducible apply wf_State_setWinFld) | (with_reducible apply wf_State_lostRoutes))
theorem wf_execEnrynLaneLoss (p : BitVec 2) (lanes : BitVec 4) (s : State) (h0 : W ν s) : OutW ν (Sys2Proof.Machine.execEnrynLaneLoss p lanes s) := by
  unfold Sys2Proof.Machine.execEnrynLaneLoss; repeat' (first | (with_reducible assumption) | ((try lift_lets -underBinder); intro x) | (with_reducible apply wf_State_setWinFld) | (with_reducible apply wf_State_enDown) | (with_reducible apply OutW_next) | (with_reducible apply OutW_ite) | split)
theorem wf_execEnrynPortUp (p : BitVec 2) (lanes : BitVec 4) (peer : BitVec 8) (s : State) (h0 : W ν s) : OutW ν (Sys2Proof.Machine.execEnrynPortUp p lanes peer s) := by
  unfold Sys2Proof.Machine.execEnrynPortUp; repeat' (first | (with_reducible assumption) | ((try lift_lets -underBinder); intro x) | (with_reducible apply wf_State_setWin) | (with_reducible apply wf_State_enDown) | (with_reducible apply OutW_next) | (with_reducible apply OutW_ite) | split)
theorem wf_State_writeEnpctl (s : State) (p : Nat) (v : Word) (h0 : W ν s) : W ν (Sys2Proof.Machine.State.writeEnpctl s p v) := by
  unfold Sys2Proof.Machine.State.writeEnpctl; repeat' (first | (with_reducible assumption) | ((try lift_lets -underBinder); intro x; refine W_cut (ν := ν) x ?_ ?_ <;> first | (intro hx; clear_value x) | unfold x) | ((try lift_lets -underBinder); intro x) | (with_reducible apply wf_State_setWin) | (with_reducible apply wf_State_setWinFld) | (with_reducible apply wf_State_enDown) | (with_reducible apply W_ite))
theorem wf_State_writeEnrt (s : State) (dev : Nat) (v : Word) (h0 : W ν s) : W ν (Sys2Proof.Machine.State.writeEnrt s dev v) := by
  unfold Sys2Proof.Machine.State.writeEnrt; repeat' (first | (with_reducible assumption) | (with_reducible apply wf_State_setWin) | (with_reducible apply wf_State_lostRoutes))
theorem wf_execEnrynPortEnable (p : BitVec 2) (v : BitVec 64) (s : State) (h0 : W ν s) : OutW ν (Sys2Proof.Machine.execEnrynPortEnable p v s) := by
  unfold Sys2Proof.Machine.execEnrynPortEnable; repeat' (first | (with_reducible assumption) | (with_reducible apply wf_State_writeEnpctl) | (with_reducible apply OutW_next))
theorem wf_execEnrynFlitRetry (p : BitVec 2) (fec : Bool) (s : State) (h0 : W ν s) : OutW ν (Sys2Proof.Machine.execEnrynFlitRetry p fec s) := by
  unfold Sys2Proof.Machine.execEnrynFlitRetry; repeat' (first | (with_reducible assumption) | ((try lift_lets -underBinder); intro x) | (with_reducible apply wf_State_setWin) | (with_reducible apply OutW_next))
theorem wf_execEnpcntRead (p : BitVec 2) (s : State) (h0 : W ν s) : OutW ν (Sys2Proof.Machine.execEnpcntRead p s) := by
  unfold Sys2Proof.Machine.execEnpcntRead; repeat' (first | (with_reducible assumption) | ((try lift_lets -underBinder); intro x) | (with_reducible apply wf_State_setWin) | (with_reducible apply OutW_next) | (with_reducible refine toW (ν := ν) ?_) | (with_reducible apply toN) | ((with_reducible refine W_mk ?_ ?_) <;> dsimp -zeta only))
theorem wf_State_writePwrenv (s : State) (v : Word) (h0 : W ν s) : W ν (Sys2Proof.Machine.State.writePwrenv s v) := by
  unfold Sys2Proof.Machine.State.writePwrenv; repeat' (first | (with_reducible assumption) | ((try lift_lets -underBinder); intro x) | (with_reducible apply wf_State_setWin) | (with_reducible refine toW (ν := ν) ?_) | (with_reducible apply toN) | ((with_reducible refine W_mk ?_ ?_) <;> dsimp -zeta only) | (with_reducible apply W_ite))
theorem wf_execPwrenvWrite (v : BitVec 64) (s : State) (h0 : W ν s) : OutW ν (Sys2Proof.Machine.execPwrenvWrite v s) := by
  unfold Sys2Proof.Machine.execPwrenvWrite; repeat' (first | (with_reducible assumption) | (with_reducible apply wf_State_writePwrenv) | (with_reducible apply OutW_next))
theorem wf_execEnvelopeChange (s : State) (h0 : W ν s) : OutW ν (Sys2Proof.Machine.execEnvelopeChange s) := by
  unfold Sys2Proof.Machine.execEnvelopeChange; repeat' (first | (with_reducible assumption) | ((try lift_lets -underBinder); intro x) | (with_reducible apply wf_State_setEnvelope) | (with_reducible apply OutW_next) | (with_reducible apply W_ite) | split)
theorem wf_execThermalThrottle (s : State) (h0 : W ν s) : OutW ν (Sys2Proof.Machine.execThermalThrottle s) := by
  unfold Sys2Proof.Machine.execThermalThrottle; repeat' (first | (with_reducible assumption) | ((try lift_lets -underBinder); intro x) | (with_reducible apply wf_State_setWin) | (with_reducible apply OutW_next))
theorem wf_State_bootFld (s : State) (lo n v : Nat) (h0 : W ν s) : W ν (Sys2Proof.Machine.State.bootFld s lo n v) := by
  unfold Sys2Proof.Machine.State.bootFld; repeat' (first | (with_reducible assumption) | (with_reducible apply wf_State_setWinFld))
theorem wf_State_runImage (s : State) (img : List Byte) (src : Nat) (h0 : W ν s) : W ν (Sys2Proof.Machine.State.runImage s img src) := by
  unfold Sys2Proof.Machine.State.runImage; repeat' (first | (with_reducible assumption) | ((try lift_lets -underBinder); intro x; refine W_cut (ν := ν) x ?_ ?_ <;> first | (intro hx; clear_value x) | unfold x) | ((try lift_lets -underBinder); intro x) | (with_reducible apply wf_State_setWin) | (with_reducible apply wf_State_kernelReset) | (with_reducible apply wf_State_bootFld) | (with_reducible refine foldl_wf _ _ ?_ _ ?_; first | (intro x y hxy) | skip) | (with_reducible apply M_put) | (with_reducible refine toW (ν := ν) ?_) | (with_reducible apply toN) | ((with_reducible refine W_mk ?_ ?_) <;> dsimp -zeta only))
theorem wf_State_tryImage (s : State) (img : List Byte) (src err : Nat) (h0 : W ν s) : W ν (Sys2Proof.Machine.State.tryImage s img src err) := by
  unfold Sys2Proof.Machine.State.tryImage; repeat' (first | (with_reducible assumption) | ((try lift_lets -underBinder); intro x) | (with_reducible apply wf_State_bootFld) | (with_reducible apply wf_State_runImage) | (with_reducible apply W_ite))
theorem wf_execPowerOnReset (s : State) (h0 : W ν s) : OutW ν (execPowerOnReset s) := by
  unfold execPowerOnReset
  (try lift_lets -underBinder)
  intro x r
  have hr : W ν r := por_reset s h0
  clear_value r
  repeat' (first | (with_reducible assumption) | ((try lift_lets -underBinder); intro x) | (with_reducible apply wf_State_bootFld) | (with_reducible apply wf_State_runImage) | (with_reducible apply OutW_next) | (with_reducible apply OutW_ite) | split)
theorem wf_execRcvgo (len : BitVec 24) (s : State) (h0 : W ν s) : OutW ν (Sys2Proof.Machine.execRcvgo len s) := by
  unfold Sys2Proof.Machine.execRcvgo; repeat' (first | (with_reducible assumption) | ((try lift_lets -underBinder); intro x) | (with_reducible apply wf_State_tryImage) | (with_reducible apply OutW_next) | (with_reducible apply W_ite))
theorem wf_execPartnerImage (img : List (BitVec 8)) (s : State) (h0 : W ν s) : OutW ν (Sys2Proof.Machine.execPartnerImage img s) := by
  unfold Sys2Proof.Machine.execPartnerImage; repeat' (first | (with_reducible assumption) | ((try lift_lets -underBinder); intro x) | (with_reducible apply wf_State_tryImage) | (with_reducible apply OutW_next) | (with_reducible apply W_ite))
theorem wf_execRecoveryImageRequest (p : BitVec 2) (s : State) (h0 : W ν s) : OutW ν (Sys2Proof.Machine.execRecoveryImageRequest p s) := by
  unfold Sys2Proof.Machine.execRecoveryImageRequest; repeat' (first | (with_reducible assumption) | ((try lift_lets -underBinder); intro x) | (with_reducible apply OutW_next) | (with_reducible refine toW (ν := ν) ?_) | (with_reducible apply toN) | ((with_reducible refine W_mk ?_ ?_) <;> dsimp -zeta only) | (with_reducible apply W_ite))
theorem wf_State_fresh (s : State) (h0 : W ν s) : GP ν (Sys2Proof.Machine.State.fresh s) := by
  unfold Sys2Proof.Machine.State.fresh; repeat' (first | (with_reducible assumption) | (with_reducible refine toW (ν := ν) ?_) | (with_reducible apply toN) | ((with_reducible refine W_mk ?_ ?_) <;> dsimp -zeta only) | (with_reducible apply GP_m))
theorem wf_State_fresh_2 (s : State) (h0 : W ν s) : W ν (Sys2Proof.Machine.State.fresh s).2 := wf_State_fresh s h0
theorem wf_State_readReg (s : State) (pa n : Nat) (free : Unit → Word × State) (hf : GP ν (free ())) (h0 : W ν s) : GP ν (s.readReg pa n free) := by
  unfold State.readReg; repeat' (first | (with_reducible assumption) | ((try lift_lets -underBinder); intro x; refine W_cut (ν := ν) x ?_ ?_ <;> first | (intro hx; clear_value x) | unfold x) | ((try lift_lets -underBinder); intro x) | (with_reducible apply wf_State_setWin) | (with_reducible apply W_ite) | (with_reducible apply GP_m) | (with_reducible exact GP_s ‹GP ν _›) | split)
theorem wf_State_readReg_2 (s : State) (pa n : Nat) (free : Unit → Word × State) (hf : GP ν (free ())) (h0 : W ν s) : W ν (s.readReg pa n free).2 := wf_State_readReg s pa n free hf h0
theorem wf_State_devRead (s : State) (pa n : Nat) (h0 : W ν s) : GP ν (Sys2Proof.Machine.State.devRead s pa n) := by
  unfold Sys2Proof.Machine.State.devRead; repeat' (first | (with_reducible assumption) | ((try lift_lets -underBinder); intro x; have _q : _ → Word × State := x; try unfold x; clear x) | ((try lift_lets -underBinder); intro x) | (with_reducible apply wf_State_fresh_2) | (with_reducible apply wf_State_readReg_2) | (with_reducible refine toW (ν := ν) ?_) | (with_reducible apply toN) | ((with_reducible refine W_mk ?_ ?_) <;> dsimp -zeta only) | (with_reducible apply GP_m) | split)
theorem wf_State_devRead_2 (s : State) (pa n : Nat) (h0 : W ν s) : W ν (Sys2Proof.Machine.State.devRead s pa n).2 := wf_State_devRead s pa n h0
theorem wf_State_regAct (s : State) (a : RegAct) (pa : Nat) (v : Word) (mask : Nat) (fromM : Bool) (h0 : W ν s) : GO ν (Sys2Proof.Machine.State.regAct s a pa v mask fromM) := by
  unfold Sys2Proof.Machine.State.regAct; repeat' (first | (with_reducible assumption) | ((try lift_lets -underBinder); intro x) | (with_reducible apply wf_State_setWin) | (with_reducible apply wf_State_kernelReset) | (with_reducible apply wf_State_xinv) | (with_reducible apply wf_State_writeSlotmap) | (with_reducible apply wf_State_writePcfg) | (with_reducible apply wf_State_writePreq) | (with_reducible apply wf_State_writeKresume) | (with_reducible apply wf_State_ginv) | (with_reducible apply wf_State_writeLqcfg) | (with_reducible apply wf_State_writeSlota) | (with_reducible apply wf_State_writeSlotb) | (with_reducible apply wf_State_writeCdctl) | (with_reducible apply wf_State_writeSfid) | (with_reducible apply wf_State_writeEgcfg) | (with_reducible apply wf_State_writeEgfield) | (with_reducible apply wf_State_vwOpen) | (with_reducible apply wf_State_writePairctl) | (with_reducible apply wf_State_writeUccmd) | (with_reducible apply wf_State_writeEnpctl) | (with_reducible apply wf_State_writeEnrt) | (with_reducible apply wf_State_writePwrenv) | (with_reducible apply wf_State_tryImage) | (with_reducible apply W_ite) | (with_reducible apply GO_s) | split)
theorem wf_State_devWrite (s : State) (pa n : Nat) (v : Word) (fromM : Bool) (h0 : W ν s) : GO ν (Sys2Proof.Machine.State.devWrite s pa n v fromM) := by
  unfold Sys2Proof.Machine.State.devWrite; repeat' (first | (with_reducible assumption) | ((try lift_lets -underBinder); intro x) | (with_reducible apply wf_State_setWin) | (with_reducible apply wf_State_regAct) | (with_reducible apply GO_s) | split)
theorem wf_execRegisterWrite (pa : BitVec 52) (wide : Bool) (v : BitVec 64) (s : State) (h0 : W ν s) : OutW ν (Sys2Proof.Machine.execRegisterWrite pa wide v s) := by
  unfold Sys2Proof.Machine.execRegisterWrite; repeat' (first | (with_reducible assumption) | ((try lift_lets -underBinder); intro x) | (with_reducible apply wf_State_devWrite) | (with_reducible apply OutW_next) | (with_reducible apply W_ite) | (with_reducible refine GO_d ?_ ?_))
theorem wf_State_check (s : State) (cid : Nat) (va : Word) (n al : Nat) (need : Need) (ak : Byte) (h0 : W ν s) : GC ν (Sys2Proof.Machine.State.check s cid va n al need ak) := by
  unfold Sys2Proof.Machine.State.check; repeat' (first | (with_reducible assumption) | ((try lift_lets -underBinder); intro x) | (with_reducible apply wf_State_keepGate) | (with_reducible apply wf_State_suspend) | (with_reducible apply wf_State_trapAs) | (with_reducible apply wf_State_park) | (with_reducible apply wf_State_parkWalk) | (with_reducible apply GC_o) | (with_reducible apply GC_s) | split)
theorem wf_State_readPlace (s : State) (cid : Nat) (r : RegionEnt) (p : Place) (va : Word) (n : Nat) (h0 : W ν s) : GLd ν (Sys2Proof.Machine.State.readPlace s cid r p va n) := by
  unfold Sys2Proof.Machine.State.readPlace; repeat' (first | (with_reducible assumption) | (with_reducible apply wf_State_touchCtx) | (with_reducible apply wf_State_poisoned) | (with_reducible apply wf_State_devRead_2) | (with_reducible apply GLd_o) | (with_reducible apply GLd_s) | split)
theorem wf_State_soilLine (s : State) (k line : Nat) (h0 : W ν s) : W ν (Sys2Proof.Machine.State.soilLine s k line) := by
  unfold Sys2Proof.Machine.State.soilLine; repeat' (first | (with_reducible assumption) | ((try lift_lets -underBinder); intro x) | (with_reducible apply wf_State_setMaps))
theorem wf_State_writePlace (s : State) (cid : Nat) (p : Place) (n : Nat) (v : Nat) (h0 : W ν s) : GO ν (Sys2Proof.Machine.State.writePlace s cid p n v) := by
  unfold Sys2Proof.Machine.State.writePlace; repeat' (first | (with_reducible assumption) | ((try lift_lets -underBinder); intro x) | (with_reducible apply wf_State_setCore) | (with_reducible apply wf_State_dropRO) | (with_reducible apply wf_State_loseResv) | (with_reducible apply wf_State_physWrite) | (with_reducible apply wf_State_touchCtx) | (with_reducible apply wf_State_devWrite) | (with_reducible apply wf_State_soilLine) | (with_reducible apply GO_s) | split)
theorem wf_State_loadAt (s : State) (d : Reg) (ea : Word) (n : Nat) (signed : Bool) (h0 : W ν s) : OutW ν (Sys2Proof.Machine.State.loadAt s d ea n signed) := by
  unfold Sys2Proof.Machine.State.loadAt; repeat' (first | (with_reducible assumption) | (with_reducible apply wf_State_setS) | (with_reducible apply wf_State_advance) | (with_reducible apply wf_State_check) | (with_reducible apply wf_State_readPlace) | (with_reducible apply OutW_next) | (with_reducible refine GC_u ?_ (by with_reducible assumption)) | (with_reducible refine GC_v ?_ (by with_reducible assumption)) | (with_reducible refine GLd_u ?_ (by with_reducible assumption)) | (with_reducible refine GLd_v ?_ (by with_reducible assumption)) | split)
theorem wf_State_storeAt (s : State) (ea : Word) (n : Nat) (v : Word) (h0 : W ν s) : OutW ν (Sys2Proof.Machine.State.storeAt s ea n v) := by
  unfold Sys2Proof.Machine.State.storeAt; repeat' (first | (with_reducible assumption) | (with_reducible apply wf_State_advance) | (with_reducible apply wf_State_park) | (with_reducible apply wf_State_check) | (with_reducible apply wf_State_writePlace) | (with_reducible apply OutW_next) | (with_reducible refine GO_u ?_ (by with_reducible assumption)) | (with_reducible refine GC_u ?_ (by with_reducible assumption)) | (with_reducible refine GC_v ?_ (by with_reducible assumption)) | split)
theorem wf_execLb (t a : Reg) (o : BitVec 13) (s : State) (h0 : W ν s) : OutW ν (Sys2Proof.Machine.execLb t a o s) := by
  unfold Sys2Proof.Machine.execLb; repeat' (first | (with_reducible assumption) | (with_reducible apply wf_State_loadAt))
theorem wf_execLh (t a : Reg) (o : BitVec 13) (s : State) (h0 : W ν s) : OutW ν (Sys2Proof.Machine.execLh t a o s) := by
  unfold Sys2Proof.Machine.execLh; repeat' (first | (with_reducible assumption) | (with_reducible apply wf_State_loadAt))
theorem wf_execLw (t a : Reg) (o : BitVec 13) (s : State) (h0 : W ν s) : OutW ν (Sys2Proof.Machine.execLw t a o s) := by
  unfold Sys2Proof.Machine.execLw; repeat' (first | (with_reducible assumption) | (with_reducible apply wf_State_loadAt))
theorem wf_execLd (t a : Reg) (o : BitVec 13) (s : State) (h0 : W ν s) : OutW ν (Sys2Proof.Machine.execLd t a o s) := by
  unfold Sys2Proof.Machine.execLd; repeat' (first | (with_reducible assumption) | (with_reducible apply wf_State_loadAt))
theorem wf_execLbu (t a : Reg) (o : BitVec 13) (s : State) (h0 : W ν s) : OutW ν (Sys2Proof.Machine.execLbu t a o s) := by
  unfold Sys2Proof.Machine.execLbu; repeat' (first | (with_reducible assumption) | (with_reducible apply wf_State_loadAt))
theorem wf_execLhu (t a : Reg) (o : BitVec 13) (s : State) (h0 : W ν s) : OutW ν (Sys2Proof.Machine.execLhu t a o s) := by
  unfold Sys2Proof.Machine.execLhu; repeat' (first | (with_reducible assumption) | (with_reducible apply wf_State_loadAt))
theorem wf_execLwu (t a : Reg) (o : BitVec 13) (s : State) (h0 : W ν s) : OutW ν (Sys2Proof.Machine.execLwu t a o s) := by
  unfold Sys2Proof.Machine.execLwu; repeat' (first | (with_reducible assumption) | (with_reducible apply wf_State_loadAt))
theorem wf_execLbAcq (t a : Reg) (_c : BitVec 3) (s : State) (h0 : W ν s) : OutW ν (Sys2Proof.Machine.execLbAcq t a _c s) := by
  unfold Sys2Proof.Machine.execLbAcq; repeat' (first | (with_reducible assumption) | (with_reducible apply wf_State_loadAt))
theorem wf_execLhAcq (t a : Reg) (_c : BitVec 3) (s : State) (h0 : W ν s) : OutW ν (Sys2Proof.Machine.execLhAcq t a _c s) := by
  unfold Sys2Proof.Machine.execLhAcq; repeat' (first | (with_reducible assumption) | (with_reducible apply wf_State_loadAt))
theorem wf_execLwAcq (t a : Reg) (_c : BitVec 3) (s : State) (h0 : W ν s) : OutW ν (Sys2Proof.Machine.execLwAcq t a _c s) := by
  unfold Sys2Proof.Machine.execLwAcq; repeat' (first | (with_reducible assumption) | (with_reducible apply wf_State_loadAt))
theorem wf_execLdAcq (t a : Reg) (_c : BitVec 3) (s : State) (h0 : W ν s) : OutW ν (Sys2Proof.Machine.execLdAcq t a _c s) := by
  unfold Sys2Proof.Machine.execLdAcq; repeat' (first | (with_reducible assumption) | (with_reducible apply wf_State_loadAt))
theorem wf_execSb (t a : Reg) (o : BitVec 13) (s : State) (h0 : W ν s) : OutW ν (Sys2Proof.Machine.execSb t a o s) := by
  unfold Sys2Proof.Machine.execSb; repeat' (first | (with_reducible assumption) | (with_reducible apply wf_State_storeAt))
theorem wf_execSh (t a : Reg) (o : BitVec 13) (s : State) (h0 : W ν s) : OutW ν (Sys2Proof.Machine.execSh t a o s) := by
  unfold Sys2Proof.Machine.execSh; repeat' (first | (with_reducible assumption) | (with_reducible apply wf_State_storeAt))
theorem wf_execSw (t a : Reg) (o : BitVec 13) (s : State) (h0 : W ν s) : OutW ν (Sys2Proof.Machine.execSw t a o s) := by
  unfold Sys2Proof.Machine.execSw; repeat' (first | (with_reducible assumption) | (with_reducible apply wf_State_storeAt))
theorem wf_execSd (t a : Reg) (o : BitVec 13) (s : State) (h0 : W ν s) : OutW ν (Sys2Proof.Machine.execSd t a o s) := by
  unfold Sys2Proof.Machine.execSd; repeat' (first | (with_reducible assumption) | (with_reducible apply wf_State_storeAt))
theorem wf_execSbRel (t a : Reg) (_c : BitVec 3) (s : State) (h0 : W ν s) : OutW ν (Sys2Proof.Machine.execSbRel t a _c s) := by
  unfold Sys2Proof.Machine.execSbRel; repeat' (first | (with_reducible assumption) | (with_reducible apply wf_State_storeAt))
theorem wf_execShRel (t a : Reg) (_c : BitVec 3) (s : State) (h0 : W ν s) : OutW ν (Sys2Proof.Machine.execShRel t a _c s) := by
  unfold Sys2Proof.Machine.execShRel; repeat' (first | (with_reducible assumption) | (with_reducible apply wf_State_storeAt))
theorem wf_execSwRel (t a : Reg) (_c : BitVec 3) (s : State) (h0 : W ν s) : OutW ν (Sys2Proof.Machine.execSwRel t a _c s) := by
  unfold Sys2Proof.Machine.execSwRel; repeat' (first | (with_reducible assumption) | (with_reducible apply wf_State_storeAt))
theorem wf_execSdRel (t a : Reg) (_c : BitVec 3) (s : State) (h0 : W ν s) : OutW ν (Sys2Proof.Machine.execSdRel t a _c s) := by
  unfold Sys2Proof.Machine.execSdRel; repeat' (first | (with_reducible assumption) | (with_reducible apply wf_State_storeAt))
theorem wf_State_fillLine (s : State) (k : Nat) (m : Mapping) (line : Nat) (h0 : W ν s) : W ν (Sys2Proof.Machine.State.fillLine s k m line) := by
  unfold Sys2Proof.Machine.State.fillLine; repeat' (first | (with_reducible assumption) | ((try lift_lets -underBinder); intro x; refine W_cut (ν := ν) x ?_ ?_ <;> first | (intro hx; clear_value x) | unfold x) | ((try lift_lets -underBinder); intro x) | (with_reducible apply wf_State_setCore) | (with_reducible apply wf_State_touchFill))
theorem wf_State_prefetch (s : State) (cid pa : Nat) (hint : Nat) (h0 : W ν s) : W ν (Sys2Proof.Machine.State.prefetch s cid pa hint) := by
  unfold Sys2Proof.Machine.State.prefetch; repeat' (first | (with_reducible assumption) | ((try lift_lets -underBinder); intro x) | (with_reducible apply wf_State_l2Touch) | (with_reducible apply wf_State_invalidate) | (with_reducible apply wf_State_l1Touch) | (with_reducible apply wf_State_dirPut) | (with_reducible apply wf_State_touchCtx) | (with_reducible apply W_ite))
theorem wf_execPref (h a : Reg) (s : State) (h0 : W ν s) : OutW ν (Sys2Proof.Machine.execPref h a s) := by
  unfold Sys2Proof.Machine.execPref; repeat' (first | (with_reducible assumption) | ((try lift_lets -underBinder); intro x) | (with_reducible apply wf_State_advance) | (with_reducible apply wf_State_fillLine) | (with_reducible apply wf_State_prefetch) | (with_reducible apply OutW_next) | (with_reducible apply OutW_ite) | split | (dsimp -zeta +zetaDelta only))
theorem wf_State_takeZeros (s : State) (k : Nat) (m : Mapping) (h0 : W ν s) : W ν (Sys2Proof.Machine.State.takeZeros s k m) := by
  unfold Sys2Proof.Machine.State.takeZeros; repeat' (first | (with_reducible assumption) | (with_reducible apply wf_State_dropRO) | (with_reducible apply wf_State_loseResv) | (with_reducible apply wf_State_touchFill) | (with_reducible refine foldl_wf _ _ ?_ _ ?_; first | (intro x y hxy) | skip))
theorem wf_State_addMapping (s : State) (cid : Nat) (desc : Word) (va : Nat) (frames : List Nat) (writable : Bool) (h0 : W ν s) : W ν (Sys2Proof.Machine.State.addMapping s cid desc va frames writable) := by
  unfold Sys2Proof.Machine.State.addMapping; repeat' (first | (with_reducible assumption) | ((try lift_lets -underBinder); intro x) | (with_reducible apply wf_State_setCore) | (with_reducible apply wf_State_takeZeros))
theorem wf_execMap (d a b : Reg) (s : State) (h0 : W ν s) : OutW ν (Sys2Proof.Machine.execMap d a b s) := by
  unfold Sys2Proof.Machine.execMap; repeat' (first | (with_reducible assumption) | ((try lift_lets -underBinder); intro x) | (with_reducible apply wf_State_done) | (with_reducible apply wf_State_illegal) | (with_reducible apply wf_State_parkWalk) | (with_reducible apply wf_State_addMapping) | (with_reducible apply OutW_next) | (with_reducible apply OutW_ite) | split)
theorem wf_execUnmap (d a : Reg) (s : State) (h0 : W ν s) : OutW ν (Sys2Proof.Machine.execUnmap d a s) := by
  unfold Sys2Proof.Machine.execUnmap; repeat' (first | (with_reducible assumption) | (with_reducible apply wf_State_done) | (with_reducible apply wf_State_endMapping) | (with_reducible apply wf_State_illegal) | (with_reducible apply OutW_ite) | split)
theorem wf_State_flushMap (s : State) (k : Nat) (m : Mapping) (w : Bool) (h0 : W ν s) : W ν (Sys2Proof.Machine.State.flushMap s k m w) := by
  unfold Sys2Proof.Machine.State.flushMap; repeat' (first | (with_reducible assumption) | ((try lift_lets -underBinder); intro x; refine W_cut (ν := ν) x ?_ ?_ <;> first | (intro hx; clear_value x) | unfold x) | (with_reducible apply wf_State_writeBack) | (with_reducible apply wf_State_setMaps))
theorem wf_execSflush (a : Reg) (c : BitVec 3) (s : State) (h0 : W ν s) : OutW ν (Sys2Proof.Machine.execSflush a c s) := by
  unfold Sys2Proof.Machine.execSflush; repeat' (first | (with_reducible assumption) | (with_reducible apply wf_State_advance) | (with_reducible apply wf_State_illegal) | (with_reducible apply wf_State_flushMap) | (with_reducible apply OutW_next) | (with_reducible apply OutW_ite) | split)
theorem wf_State_fillFor (s : State) (c : Nat) (m : Mapping) (line : Nat) (h0 : W ν s) : W ν (Sys2Proof.Machine.State.fillFor s c m line) := by
  unfold Sys2Proof.Machine.State.fillFor; repeat' (first | (with_reducible assumption) | ((try lift_lets -underBinder); intro x) | (with_reducible apply wf_State_poisoned) | (with_reducible apply wf_State_fillLine) | (with_reducible apply W_ite) | split)
theorem wf_execStashFill (cid : BitVec 12) (s : State) (h0 : W ν s) : OutW ν (Sys2Proof.Machine.execStashFill cid s) := by
  unfold Sys2Proof.Machine.execStashFill; repeat' (first | (with_reducible assumption) | ((try lift_lets -underBinder); intro x; have _q : _ → State := x; try unfold x; clear x) | ((try lift_lets -underBinder); intro x) | (with_reducible apply wf_State_setSched) | (with_reducible apply wf_State_fillFor) | (with_reducible apply OutW_next) | (with_reducible apply OutW_ite) | split)
theorem wf_execCapq (d a : Reg) (s : State) (h0 : W ν s) : OutW ν (Sys2Proof.Machine.execCapq d a s) := by
  unfold Sys2Proof.Machine.execCapq; repeat' (first | (with_reducible assumption) | (with_reducible apply wf_State_done))
theorem wf_State_keepSample (t s : State) (h0 : W ν t) (h1 : W ν s) : W ν (Sys2Proof.Machine.State.keepSample t s) := by
  unfold Sys2Proof.Machine.State.keepSample; repeat' (first | (with_reducible assumption) | ((try lift_lets -underBinder); intro x) | (with_reducible apply wf_State_setSched) | split)
theorem wf_State_ldv (s : State) (mode : BitVec 2) (d a b : Reg) (p : BitVec 3) (z : BitVec 2) (h0 : W ν s) : OutW ν (Sys2Proof.Machine.State.ldv s mode d a b p z) := by
  unfold Sys2Proof.Machine.State.ldv; repeat' (first | (with_reducible assumption) | ((try lift_lets -underBinder); intro x) | (with_reducible apply wf_State_setWait) | (with_reducible apply wf_State_ldvTry) | (with_reducible apply wf_State_check) | (with_reducible apply wf_State_readPlace) | (with_reducible apply wf_State_keepSample) | (with_reducible apply OutW_next) | (with_reducible refine GC_u ?_ (by with_reducible assumption)) | (with_reducible refine GC_v ?_ (by with_reducible assumption)) | (with_reducible refine GLd_u ?_ (by with_reducible assumption)) | (with_reducible refine GLd_v ?_ (by with_reducible assumption)) | split)
theorem wf_execLdvExact (d a b : Reg) (p : BitVec 3) (z : BitVec 2) (s : State) (h0 : W ν s) : OutW ν (Sys2Proof.Machine.execLdvExact d a b p z s) := by
  unfold Sys2Proof.Machine.execLdvExact; repeat' (first | (with_reducible assumption) | (with_reducible apply wf_State_ldv))
theorem wf_execLdvLe (d a b : Reg) (p : BitVec 3) (z : BitVec 2) (s : State) (h0 : W ν s) : OutW ν (Sys2Proof.Machine.execLdvLe d a b p z s) := by
  unfold Sys2Proof.Machine.execLdvLe; repeat' (first | (with_reducible assumption) | (with_reducible apply wf_State_ldv))
theorem wf_execLdvAge (d a b : Reg) (p : BitVec 3) (z : BitVec 2) (s : State) (h0 : W ν s) : OutW ν (Sys2Proof.Machine.execLdvAge d a b p z s) := by
  unfold Sys2Proof.Machine.execLdvAge; repeat' (first | (with_reducible assumption) | (with_reducible apply wf_State_ldv))
theorem wf_execLdvDeadline (cid : BitVec 12) (s : State) (h0 : W ν s) : OutW ν (Sys2Proof.Machine.execLdvDeadline cid s) := by
  unfold Sys2Proof.Machine.execLdvDeadline; repeat' (first | (with_reducible assumption) | ((try lift_lets -underBinder); intro x) | (with_reducible apply wf_State_ldvLate) | (with_reducible apply OutW_next) | (with_reducible apply OutW_ite) | split)
theorem wf_State_slotPut (s : State) (key depth i off n v : Nat) (h0 : W ν s) : W ν (Sys2Proof.Machine.State.slotPut s key depth i off n v) := by
  unfold Sys2Proof.Machine.State.slotPut; repeat' (first | (with_reducible assumption) | ((try lift_lets -underBinder); intro x) | (with_reducible apply wf_State_setRing))
theorem wf_execStv (t a b : Reg) (z : BitVec 2) (s : State) (h0 : W ν s) : OutW ν (Sys2Proof.Machine.execStv t a b z s) := by
  unfold Sys2Proof.Machine.execStv; repeat' (first | (with_reducible assumption) | ((try lift_lets -underBinder); intro x; refine W_cut (ν := ν) x ?_ ?_ <;> first | (intro hx; clear_value x) | unfold x) | ((try lift_lets -underBinder); intro x) | (with_reducible apply wf_State_advance) | (with_reducible apply wf_State_trap) | (with_reducible apply wf_State_openV) | (with_reducible apply wf_State_check) | (with_reducible apply wf_State_slotPut) | (with_reducible apply OutW_next) | (with_reducible apply OutW_ite) | (with_reducible refine GC_u ?_ (by with_reducible assumption)) | (with_reducible refine GC_v ?_ (by with_reducible assumption)) | split)
theorem wf_execSealv (a b : Reg) (s : State) (h0 : W ν s) : OutW ν (Sys2Proof.Machine.execSealv a b s) := by
  unfold Sys2Proof.Machine.execSealv; repeat' (first | (with_reducible assumption) | ((try lift_lets -underBinder); intro x) | (with_reducible apply wf_State_advance) | (with_reducible apply wf_State_trap) | (with_reducible apply wf_State_sealV) | (with_reducible apply wf_State_check) | (with_reducible apply OutW_next) | (with_reducible refine GC_u ?_ (by with_reducible assumption)) | (with_reducible refine GC_v ?_ (by with_reducible assumption)) | split)
theorem wf_execReclv (a b : Reg) (s : State) (h0 : W ν s) : OutW ν (Sys2Proof.Machine.execReclv a b s) := by
  unfold Sys2Proof.Machine.execReclv; repeat' (first | (with_reducible assumption) | (with_reducible apply wf_State_advance) | (with_reducible apply wf_State_reclaimV) | (with_reducible apply wf_State_check) | (with_reducible apply OutW_next) | (with_reducible refine GC_u ?_ (by with_reducible assumption)) | (with_reducible refine GC_v ?_ (by with_reducible assumption)) | split)
theorem wf_State_amoApply (s : State) (cid : Nat) (q : AmoReq) (h0 : W ν s) : W ν (Sys2Proof.Machine.State.amoApply s cid q) := by
  unfold Sys2Proof.Machine.State.amoApply; repeat' (first | (with_reducible assumption) | ((try lift_lets -underBinder); intro x; refine W_cut (ν := ν) x ?_ ?_ <;> first | (intro hx; clear_value x) | unfold x) | ((try lift_lets -underBinder); intro x) | (with_reducible apply wf_State_setCtx) | (with_reducible apply wf_State_physWrite) | (with_reducible apply wf_State_touchCtx) | (with_reducible apply wf_State_poisoned) | (with_reducible apply W_ite) | split)
theorem wf_State_amoDrain (s : State) (x n : Nat) (h0 : W ν s) : W ν (s.amoDrain x n) := by
  induction n generalizing s with
  | zero => exact h0
  | succ n ih => unfold State.amoDrain; repeat' (first | (with_reducible assumption) | ((try lift_lets -underBinder); intro x; refine W_cut (ν := ν) x ?_ ?_ <;> first | (intro hx; clear_value x) | unfold x) | ((try lift_lets -underBinder); intro x) | (with_reducible apply ih) | (with_reducible apply wf_State_onOwner) | (with_reducible apply wf_State_wakeTrapAs) | (with_reducible apply wf_State_amoApply) | (with_reducible refine foldl_wf _ _ ?_ _ ?_; first | (intro x y hxy) | skip) | (with_reducible refine toW (ν := ν) ?_) | (with_reducible apply toN) | ((with_reducible refine W_mk ?_ ?_) <;> dsimp -zeta only) | (with_reducible apply W_ite) | split)
theorem wf_State_amoArrive (s : State) (cid : Nat) (q : AmoReq) (h0 : W ν s) : W ν (Sys2Proof.Machine.State.amoArrive s cid q) := by
  unfold Sys2Proof.Machine.State.amoArrive; repeat' (first | (with_reducible assumption) | (with_reducible apply wf_State_setWait) | (with_reducible apply wf_State_wakeTrapAs) | (with_reducible apply wf_State_amoApply) | (with_reducible apply wf_State_amoDrain) | (with_reducible refine toW (ν := ν) ?_) | (with_reducible apply toN) | ((with_reducible refine W_mk ?_ ?_) <;> dsimp -zeta only) | split)
theorem wf_State_amo (s : State) (op : BitVec 4) (d a b : Reg) (q z : BitVec 1) (h0 : W ν s) : OutW ν (Sys2Proof.Machine.State.amo s op d a b q z) := by
  unfold Sys2Proof.Machine.State.amo; repeat' (first | (with_reducible assumption) | ((try lift_lets -underBinder); intro x) | (with_reducible apply wf_State_suspend) | (with_reducible apply wf_State_check) | (with_reducible apply wf_State_amoArrive) | (with_reducible apply OutW_next) | (with_reducible refine GC_u ?_ (by with_reducible assumption)) | (with_reducible refine GC_v ?_ (by with_reducible assumption)) | split)
theorem wf_execAmoArrival (cid : BitVec 12) (s : State) (h0 : W ν s) : OutW ν (Sys2Proof.Machine.execAmoArrival cid s) := by
  unfold Sys2Proof.Machine.execAmoArrival; repeat' (first | (with_reducible assumption) | (with_reducible apply wf_State_amoArrive) | (with_reducible apply OutW_next) | split)
theorem wf_execAmoswap (d a b : Reg) (q z : BitVec 1) (_c : BitVec 3) (s : State) (h0 : W ν s) : OutW ν (Sys2Proof.Machine.execAmoswap d a b q z _c s) := by
  unfold Sys2Proof.Machine.execAmoswap; repeat' (first | (with_reducible assumption) | (with_reducible apply wf_State_amo))
theorem wf_execAmoadd (d a b : Reg) (q z : BitVec 1) (_c : BitVec 3) (s : State) (h0 : W ν s) : OutW ν (Sys2Proof.Machine.execAmoadd d a b q z _c s) := by
  unfold Sys2Proof.Machine.execAmoadd; repeat' (first | (with_reducible assumption) | (with_reducible apply wf_State_amo))
theorem wf_execAmoand (d a b : Reg) (q z : BitVec 1) (_c : BitVec 3) (s : State) (h0 : W ν s) : OutW ν (Sys2Proof.Machine.execAmoand d a b q z _c s) := by
  unfold Sys2Proof.Machine.execAmoand; repeat' (first | (with_reducible assumption) | (with_reducible apply wf_State_amo))
theorem wf_execAmoor (d a b : Reg) (q z : BitVec 1) (_c : BitVec 3) (s : State) (h0 : W ν s) : OutW ν (Sys2Proof.Machine.execAmoor d a b q z _c s) := by
  unfold Sys2Proof.Machine.execAmoor; repeat' (first | (with_reducible assumption) | (with_reducible apply wf_State_amo))
theorem wf_execAmoxor (d a b : Reg) (q z : BitVec 1) (_c : BitVec 3) (s : State) (h0 : W ν s) : OutW ν (Sys2Proof.Machine.execAmoxor d a b q z _c s) := by
  unfold Sys2Proof.Machine.execAmoxor; repeat' (first | (with_reducible assumption) | (with_reducible apply wf_State_amo))
theorem wf_execAmomin (d a b : Reg) (q z : BitVec 1) (_c : BitVec 3) (s : State) (h0 : W ν s) : OutW ν (Sys2Proof.Machine.execAmomin d a b q z _c s) := by
  unfold Sys2Proof.Machine.execAmomin; repeat' (first | (with_reducible assumption) | (with_reducible apply wf_State_amo))
theorem wf_execAmomax (d a b : Reg) (q z : BitVec 1) (_c : BitVec 3) (s : State) (h0 : W ν s) : OutW ν (Sys2Proof.Machine.execAmomax d a b q z _c s) := by
  unfold Sys2Proof.Machine.execAmomax; repeat' (first | (with_reducible assumption) | (with_reducible apply wf_State_amo))
theorem wf_execAmominu (d a b : Reg) (q z : BitVec 1) (_c : BitVec 3) (s : State) (h0 : W ν s) : OutW ν (Sys2Proof.Machine.execAmominu d a b q z _c s) := by
  unfold Sys2Proof.Machine.execAmominu; repeat' (first | (with_reducible assumption) | (with_reducible apply wf_State_amo))
theorem wf_execAmomaxu (d a b : Reg) (q z : BitVec 1) (_c : BitVec 3) (s : State) (h0 : W ν s) : OutW ν (Sys2Proof.Machine.execAmomaxu d a b q z _c s) := by
  unfold Sys2Proof.Machine.execAmomaxu; repeat' (first | (with_reducible assumption) | (with_reducible apply wf_State_amo))
theorem wf_execAmocas (d a b : Reg) (q z : BitVec 1) (_c : BitVec 3) (s : State) (h0 : W ν s) : OutW ν (Sys2Proof.Machine.execAmocas d a b q z _c s) := by
  unfold Sys2Proof.Machine.execAmocas; repeat' (first | (with_reducible assumption) | (with_reducible apply wf_State_amo))
theorem wf_execAmofadd (d a b : Reg) (q : BitVec 1) (_c : BitVec 3) (s : State) (h0 : W ν s) : OutW ν (Sys2Proof.Machine.execAmofadd d a b q _c s) := by
  unfold Sys2Proof.Machine.execAmofadd; repeat' (first | (with_reducible assumption) | (with_reducible apply wf_State_amo))
theorem wf_execFenceFull (_c : BitVec 3) (s : State) (h0 : W ν s) : OutW ν (Sys2Proof.Machine.execFenceFull _c s) := by
  unfold Sys2Proof.Machine.execFenceFull; repeat' (first | (with_reducible assumption) | (with_reducible apply wf_State_advance) | (with_reducible apply OutW_next))
theorem wf_execFenceAcq (_c : BitVec 3) (s : State) (h0 : W ν s) : OutW ν (Sys2Proof.Machine.execFenceAcq _c s) := by
  unfold Sys2Proof.Machine.execFenceAcq; repeat' (first | (with_reducible assumption) | (with_reducible apply wf_State_advance) | (with_reducible apply OutW_next))
theorem wf_execFenceRel (_c : BitVec 3) (s : State) (h0 : W ν s) : OutW ν (Sys2Proof.Machine.execFenceRel _c s) := by
  unfold Sys2Proof.Machine.execFenceRel; repeat' (first | (with_reducible assumption) | (with_reducible apply wf_State_advance) | (with_reducible apply OutW_next))
theorem wf_State_waitvGives (s : State) (cid : Nat) (d : Reg) (m : Nat) (h0 : W ν s) : W ν (Sys2Proof.Machine.State.waitvGives s cid d m) := by
  unfold Sys2Proof.Machine.State.waitvGives; repeat' (first | (with_reducible assumption) | ((try lift_lets -underBinder); intro x) | (with_reducible apply wf_State_setCtx))
theorem wf_State_waitvTurn (s : State) (cid : Nat) (w : WaitvWait) (h0 : W ν s) : W ν (Sys2Proof.Machine.State.waitvTurn s cid w) := by
  unfold Sys2Proof.Machine.State.waitvTurn; repeat' (first | (with_reducible assumption) | ((try lift_lets -underBinder); intro x) | (with_reducible apply wf_State_setSched) | (with_reducible apply wf_State_trapAs) | (with_reducible apply wf_State_check) | (with_reducible apply wf_State_readPlace) | (with_reducible apply wf_State_waitvGives) | (with_reducible apply W_ite) | (with_reducible refine GC_u ?_ (by with_reducible assumption)) | (with_reducible refine GC_v ?_ (by with_reducible assumption)) | (with_reducible refine GLd_u ?_ (by with_reducible assumption)) | (with_reducible refine GLd_v ?_ (by with_reducible assumption)) | split)
theorem wf_execWaitv (d a b : Reg) (z : BitVec 1) (_c : BitVec 3) (s : State) (h0 : W ν s) : OutW ν (Sys2Proof.Machine.execWaitv d a b z _c s) := by
  unfold Sys2Proof.Machine.execWaitv; repeat' (first | (with_reducible assumption) | ((try lift_lets -underBinder); intro x) | (with_reducible apply wf_State_waitvTurn) | (with_reducible apply OutW_next))
theorem wf_execWaitvDeadline (cid : BitVec 12) (s : State) (h0 : W ν s) : OutW ν (Sys2Proof.Machine.execWaitvDeadline cid s) := by
  unfold Sys2Proof.Machine.execWaitvDeadline; repeat' (first | (with_reducible assumption) | ((try lift_lets -underBinder); intro x) | (with_reducible apply wf_State_waitvTurn) | (with_reducible apply OutW_next) | (with_reducible apply OutW_ite) | split)
theorem wf_State_enqueue (s : State) (e : Nat) (c : Cmd) (h0 : W ν s) : W ν (Sys2Proof.Machine.State.enqueue s e c) := by
  unfold Sys2Proof.Machine.State.enqueue; repeat' (first | (with_reducible assumption) | ((try lift_lets -underBinder); intro x) | (with_reducible apply wf_State_setCore))
theorem wf_State_forwardOne (s : State) (k : Nat) (h0 : W ν s) : W ν (Sys2Proof.Machine.State.forwardOne s k) := by
  unfold Sys2Proof.Machine.State.forwardOne; repeat' (first | (with_reducible assumption) | ((try lift_lets -underBinder); intro x) | (with_reducible apply wf_State_setCore) | (with_reducible refine toW (ν := ν) ?_) | (with_reducible apply toN) | ((with_reducible refine W_mk ?_ ?_) <;> dsimp -zeta only) | split)
theorem wf_State_forward (s : State) (n : Nat) (h0 : W ν s) : W ν (Sys2Proof.Machine.State.forward s n) := by
  unfold Sys2Proof.Machine.State.forward; repeat' (first | (with_reducible assumption) | (with_reducible apply wf_State_forwardOne) | (with_reducible refine foldNat_wf _ _ _ ?_ _ ?_; first | (intro x y hxy) | skip) | (with_reducible refine foldl_wf _ _ ?_ _ ?_; first | (intro x y hxy) | skip))
theorem wf_State_push (s : State) (e : Nat) (ss : Reg) (w : BitVec 2) (m : BitVec 1) (i : BitVec 15) (h0 : W ν s) : OutW ν (Sys2Proof.Machine.State.push s e ss w m i) := by
  unfold Sys2Proof.Machine.State.push; repeat' (first | (with_reducible assumption) | ((try lift_lets -underBinder); intro x) | (with_reducible apply wf_State_advance) | (with_reducible apply wf_State_killTenant) | (with_reducible apply wf_State_trap) | (with_reducible apply wf_State_park) | (with_reducible apply wf_State_parkWalk) | (with_reducible apply wf_State_enqueue) | (with_reducible apply OutW_next) | (with_reducible apply OutW_ite) | split)
theorem wf_execMxq (r : Reg) (w : BitVec 2) (m : BitVec 1) (i : BitVec 15) (s : State) (h0 : W ν s) : OutW ν (Sys2Proof.Machine.execMxq r w m i s) := by
  unfold Sys2Proof.Machine.execMxq; repeat' (first | (with_reducible assumption) | (with_reducible apply wf_State_illegal) | (with_reducible apply wf_State_push) | (with_reducible apply OutW_ite))
theorem wf_execCpq (c : BitVec 2) (r : Reg) (w : BitVec 2) (m : BitVec 1) (i : BitVec 15) (s : State) (h0 : W ν s) : OutW ν (Sys2Proof.Machine.execCpq c r w m i s) := by
  unfold Sys2Proof.Machine.execCpq; repeat' (first | (with_reducible assumption) | (with_reducible apply wf_State_push))
theorem wf_execTrq (r : Reg) (w : BitVec 2) (m : BitVec 1) (i : BitVec 15) (s : State) (h0 : W ν s) : OutW ν (Sys2Proof.Machine.execTrq r w m i s) := by
  unfold Sys2Proof.Machine.execTrq; repeat' (first | (with_reducible assumption) | (with_reducible apply wf_State_illegal) | (with_reducible apply wf_State_push) | (with_reducible apply OutW_ite))
theorem wf_execWaitc (d a : Reg) (k : BitVec 2) (s : State) (h0 : W ν s) : OutW ν (Sys2Proof.Machine.execWaitc d a k s) := by
  unfold Sys2Proof.Machine.execWaitc; repeat' (first | (with_reducible assumption) | ((try lift_lets -underBinder); intro x) | (with_reducible apply wf_State_setRegs) | (with_reducible apply wf_State_done) | (with_reducible apply wf_State_trap) | (with_reducible apply wf_State_park) | (with_reducible apply OutW_next) | (with_reducible apply OutW_ite))
theorem wf_execEngst (d : Reg) (e : BitVec 2) (s : State) (h0 : W ν s) : OutW ν (Sys2Proof.Machine.execEngst d e s) := by
  unfold Sys2Proof.Machine.execEngst; repeat' (first | (with_reducible assumption) | ((try lift_lets -underBinder); intro x) | (with_reducible apply wf_State_done))
theorem wf_execRnginit (a b : Reg) (s : State) (h0 : W ν s) : OutW ν (Sys2Proof.Machine.execRnginit a b s) := by
  unfold Sys2Proof.Machine.execRnginit; repeat' (first | (with_reducible assumption) | ((try lift_lets -underBinder); intro x) | (with_reducible apply wf_State_setRegs) | (with_reducible apply wf_State_advance) | (with_reducible apply OutW_next))
theorem wf_execRngnext (d : Reg) (s : State) (h0 : W ν s) : OutW ν (Sys2Proof.Machine.execRngnext d s) := by
  unfold Sys2Proof.Machine.execRngnext; repeat' (first | (with_reducible assumption) | ((try lift_lets -underBinder); intro x) | (with_reducible apply wf_State_setRegs) | (with_reducible apply wf_State_done) | (with_reducible apply wf_State_trap) | (with_reducible apply OutW_ite))
theorem wf_State_engPlace (s : State) (c : Cmd) (e va n : Nat) (write : Bool) (h0 : W ν s) : GE ν (GPP ν) (Sys2Proof.Machine.State.engPlace s c e va n write) := by
  unfold Sys2Proof.Machine.State.engPlace; repeat' (first | (with_reducible assumption) | (with_reducible apply wf_State_tablesBad) | (with_reducible apply wf_State_xlate) | (with_reducible apply GPP_m) | (with_reducible apply GE_ok) | (with_reducible apply GE_er) | (with_reducible apply GS_f) | (with_reducible apply GS_w) | (with_reducible apply GS_d) | (with_reducible refine GX_u ?_ (by with_reducible assumption)) | split)
theorem wf_State_engRead (s : State) (c : Cmd) (e va n : Nat) (h0 : W ν s) : GE ν (GP ν) (Sys2Proof.Machine.State.engRead s c e va n) := by
  unfold Sys2Proof.Machine.State.engRead; repeat' (first | (with_reducible assumption) | ((try lift_lets -underBinder); intro x; refine W_cut (ν := ν) x ?_ ?_ <;> first | (intro hx; clear_value x) | unfold x) | ((try lift_lets -underBinder); intro x) | (with_reducible apply wf_State_touch) | (with_reducible apply wf_State_poisoned) | (with_reducible apply wf_State_engPlace) | (with_reducible refine GE_b3 ?_ ?_) | (with_reducible apply GP_m) | (with_reducible apply GE_ok) | (with_reducible apply GE_er) | (with_reducible apply GS_d) | split | (cases (by with_reducible assumption : (_, _) = (_, _))))
theorem wf_State_engWrite (s : State) (c : Cmd) (e va n v : Nat) (h0 : W ν s) : GE ν (W ν) (Sys2Proof.Machine.State.engWrite s c e va n v) := by
  unfold Sys2Proof.Machine.State.engWrite; repeat' (first | (with_reducible assumption) | ((try lift_lets -underBinder); intro x) | (with_reducible apply wf_State_physWrite) | (with_reducible apply wf_State_touch) | (with_reducible apply wf_State_engPlace) | (with_reducible refine GE_b3 ?_ ?_) | (with_reducible apply GE_ok))
theorem wf_State_stashLost (s : State) (c : Cmd) (h0 : W ν s) : W ν (Sys2Proof.Machine.State.stashLost s c) := by
  unfold Sys2Proof.Machine.State.stashLost; repeat' (first | (with_reducible assumption) | (with_reducible apply wf_State_killTenant))
theorem wf_State_stashGet (s : State) (c : Cmd) (off : Int) (n : Nat) (h0 : W ν s) : GE ν TT (Sys2Proof.Machine.State.stashGet s c off n) := by
  unfold Sys2Proof.Machine.State.stashGet; repeat' (first | (with_reducible assumption) | ((try lift_lets -underBinder); intro x) | (with_reducible apply wf_State_stashLost) | (with_reducible apply GE_ok) | (with_reducible apply GE_er) | (with_reducible apply GS_f) | (with_reducible apply GS_d) | (with_reducible apply TT_m) | split)
theorem wf_State_stashPut (s : State) (k : Nat) (off : Int) (n v : Nat) (h0 : W ν s) : GE ν (W ν) (Sys2Proof.Machine.State.stashPut s k off n v) := by
  unfold Sys2Proof.Machine.State.stashPut; repeat' (first | (with_reducible assumption) | ((try lift_lets -underBinder); intro x) | (with_reducible apply wf_State_setCore) | (with_reducible apply wf_State_dropRO) | (with_reducible apply wf_State_loseResv) | (with_reducible apply wf_State_soilLine) | (with_reducible apply GE_ok) | (with_reducible apply GE_er) | (with_reducible apply GS_f) | split)
theorem wf_State_getAt (s : State) (c : Cmd) (e : Nat) (stash : Bool) (a : Int) (n : Nat) (h0 : W ν s) : GE ν (GP ν) (Sys2Proof.Machine.State.getAt s c e stash a n) := by
  unfold Sys2Proof.Machine.State.getAt; repeat' (first | (with_reducible assumption) | ((try lift_lets -underBinder); intro x) | (with_reducible apply wf_State_engRead) | (with_reducible apply wf_State_stashGet) | (with_reducible refine GE_map ?_ ?_) | (with_reducible apply GP_m) | split)
theorem wf_State_putAt (s : State) (c : Cmd) (e : Nat) (stash : Bool) (a : Int) (n v : Nat) (h0 : W ν s) : GE ν (W ν) (Sys2Proof.Machine.State.putAt s c e stash a n v) := by
  unfold Sys2Proof.Machine.State.putAt; repeat' (first | (with_reducible assumption) | (with_reducible apply wf_State_engWrite) | (with_reducible apply wf_State_stashPut) | split)
theorem wf_runActs (f : Nat → State → Except EStop State) (n i : Nat) (s : State) (hf : ∀ i s, W ν s → GE ν (W ν) (f i s)) (h0 : W ν s) : GR ν (runActs f n i s) := by
  induction n generalizing s i with
  | zero => exact ⟨h0, trivial⟩
  | succ n ih =>
    unfold runActs
    have := hf i s h0
    split
    · next t e => rw [e] at this; exact ih _ _ this
    · next t e => rw [e] at this; exact ⟨h0, this⟩
  
theorem wf_runActs_1 (f : Nat → State → Except EStop State) (n i : Nat) (s : State) (hf : ∀ i s, W ν s → GE ν (W ν) (f i s)) (h0 : W ν s) : W ν (runActs f n i s).1 := (wf_runActs f n i s hf h0).1
theorem wf_runActs_3 (f : Nat → State → Except EStop State) (n i : Nat) (s : State) (hf : ∀ i s, W ν s → GE ν (W ν) (f i s)) (h0 : W ν s) : GW ν (runActs f n i s).2.2 := (wf_runActs f n i s hf h0).2
theorem wf_State_finishCmd (s : State) (k e : Nat) (c : Cmd) (reason res0 res1 : Nat) (h0 : W ν s) : W ν (Sys2Proof.Machine.State.finishCmd s k e c reason res0 res1) := by
  unfold Sys2Proof.Machine.State.finishCmd; repeat' (first | (with_reducible assumption) | ((try lift_lets -underBinder); intro x) | (with_reducible apply wf_State_setCore))
theorem wf_State_stopCmd (before after : State) (k e : Nat) (c : Cmd) (why : Option EStop) (res0 res1 : Nat) (h0 : W ν before) (h1 : W ν after) (h2 : GW ν why) : W ν (Sys2Proof.Machine.State.stopCmd before after k e c why res0 res1) := by
  unfold Sys2Proof.Machine.State.stopCmd; repeat' (first | (with_reducible assumption) | (with_reducible apply wf_State_addWalk) | (with_reducible apply wf_State_finishCmd) | (with_reducible exact GW_d2 ‹_›) | split)
theorem wf_State_completeCmd (s : State) (e : Nat) (d : Done) (h0 : W ν s) : W ν (Sys2Proof.Machine.State.completeCmd s e d) := by
  unfold Sys2Proof.Machine.State.completeCmd; repeat' (first | (with_reducible assumption) | ((try lift_lets -underBinder); intro x) | (with_reducible apply wf_State_setCtx) | (with_reducible refine toW (ν := ν) ?_) | (with_reducible apply toN) | ((with_reducible refine W_mk ?_ ?_) <;> dsimp -zeta only) | (with_reducible apply W_ite))
theorem wf_execEngineCompletion (g : BitVec 6) (c : BitVec 4) (e : BitVec 2) (n : Nat) (s : State) (h0 : W ν s) : OutW ν (Sys2Proof.Machine.execEngineCompletion g c e n s) := by
  unfold Sys2Proof.Machine.execEngineCompletion; repeat' (first | (with_reducible assumption) | ((try lift_lets -underBinder); intro x) | (with_reducible apply wf_State_setCore) | (with_reducible apply wf_State_completeCmd) | (with_reducible apply OutW_next) | (with_reducible apply OutW_ite) | split)
theorem wf_execMatrixPowerGate (g : BitVec 6) (c : BitVec 4) (s : State) (h0 : W ν s) : OutW ν (Sys2Proof.Machine.execMatrixPowerGate g c s) := by
  unfold Sys2Proof.Machine.execMatrixPowerGate; repeat' (first | (with_reducible assumption) | ((try lift_lets -underBinder); intro x) | (with_reducible apply wf_State_setCore) | (with_reducible apply OutW_next) | (with_reducible apply OutW_ite))
theorem wf_State_setProg (s : State) (k e i aux : Nat) (h0 : W ν s) : W ν (Sys2Proof.Machine.State.setProg s k e i aux) := by
  unfold Sys2Proof.Machine.State.setProg; repeat' (first | (with_reducible assumption) | ((try lift_lets -underBinder); intro x) | (with_reducible apply wf_State_setCore))
theorem wf_State_cpStep (s : State) (k e : Nat) (c : Cmd) (n i aux res0 : Nat) (why : Option EStop) (h0 : W ν s) (h1 : GW ν why) : OutW ν (Sys2Proof.Machine.State.cpStep s k e c n i aux res0 why) := by
  unfold Sys2Proof.Machine.State.cpStep; repeat' (first | (with_reducible assumption) | ((try lift_lets -underBinder); intro x) | (with_reducible apply wf_State_addWalk) | (with_reducible apply wf_State_finishCmd) | (with_reducible apply wf_State_setProg) | (with_reducible apply OutW_next) | (with_reducible apply W_ite) | (with_reducible exact GW_d2 ‹_›) | split)
theorem wf_State_deliverBytes (s : State) (c : Cmd) (e n : Nat) (h0 : W ν s) : W ν (Sys2Proof.Machine.State.deliverBytes s c e n) :=
  wf_State_onOwner _ _ _ _ (fun _ h => wf_State_setCtx _ _ _ h) h0
theorem wf_State_setAhead (s : State) (k e x : Nat) (h0 : W ν s) : W ν (Sys2Proof.Machine.State.setAhead s k e x) := by
  unfold Sys2Proof.Machine.State.setAhead; repeat' (first | (with_reducible assumption) | (with_reducible apply wf_State_setProg))
theorem wf_Cmd_readWord (c : Cmd) (e : Nat) (src : Int) (s : State) (h0 : W ν s) : GE ν (GP ν) (Sys2Proof.Machine.Cmd.readWord c e src s) := by
  unfold Sys2Proof.Machine.Cmd.readWord; repeat' (first | (with_reducible assumption) | ((try lift_lets -underBinder); intro x) | (with_reducible apply wf_State_engRead) | (with_reducible apply wf_State_getAt) | (with_reducible apply wf_State_setAhead) | (with_reducible refine GE_b2 ?_ ?_) | (with_reducible apply GP_m) | (with_reducible apply GE_ok) | split)
theorem wf_Cmd_writeWord (c : Cmd) (e : Nat) (dst : Int) (v : Nat) (s : State) (h0 : W ν s) : GE ν (W ν) (Sys2Proof.Machine.Cmd.writeWord c e dst v s) := by
  unfold Sys2Proof.Machine.Cmd.writeWord; repeat' (first | (with_reducible assumption) | ((try lift_lets -underBinder); intro x) | (with_reducible apply wf_State_putAt) | (with_reducible apply wf_State_setAhead) | (with_reducible refine GE_b1 ?_ ?_) | (with_reducible apply W_ite) | (with_reducible apply GE_ok))
theorem wf_Cmd_copyWord (c : Cmd) (e : Nat) (src dst : Int) (s : State) (h0 : W ν s) : GE ν (W ν) (Sys2Proof.Machine.Cmd.copyWord c e src dst s) := by
  unfold Sys2Proof.Machine.Cmd.copyWord; repeat' (first | (with_reducible assumption) | ((try lift_lets -underBinder); intro x) | (with_reducible apply wf_State_deliverBytes) | (with_reducible apply wf_Cmd_readWord) | (with_reducible apply wf_Cmd_writeWord) | (with_reducible refine GE_b2 ?_ ?_) | (with_reducible refine GE_b1 ?_ ?_) | (with_reducible apply GE_ok))
theorem wf_State_wordCopy (s : State) (k e : Nat) (c : Cmd) (n : Nat) (src : Nat → State → Except EStop Int) (dst : Nat → Int) (hs : ∀ i s, W ν s → GE ν TT (src i s)) (h0 : W ν s) : OutW ν (s.wordCopy k e c n src dst) := by
  have h : GR ν (runActs (fun i s => do
    let a ← src i s
    c.copyWord e a (dst i) s) (unitWords dst n ((s.coreOf k).engine e).prog) ((s.coreOf k).engine e).prog s) :=
    wf_runActs _ _ _ _ (fun i s h => GE_b0 (hs i s h) fun v => wf_Cmd_copyWord _ _ _ _ _ h) h0
  unfold State.wordCopy
  dsimp only
  exact wf_State_cpStep _ _ _ _ _ _ _ _ _ h.1 h.2
theorem wf_execCpCopy (g : BitVec 6) (c : BitVec 4) (ch : BitVec 1) (s : State) (h0 : W ν s) : OutW ν (Sys2Proof.Machine.execCpCopy g c ch s) := by
  unfold Sys2Proof.Machine.execCpCopy; repeat' (first | (with_reducible assumption) | ((try lift_lets -underBinder); intro x) | (with_reducible apply wf_State_wordCopy) | (with_reducible apply OutW_next) | (with_reducible apply GE_ok) | (with_reducible apply TT_m) | split)
theorem wf_execCpCopy2d (g : BitVec 6) (c : BitVec 4) (ch : BitVec 1) (s : State) (h0 : W ν s) : OutW ν (Sys2Proof.Machine.execCpCopy2d g c ch s) := by
  unfold Sys2Proof.Machine.execCpCopy2d; repeat' (first | (with_reducible assumption) | ((try lift_lets -underBinder); intro x) | (with_reducible apply wf_State_wordCopy) | (with_reducible apply OutW_next) | (with_reducible apply GE_ok) | (with_reducible apply TT_m) | split)
theorem wf_State_indexed (s : State) (c : Cmd) (stash : Bool) (base el : Nat) (h0 : W ν s) : GE ν TT (Sys2Proof.Machine.State.indexed s c stash base el) := by
  unfold Sys2Proof.Machine.State.indexed; repeat' (first | (with_reducible assumption) | ((try lift_lets -underBinder); intro x) | (with_reducible apply wf_State_stashGet) | (with_reducible refine GE_b0 ?_ ?_) | (with_reducible apply GE_ok) | (with_reducible apply GE_er) | (with_reducible apply GS_f) | (with_reducible apply TT_m) | split)
theorem wf_execCpGather (g : BitVec 6) (c : BitVec 4) (ch : BitVec 1) (s : State) (h0 : W ν s) : OutW ν (Sys2Proof.Machine.execCpGather g c ch s) := by
  unfold Sys2Proof.Machine.execCpGather; repeat' (first | (with_reducible assumption) | ((try lift_lets -underBinder); intro x) | (with_reducible apply wf_State_wordCopy) | (with_reducible apply wf_State_indexed) | (with_reducible apply OutW_next) | (with_reducible refine GE_map ?_ ?_) | (with_reducible apply TT_m) | split)
theorem wf_execCpScatter (g : BitVec 6) (c : BitVec 4) (ch : BitVec 1) (s : State) (h0 : W ν s) : OutW ν (Sys2Proof.Machine.execCpScatter g c ch s) := by
  unfold Sys2Proof.Machine.execCpScatter; repeat' (first | (with_reducible assumption) | ((try lift_lets -underBinder); intro x) | (with_reducible apply wf_runActs_1) | (with_reducible apply wf_runActs_3) | (with_reducible apply wf_State_cpStep) | (with_reducible apply wf_Cmd_copyWord) | (with_reducible apply wf_State_indexed) | (with_reducible apply OutW_next) | (with_reducible refine GE_b0 ?_ ?_) | split)
theorem wf_execCpFill (g : BitVec 6) (c : BitVec 4) (ch : BitVec 1) (s : State) (h0 : W ν s) : OutW ν (Sys2Proof.Machine.execCpFill g c ch s) := by
  unfold Sys2Proof.Machine.execCpFill; repeat' (first | (with_reducible assumption) | ((try lift_lets -underBinder); intro x) | (with_reducible apply wf_State_putAt) | (with_reducible apply wf_runActs_1) | (with_reducible apply wf_runActs_3) | (with_reducible apply wf_State_cpStep) | (with_reducible apply wf_State_deliverBytes) | (with_reducible apply OutW_next) | (with_reducible refine GE_b1 ?_ ?_) | (with_reducible apply GE_ok) | split)
theorem wf_State_getWords (s : State) (c : Cmd) (e : Nat) (st : Bool) (a : Int) (n : Nat) (h0 : W ν s) : GE ν (GP ν) (s.getWords c e st a n) := by
  induction n generalizing s a with
  | zero => exact h0
  | succ n ih => unfold State.getWords; repeat' (first | (with_reducible assumption) | ((try lift_lets -underBinder); intro x) | (with_reducible apply ih) | (with_reducible apply wf_State_getAt) | (with_reducible refine GE_b2 ?_ ?_) | (with_reducible apply GP_m) | (with_reducible apply GE_ok))
theorem wf_State_putWords (s : State) (k e : Nat) (c : Cmd) (o : Nat) (l : List Nat) (counted : Bool) (h0 : W ν s) : GR ν (Sys2Proof.Machine.State.putWords s k e c o l counted) := by
  unfold Sys2Proof.Machine.State.putWords; repeat' (first | (with_reducible assumption) | ((try lift_lets -underBinder); intro x) | (with_reducible apply wf_State_stashPut) | (with_reducible apply wf_runActs) | (with_reducible apply wf_State_deliverBytes) | (with_reducible refine GE_b1 ?_ ?_) | (with_reducible apply W_ite) | (with_reducible apply GE_ok))
theorem wf_State_putWords_1 (s : State) (k e : Nat) (c : Cmd) (o : Nat) (l : List Nat) (counted : Bool) (h0 : W ν s) : W ν (Sys2Proof.Machine.State.putWords s k e c o l counted).1 := (wf_State_putWords s k e c o l counted h0).1
theorem wf_State_putWords_3 (s : State) (k e : Nat) (c : Cmd) (o : Nat) (l : List Nat) (counted : Bool) (h0 : W ν s) : GW ν (Sys2Proof.Machine.State.putWords s k e c o l counted).2.2 := (wf_State_putWords s k e c o l counted h0).2
theorem wf_execCpPlane (g : BitVec 6) (c : BitVec 4) (ch : BitVec 1) (s : State) (h0 : W ν s) : OutW ν (Sys2Proof.Machine.execCpPlane g c ch s) := by
  unfold Sys2Proof.Machine.execCpPlane; repeat' (first | (with_reducible assumption) | ((try lift_lets -underBinder); intro x) | (with_reducible apply wf_State_cpStep) | (with_reducible apply wf_State_getWords) | (with_reducible apply wf_State_putWords_1) | (with_reducible apply wf_State_putWords_3) | (with_reducible apply OutW_next) | (with_reducible apply GW_s) | (with_reducible refine GEP_u ?_ (by with_reducible assumption)) | (with_reducible refine GE_eP ?_ (by with_reducible assumption)) | split)
theorem wf_State_cbfWord (s : State) (c : Cmd) (e o j : Nat) (h0 : W ν s) : GE ν (GP ν) (Sys2Proof.Machine.State.cbfWord s c e o j) := by
  unfold Sys2Proof.Machine.State.cbfWord; repeat' (first | (with_reducible assumption) | (with_reducible apply wf_State_getAt) | (with_reducible apply GE_er) | (with_reducible apply GS_f) | split)
theorem wf_State_cbfCodes (s : State) (c : Cmd) (e o : Nat) (l : List Nat) (b n j : Nat) (h0 : W ν s) : GE ν (GPP ν) (s.cbfCodes c e o l b n j) := by
  induction l generalizing s b n j with
  | nil => exact h0
  | cons x l ih => unfold State.cbfCodes; repeat' (first | (with_reducible assumption) | ((try lift_lets -underBinder); intro x) | (with_reducible apply ih) | (with_reducible apply wf_State_cbfWord) | (with_reducible refine GE_b3 ?_ ?_) | (with_reducible refine GE_b2 ?_ ?_) | (with_reducible apply GP_m) | (with_reducible apply GPP_m) | (with_reducible apply GE_ok) | (with_reducible apply GE_er) | (with_reducible apply GS_f) | (with_reducible refine GP_u ?_ (by with_reducible assumption)) | split)
theorem wf_State_cbfGroup (s : State) (c : Cmd) (e o : Nat) (h0 : W ν s) : GE ν (GP5 ν) (Sys2Proof.Machine.State.cbfGroup s c e o) := by
  unfold Sys2Proof.Machine.State.cbfGroup; repeat' (first | (with_reducible assumption) | ((try lift_lets -underBinder); intro x) | (with_reducible apply wf_State_cbfWord) | (with_reducible apply wf_State_cbfCodes) | (with_reducible refine GE_b3 ?_ ?_) | (with_reducible refine GE_b2 ?_ ?_) | (with_reducible apply GP_m) | (with_reducible apply GP5_m) | (with_reducible apply GE_ok) | (with_reducible apply GE_er) | (with_reducible apply GS_f) | (with_reducible refine GP_u ?_ (by with_reducible assumption)) | split)
theorem wf_execCpDecode (g : BitVec 6) (c : BitVec 4) (ch : BitVec 1) (s : State) (h0 : W ν s) : OutW ν (Sys2Proof.Machine.execCpDecode g c ch s) := by
  unfold Sys2Proof.Machine.execCpDecode; repeat' (first | (with_reducible assumption) | ((try lift_lets -underBinder); intro x) | (with_reducible apply wf_State_cpStep) | (with_reducible apply wf_State_putWords) | (with_reducible apply wf_State_putWords_1) | (with_reducible apply wf_State_putWords_3) | (with_reducible apply wf_State_cbfGroup) | (with_reducible apply OutW_next) | (with_reducible apply GW_s) | (with_reducible refine GEP5_u ?_ (by with_reducible assumption)) | (with_reducible refine GR_u ?_ (by with_reducible assumption)) | (with_reducible refine GR_x ?_ (by with_reducible assumption)) | (with_reducible refine GE_eP5 ?_ (by with_reducible assumption)) | split)
theorem wf_State_granule (s : State) (c : Cmd) (va : Nat) (asked : Bool) (why : EStop) (h0 : W ν s) (h : s.granule c va asked = .fails why) : GS ν why := by
  unfold State.granule at h
  repeat' (first | (split at h) | (cases h; done) | (dsimp only at h))
  · cases h; exact wf_State_tablesBad _ _ h0
  · cases h; trivial
theorem wf_State_queueMove (s : State) (c : Cmd) (g : Nat) (h0 : W ν s) : W ν (Sys2Proof.Machine.State.queueMove s c g) := by
  unfold Sys2Proof.Machine.State.queueMove; repeat' (first | (with_reducible assumption) | ((try lift_lets -underBinder); intro x; refine W_cut (ν := ν) x ?_ ?_ <;> first | (intro hx; clear_value x) | unfold x) | ((try lift_lets -underBinder); intro x) | (with_reducible apply wf_State_setTier) | (with_reducible refine toW (ν := ν) ?_) | (with_reducible apply toN) | ((with_reducible refine W_mk ?_ ?_) <;> dsimp -zeta only) | (with_reducible apply W_ite))
theorem wf_execCpTotier (g : BitVec 6) (c : BitVec 4) (ch : BitVec 1) (s : State) (h0 : W ν s) : OutW ν (execCpTotier g c ch s) := by
  unfold execCpTotier
  dsimp only
  with_reducible split
  · with_reducible exact OutW_next h0
  · next cmd _ =>
    split
    · exact wf_State_cpStep _ _ _ _ _ _ _ _ _ h0 GW_n
    · with_reducible exact OutW_next (wf_State_setProg _ _ _ _ _ (wf_State_queueMove _ _ _ h0))
    · with_reducible exact OutW_next h0
    · next e => exact wf_State_cpStep _ _ _ _ _ _ _ _ _ h0 (wf_State_granule _ _ _ _ _ h0 e)
theorem wf_State_fpDone (s : State) (d : Reg) (r : Rounded) (h0 : W ν s) : OutW ν (Sys2Proof.Machine.State.fpDone s d r) := by
  unfold Sys2Proof.Machine.State.fpDone; repeat' (first | (with_reducible assumption) | (with_reducible apply wf_State_addFlags) | (with_reducible apply wf_State_done))
theorem wf_execFadd (d a b : Reg) (r : BitVec 3) (p : BitVec 2) (s : State) (h0 : W ν s) : OutW ν (Sys2Proof.Machine.execFadd d a b r p s) := by
  unfold Sys2Proof.Machine.execFadd; repeat' (first | (with_reducible assumption) | ((try lift_lets -underBinder); intro x) | (with_reducible apply wf_State_fpDone))
theorem wf_execFsub (d a b : Reg) (r : BitVec 3) (p : BitVec 2) (s : State) (h0 : W ν s) : OutW ν (Sys2Proof.Machine.execFsub d a b r p s) := by
  unfold Sys2Proof.Machine.execFsub; repeat' (first | (with_reducible assumption) | ((try lift_lets -underBinder); intro x) | (with_reducible apply wf_State_fpDone))
theorem wf_execFmul (d a b : Reg) (r : BitVec 3) (p : BitVec 2) (s : State) (h0 : W ν s) : OutW ν (Sys2Proof.Machine.execFmul d a b r p s) := by
  unfold Sys2Proof.Machine.execFmul; repeat' (first | (with_reducible assumption) | ((try lift_lets -underBinder); intro x) | (with_reducible apply wf_State_fpDone))
theorem wf_execFdiv (d a b : Reg) (r : BitVec 3) (p : BitVec 2) (s : State) (h0 : W ν s) : OutW ν (Sys2Proof.Machine.execFdiv d a b r p s) := by
  unfold Sys2Proof.Machine.execFdiv; repeat' (first | (with_reducible assumption) | ((try lift_lets -underBinder); intro x) | (with_reducible apply wf_State_fpDone))
theorem wf_execFsqrt (d a : Reg) (r : BitVec 3) (p : BitVec 2) (s : State) (h0 : W ν s) : OutW ν (Sys2Proof.Machine.execFsqrt d a r p s) := by
  unfold Sys2Proof.Machine.execFsqrt; repeat' (first | (with_reducible assumption) | ((try lift_lets -underBinder); intro x) | (with_reducible apply wf_State_fpDone))
theorem wf_execFmin (d a b : Reg) (p : BitVec 2) (s : State) (h0 : W ν s) : OutW ν (Sys2Proof.Machine.execFmin d a b p s) := by
  unfold Sys2Proof.Machine.execFmin; repeat' (first | (with_reducible assumption) | ((try lift_lets -underBinder); intro x) | (with_reducible apply wf_State_fpDone))
theorem wf_execFmax (d a b : Reg) (p : BitVec 2) (s : State) (h0 : W ν s) : OutW ν (Sys2Proof.Machine.execFmax d a b p s) := by
  unfold Sys2Proof.Machine.execFmax; repeat' (first | (with_reducible assumption) | ((try lift_lets -underBinder); intro x) | (with_reducible apply wf_State_fpDone))
theorem wf_execFmac (d a b : Reg) (r : BitVec 3) (p : BitVec 2) (s : State) (h0 : W ν s) : OutW ν (Sys2Proof.Machine.execFmac d a b r p s) := by
  unfold Sys2Proof.Machine.execFmac; repeat' (first | (with_reducible assumption) | ((try lift_lets -underBinder); intro x) | (with_reducible apply wf_State_fpDone))
theorem wf_execFnmac (d a b : Reg) (r : BitVec 3) (p : BitVec 2) (s : State) (h0 : W ν s) : OutW ν (Sys2Proof.Machine.execFnmac d a b r p s) := by
  unfold Sys2Proof.Machine.execFnmac; repeat' (first | (with_reducible assumption) | ((try lift_lets -underBinder); intro x) | (with_reducible apply wf_State_fpDone))
theorem wf_execFcpys (d a b : Reg) (p : BitVec 2) (s : State) (h0 : W ν s) : OutW ν (Sys2Proof.Machine.execFcpys d a b p s) := by
  unfold Sys2Proof.Machine.execFcpys; repeat' (first | (with_reducible assumption) | ((try lift_lets -underBinder); intro x) | (with_reducible apply wf_State_done))
theorem wf_execFcpysn (d a b : Reg) (p : BitVec 2) (s : State) (h0 : W ν s) : OutW ν (Sys2Proof.Machine.execFcpysn d a b p s) := by
  unfold Sys2Proof.Machine.execFcpysn; repeat' (first | (with_reducible assumption) | ((try lift_lets -underBinder); intro x) | (with_reducible apply wf_State_done))
theorem wf_execFcpysx (d a b : Reg) (p : BitVec 2) (s : State) (h0 : W ν s) : OutW ν (Sys2Proof.Machine.execFcpysx d a b p s) := by
  unfold Sys2Proof.Machine.execFcpysx; repeat' (first | (with_reducible assumption) | ((try lift_lets -underBinder); intro x) | (with_reducible apply wf_State_done))
theorem wf_execFeq (d a b : Reg) (p : BitVec 2) (s : State) (h0 : W ν s) : OutW ν (Sys2Proof.Machine.execFeq d a b p s) := by
  unfold Sys2Proof.Machine.execFeq; repeat' (first | (with_reducible assumption) | ((try lift_lets -underBinder); intro x) | (with_reducible apply wf_State_addFlags) | (with_reducible apply wf_State_done))
theorem wf_execFlt (d a b : Reg) (p : BitVec 2) (s : State) (h0 : W ν s) : OutW ν (Sys2Proof.Machine.execFlt d a b p s) := by
  unfold Sys2Proof.Machine.execFlt; repeat' (first | (with_reducible assumption) | ((try lift_lets -underBinder); intro x) | (with_reducible apply wf_State_addFlags) | (with_reducible apply wf_State_done))
theorem wf_execFle (d a b : Reg) (p : BitVec 2) (s : State) (h0 : W ν s) : OutW ν (Sys2Proof.Machine.execFle d a b p s) := by
  unfold Sys2Proof.Machine.execFle; repeat' (first | (with_reducible assumption) | ((try lift_lets -underBinder); intro x) | (with_reducible apply wf_State_addFlags) | (with_reducible apply wf_State_done))
theorem wf_execFkind (d a : Reg) (p : BitVec 2) (s : State) (h0 : W ν s) : OutW ν (Sys2Proof.Machine.execFkind d a p s) := by
  unfold Sys2Proof.Machine.execFkind; repeat' (first | (with_reducible assumption) | ((try lift_lets -underBinder); intro x) | (with_reducible apply wf_State_done))
theorem wf_execFcvtl (d a : Reg) (r : BitVec 3) (p : BitVec 2) (s : State) (h0 : W ν s) : OutW ν (Sys2Proof.Machine.execFcvtl d a r p s) := by
  unfold Sys2Proof.Machine.execFcvtl; repeat' (first | (with_reducible assumption) | ((try lift_lets -underBinder); intro x) | (with_reducible apply wf_State_addFlags) | (with_reducible apply wf_State_done))
theorem wf_execFcvtlu (d a : Reg) (r : BitVec 3) (p : BitVec 2) (s : State) (h0 : W ν s) : OutW ν (Sys2Proof.Machine.execFcvtlu d a r p s) := by
  unfold Sys2Proof.Machine.execFcvtlu; repeat' (first | (with_reducible assumption) | ((try lift_lets -underBinder); intro x) | (with_reducible apply wf_State_addFlags) | (with_reducible apply wf_State_done))
theorem wf_execFcvtfl (d a : Reg) (r : BitVec 3) (p : BitVec 2) (s : State) (h0 : W ν s) : OutW ν (Sys2Proof.Machine.execFcvtfl d a r p s) := by
  unfold Sys2Proof.Machine.execFcvtfl; repeat' (first | (with_reducible assumption) | (with_reducible apply wf_State_fpDone))
theorem wf_execFcvtflu (d a : Reg) (r : BitVec 3) (p : BitVec 2) (s : State) (h0 : W ν s) : OutW ν (Sys2Proof.Machine.execFcvtflu d a r p s) := by
  unfold Sys2Proof.Machine.execFcvtflu; repeat' (first | (with_reducible assumption) | (with_reducible apply wf_State_fpDone))
theorem wf_execFcvtf (d a : Reg) (c : BitVec 5) (r : BitVec 3) (p : BitVec 2) (s : State) (h0 : W ν s) : OutW ν (Sys2Proof.Machine.execFcvtf d a c r p s) := by
  unfold Sys2Proof.Machine.execFcvtf; repeat' (first | (with_reducible assumption) | ((try lift_lets -underBinder); intro x) | (with_reducible apply wf_State_fpDone))
theorem wf_State_vfAnswer (s : State) (fn : Nat) (x : Option Word) (h0 : W ν s) : W ν (Sys2Proof.Machine.State.vfAnswer s fn x) := by
  unfold Sys2Proof.Machine.State.vfAnswer; repeat' (first | (with_reducible assumption) | ((try lift_lets -underBinder); intro x) | (with_reducible refine toW (ν := ν) ?_) | (with_reducible apply toN) | ((with_reducible refine W_mk ?_ ?_) <;> dsimp -zeta only))
theorem wf_State_pfAccess (s : State) (off n : Nat) (wr : Option Word) (h0 : W ν s) : W ν (Sys2Proof.Machine.State.pfAccess s off n wr) := by
  unfold Sys2Proof.Machine.State.pfAccess; repeat' (first | (with_reducible assumption) | ((try lift_lets -underBinder); intro x) | (with_reducible apply wf_State_physWrite) | (with_reducible apply wf_State_touch) | (with_reducible apply wf_State_vfAnswer) | (with_reducible apply W_ite) | split)
theorem wf_State_bar0Read (s : State) (fn off : Nat) (h0 : W ν s) : W ν (Sys2Proof.Machine.State.bar0Read s fn off) := by
  unfold Sys2Proof.Machine.State.bar0Read; repeat' (first | (with_reducible assumption) | ((try lift_lets -underBinder); intro x; refine W_cut (ν := ν) x ?_ ?_ <;> first | (intro hx; clear_value x) | unfold x) | ((try lift_lets -underBinder); intro x) | (with_reducible apply wf_State_fresh_2) | (with_reducible apply wf_State_vfAnswer) | (with_reducible apply W_ite))
theorem wf_State_writeVwin (s : State) (fn : Nat) (v : Word) (h0 : W ν s) : W ν (Sys2Proof.Machine.State.writeVwin s fn v) := by
  unfold Sys2Proof.Machine.State.writeVwin; repeat' (first | (with_reducible assumption) | ((try lift_lets -underBinder); intro x) | (with_reducible refine toW (ν := ν) ?_) | (with_reducible apply toN) | ((with_reducible refine W_mk ?_ ?_) <;> dsimp -zeta only) | (with_reducible apply W_ite))
theorem wf_execHostAccess (fn : BitVec 8) (off : BitVec 36) (sz : BitVec 2) (wr : Option (BitVec 64)) (s : State) (h0 : W ν s) : OutW ν (Sys2Proof.Machine.execHostAccess fn off sz wr s) := by
  unfold Sys2Proof.Machine.execHostAccess; repeat' (first | (with_reducible assumption) | ((try lift_lets -underBinder); intro x; refine W_cut (ν := ν) x ?_ ?_ <;> first | (intro hx; clear_value x) | unfold x) | ((try lift_lets -underBinder); intro x) | (with_reducible apply wf_State_physWrite) | (with_reducible apply wf_State_touch) | (with_reducible apply wf_State_markLeaf) | (with_reducible apply wf_State_vfAnswer) | (with_reducible apply wf_State_pfAccess) | (with_reducible apply OutW_next) | (with_reducible apply OutW_ite) | split)
theorem wf_State_setHart (s : State) (h : Nat) (x : Hart) (h0 : W ν s) : W ν (Sys2Proof.Machine.State.setHart s h x) := by
  unfold Sys2Proof.Machine.State.setHart; repeat' (first | (with_reducible assumption) | (with_reducible refine toW (ν := ν) ?_) | (with_reducible apply toN) | ((with_reducible refine W_mk ?_ ?_) <;> dsimp -zeta only))
theorem wf_State_hartFault (s : State) (h : Nat) (code : Byte) (h0 : W ν s) : W ν (Sys2Proof.Machine.State.hartFault s h code) := by
  unfold Sys2Proof.Machine.State.hartFault; repeat' (first | (with_reducible assumption) | ((try lift_lets -underBinder); intro x) | (with_reducible apply wf_State_setHart))
theorem wf_State_hartReads (s : State) (h : Nat) (v : Word) (bad : Bool) (h0 : W ν s) : W ν (Sys2Proof.Machine.State.hartReads s h v bad) := by
  unfold Sys2Proof.Machine.State.hartReads; repeat' (first | (with_reducible assumption) | ((try lift_lets -underBinder); intro x) | (with_reducible apply wf_State_setHart))
theorem wf_State_hartMem (s : State) (h : Nat) (op : HartOp) (pa n : Nat) (v : Word) (h0 : W ν s) : W ν (Sys2Proof.Machine.State.hartMem s h op pa n v) := by
  unfold Sys2Proof.Machine.State.hartMem; repeat' (first | (with_reducible assumption) | ((try lift_lets -underBinder); intro x; refine W_cut (ν := ν) x ?_ ?_ <;> first | (intro hx; clear_value x) | unfold x) | ((try lift_lets -underBinder); intro x) | (with_reducible apply wf_State_physWrite) | (with_reducible apply wf_State_touch) | (with_reducible apply wf_State_setHart) | (with_reducible apply wf_State_hartFault) | (with_reducible apply wf_State_hartReads) | (with_reducible apply W_ite) | split)
theorem wf_State_hartWindow (s : State) (h : Nat) (op : HartOp) (a n : Nat) (v : Word) (h0 : W ν s) : W ν (Sys2Proof.Machine.State.hartWindow s h op a n v) := by
  unfold Sys2Proof.Machine.State.hartWindow; repeat' (first | (with_reducible assumption) | ((try lift_lets -underBinder); intro x) | (with_reducible apply wf_State_devRead_2) | (with_reducible apply wf_State_devWrite) | (with_reducible apply wf_State_hartFault) | (with_reducible apply wf_State_hartReads) | (with_reducible apply W_ite) | (with_reducible refine GO_d ?_ ?_) | split)
theorem wf_execHartAccess (h : BitVec 4) (op : HartOp) (pa : BitVec 52) (sz : BitVec 2) (v : BitVec 64) (s : State) (h0 : W ν s) : OutW ν (Sys2Proof.Machine.execHartAccess h op pa sz v s) := by
  unfold Sys2Proof.Machine.execHartAccess; repeat' (first | (with_reducible assumption) | ((try lift_lets -underBinder); intro x; refine W_cut (ν := ν) x ?_ ?_ <;> first | (intro hx; clear_value x) | unfold x) | ((try lift_lets -underBinder); intro x) | (with_reducible apply wf_State_setHart) | (with_reducible apply wf_State_hartMem) | (with_reducible apply wf_State_hartWindow) | (with_reducible apply OutW_next) | (with_reducible apply OutW_ite))
theorem wf_State_setHartMode (s : State) (h : Nat) (mode : HartMode) (h0 : W ν s) : W ν (Sys2Proof.Machine.State.setHartMode s h mode) := by
  unfold Sys2Proof.Machine.State.setHartMode; repeat' (first | (with_reducible assumption) | ((try lift_lets -underBinder); intro x) | (with_reducible apply wf_State_setHart))
theorem wf_State_allocFrame (s : State) (h0 : W ν s) : GOP ν (Sys2Proof.Machine.State.allocFrame s) := by
  unfold Sys2Proof.Machine.State.allocFrame; repeat' (first | (with_reducible assumption) | ((try lift_lets -underBinder); intro x; refine W_cut (ν := ν) x ?_ ?_ <;> first | (intro hx; clear_value x) | unfold x) | ((try lift_lets -underBinder); intro x) | (with_reducible apply wf_State_setWinFld) | (with_reducible apply M_filter) | (with_reducible refine toW (ν := ν) ?_) | (with_reducible apply toN) | ((with_reducible refine W_mk ?_ ?_) <;> dsimp -zeta only) | (with_reducible apply GOP_s) | (with_reducible apply GOP_n) | split)
theorem wf_State_nextTable (s : State) (ea kind : Nat) (h0 : W ν s) : GOP ν (s.nextTable ea kind) := by
  have ha := wf_State_allocFrame s h0
  unfold State.nextTable
  dsimp only
  with_reducible split
  · generalize s.allocFrame = o at ha
    rcases o with _ | ⟨pa, t⟩
    · with_reducible exact GOP_n
    · with_reducible refine GOP_s ?_
      with_reducible refine wf_State_putEntry _ _ _ ?_
      with_reducible exact GOP_u ha rfl
  · with_reducible split
    · with_reducible exact GOP_s h0
    · with_reducible exact GOP_n
theorem wf_State_mapPage (s : State) (t : Byte) (va pa : Nat) (h0 : W ν s) : GO ν (s.mapPage t va pa) := by
  unfold State.mapPage
  dsimp only
  with_reducible refine GO_b2 (wf_State_nextTable _ _ _ h0) ?_
  with_reducible intro a v h
  dsimp only
  with_reducible refine GO_b2 (wf_State_nextTable _ _ _ h) ?_
  with_reducible intro a v h
  dsimp only
  with_reducible refine GO_b2 (wf_State_nextTable _ _ _ h) ?_
  with_reducible intro a v h
  dsimp only
  with_reducible refine GO_b2 (wf_State_nextTable _ _ _ h) ?_
  with_reducible intro a v h
  dsimp only
  with_reducible refine GO_s ?_
  with_reducible exact wf_State_putEntry _ _ _ h
theorem wf_State_mapBytes (s : State) (t : Byte) (va : Nat) (bs : List Byte) (n : Nat) (h0 : W ν s) : GO ν (s.mapBytes t va bs n) := by
  induction n generalizing s va bs with
  | zero => unfold State.mapBytes; exact GO_s h0
  | succ n ih =>
    have ha := wf_State_allocFrame s h0
    unfold State.mapBytes
    generalize s.allocFrame = o at ha
    split
    · exact GO_n
    · rcases o with _ | ⟨pa, u⟩
      · exact GO_n
      · have hb := wf_State_mapPage u t va pa (GOP_u ha rfl)
        dsimp only
        generalize u.mapPage t va pa = o at hb
        rcases o with _ | w
        · exact GO_n
        · have hc := GO_u hb rfl
          exact ih _ _ _ (wf_State_addFrames _ _ _ _ (W_mem hc (M_put _ _ (toW hc))))
theorem wf_State_putRegions (s : State) (p : Nat) (es : List (List Byte)) (h0 : W ν s) : W ν (Sys2Proof.Machine.State.putRegions s p es) := by
  unfold Sys2Proof.Machine.State.putRegions; repeat' (first | (with_reducible assumption) | (with_reducible apply wf_State_setWinFld) | (with_reducible apply wf_State_physWriteBytes))
theorem wf_State_putCaps (s : State) (t : Byte) (es : List (List Byte)) (h0 : W ν s) : W ν (Sys2Proof.Machine.State.putCaps s t es) := by
  unfold Sys2Proof.Machine.State.putCaps; repeat' (first | (with_reducible assumption) | (with_reducible apply wf_State_setWinFld) | (with_reducible apply wf_State_physWriteBytes))
theorem wf_State_mapSection (s : State) (t : Byte) (p va msize : Nat) (bs : List Byte) (x : Bool) (rights : Nat) (h0 : W ν s) : GO ν (Sys2Proof.Machine.State.mapSection s t p va msize bs x rights) := by
  unfold Sys2Proof.Machine.State.mapSection; repeat' (first | (with_reducible assumption) | ((try lift_lets -underBinder); intro x) | (with_reducible apply wf_State_mapBytes) | (with_reducible apply wf_State_putRegions) | (with_reducible apply wf_State_putCaps) | (with_reducible apply GO_s) | (with_reducible apply GO_n) | (with_reducible refine GO_u ?_ (by with_reducible assumption)) | split)
theorem wf_State_pickBase (s : State) (t : Byte) (p n : Nat) (pages : List Nat) (h0 : W ν s) : GP ν (Sys2Proof.Machine.State.pickBase s t p n pages) := by
  unfold Sys2Proof.Machine.State.pickBase; repeat' (first | (with_reducible assumption) | (with_reducible apply wf_State_fresh_2) | (with_reducible apply GP_m))
theorem wf_State_pickBase_2 (s : State) (t : Byte) (p n : Nat) (pages : List Nat) (h0 : W ν s) : W ν (Sys2Proof.Machine.State.pickBase s t p n pages).2 := wf_State_pickBase s t p n pages h0
theorem wf_State_mapImage (s : State) (t : Byte) (p b : Nat) (bs : List Byte) (l : Linking) (h0 : W ν s) : GO ν (Sys2Proof.Machine.State.mapImage s t p b bs l) := by
  unfold Sys2Proof.Machine.State.mapImage; repeat' (first | (with_reducible assumption) | ((try lift_lets -underBinder); intro x) | (with_reducible apply wf_State_mapSection) | (with_reducible refine GO_b1 ?_ ?_))
theorem wf_State_loadFolio (s : State) (t : Byte) (bs : List Byte) (h0 : W ν s) : GP ν (Sys2Proof.Machine.State.loadFolio s t bs) := by
  unfold Sys2Proof.Machine.State.loadFolio; repeat' (first | (with_reducible assumption) | ((try lift_lets -underBinder); intro x) | (with_reducible apply wf_State_pickBase_2) | (with_reducible apply wf_State_mapImage) | (with_reducible refine toW (ν := ν) ?_) | (with_reducible apply toN) | ((with_reducible refine W_mk ?_ ?_) <;> dsimp -zeta only) | (with_reducible apply GP_m) | (with_reducible refine GO_u ?_ (by with_reducible assumption)) | split)
theorem wf_State_loadFolio_2 (s : State) (t : Byte) (bs : List Byte) (h0 : W ν s) : W ν (Sys2Proof.Machine.State.loadFolio s t bs).2 := wf_State_loadFolio s t bs h0
theorem wf_execFolioLoad (t : BitVec 8) (folio : List (BitVec 8)) (s : State) (h0 : W ν s) : OutW ν (Sys2Proof.Machine.execFolioLoad t folio s) := by
  unfold Sys2Proof.Machine.execFolioLoad; repeat' (first | (with_reducible assumption) | ((try lift_lets -underBinder); intro x; refine W_cut (ν := ν) x ?_ ?_ <;> first | (intro hx; clear_value x) | unfold x) | ((try lift_lets -underBinder); intro x) | (with_reducible apply wf_State_loadFolio_2) | (with_reducible apply OutW_next) | (with_reducible refine toW (ν := ν) ?_) | (with_reducible apply toN) | ((with_reducible refine W_mk ?_ ?_) <;> dsimp -zeta only) | (with_reducible apply W_ite))
theorem wf_State_unmapPage (s : State) (t : Byte) (va : Nat) (h0 : W ν s) : W ν (Sys2Proof.Machine.State.unmapPage s t va) := by
  unfold Sys2Proof.Machine.State.unmapPage; repeat' (first | (with_reducible assumption) | (with_reducible apply wf_State_putEntry) | (with_reducible apply wf_State_pushFrame) | (with_reducible apply wf_State_addFrames) | (with_reducible apply wf_State_dropPage) | (with_reducible apply wf_State_recallFrame) | split)
theorem wf_State_unmapImage (s : State) (im : Image) (h0 : W ν s) : W ν (Sys2Proof.Machine.State.unmapImage s im) := by
  unfold Sys2Proof.Machine.State.unmapImage; repeat' (first | (with_reducible assumption) | ((try lift_lets -underBinder); intro x; refine W_cut (ν := ν) x ?_ ?_ <;> first | (intro hx; clear_value x) | unfold x) | ((try lift_lets -underBinder); intro x) | (with_reducible apply wf_State_dropCode) | (with_reducible apply wf_State_putRegions) | (with_reducible apply wf_State_putCaps) | (with_reducible apply wf_State_unmapPage) | (with_reducible refine foldl_wf _ _ ?_ _ ?_; first | (intro x y hxy) | skip) | (with_reducible refine toW (ν := ν) ?_) | (with_reducible apply toN) | ((with_reducible refine W_mk ?_ ?_) <;> dsimp -zeta only))
theorem wf_execImageUnmap (n : Nat) (s : State) (h0 : W ν s) : OutW ν (Sys2Proof.Machine.execImageUnmap n s) := by
  unfold Sys2Proof.Machine.execImageUnmap; repeat' (first | (with_reducible assumption) | ((try lift_lets -underBinder); intro x) | (with_reducible apply wf_State_unmapImage) | (with_reducible apply OutW_next) | (with_reducible apply OutW_ite) | (with_reducible refine toW (ν := ν) ?_) | (with_reducible apply toN) | ((with_reducible refine W_mk ?_ ?_) <;> dsimp -zeta only) | (with_reducible apply W_ite) | split)
theorem wf_State_mxRun (s : State) (k : Nat) (h0 : W ν s) : W ν (Sys2Proof.Machine.State.mxRun s k) := by
  unfold Sys2Proof.Machine.State.mxRun; repeat' (first | (with_reducible assumption) | ((try lift_lets -underBinder); intro x) | (with_reducible apply wf_State_setCore))
theorem wf_State_setAcc (s : State) (c : Cmd) (r : Regs) (h0 : W ν s) : W ν (Sys2Proof.Machine.State.setAcc s c r) :=
  wf_State_onOwner _ _ _ _ (fun _ h => wf_State_setRegs _ _ _ h) h0
theorem wf_State_mxDone (s : State) (k : Nat) (c : Cmd) (r : Regs) (h0 : W ν s) : OutW ν (Sys2Proof.Machine.State.mxDone s k c r) := by
  unfold Sys2Proof.Machine.State.mxDone; repeat' (first | (with_reducible assumption) | (with_reducible apply wf_State_setAcc) | (with_reducible apply wf_State_finishCmd) | (with_reducible apply wf_State_mxRun) | (with_reducible apply OutW_next))
theorem wf_State_mxFail (s : State) (k : Nat) (c : Cmd) (reason : Nat) (h0 : W ν s) : OutW ν (Sys2Proof.Machine.State.mxFail s k c reason) := by
  unfold Sys2Proof.Machine.State.mxFail; repeat' (first | (with_reducible assumption) | (with_reducible apply wf_State_finishCmd) | (with_reducible apply wf_State_mxRun) | (with_reducible apply OutW_next))
theorem wf_execMxZero (g : BitVec 6) (c : BitVec 4) (s : State) (h0 : W ν s) : OutW ν (Sys2Proof.Machine.execMxZero g c s) := by
  unfold Sys2Proof.Machine.execMxZero; repeat' (first | (with_reducible assumption) | (with_reducible apply wf_State_mxDone) | (with_reducible apply OutW_next) | split)
theorem wf_execMxMul (g : BitVec 6) (c : BitVec 4) (s : State) (h0 : W ν s) : OutW ν (Sys2Proof.Machine.execMxMul g c s) := by
  unfold Sys2Proof.Machine.execMxMul; repeat' (first | (with_reducible assumption) | ((try lift_lets -underBinder); intro x) | (with_reducible apply wf_State_stashLost) | (with_reducible apply wf_State_mxDone) | (with_reducible apply wf_State_mxFail) | (with_reducible apply OutW_next) | (with_reducible apply OutW_ite) | split)
theorem wf_execMxSpmul (g : BitVec 6) (c : BitVec 4) (s : State) (h0 : W ν s) : OutW ν (Sys2Proof.Machine.execMxSpmul g c s) := by
  unfold Sys2Proof.Machine.execMxSpmul; repeat' (first | (with_reducible assumption) | ((try lift_lets -underBinder); intro x) | (with_reducible apply wf_State_stashLost) | (with_reducible apply wf_State_mxDone) | (with_reducible apply wf_State_mxFail) | (with_reducible apply OutW_next) | (with_reducible apply OutW_ite) | split)
theorem wf_execMxEpi (g : BitVec 6) (c : BitVec 4) (s : State) (h0 : W ν s) : OutW ν (Sys2Proof.Machine.execMxEpi g c s) := by
  unfold Sys2Proof.Machine.execMxEpi; repeat' (first | (with_reducible assumption) | ((try lift_lets -underBinder); intro x; refine W_cut (ν := ν) x ?_ ?_ <;> first | (intro hx; clear_value x) | unfold x) | ((try lift_lets -underBinder); intro x) | (with_reducible apply wf_State_setAcc) | (with_reducible apply wf_State_stashPut) | (with_reducible apply wf_runActs_1) | (with_reducible apply wf_runActs_3) | (with_reducible apply wf_State_stopCmd) | (with_reducible apply wf_State_mxRun) | (with_reducible apply OutW_next) | (with_reducible apply W_ite) | split)
theorem wf_execMxBase (g : BitVec 6) (c : BitVec 4) (s : State) (h0 : W ν s) : OutW ν (Sys2Proof.Machine.execMxBase g c s) := by
  unfold Sys2Proof.Machine.execMxBase; repeat' (first | (with_reducible assumption) | ((try lift_lets -underBinder); intro x) | (with_reducible apply wf_State_mxDone) | (with_reducible apply OutW_next) | split)
theorem wf_State_launch (s : State) (cid : Nat) (m : Msg) (dev : Option Byte) (why : Purpose) (h0 : W ν s) : W ν (Sys2Proof.Machine.State.launch s cid m dev why) := by
  unfold Sys2Proof.Machine.State.launch; repeat' (first | (with_reducible assumption) | ((try lift_lets -underBinder); intro x) | (with_reducible refine toW (ν := ν) ?_) | (with_reducible apply toN) | ((with_reducible refine W_mk ?_ ?_) <;> dsimp -zeta only))
theorem wf_State_sendMsg (s : State) (d : Reg) (kind h pcid : Nat) (dev : Option Byte) (seq right : Nat) (v : VReg) (h0 : W ν s) : OutW ν (Sys2Proof.Machine.State.sendMsg s d kind h pcid dev seq right v) := by
  unfold Sys2Proof.Machine.State.sendMsg; repeat' (first | (with_reducible assumption) | ((try lift_lets -underBinder); intro x) | (with_reducible apply wf_State_setWait) | (with_reducible apply wf_State_done) | (with_reducible apply wf_State_launch) | (with_reducible apply OutW_next) | (with_reducible apply OutW_ite))
theorem wf_execSend (d a b : Reg) (s : State) (h0 : W ν s) : OutW ν (Sys2Proof.Machine.execSend d a b s) := by
  unfold Sys2Proof.Machine.execSend; repeat' (first | (with_reducible assumption) | ((try lift_lets -underBinder); intro x) | (with_reducible apply wf_State_sendMsg))
theorem wf_execSenda (d a b : Reg) (h : BitVec 6) (s : State) (h0 : W ν s) : OutW ν (Sys2Proof.Machine.execSenda d a b h s) := by
  unfold Sys2Proof.Machine.execSenda; repeat' (first | (with_reducible assumption) | ((try lift_lets -underBinder); intro x) | (with_reducible apply wf_State_sendMsg))
theorem wf_execReply (d b : Reg) (s : State) (h0 : W ν s) : OutW ν (Sys2Proof.Machine.execReply d b s) := by
  unfold Sys2Proof.Machine.execReply; repeat' (first | (with_reducible assumption) | ((try lift_lets -underBinder); intro x) | (with_reducible apply wf_State_done) | (with_reducible apply wf_State_sendMsg) | split)
theorem wf_State_setServer (s : State) (cid : Nat) (r : RedSrv) (h0 : W ν s) : W ν (Sys2Proof.Machine.State.setServer s cid r) := by
  unfold Sys2Proof.Machine.State.setServer; repeat' (first | (with_reducible assumption) | ((try lift_lets -underBinder); intro x) | (with_reducible apply wf_State_setSched) | split)
theorem wf_State_reduceIn (s : State) (cid : Nat) (r : RedSrv) (m : Msg) (h0 : W ν s) : GP ν (Sys2Proof.Machine.State.reduceIn s cid r m) := by
  unfold Sys2Proof.Machine.State.reduceIn; repeat' (first | (with_reducible assumption) | ((try lift_lets -underBinder); intro x; refine W_cut (ν := ν) x ?_ ?_ <;> first | (intro hx; clear_value x) | unfold x) | ((try lift_lets -underBinder); intro x) | (with_reducible apply wf_State_setCore) | (with_reducible apply wf_State_setServer) | (with_reducible apply GP_m) | split)
theorem wf_State_reduceIn_2 (s : State) (cid : Nat) (r : RedSrv) (m : Msg) (h0 : W ν s) : W ν (Sys2Proof.Machine.State.reduceIn s cid r m).2 := wf_State_reduceIn s cid r m h0
theorem wf_State_serverFault (s : State) (cid : Nat) (hdr : Word) (h0 : W ν s) : W ν (Sys2Proof.Machine.State.serverFault s cid hdr) := by
  unfold Sys2Proof.Machine.State.serverFault; repeat' (first | (with_reducible assumption) | ((try lift_lets -underBinder); intro x; refine W_cut (ν := ν) x ?_ ?_ <;> first | (intro hx; clear_value x) | unfold x) | ((try lift_lets -underBinder); intro x) | (with_reducible apply wf_State_setSched) | (with_reducible apply wf_State_suspend) | (with_reducible apply W_ite))
theorem wf_State_serve (s : State) (cid : Nat) (h0 : W ν s) : W ν (Sys2Proof.Machine.State.serve s cid) := by
  unfold Sys2Proof.Machine.State.serve; repeat' (first | (with_reducible assumption) | ((try lift_lets -underBinder); intro x) | (with_reducible apply wf_State_launch) | (with_reducible apply wf_State_setServer) | (with_reducible apply wf_State_serverFault) | (with_reducible apply W_ite) | split)
theorem wf_execRedsrv (a : Reg) (s : State) (h0 : W ν s) : OutW ν (Sys2Proof.Machine.execRedsrv a s) := by
  unfold Sys2Proof.Machine.execRedsrv; repeat' (first | (with_reducible assumption) | ((try lift_lets -underBinder); intro x) | (with_reducible apply wf_State_setWait) | (with_reducible apply wf_State_illegal) | (with_reducible apply OutW_next) | (with_reducible apply OutW_ite))
theorem wf_State_roundDone (s : State) (cid : Nat) (h0 : W ν s) : W ν (Sys2Proof.Machine.State.roundDone s cid) := by
  unfold Sys2Proof.Machine.State.roundDone; repeat' (first | (with_reducible assumption) | ((try lift_lets -underBinder); intro x; refine W_cut (ν := ν) x ?_ ?_ <;> first | (intro hx; clear_value x) | unfold x) | ((try lift_lets -underBinder); intro x) | (with_reducible apply wf_State_setCtx) | (with_reducible apply wf_State_setSched) | (with_reducible apply wf_State_setServer) | (with_reducible apply W_ite) | split)
theorem wf_State_intoInbox (s : State) (cid : Nat) (m : Msg) (h0 : W ν s) : GP ν (Sys2Proof.Machine.State.intoInbox s cid m) := by
  unfold Sys2Proof.Machine.State.intoInbox; repeat' (first | (with_reducible assumption) | ((try lift_lets -underBinder); intro x) | (with_reducible apply wf_State_setCtx) | (with_reducible apply wf_State_reduceIn_2) | (with_reducible apply GP_m) | split)
theorem wf_State_intoInbox_2 (s : State) (cid : Nat) (m : Msg) (h0 : W ν s) : W ν (Sys2Proof.Machine.State.intoInbox s cid m).2 := wf_State_intoInbox s cid m h0
theorem wf_State_deliver (s : State) (cid : Nat) (m : Msg) (h0 : W ν s) : GP ν (Sys2Proof.Machine.State.deliver s cid m) := by
  unfold Sys2Proof.Machine.State.deliver; repeat' (first | (with_reducible assumption) | ((try lift_lets -underBinder); intro x) | (with_reducible apply wf_State_intoInbox_2) | (with_reducible refine toW (ν := ν) ?_) | (with_reducible apply toN) | ((with_reducible refine W_mk ?_ ?_) <;> dsimp -zeta only) | (with_reducible apply GP_m) | split)
theorem wf_State_deliver_2 (s : State) (cid : Nat) (m : Msg) (h0 : W ν s) : W ν (Sys2Proof.Machine.State.deliver s cid m).2 := wf_State_deliver s cid m h0
theorem wf_State_setFlight (s : State) (n : Nat) (f : Flight) (h0 : W ν s) : W ν (Sys2Proof.Machine.State.setFlight s n f) := by
  unfold Sys2Proof.Machine.State.setFlight; repeat' (first | (with_reducible assumption) | (with_reducible refine toW (ν := ν) ?_) | (with_reducible apply toN) | ((with_reducible refine W_mk ?_ ?_) <;> dsimp -zeta only))
theorem wf_execMessageArrival (n : Nat) (s : State) (h0 : W ν s) : OutW ν (Sys2Proof.Machine.execMessageArrival n s) := by
  unfold Sys2Proof.Machine.execMessageArrival; repeat' (first | (with_reducible assumption) | (with_reducible apply wf_State_deliver_2) | (with_reducible apply wf_State_setFlight) | (with_reducible apply OutW_next) | (with_reducible apply OutW_ite) | split)
theorem wf_State_inbound (s : State) (f : Flight) (h0 : W ν s) : W ν (Sys2Proof.Machine.State.inbound s f) := by
  unfold Sys2Proof.Machine.State.inbound; repeat' (first | (with_reducible assumption) | ((try lift_lets -underBinder); intro x; refine W_cut (ν := ν) x ?_ ?_ <;> first | (intro hx; clear_value x) | unfold x) | ((try lift_lets -underBinder); intro x; have _q : _ → _ → State := x; try unfold x; clear x) | ((try lift_lets -underBinder); intro x) | (with_reducible apply wf_State_hear) | (with_reducible apply wf_State_deliver) | (with_reducible refine toW (ν := ν) ?_) | (with_reducible apply toN) | ((with_reducible refine W_mk ?_ ?_) <;> dsimp -zeta only) | (with_reducible refine GP_u ?_ (by with_reducible assumption)) | split)
theorem wf_State_remoteAnswer (s : State) (n : Nat) (a : Answer) (h0 : W ν s) : W ν (Sys2Proof.Machine.State.remoteAnswer s n a) := by
  unfold Sys2Proof.Machine.State.remoteAnswer; repeat' (first | (with_reducible assumption) | ((try lift_lets -underBinder); intro x) | (with_reducible apply wf_State_hear) | (with_reducible apply wf_State_setFlight) | (with_reducible apply W_ite) | split)
theorem wf_State_later (s : State) (n : Nat) (f : Flight) (h0 : W ν s) : W ν (Sys2Proof.Machine.State.later s n f) := by
  unfold Sys2Proof.Machine.State.later; repeat' (first | (with_reducible assumption) | (with_reducible apply wf_State_setFlight))
theorem wf_State_sendDone (s : State) (cid : Nat) (d : Reg) (x : Word) (h0 : W ν s) : W ν (Sys2Proof.Machine.State.sendDone s cid d x) := by
  unfold Sys2Proof.Machine.State.sendDone; repeat' (first | (with_reducible assumption) | ((try lift_lets -underBinder); intro x) | (with_reducible apply wf_State_setCtx) | split)
theorem wf_State_dropFlight (s : State) (f : Flight) (h0 : W ν s) : W ν (Sys2Proof.Machine.State.dropFlight s f) := by
  unfold Sys2Proof.Machine.State.dropFlight; repeat' (first | (with_reducible assumption) | (with_reducible apply wf_State_setHolder) | split)
theorem wf_State_handed (s : State) (cid : Nat) (h0 : W ν s) : W ν (Sys2Proof.Machine.State.handed s cid) := by
  unfold Sys2Proof.Machine.State.handed; repeat' (first | (with_reducible assumption) | ((try lift_lets -underBinder); intro x) | (with_reducible apply wf_State_setCtx))
theorem wf_execSendAnswer (n : Nat) (s : State) (h0 : W ν s) : OutW ν (Sys2Proof.Machine.execSendAnswer n s) := by
  unfold Sys2Proof.Machine.execSendAnswer; repeat' (first | (with_reducible assumption) | ((try lift_lets -underBinder); intro x; refine W_cut (ν := ν) x ?_ ?_ <;> first | (intro hx; clear_value x) | unfold x) | ((try lift_lets -underBinder); intro x) | (with_reducible apply wf_State_setHolder) | (with_reducible apply wf_State_onOwner) | (with_reducible apply wf_State_suspend) | (with_reducible apply wf_State_serverFault) | (with_reducible apply wf_State_roundDone) | (with_reducible apply wf_State_setFlight) | (with_reducible apply wf_State_later) | (with_reducible apply wf_State_sendDone) | (with_reducible apply wf_State_dropFlight) | (with_reducible apply wf_State_handed) | (with_reducible apply OutW_next) | (with_reducible apply OutW_ite) | (with_reducible refine toW (ν := ν) ?_) | (with_reducible apply toN) | ((with_reducible refine W_mk ?_ ?_) <;> dsimp -zeta only) | (with_reducible apply W_ite) | split)
theorem wf_execResend (n : Nat) (s : State) (h0 : W ν s) : OutW ν (Sys2Proof.Machine.execResend n s) := by
  unfold Sys2Proof.Machine.execResend; repeat' (first | (with_reducible assumption) | ((try lift_lets -underBinder); intro x; refine W_cut (ν := ν) x ?_ ?_ <;> first | (intro hx; clear_value x) | unfold x) | (with_reducible apply wf_State_setFlight) | (with_reducible apply OutW_next) | (with_reducible apply OutW_ite) | (with_reducible refine toW (ν := ν) ?_) | (with_reducible apply toN) | ((with_reducible refine W_mk ?_ ?_) <;> dsimp -zeta only) | split)
theorem wf_execMemoryInboxDrain (cid : BitVec 12) (s : State) (h0 : W ν s) : OutW ν (Sys2Proof.Machine.execMemoryInboxDrain cid s) := by
  unfold Sys2Proof.Machine.execMemoryInboxDrain; repeat' (first | (with_reducible assumption) | ((try lift_lets -underBinder); intro x) | (with_reducible apply wf_State_intoInbox) | (with_reducible apply OutW_next) | (with_reducible apply OutW_ite) | (with_reducible refine toW (ν := ν) ?_) | (with_reducible apply toN) | ((with_reducible refine W_mk ?_ ?_) <;> dsimp -zeta only) | (with_reducible refine GP_u ?_ (by with_reducible assumption)) | split)
theorem wf_State_take (s : State) (d b : Reg) (m : Msg) (h0 : W ν s) : W ν (Sys2Proof.Machine.State.take s d b m) := by
  unfold Sys2Proof.Machine.State.take; repeat' (first | (with_reducible assumption) | ((try lift_lets -underBinder); intro x; refine W_cut (ν := ν) x ?_ ?_ <;> first | (intro hx; clear_value x) | unfold x) | ((try lift_lets -underBinder); intro x) | (with_reducible apply wf_State_setSched) | (with_reducible apply wf_State_setS) | (with_reducible apply wf_State_setV) | (with_reducible apply wf_State_advance) | (with_reducible apply wf_State_dequeue))
theorem wf_execRecv (d b : Reg) (s : State) (h0 : W ν s) : OutW ν (Sys2Proof.Machine.execRecv d b s) := by
  unfold Sys2Proof.Machine.execRecv; repeat' (first | (with_reducible assumption) | (with_reducible apply wf_State_park) | (with_reducible apply wf_State_take) | (with_reducible apply OutW_next) | split)
theorem wf_execRecvp (d b : Reg) (s : State) (h0 : W ν s) : OutW ν (Sys2Proof.Machine.execRecvp d b s) := by
  unfold Sys2Proof.Machine.execRecvp; repeat' (first | (with_reducible assumption) | (with_reducible apply wf_State_done) | (with_reducible apply wf_State_take) | (with_reducible apply OutW_next) | split)
theorem wf_execRecvf (d a b : Reg) (s : State) (h0 : W ν s) : OutW ν (Sys2Proof.Machine.execRecvf d a b s) := by
  unfold Sys2Proof.Machine.execRecvf; repeat' (first | (with_reducible assumption) | (with_reducible apply wf_State_park) | (with_reducible apply wf_State_take) | (with_reducible apply OutW_next) | split)
theorem wf_execWaitForEdge (cid : BitVec 12) (s : State) (h0 : W ν s) : OutW ν (Sys2Proof.Machine.execWaitForEdge cid s) := by
  unfold Sys2Proof.Machine.execWaitForEdge; repeat' (first | (with_reducible assumption) | ((try lift_lets -underBinder); intro x) | (with_reducible apply wf_State_setSched) | (with_reducible apply OutW_next) | (with_reducible apply OutW_ite) | split)
theorem wf_execDeadlock (cid : BitVec 12) (s : State) (h0 : W ν s) : OutW ν (Sys2Proof.Machine.execDeadlock cid s) := by
  unfold Sys2Proof.Machine.execDeadlock; repeat' (first | (with_reducible assumption) | ((try lift_lets -underBinder); intro x) | (with_reducible apply wf_State_suspend) | (with_reducible apply OutW_next) | (with_reducible apply OutW_ite) | split)
theorem wf_State_htabFault (s : State) (h : BitVec 6) (h0 : W ν s) : OutW ν (Sys2Proof.Machine.State.htabFault s h) := by
  unfold Sys2Proof.Machine.State.htabFault; repeat' (first | (with_reducible assumption) | (with_reducible apply wf_State_suspend) | (with_reducible apply wf_State_fresh_2) | (with_reducible apply OutW_next))
theorem wf_State_setHandler (s : State) (h : BitVec 6) (e : HEntry) (h0 : W ν s) : W ν (Sys2Proof.Machine.State.setHandler s h e) := by
  unfold Sys2Proof.Machine.State.setHandler; repeat' (first | (with_reducible assumption) | ((try lift_lets -underBinder); intro x) | (with_reducible apply wf_State_setCore))
theorem wf_execHset (a : Reg) (h : BitVec 6) (s : State) (h0 : W ν s) : OutW ν (Sys2Proof.Machine.execHset a h s) := by
  unfold Sys2Proof.Machine.execHset; repeat' (first | (with_reducible assumption) | (with_reducible apply wf_State_advance) | (with_reducible apply wf_State_trap) | (with_reducible apply wf_State_illegal) | (with_reducible apply wf_State_htabFault) | (with_reducible apply wf_State_setHandler) | (with_reducible apply OutW_next) | (with_reducible apply OutW_ite))
theorem wf_execHend (h : BitVec 6) (s : State) (h0 : W ν s) : OutW ν (Sys2Proof.Machine.execHend h s) := by
  unfold Sys2Proof.Machine.execHend; repeat' (first | (with_reducible assumption) | ((try lift_lets -underBinder); intro x) | (with_reducible apply wf_State_advance) | (with_reducible apply wf_State_illegal) | (with_reducible apply wf_State_htabFault) | (with_reducible apply wf_State_setHandler) | (with_reducible apply OutW_next) | (with_reducible apply OutW_ite) | (with_reducible apply W_ite))
theorem wf_execHclr (h : BitVec 6) (s : State) (h0 : W ν s) : OutW ν (Sys2Proof.Machine.execHclr h s) := by
  unfold Sys2Proof.Machine.execHclr; repeat' (first | (with_reducible assumption) | (with_reducible apply wf_State_advance) | (with_reducible apply wf_State_illegal) | (with_reducible apply wf_State_htabFault) | (with_reducible apply wf_State_setHandler) | (with_reducible apply OutW_next) | (with_reducible apply OutW_ite))
theorem wf_execHandlerDispatch (g : BitVec 6) (c : BitVec 4) (s : State) (h0 : W ν s) : OutW ν (Sys2Proof.Machine.execHandlerDispatch g c s) := by
  unfold Sys2Proof.Machine.execHandlerDispatch; repeat' (first | (with_reducible assumption) | ((try lift_lets -underBinder); intro x) | (with_reducible apply wf_State_dispatch) | (with_reducible apply OutW_next) | (with_reducible apply W_ite))
theorem wf_State_flushRegion (s : State) (cid : Nat) (r : RegionEnt) (h0 : W ν s) : W ν (Sys2Proof.Machine.State.flushRegion s cid r) := by
  unfold Sys2Proof.Machine.State.flushRegion; repeat' (first | (with_reducible assumption) | (with_reducible apply wf_State_flushMap) | (with_reducible refine foldl_wf _ _ ?_ _ ?_; first | (intro x y hxy) | skip))
theorem wf_execHandover (a b : Reg) (s : State) (h0 : W ν s) : OutW ν (Sys2Proof.Machine.execHandover a b s) := by
  unfold Sys2Proof.Machine.execHandover; repeat' (first | (with_reducible assumption) | ((try lift_lets -underBinder); intro x; refine W_cut (ν := ν) x ?_ ?_ <;> first | (intro hx; clear_value x) | unfold x) | ((try lift_lets -underBinder); intro x) | (with_reducible apply wf_State_setWait) | (with_reducible apply wf_State_advance) | (with_reducible apply wf_State_setHolder) | (with_reducible apply wf_State_suspend) | (with_reducible apply wf_State_park) | (with_reducible apply wf_State_launch) | (with_reducible apply wf_State_flushRegion) | (with_reducible apply OutW_next) | (with_reducible apply OutW_ite) | split)
theorem wf_execArrive (c : BitVec 5) (s : State) (h0 : W ν s) : OutW ν (Sys2Proof.Machine.execArrive c s) := by
  unfold Sys2Proof.Machine.execArrive; repeat' (first | (with_reducible assumption) | (with_reducible apply wf_State_advance) | (with_reducible apply wf_State_arrive) | (with_reducible apply OutW_next) | (with_reducible apply OutW_ite))
theorem wf_State_leaveBar (s : State) (c : Nat) (h0 : W ν s) : W ν (Sys2Proof.Machine.State.leaveBar s c) := by
  unfold Sys2Proof.Machine.State.leaveBar; repeat' (first | (with_reducible assumption) | (with_reducible apply wf_State_advance) | (with_reducible apply wf_State_setBar))
theorem wf_execWaitb (c : BitVec 5) (s : State) (h0 : W ν s) : OutW ν (Sys2Proof.Machine.execWaitb c s) := by
  unfold Sys2Proof.Machine.execWaitb; repeat' (first | (with_reducible assumption) | (with_reducible apply wf_State_advance) | (with_reducible apply wf_State_park) | (with_reducible apply wf_State_leaveBar) | (with_reducible apply OutW_next) | (with_reducible apply OutW_ite) | split)
theorem wf_State_vote (s : State) (d a : Reg) (c : BitVec 5) (isAnd : Bool) (h0 : W ν s) : OutW ν (Sys2Proof.Machine.State.vote s d a c isAnd) := by
  unfold Sys2Proof.Machine.State.vote; repeat' (first | (with_reducible assumption) | ((try lift_lets -underBinder); intro x; refine W_cut (ν := ν) x ?_ ?_ <;> first | (intro hx; clear_value x) | unfold x) | ((try lift_lets -underBinder); intro x) | (with_reducible apply wf_State_setS) | (with_reducible apply wf_State_done) | (with_reducible apply wf_State_arrive) | (with_reducible apply wf_State_park) | (with_reducible apply wf_State_leaveBar) | (with_reducible apply OutW_next) | (with_reducible apply OutW_ite))
theorem wf_execVoteAnd (d a : Reg) (c : BitVec 5) (s : State) (h0 : W ν s) : OutW ν (Sys2Proof.Machine.execVoteAnd d a c s) := by
  unfold Sys2Proof.Machine.execVoteAnd; repeat' (first | (with_reducible assumption) | (with_reducible apply wf_State_vote))
theorem wf_execVoteOr (d a : Reg) (c : BitVec 5) (s : State) (h0 : W ν s) : OutW ν (Sys2Proof.Machine.execVoteOr d a c s) := by
  unfold Sys2Proof.Machine.execVoteOr; repeat' (first | (with_reducible assumption) | (with_reducible apply wf_State_vote))
theorem wf_execSstep (s : State) (h0 : W ν s) : OutW ν (Sys2Proof.Machine.execSstep s) := by
  unfold Sys2Proof.Machine.execSstep; repeat' (first | (with_reducible assumption) | ((try lift_lets -underBinder); intro x; refine W_cut (ν := ν) x ?_ ?_ <;> first | (intro hx; clear_value x) | unfold x) | (with_reducible apply wf_State_advance) | (with_reducible apply wf_State_arrive) | (with_reducible apply wf_State_park) | (with_reducible apply wf_State_leaveBar) | (with_reducible apply OutW_next) | (with_reducible apply OutW_ite))
theorem wf_execSpawn (d a : Reg) (s : State) (h0 : W ν s) : OutW ν (Sys2Proof.Machine.execSpawn d a s) := by
  unfold Sys2Proof.Machine.execSpawn; repeat' (first | (with_reducible assumption) | ((try lift_lets -underBinder); intro x) | (with_reducible apply wf_State_setCore) | (with_reducible apply wf_State_done) | (with_reducible apply wf_State_trap) | (with_reducible apply wf_State_illegal) | (with_reducible apply wf_State_check) | (with_reducible apply wf_State_readPlace) | (with_reducible apply OutW_next) | (with_reducible apply OutW_ite) | (with_reducible refine GC_u ?_ (by with_reducible assumption)) | (with_reducible refine GC_v ?_ (by with_reducible assumption)) | (with_reducible refine GLd_u ?_ (by with_reducible assumption)) | (with_reducible refine GLd_v ?_ (by with_reducible assumption)) | split)
theorem wf_execYield (s : State) (h0 : W ν s) : OutW ν (Sys2Proof.Machine.execYield s) := by
  unfold Sys2Proof.Machine.execYield; repeat' (first | (with_reducible assumption) | ((try lift_lets -underBinder); intro x; refine W_cut (ν := ν) x ?_ ?_ <;> first | (intro hx; clear_value x) | unfold x) | ((try lift_lets -underBinder); intro x) | (with_reducible apply wf_State_setSched) | (with_reducible apply wf_State_advance) | (with_reducible apply wf_State_detach) | (with_reducible apply wf_State_illegal) | (with_reducible apply OutW_next) | (with_reducible apply OutW_ite))
theorem wf_execFinish (s : State) (h0 : W ν s) : OutW ν (Sys2Proof.Machine.execFinish s) := by
  unfold Sys2Proof.Machine.execFinish; repeat' (first | (with_reducible assumption) | (with_reducible apply wf_State_illegal) | (with_reducible apply wf_State_finish) | (with_reducible apply OutW_ite))
theorem wf_execStealoff (s : State) (h0 : W ν s) : OutW ν (Sys2Proof.Machine.execStealoff s) := by
  unfold Sys2Proof.Machine.execStealoff; repeat' (first | (with_reducible assumption) | ((try lift_lets -underBinder); intro x) | (with_reducible apply wf_State_setSched) | (with_reducible apply wf_State_advance) | (with_reducible apply wf_State_illegal) | (with_reducible apply OutW_next) | (with_reducible apply OutW_ite))
theorem wf_execAdd (d a b : Reg) (s : State) (h0 : W ν s) : OutW ν (Sys2Proof.Machine.execAdd d a b s) := by
  unfold Sys2Proof.Machine.execAdd; repeat' (first | (with_reducible assumption) | (with_reducible apply wf_State_done))
theorem wf_execSub (d a b : Reg) (s : State) (h0 : W ν s) : OutW ν (Sys2Proof.Machine.execSub d a b s) := by
  unfold Sys2Proof.Machine.execSub; repeat' (first | (with_reducible assumption) | (with_reducible apply wf_State_done))
theorem wf_execAnd (d a b : Reg) (s : State) (h0 : W ν s) : OutW ν (Sys2Proof.Machine.execAnd d a b s) := by
  unfold Sys2Proof.Machine.execAnd; repeat' (first | (with_reducible assumption) | (with_reducible apply wf_State_done))
theorem wf_execOr (d a b : Reg) (s : State) (h0 : W ν s) : OutW ν (Sys2Proof.Machine.execOr d a b s) := by
  unfold Sys2Proof.Machine.execOr; repeat' (first | (with_reducible assumption) | (with_reducible apply wf_State_done))
theorem wf_execXor (d a b : Reg) (s : State) (h0 : W ν s) : OutW ν (Sys2Proof.Machine.execXor d a b s) := by
  unfold Sys2Proof.Machine.execXor; repeat' (first | (with_reducible assumption) | (with_reducible apply wf_State_done))
theorem wf_execAndn (d a b : Reg) (s : State) (h0 : W ν s) : OutW ν (Sys2Proof.Machine.execAndn d a b s) := by
  unfold Sys2Proof.Machine.execAndn; repeat' (first | (with_reducible assumption) | (with_reducible apply wf_State_done))
theorem wf_execOrn (d a b : Reg) (s : State) (h0 : W ν s) : OutW ν (Sys2Proof.Machine.execOrn d a b s) := by
  unfold Sys2Proof.Machine.execOrn; repeat' (first | (with_reducible assumption) | (with_reducible apply wf_State_done))
theorem wf_execXnor (d a b : Reg) (s : State) (h0 : W ν s) : OutW ν (Sys2Proof.Machine.execXnor d a b s) := by
  unfold Sys2Proof.Machine.execXnor; repeat' (first | (with_reducible assumption) | (with_reducible apply wf_State_done))
theorem wf_execSll (d a b : Reg) (s : State) (h0 : W ν s) : OutW ν (Sys2Proof.Machine.execSll d a b s) := by
  unfold Sys2Proof.Machine.execSll; repeat' (first | (with_reducible assumption) | (with_reducible apply wf_State_done))
theorem wf_execSrl (d a b : Reg) (s : State) (h0 : W ν s) : OutW ν (Sys2Proof.Machine.execSrl d a b s) := by
  unfold Sys2Proof.Machine.execSrl; repeat' (first | (with_reducible assumption) | (with_reducible apply wf_State_done))
theorem wf_execSra (d a b : Reg) (s : State) (h0 : W ν s) : OutW ν (Sys2Proof.Machine.execSra d a b s) := by
  unfold Sys2Proof.Machine.execSra; repeat' (first | (with_reducible assumption) | (with_reducible apply wf_State_done))
theorem wf_execRol (d a b : Reg) (s : State) (h0 : W ν s) : OutW ν (Sys2Proof.Machine.execRol d a b s) := by
  unfold Sys2Proof.Machine.execRol; repeat' (first | (with_reducible assumption) | (with_reducible apply wf_State_done))
theorem wf_execRor (d a b : Reg) (s : State) (h0 : W ν s) : OutW ν (Sys2Proof.Machine.execRor d a b s) := by
  unfold Sys2Proof.Machine.execRor; repeat' (first | (with_reducible assumption) | (with_reducible apply wf_State_done))
theorem wf_execAddw (d a b : Reg) (s : State) (h0 : W ν s) : OutW ν (Sys2Proof.Machine.execAddw d a b s) := by
  unfold Sys2Proof.Machine.execAddw; repeat' (first | (with_reducible assumption) | (with_reducible apply wf_State_done))
theorem wf_execSubw (d a b : Reg) (s : State) (h0 : W ν s) : OutW ν (Sys2Proof.Machine.execSubw d a b s) := by
  unfold Sys2Proof.Machine.execSubw; repeat' (first | (with_reducible assumption) | (with_reducible apply wf_State_done))
theorem wf_execSllw (d a b : Reg) (s : State) (h0 : W ν s) : OutW ν (Sys2Proof.Machine.execSllw d a b s) := by
  unfold Sys2Proof.Machine.execSllw; repeat' (first | (with_reducible assumption) | (with_reducible apply wf_State_done))
theorem wf_execSrlw (d a b : Reg) (s : State) (h0 : W ν s) : OutW ν (Sys2Proof.Machine.execSrlw d a b s) := by
  unfold Sys2Proof.Machine.execSrlw; repeat' (first | (with_reducible assumption) | (with_reducible apply wf_State_done))
theorem wf_execSraw (d a b : Reg) (s : State) (h0 : W ν s) : OutW ν (Sys2Proof.Machine.execSraw d a b s) := by
  unfold Sys2Proof.Machine.execSraw; repeat' (first | (with_reducible assumption) | (with_reducible apply wf_State_done))
theorem wf_execMin (d a b : Reg) (s : State) (h0 : W ν s) : OutW ν (Sys2Proof.Machine.execMin d a b s) := by
  unfold Sys2Proof.Machine.execMin; repeat' (first | (with_reducible assumption) | (with_reducible apply wf_State_done))
theorem wf_execMax (d a b : Reg) (s : State) (h0 : W ν s) : OutW ν (Sys2Proof.Machine.execMax d a b s) := by
  unfold Sys2Proof.Machine.execMax; repeat' (first | (with_reducible assumption) | (with_reducible apply wf_State_done))
theorem wf_execMinu (d a b : Reg) (s : State) (h0 : W ν s) : OutW ν (Sys2Proof.Machine.execMinu d a b s) := by
  unfold Sys2Proof.Machine.execMinu; repeat' (first | (with_reducible assumption) | (with_reducible apply wf_State_done))
theorem wf_execMaxu (d a b : Reg) (s : State) (h0 : W ν s) : OutW ν (Sys2Proof.Machine.execMaxu d a b s) := by
  unfold Sys2Proof.Machine.execMaxu; repeat' (first | (with_reducible assumption) | (with_reducible apply wf_State_done))
theorem wf_execAddsat (d a b : Reg) (s : State) (h0 : W ν s) : OutW ν (Sys2Proof.Machine.execAddsat d a b s) := by
  unfold Sys2Proof.Machine.execAddsat; repeat' (first | (with_reducible assumption) | (with_reducible apply wf_State_done))
theorem wf_execSubsat (d a b : Reg) (s : State) (h0 : W ν s) : OutW ν (Sys2Proof.Machine.execSubsat d a b s) := by
  unfold Sys2Proof.Machine.execSubsat; repeat' (first | (with_reducible assumption) | (with_reducible apply wf_State_done))
theorem wf_execSeq (d a b : Reg) (s : State) (h0 : W ν s) : OutW ν (Sys2Proof.Machine.execSeq d a b s) := by
  unfold Sys2Proof.Machine.execSeq; repeat' (first | (with_reducible assumption) | (with_reducible apply wf_State_done))
theorem wf_execSne (d a b : Reg) (s : State) (h0 : W ν s) : OutW ν (Sys2Proof.Machine.execSne d a b s) := by
  unfold Sys2Proof.Machine.execSne; repeat' (first | (with_reducible assumption) | (with_reducible apply wf_State_done))
theorem wf_execSlt (d a b : Reg) (s : State) (h0 : W ν s) : OutW ν (Sys2Proof.Machine.execSlt d a b s) := by
  unfold Sys2Proof.Machine.execSlt; repeat' (first | (with_reducible assumption) | (with_reducible apply wf_State_done))
theorem wf_execSltu (d a b : Reg) (s : State) (h0 : W ν s) : OutW ν (Sys2Proof.Machine.execSltu d a b s) := by
  unfold Sys2Proof.Machine.execSltu; repeat' (first | (with_reducible assumption) | (with_reducible apply wf_State_done))
theorem wf_execSge (d a b : Reg) (s : State) (h0 : W ν s) : OutW ν (Sys2Proof.Machine.execSge d a b s) := by
  unfold Sys2Proof.Machine.execSge; repeat' (first | (with_reducible assumption) | (with_reducible apply wf_State_done))
theorem wf_execSgeu (d a b : Reg) (s : State) (h0 : W ν s) : OutW ν (Sys2Proof.Machine.execSgeu d a b s) := by
  unfold Sys2Proof.Machine.execSgeu; repeat' (first | (with_reducible assumption) | (with_reducible apply wf_State_done))
theorem wf_execCmovz (d a b : Reg) (s : State) (h0 : W ν s) : OutW ν (Sys2Proof.Machine.execCmovz d a b s) := by
  unfold Sys2Proof.Machine.execCmovz; repeat' (first | (with_reducible assumption) | (with_reducible apply wf_State_done))
theorem wf_execCmovnz (d a b : Reg) (s : State) (h0 : W ν s) : OutW ν (Sys2Proof.Machine.execCmovnz d a b s) := by
  unfold Sys2Proof.Machine.execCmovnz; repeat' (first | (with_reducible assumption) | (with_reducible apply wf_State_done))
theorem wf_execClz (d a : Reg) (s : State) (h0 : W ν s) : OutW ν (Sys2Proof.Machine.execClz d a s) := by
  unfold Sys2Proof.Machine.execClz; repeat' (first | (with_reducible assumption) | (with_reducible apply wf_State_done))
theorem wf_execCtz (d a : Reg) (s : State) (h0 : W ν s) : OutW ν (Sys2Proof.Machine.execCtz d a s) := by
  unfold Sys2Proof.Machine.execCtz; repeat' (first | (with_reducible assumption) | (with_reducible apply wf_State_done))
theorem wf_execPopc (d a : Reg) (s : State) (h0 : W ν s) : OutW ν (Sys2Proof.Machine.execPopc d a s) := by
  unfold Sys2Proof.Machine.execPopc; repeat' (first | (with_reducible assumption) | (with_reducible apply wf_State_done))
theorem wf_execBrev (d a : Reg) (s : State) (h0 : W ν s) : OutW ν (Sys2Proof.Machine.execBrev d a s) := by
  unfold Sys2Proof.Machine.execBrev; repeat' (first | (with_reducible assumption) | (with_reducible apply wf_State_done))
theorem wf_execBswap (d a : Reg) (s : State) (h0 : W ν s) : OutW ν (Sys2Proof.Machine.execBswap d a s) := by
  unfold Sys2Proof.Machine.execBswap; repeat' (first | (with_reducible assumption) | (with_reducible apply wf_State_done))
theorem wf_execExtr (d a b : Reg) (s : State) (h0 : W ν s) : OutW ν (Sys2Proof.Machine.execExtr d a b s) := by
  unfold Sys2Proof.Machine.execExtr; repeat' (first | (with_reducible assumption) | (with_reducible apply wf_State_done))
theorem wf_execExtrs (d a b : Reg) (s : State) (h0 : W ν s) : OutW ν (Sys2Proof.Machine.execExtrs d a b s) := by
  unfold Sys2Proof.Machine.execExtrs; repeat' (first | (with_reducible assumption) | (with_reducible apply wf_State_done))
theorem wf_execInsr (d a b : Reg) (s : State) (h0 : W ν s) : OutW ν (Sys2Proof.Machine.execInsr d a b s) := by
  unfold Sys2Proof.Machine.execInsr; repeat' (first | (with_reducible assumption) | (with_reducible apply wf_State_done))
theorem wf_execMul (d a b : Reg) (s : State) (h0 : W ν s) : OutW ν (Sys2Proof.Machine.execMul d a b s) := by
  unfold Sys2Proof.Machine.execMul; repeat' (first | (with_reducible assumption) | (with_reducible apply wf_State_done))
theorem wf_execMulh (d a b : Reg) (s : State) (h0 : W ν s) : OutW ν (Sys2Proof.Machine.execMulh d a b s) := by
  unfold Sys2Proof.Machine.execMulh; repeat' (first | (with_reducible assumption) | (with_reducible apply wf_State_done))
theorem wf_execMulhu (d a b : Reg) (s : State) (h0 : W ν s) : OutW ν (Sys2Proof.Machine.execMulhu d a b s) := by
  unfold Sys2Proof.Machine.execMulhu; repeat' (first | (with_reducible assumption) | (with_reducible apply wf_State_done))
theorem wf_execMulhm (d a b : Reg) (s : State) (h0 : W ν s) : OutW ν (Sys2Proof.Machine.execMulhm d a b s) := by
  unfold Sys2Proof.Machine.execMulhm; repeat' (first | (with_reducible assumption) | (with_reducible apply wf_State_done))
theorem wf_execMulw (d a b : Reg) (s : State) (h0 : W ν s) : OutW ν (Sys2Proof.Machine.execMulw d a b s) := by
  unfold Sys2Proof.Machine.execMulw; repeat' (first | (with_reducible assumption) | (with_reducible apply wf_State_done))
theorem wf_execDiv (d a b : Reg) (s : State) (h0 : W ν s) : OutW ν (Sys2Proof.Machine.execDiv d a b s) := by
  unfold Sys2Proof.Machine.execDiv; repeat' (first | (with_reducible assumption) | (with_reducible apply wf_State_done))
theorem wf_execDivu (d a b : Reg) (s : State) (h0 : W ν s) : OutW ν (Sys2Proof.Machine.execDivu d a b s) := by
  unfold Sys2Proof.Machine.execDivu; repeat' (first | (with_reducible assumption) | (with_reducible apply wf_State_done))
theorem wf_execRem (d a b : Reg) (s : State) (h0 : W ν s) : OutW ν (Sys2Proof.Machine.execRem d a b s) := by
  unfold Sys2Proof.Machine.execRem; repeat' (first | (with_reducible assumption) | (with_reducible apply wf_State_done))
theorem wf_execRemu (d a b : Reg) (s : State) (h0 : W ν s) : OutW ν (Sys2Proof.Machine.execRemu d a b s) := by
  unfold Sys2Proof.Machine.execRemu; repeat' (first | (with_reducible assumption) | (with_reducible apply wf_State_done))
theorem wf_execDivw (d a b : Reg) (s : State) (h0 : W ν s) : OutW ν (Sys2Proof.Machine.execDivw d a b s) := by
  unfold Sys2Proof.Machine.execDivw; repeat' (first | (with_reducible assumption) | (with_reducible apply wf_State_done))
theorem wf_execDivuw (d a b : Reg) (s : State) (h0 : W ν s) : OutW ν (Sys2Proof.Machine.execDivuw d a b s) := by
  unfold Sys2Proof.Machine.execDivuw; repeat' (first | (with_reducible assumption) | (with_reducible apply wf_State_done))
theorem wf_execRemw (d a b : Reg) (s : State) (h0 : W ν s) : OutW ν (Sys2Proof.Machine.execRemw d a b s) := by
  unfold Sys2Proof.Machine.execRemw; repeat' (first | (with_reducible assumption) | (with_reducible apply wf_State_done))
theorem wf_execRemuw (d a b : Reg) (s : State) (h0 : W ν s) : OutW ν (Sys2Proof.Machine.execRemuw d a b s) := by
  unfold Sys2Proof.Machine.execRemuw; repeat' (first | (with_reducible assumption) | (with_reducible apply wf_State_done))
theorem wf_execAddi (d a : Reg) (i : BitVec 16) (s : State) (h0 : W ν s) : OutW ν (Sys2Proof.Machine.execAddi d a i s) := by
  unfold Sys2Proof.Machine.execAddi; repeat' (first | (with_reducible assumption) | (with_reducible apply wf_State_done))
theorem wf_execAndi (d a : Reg) (i : BitVec 16) (s : State) (h0 : W ν s) : OutW ν (Sys2Proof.Machine.execAndi d a i s) := by
  unfold Sys2Proof.Machine.execAndi; repeat' (first | (with_reducible assumption) | (with_reducible apply wf_State_done))
theorem wf_execOri (d a : Reg) (i : BitVec 16) (s : State) (h0 : W ν s) : OutW ν (Sys2Proof.Machine.execOri d a i s) := by
  unfold Sys2Proof.Machine.execOri; repeat' (first | (with_reducible assumption) | (with_reducible apply wf_State_done))
theorem wf_execXori (d a : Reg) (i : BitVec 16) (s : State) (h0 : W ν s) : OutW ν (Sys2Proof.Machine.execXori d a i s) := by
  unfold Sys2Proof.Machine.execXori; repeat' (first | (with_reducible assumption) | (with_reducible apply wf_State_done))
theorem wf_execSlli (d a : Reg) (n : BitVec 6) (s : State) (h0 : W ν s) : OutW ν (Sys2Proof.Machine.execSlli d a n s) := by
  unfold Sys2Proof.Machine.execSlli; repeat' (first | (with_reducible assumption) | (with_reducible apply wf_State_done))
theorem wf_execSrli (d a : Reg) (n : BitVec 6) (s : State) (h0 : W ν s) : OutW ν (Sys2Proof.Machine.execSrli d a n s) := by
  unfold Sys2Proof.Machine.execSrli; repeat' (first | (with_reducible assumption) | (with_reducible apply wf_State_done))
theorem wf_execSrai (d a : Reg) (n : BitVec 6) (s : State) (h0 : W ν s) : OutW ν (Sys2Proof.Machine.execSrai d a n s) := by
  unfold Sys2Proof.Machine.execSrai; repeat' (first | (with_reducible assumption) | (with_reducible apply wf_State_done))
theorem wf_execRori (d a : Reg) (n : BitVec 6) (s : State) (h0 : W ν s) : OutW ν (Sys2Proof.Machine.execRori d a n s) := by
  unfold Sys2Proof.Machine.execRori; repeat' (first | (with_reducible assumption) | (with_reducible apply wf_State_done))
theorem wf_execSlliw (d a : Reg) (n : BitVec 5) (s : State) (h0 : W ν s) : OutW ν (Sys2Proof.Machine.execSlliw d a n s) := by
  unfold Sys2Proof.Machine.execSlliw; repeat' (first | (with_reducible assumption) | (with_reducible apply wf_State_done))
theorem wf_execSrliw (d a : Reg) (n : BitVec 5) (s : State) (h0 : W ν s) : OutW ν (Sys2Proof.Machine.execSrliw d a n s) := by
  unfold Sys2Proof.Machine.execSrliw; repeat' (first | (with_reducible assumption) | (with_reducible apply wf_State_done))
theorem wf_execSraiw (d a : Reg) (n : BitVec 5) (s : State) (h0 : W ν s) : OutW ν (Sys2Proof.Machine.execSraiw d a n s) := by
  unfold Sys2Proof.Machine.execSraiw; repeat' (first | (with_reducible assumption) | (with_reducible apply wf_State_done))
theorem wf_execSlti (d a : Reg) (i : BitVec 15) (s : State) (h0 : W ν s) : OutW ν (Sys2Proof.Machine.execSlti d a i s) := by
  unfold Sys2Proof.Machine.execSlti; repeat' (first | (with_reducible assumption) | (with_reducible apply wf_State_done))
theorem wf_execSltiu (d a : Reg) (i : BitVec 15) (s : State) (h0 : W ν s) : OutW ν (Sys2Proof.Machine.execSltiu d a i s) := by
  unfold Sys2Proof.Machine.execSltiu; repeat' (first | (with_reducible assumption) | (with_reducible apply wf_State_done))
theorem wf_execLui (d : Reg) (i : BitVec 21) (s : State) (h0 : W ν s) : OutW ν (Sys2Proof.Machine.execLui d i s) := by
  unfold Sys2Proof.Machine.execLui; repeat' (first | (with_reducible assumption) | (with_reducible apply wf_State_done))
theorem wf_execAddpc (d : Reg) (i : BitVec 21) (s : State) (h0 : W ν s) : OutW ν (Sys2Proof.Machine.execAddpc d i s) := by
  unfold Sys2Proof.Machine.execAddpc; repeat' (first | (with_reducible assumption) | (with_reducible apply wf_State_done))
theorem wf_State_decodeX (s : State) (g k : Nat) (h0 : W ν s) : W ν (Sys2Proof.Machine.State.decode! s g k) := by
  unfold Sys2Proof.Machine.State.decode!; repeat' (first | (with_reducible assumption) | ((try lift_lets -underBinder); intro x) | (with_reducible apply wf_State_setGath))
theorem wf_State_multicast (s : State) (g k : Nat) (d : Drift) (h0 : W ν s) : W ν (Sys2Proof.Machine.State.multicast s g k d) := by
  unfold Sys2Proof.Machine.State.multicast; repeat' (first | (with_reducible assumption) | ((try lift_lets -underBinder); intro x) | (with_reducible apply wf_State_setSched) | (with_reducible refine foldl_wf _ _ ?_ _ ?_; first | (intro x y hxy) | skip))
theorem wf_execStreamDeliver (g : BitVec 6) (k : BitVec 2) (s : State) (h0 : W ν s) : OutW ν (Sys2Proof.Machine.execStreamDeliver g k s) := by
  unfold Sys2Proof.Machine.execStreamDeliver; repeat' (first | (with_reducible assumption) | ((try lift_lets -underBinder); intro x; refine W_cut (ν := ν) x ?_ ?_ <;> first | (intro hx; clear_value x) | unfold x) | ((try lift_lets -underBinder); intro x) | (with_reducible apply wf_State_setStream) | (with_reducible apply wf_State_takeLine) | (with_reducible apply wf_State_tryAttach) | (with_reducible apply wf_State_decodeX) | (with_reducible apply wf_State_multicast) | (with_reducible refine foldl_wf _ _ ?_ _ ?_; first | (intro x y hxy) | skip) | (with_reducible apply OutW_next) | (with_reducible apply OutW_ite) | split)
theorem wf_execJoiningAttached (cid : BitVec 12) (s : State) (h0 : W ν s) : OutW ν (Sys2Proof.Machine.execJoiningAttached cid s) := by
  unfold Sys2Proof.Machine.execJoiningAttached; repeat' (first | (with_reducible assumption) | (with_reducible apply wf_State_tryAttach) | (with_reducible apply OutW_next))
theorem wf_execJoinTimeout (cid : BitVec 12) (s : State) (h0 : W ν s) : OutW ν (Sys2Proof.Machine.execJoinTimeout cid s) := by
  unfold Sys2Proof.Machine.execJoinTimeout; repeat' (first | (with_reducible assumption) | ((try lift_lets -underBinder); intro x) | (with_reducible apply wf_State_joinEnds) | (with_reducible apply OutW_next) | (with_reducible apply OutW_ite) | split)
theorem wf_execStreamHoldTimeout (g : BitVec 6) (k : BitVec 2) (s : State) (h0 : W ν s) : OutW ν (Sys2Proof.Machine.execStreamHoldTimeout g k s) := by
  unfold Sys2Proof.Machine.execStreamHoldTimeout; repeat' (first | (with_reducible assumption) | (with_reducible apply wf_State_endHold) | (with_reducible apply OutW_next) | (with_reducible apply OutW_ite) | split)
theorem wf_State_treePa (s : State) (c : Cmd) (off : Nat) (write : Bool) (h0 : W ν s) : GE ν (GP ν) (Sys2Proof.Machine.State.treePa s c off write) := by
  unfold Sys2Proof.Machine.State.treePa; repeat' (first | (with_reducible assumption) | ((try lift_lets -underBinder); intro x) | (with_reducible apply wf_State_tablesBad) | (with_reducible apply wf_State_markLeaf) | (with_reducible apply GP_m) | (with_reducible apply GE_ok) | (with_reducible apply GE_er) | (with_reducible apply GS_f) | (with_reducible apply GS_w) | (with_reducible apply GS_d) | split)
theorem wf_State_treeGet (s : State) (c : Cmd) (off n : Nat) (h0 : W ν s) : GE ν (GP ν) (Sys2Proof.Machine.State.treeGet s c off n) := by
  unfold Sys2Proof.Machine.State.treeGet; repeat' (first | (with_reducible assumption) | ((try lift_lets -underBinder); intro x) | (with_reducible apply wf_State_touch) | (with_reducible apply wf_State_poisoned) | (with_reducible apply wf_State_treePa) | (with_reducible refine GE_b2 ?_ ?_) | (with_reducible apply GP_m) | (with_reducible apply GE_ok) | (with_reducible apply GE_er) | (with_reducible apply GS_f) | (with_reducible apply GS_d) | (with_reducible refine GP_u ?_ (by with_reducible assumption)) | split)
theorem wf_State_treePut (s : State) (c : Cmd) (off n v : Nat) (h0 : W ν s) : GE ν (W ν) (Sys2Proof.Machine.State.treePut s c off n v) := by
  unfold Sys2Proof.Machine.State.treePut; repeat' (first | (with_reducible assumption) | ((try lift_lets -underBinder); intro x) | (with_reducible apply wf_State_physWrite) | (with_reducible apply wf_State_touch) | (with_reducible apply wf_State_treePa) | (with_reducible refine GE_b2 ?_ ?_) | (with_reducible apply GE_ok))
theorem wf_State_nodeSum (s : State) (c : Cmd) (l h : Nat) (h0 : W ν s) : GE ν (GP ν) (Sys2Proof.Machine.State.nodeSum s c l h) := by
  unfold Sys2Proof.Machine.State.nodeSum; repeat' (first | (with_reducible assumption) | (with_reducible apply wf_State_treeGet))
theorem wf_State_nodeMin (s : State) (c : Cmd) (l h : Nat) (h0 : W ν s) : GE ν (GP ν) (Sys2Proof.Machine.State.nodeMin s c l h) := by
  unfold Sys2Proof.Machine.State.nodeMin; repeat' (first | (with_reducible assumption) | (with_reducible apply wf_State_treeGet))
theorem wf_State_fixUp (s : State) (c : Cmd) (l n h : Nat) (h0 : W ν s) : GE ν (W ν) (s.fixUp c l n h) := by
  induction n generalizing s h with
  | zero => exact h0
  | succ n ih => unfold State.fixUp; repeat' (first | (with_reducible assumption) | ((try lift_lets -underBinder); intro x) | (with_reducible apply ih) | (with_reducible apply wf_State_treePut) | (with_reducible apply wf_State_nodeSum) | (with_reducible apply wf_State_nodeMin) | (with_reducible refine GE_b2 ?_ ?_) | (with_reducible refine GE_b1 ?_ ?_))
theorem wf_State_setTree (s : State) (t : Tree) (h0 : W ν s) : W ν (Sys2Proof.Machine.State.setTree s t) := by
  unfold Sys2Proof.Machine.State.setTree; repeat' (first | (with_reducible assumption) | (with_reducible refine toW (ν := ν) ?_) | (with_reducible apply toN) | ((with_reducible refine W_mk ?_ ?_) <;> dsimp -zeta only))
theorem wf_State_setLeaf (s : State) (c : Cmd) (t : Tree) (slot prio gen : Nat) (h0 : W ν s) : GE ν (GP ν) (Sys2Proof.Machine.State.setLeaf s c t slot prio gen) := by
  unfold Sys2Proof.Machine.State.setLeaf; repeat' (first | (with_reducible assumption) | ((try lift_lets -underBinder); intro x) | (with_reducible apply wf_State_treePut) | (with_reducible apply wf_State_nodeSum) | (with_reducible apply wf_State_nodeMin) | (with_reducible apply wf_State_fixUp) | (with_reducible refine GE_b2 ?_ ?_) | (with_reducible refine GE_b1 ?_ ?_) | (with_reducible apply GP_m) | (with_reducible apply GE_ok))
theorem wf_State_zeroTree (s : State) (c : Cmd) (n i : Nat) (h0 : W ν s) : GE ν (W ν) (s.zeroTree c n i) := by
  induction n generalizing s i with
  | zero => exact h0
  | succ n ih => unfold State.zeroTree; repeat' (first | (with_reducible assumption) | ((try lift_lets -underBinder); intro x) | (with_reducible apply ih) | (with_reducible apply wf_State_physWriteBytes) | (with_reducible apply wf_State_touch) | (with_reducible apply wf_State_treePa) | (with_reducible refine GE_b2 ?_ ?_))
theorem wf_State_resPut (s : State) (c : Cmd) (a n v : Nat) (h0 : W ν s) : GE ν (W ν) (Sys2Proof.Machine.State.resPut s c a n v) := by
  unfold Sys2Proof.Machine.State.resPut; repeat' (first | (with_reducible assumption) | (with_reducible apply wf_State_putAt) | (with_reducible refine toW (ν := ν) ?_) | (with_reducible apply toN) | ((with_reducible refine W_mk ?_ ?_) <;> dsimp -zeta only) | (with_reducible apply GE_ok) | (with_reducible apply GE_er) | (with_reducible apply GS_f) | split)
theorem wf_State_resGet (s : State) (c : Cmd) (a : Nat) (h0 : W ν s) : GE ν (GP ν) (Sys2Proof.Machine.State.resGet s c a) := by
  unfold Sys2Proof.Machine.State.resGet; repeat' (first | (with_reducible assumption) | (with_reducible apply wf_State_stashLost) | (with_reducible apply wf_State_getAt) | (with_reducible apply GP_m) | (with_reducible apply GE_ok) | (with_reducible apply GE_er) | (with_reducible apply GS_d) | split)
theorem wf_State_resPuts (s : State) (c : Cmd) (l : List Nat) (h0 : W ν s) : GR2 ν (Sys2Proof.Machine.State.resPuts s c l) := by
  unfold Sys2Proof.Machine.State.resPuts; repeat' (first | (with_reducible assumption) | ((try lift_lets -underBinder); intro x) | (with_reducible apply wf_runActs_1) | (with_reducible apply wf_runActs_3) | (with_reducible apply wf_State_resPut) | (with_reducible apply GR2_m))
theorem wf_State_resPuts_1 (s : State) (c : Cmd) (l : List Nat) (h0 : W ν s) : W ν (Sys2Proof.Machine.State.resPuts s c l).1 := (wf_State_resPuts s c l h0).1
theorem wf_State_resPuts_3 (s : State) (c : Cmd) (l : List Nat) (h0 : W ν s) : GW ν (Sys2Proof.Machine.State.resPuts s c l).2 := (wf_State_resPuts s c l h0).2
theorem wf_State_resGets (s : State) (c : Cmd) (n a : Nat) (h0 : W ν s) : GE ν (GP ν) (s.resGets c n a) := by
  induction n generalizing s a with
  | zero => exact h0
  | succ n ih => unfold State.resGets; repeat' (first | (with_reducible assumption) | ((try lift_lets -underBinder); intro x) | (with_reducible apply ih) | (with_reducible apply wf_State_resGet) | (with_reducible refine GE_b2 ?_ ?_) | (with_reducible apply GP_m) | (with_reducible apply GE_ok))
theorem wf_treeRun (s : State) (x : Except EStop TreeRun) (h0 : W ν s) (h1 : GE ν (GT ν) x) : GT ν (treeRun s x) := by
  cases x with
  | ok r => exact h1
  | error e => exact ⟨h0, h1⟩
theorem wf_treeRun_a (s : State) (x : Except EStop TreeRun) (h0 : W ν s) (h1 : GE ν (GT ν) x) : W ν (treeRun s x).after := (wf_treeRun s x h0 h1).1
theorem wf_treeRun_w (s : State) (x : Except EStop TreeRun) (h0 : W ν s) (h1 : GE ν (GT ν) x) : GW ν (treeRun s x).why := (wf_treeRun s x h0 h1).2
theorem wf_State_finishTree (s : State) (n : Nat) (x : TreeCmd) (reason res0 res1 : Nat) (h0 : W ν s) : W ν (Sys2Proof.Machine.State.finishTree s n x reason res0 res1) := by
  unfold Sys2Proof.Machine.State.finishTree; repeat' (first | (with_reducible assumption) | ((try lift_lets -underBinder); intro x) | (with_reducible apply wf_State_setCore) | (with_reducible refine toW (ν := ν) ?_) | (with_reducible apply toN) | ((with_reducible refine W_mk ?_ ?_) <;> dsimp -zeta only))
theorem wf_State_passLsn (s : State) (c : Cmd) (h0 : W ν s) : W ν (Sys2Proof.Machine.State.passLsn s c) := by
  unfold Sys2Proof.Machine.State.passLsn; repeat' (first | (with_reducible assumption) | ((try lift_lets -underBinder); intro x) | (with_reducible apply wf_State_setTree) | (with_reducible apply W_ite) | split)
theorem wf_State_applyTree (s : State) (n : Nat) (x : TreeCmd) (r : TreeRun) (h0 : W ν s) (h1 : GT ν r) : OutW ν (Sys2Proof.Machine.State.applyTree s n x r) := by
  unfold Sys2Proof.Machine.State.applyTree; repeat' (first | (with_reducible assumption) | (with_reducible apply wf_State_addWalk) | (with_reducible apply wf_State_finishTree) | (with_reducible apply wf_State_passLsn) | (with_reducible apply OutW_next) | (with_reducible refine GW_d ?_ (by with_reducible assumption)) | (with_reducible exact GT_a ‹GT ν _›) | (with_reducible exact GT_w ‹GT ν _›) | split)
theorem wf_State_treeEvent (s : State) (n kind : Nat) (run : State → Cmd → Tree → TreeRun) (h0 : W ν s) (hr : ∀ s c t, W ν s → GT ν (run s c t)) : OutW ν (s.treeEvent n kind run) := by
  have hr1 : ∀ s c t, W ν s → W ν (run s c t).after := fun s c t h => (hr s c t h).1
  have hr2 : ∀ s c t, W ν s → GW ν (run s c t).why := fun s c t h => (hr s c t h).2
  unfold State.treeEvent; repeat' (first | (with_reducible assumption) | (with_reducible apply hr) | (with_reducible apply wf_State_finishTree) | (with_reducible apply wf_State_applyTree) | (with_reducible apply OutW_next) | (with_reducible apply OutW_ite) | (with_reducible refine toW (ν := ν) ?_) | (with_reducible apply toN) | ((with_reducible refine W_mk ?_ ?_) <;> dsimp -zeta only) | split)
theorem wf_State_failHeld (s : State) (c : Cmd) (h0 : W ν s) : W ν (Sys2Proof.Machine.State.failHeld s c) := by
  unfold Sys2Proof.Machine.State.failHeld; repeat' (first | (with_reducible assumption) | ((try lift_lets -underBinder); intro x) | (with_reducible apply wf_State_finishTree) | (with_reducible refine foldl_wf _ _ ?_ _ ?_; first | (intro x y hxy) | skip) | (with_reducible apply W_ite))
theorem wf_execTrCfg (n : Nat) (s : State) (h0 : W ν s) : OutW ν (Sys2Proof.Machine.execTrCfg n s) := by
  unfold Sys2Proof.Machine.execTrCfg; repeat' (first | (with_reducible assumption) | ((try lift_lets -underBinder); intro x; refine W_cut (ν := ν) x ?_ ?_ <;> first | (intro hx; clear_value x) | unfold x) | ((try lift_lets -underBinder); intro x) | (with_reducible apply wf_State_treePa) | (with_reducible apply wf_State_setTree) | (with_reducible apply wf_State_zeroTree) | (with_reducible apply wf_treeRun) | (with_reducible apply wf_State_finishTree) | (with_reducible apply wf_State_applyTree) | (with_reducible apply wf_State_failHeld) | (with_reducible apply OutW_next) | (with_reducible apply OutW_ite) | (with_reducible refine GE_b2 ?_ ?_) | (with_reducible refine GE_b1 ?_ ?_) | (with_reducible refine toW (ν := ν) ?_) | (with_reducible apply toN) | ((with_reducible refine W_mk ?_ ?_) <;> dsimp -zeta only) | (with_reducible apply GE_ok) | (with_reducible apply GT_m) | (with_reducible apply GW_n) | split | (dsimp -zeta +zetaDelta only))
theorem wf_execTrIns (n : Nat) (s : State) (h0 : W ν s) : OutW ν (Sys2Proof.Machine.execTrIns n s) := by
  unfold Sys2Proof.Machine.execTrIns; repeat' (first | (with_reducible assumption) | ((try lift_lets -underBinder); intro x) | (with_reducible apply wf_State_treeGet) | (with_reducible apply wf_State_setTree) | (with_reducible apply wf_State_setLeaf) | (with_reducible apply wf_State_resPuts_1) | (with_reducible apply wf_State_resPuts_3) | (with_reducible apply wf_treeRun) | (with_reducible apply wf_State_treeEvent) | (with_reducible refine GE_b2 ?_ ?_) | (with_reducible apply GE_ok) | (with_reducible apply GT_m))
theorem wf_State_descend (s : State) (c : Cmd) (l n h x : Nat) (h0 : W ν s) : GE ν (GP ν) (s.descend c l n h x) := by
  induction n generalizing s h x with
  | zero => exact h0
  | succ n ih => unfold State.descend; repeat' (first | (with_reducible assumption) | ((try lift_lets -underBinder); intro x) | (with_reducible apply ih) | (with_reducible apply wf_State_nodeSum) | (with_reducible refine GE_b2 ?_ ?_) | (with_reducible apply GP_m) | (with_reducible refine GP_u ?_ (by with_reducible assumption)) | split)
theorem wf_State_drawRecs (s : State) (c : Cmd) (t : Tree) (k n j : Nat) (h0 : W ν s) : GE ν (GP ν) (s.drawRecs c t k n j) := by
  induction n generalizing s j with
  | zero => exact h0
  | succ n ih => unfold State.drawRecs; repeat' (first | (with_reducible assumption) | ((try lift_lets -underBinder); intro x) | (with_reducible apply ih) | (with_reducible apply wf_State_treeGet) | (with_reducible apply wf_State_descend) | (with_reducible refine GE_b2 ?_ ?_) | (with_reducible apply GP_m) | (with_reducible apply GE_ok))
theorem wf_execTrDraw (n : Nat) (s : State) (h0 : W ν s) : OutW ν (Sys2Proof.Machine.execTrDraw n s) := by
  unfold Sys2Proof.Machine.execTrDraw; repeat' (first | (with_reducible assumption) | ((try lift_lets -underBinder); intro x) | (with_reducible apply wf_State_resPuts_1) | (with_reducible apply wf_State_resPuts_3) | (with_reducible apply wf_treeRun_a) | (with_reducible apply wf_treeRun_w) | (with_reducible apply wf_State_treeEvent) | (with_reducible apply wf_State_drawRecs) | (with_reducible refine GE_b2 ?_ ?_) | (with_reducible refine toW (ν := ν) ?_) | (with_reducible apply toN) | ((with_reducible refine W_mk ?_ ?_) <;> dsimp -zeta only) | (with_reducible apply GE_ok) | (with_reducible apply GS_f) | (with_reducible apply GT_m) | (with_reducible apply GW_s) | split)
theorem wf_State_applyUpd (s : State) (c : Cmd) (t : Tree) (l : List (Nat × Nat × Nat)) (d : Nat) (h0 : W ν s) : GE ν (GPP ν) (s.applyUpd c t l d) := by
  induction l generalizing s t d with
  | nil => exact h0
  | cons x l ih => unfold State.applyUpd; repeat' (first | (with_reducible assumption) | ((try lift_lets -underBinder); intro x) | (with_reducible apply ih) | (with_reducible apply wf_State_treeGet) | (with_reducible apply wf_State_setLeaf) | (with_reducible refine GE_b2 ?_ ?_) | (with_reducible apply GP_m) | (with_reducible refine GP_u ?_ (by with_reducible assumption)) | split)
theorem wf_execTrUpd (n : Nat) (s : State) (h0 : W ν s) : OutW ν (Sys2Proof.Machine.execTrUpd n s) := by
  unfold Sys2Proof.Machine.execTrUpd; repeat' (first | (with_reducible assumption) | ((try lift_lets -underBinder); intro x) | (with_reducible apply wf_State_setTree) | (with_reducible apply wf_State_resGets) | (with_reducible apply wf_treeRun) | (with_reducible apply wf_State_treeEvent) | (with_reducible apply wf_State_applyUpd) | (with_reducible refine GE_b3 ?_ ?_) | (with_reducible refine GE_b2 ?_ ?_) | (with_reducible apply GP_m) | (with_reducible apply GE_ok) | (with_reducible apply GE_er) | (with_reducible apply GS_f) | (with_reducible apply GT_m) | (with_reducible apply GW_n) | (with_reducible refine GP_u ?_ (by with_reducible assumption)) | split)
theorem wf_execTrQry (n : Nat) (s : State) (h0 : W ν s) : OutW ν (Sys2Proof.Machine.execTrQry n s) := by
  unfold Sys2Proof.Machine.execTrQry; repeat' (first | (with_reducible assumption) | ((try lift_lets -underBinder); intro x) | (with_reducible apply wf_State_treeGet) | (with_reducible apply wf_State_resPuts_1) | (with_reducible apply wf_State_resPuts_3) | (with_reducible apply wf_treeRun_a) | (with_reducible apply wf_treeRun_w) | (with_reducible apply wf_State_treeEvent) | (with_reducible refine GE_b2 ?_ ?_) | (with_reducible refine toW (ν := ν) ?_) | (with_reducible apply toN) | ((with_reducible refine W_mk ?_ ?_) <;> dsimp -zeta only) | (with_reducible apply GE_ok) | (with_reducible apply GS_f) | (with_reducible apply GT_m) | (with_reducible apply GW_s) | split)
theorem wf_State_vdone (s : State) (d : Reg) (x : VReg) (h0 : W ν s) : OutW ν (Sys2Proof.Machine.State.vdone s d x) := by
  unfold Sys2Proof.Machine.State.vdone; repeat' (first | (with_reducible assumption) | (with_reducible apply wf_State_setV) | (with_reducible apply wf_State_advance) | (with_reducible apply OutW_next))
theorem wf_State_pdone (s : State) (d : BitVec 3) (x : PReg) (h0 : W ν s) : OutW ν (Sys2Proof.Machine.State.pdone s d x) := by
  unfold Sys2Proof.Machine.State.pdone; repeat' (first | (with_reducible assumption) | (with_reducible apply wf_State_setP) | (with_reducible apply wf_State_advance) | (with_reducible apply OutW_next))
theorem wf_State_vint (s : State) (d a b : Reg) (p : BitVec 3) (e : BitVec 2) (z : BitVec 1) (f : Nat → Nat → Nat → Nat → Nat) (h0 : W ν s) : OutW ν (Sys2Proof.Machine.State.vint s d a b p e z f) := by
  unfold Sys2Proof.Machine.State.vint; repeat' (first | (with_reducible assumption) | ((try lift_lets -underBinder); intro x) | (with_reducible apply wf_State_vdone))
theorem wf_State_vred (s : State) (d a : Reg) (p : BitVec 3) (e : BitVec 2) (f : Nat → Nat → Nat → Nat) (h0 : W ν s) : OutW ν (Sys2Proof.Machine.State.vred s d a p e f) := by
  unfold Sys2Proof.Machine.State.vred; repeat' (first | (with_reducible assumption) | ((try lift_lets -underBinder); intro x) | (with_reducible apply wf_State_vdone))
theorem wf_execVadd (d a b : Reg) (p : BitVec 3) (e : BitVec 2) (z : BitVec 1) (s : State) (h0 : W ν s) : OutW ν (Sys2Proof.Machine.execVadd d a b p e z s) := by
  unfold Sys2Proof.Machine.execVadd; repeat' (first | (with_reducible assumption) | (with_reducible apply wf_State_vint))
theorem wf_execVsub (d a b : Reg) (p : BitVec 3) (e : BitVec 2) (z : BitVec 1) (s : State) (h0 : W ν s) : OutW ν (Sys2Proof.Machine.execVsub d a b p e z s) := by
  unfold Sys2Proof.Machine.execVsub; repeat' (first | (with_reducible assumption) | (with_reducible apply wf_State_vint))
theorem wf_execVmul (d a b : Reg) (p : BitVec 3) (e : BitVec 2) (z : BitVec 1) (s : State) (h0 : W ν s) : OutW ν (Sys2Proof.Machine.execVmul d a b p e z s) := by
  unfold Sys2Proof.Machine.execVmul; repeat' (first | (with_reducible assumption) | (with_reducible apply wf_State_vint))
theorem wf_execVmulh (d a b : Reg) (p : BitVec 3) (e : BitVec 2) (z : BitVec 1) (s : State) (h0 : W ν s) : OutW ν (Sys2Proof.Machine.execVmulh d a b p e z s) := by
  unfold Sys2Proof.Machine.execVmulh; repeat' (first | (with_reducible assumption) | (with_reducible apply wf_State_vint))
theorem wf_execVmulhu (d a b : Reg) (p : BitVec 3) (e : BitVec 2) (z : BitVec 1) (s : State) (h0 : W ν s) : OutW ν (Sys2Proof.Machine.execVmulhu d a b p e z s) := by
  unfold Sys2Proof.Machine.execVmulhu; repeat' (first | (with_reducible assumption) | (with_reducible apply wf_State_vint))
theorem wf_execVmin (d a b : Reg) (p : BitVec 3) (e : BitVec 2) (z : BitVec 1) (s : State) (h0 : W ν s) : OutW ν (Sys2Proof.Machine.execVmin d a b p e z s) := by
  unfold Sys2Proof.Machine.execVmin; repeat' (first | (with_reducible assumption) | (with_reducible apply wf_State_vint))
theorem wf_execVmax (d a b : Reg) (p : BitVec 3) (e : BitVec 2) (z : BitVec 1) (s : State) (h0 : W ν s) : OutW ν (Sys2Proof.Machine.execVmax d a b p e z s) := by
  unfold Sys2Proof.Machine.execVmax; repeat' (first | (with_reducible assumption) | (with_reducible apply wf_State_vint))
theorem wf_execVminu (d a b : Reg) (p : BitVec 3) (e : BitVec 2) (z : BitVec 1) (s : State) (h0 : W ν s) : OutW ν (Sys2Proof.Machine.execVminu d a b p e z s) := by
  unfold Sys2Proof.Machine.execVminu; repeat' (first | (with_reducible assumption) | (with_reducible apply wf_State_vint))
theorem wf_execVmaxu (d a b : Reg) (p : BitVec 3) (e : BitVec 2) (z : BitVec 1) (s : State) (h0 : W ν s) : OutW ν (Sys2Proof.Machine.execVmaxu d a b p e z s) := by
  unfold Sys2Proof.Machine.execVmaxu; repeat' (first | (with_reducible assumption) | (with_reducible apply wf_State_vint))
theorem wf_execVand (d a b : Reg) (p : BitVec 3) (e : BitVec 2) (z : BitVec 1) (s : State) (h0 : W ν s) : OutW ν (Sys2Proof.Machine.execVand d a b p e z s) := by
  unfold Sys2Proof.Machine.execVand; repeat' (first | (with_reducible assumption) | (with_reducible apply wf_State_vint))
theorem wf_execVor (d a b : Reg) (p : BitVec 3) (e : BitVec 2) (z : BitVec 1) (s : State) (h0 : W ν s) : OutW ν (Sys2Proof.Machine.execVor d a b p e z s) := by
  unfold Sys2Proof.Machine.execVor; repeat' (first | (with_reducible assumption) | (with_reducible apply wf_State_vint))
theorem wf_execVxor (d a b : Reg) (p : BitVec 3) (e : BitVec 2) (z : BitVec 1) (s : State) (h0 : W ν s) : OutW ν (Sys2Proof.Machine.execVxor d a b p e z s) := by
  unfold Sys2Proof.Machine.execVxor; repeat' (first | (with_reducible assumption) | (with_reducible apply wf_State_vint))
theorem wf_execVsll (d a b : Reg) (p : BitVec 3) (e : BitVec 2) (z : BitVec 1) (s : State) (h0 : W ν s) : OutW ν (Sys2Proof.Machine.execVsll d a b p e z s) := by
  unfold Sys2Proof.Machine.execVsll; repeat' (first | (with_reducible assumption) | (with_reducible apply wf_State_vint))
theorem wf_execVsrl (d a b : Reg) (p : BitVec 3) (e : BitVec 2) (z : BitVec 1) (s : State) (h0 : W ν s) : OutW ν (Sys2Proof.Machine.execVsrl d a b p e z s) := by
  unfold Sys2Proof.Machine.execVsrl; repeat' (first | (with_reducible assumption) | (with_reducible apply wf_State_vint))
theorem wf_execVsra (d a b : Reg) (p : BitVec 3) (e : BitVec 2) (z : BitVec 1) (s : State) (h0 : W ν s) : OutW ν (Sys2Proof.Machine.execVsra d a b p e z s) := by
  unfold Sys2Proof.Machine.execVsra; repeat' (first | (with_reducible assumption) | (with_reducible apply wf_State_vint))
theorem wf_execVadds (d a b : Reg) (p : BitVec 3) (e : BitVec 2) (z : BitVec 1) (s : State) (h0 : W ν s) : OutW ν (Sys2Proof.Machine.execVadds d a b p e z s) := by
  unfold Sys2Proof.Machine.execVadds; repeat' (first | (with_reducible assumption) | (with_reducible apply wf_State_vint))
theorem wf_execVaddsu (d a b : Reg) (p : BitVec 3) (e : BitVec 2) (z : BitVec 1) (s : State) (h0 : W ν s) : OutW ν (Sys2Proof.Machine.execVaddsu d a b p e z s) := by
  unfold Sys2Proof.Machine.execVaddsu; repeat' (first | (with_reducible assumption) | (with_reducible apply wf_State_vint))
theorem wf_execVsubs (d a b : Reg) (p : BitVec 3) (e : BitVec 2) (z : BitVec 1) (s : State) (h0 : W ν s) : OutW ν (Sys2Proof.Machine.execVsubs d a b p e z s) := by
  unfold Sys2Proof.Machine.execVsubs; repeat' (first | (with_reducible assumption) | (with_reducible apply wf_State_vint))
theorem wf_execVsubsu (d a b : Reg) (p : BitVec 3) (e : BitVec 2) (z : BitVec 1) (s : State) (h0 : W ν s) : OutW ν (Sys2Proof.Machine.execVsubsu d a b p e z s) := by
  unfold Sys2Proof.Machine.execVsubsu; repeat' (first | (with_reducible assumption) | (with_reducible apply wf_State_vint))
theorem wf_execVabs (d a : Reg) (p : BitVec 3) (e : BitVec 2) (z : BitVec 1) (s : State) (h0 : W ν s) : OutW ν (Sys2Proof.Machine.execVabs d a p e z s) := by
  unfold Sys2Proof.Machine.execVabs; repeat' (first | (with_reducible assumption) | (with_reducible apply wf_State_vint))
theorem wf_execVmac (d a b : Reg) (p : BitVec 3) (e : BitVec 2) (z : BitVec 1) (s : State) (h0 : W ν s) : OutW ν (Sys2Proof.Machine.execVmac d a b p e z s) := by
  unfold Sys2Proof.Machine.execVmac; repeat' (first | (with_reducible assumption) | (with_reducible apply wf_State_vint))
theorem wf_execVdot4 (d a b : Reg) (p : BitVec 3) (z : BitVec 1) (s : State) (h0 : W ν s) : OutW ν (Sys2Proof.Machine.execVdot4 d a b p z s) := by
  unfold Sys2Proof.Machine.execVdot4; repeat' (first | (with_reducible assumption) | ((try lift_lets -underBinder); intro x) | (with_reducible apply wf_State_vdone))
theorem wf_execVredadd (d a : Reg) (p : BitVec 3) (e : BitVec 2) (s : State) (h0 : W ν s) : OutW ν (Sys2Proof.Machine.execVredadd d a p e s) := by
  unfold Sys2Proof.Machine.execVredadd; repeat' (first | (with_reducible assumption) | (with_reducible apply wf_State_vred))
theorem wf_execVredmin (d a : Reg) (p : BitVec 3) (e : BitVec 2) (s : State) (h0 : W ν s) : OutW ν (Sys2Proof.Machine.execVredmin d a p e s) := by
  unfold Sys2Proof.Machine.execVredmin; repeat' (first | (with_reducible assumption) | (with_reducible apply wf_State_vred))
theorem wf_execVredmax (d a : Reg) (p : BitVec 3) (e : BitVec 2) (s : State) (h0 : W ν s) : OutW ν (Sys2Proof.Machine.execVredmax d a p e s) := by
  unfold Sys2Proof.Machine.execVredmax; repeat' (first | (with_reducible assumption) | (with_reducible apply wf_State_vred))
theorem wf_execVredminu (d a : Reg) (p : BitVec 3) (e : BitVec 2) (s : State) (h0 : W ν s) : OutW ν (Sys2Proof.Machine.execVredminu d a p e s) := by
  unfold Sys2Proof.Machine.execVredminu; repeat' (first | (with_reducible assumption) | (with_reducible apply wf_State_vred))
theorem wf_execVredmaxu (d a : Reg) (p : BitVec 3) (e : BitVec 2) (s : State) (h0 : W ν s) : OutW ν (Sys2Proof.Machine.execVredmaxu d a p e s) := by
  unfold Sys2Proof.Machine.execVredmaxu; repeat' (first | (with_reducible assumption) | (with_reducible apply wf_State_vred))
theorem wf_execVbcast (d a : Reg) (e : BitVec 2) (s : State) (h0 : W ν s) : OutW ν (Sys2Proof.Machine.execVbcast d a e s) := by
  unfold Sys2Proof.Machine.execVbcast; repeat' (first | (with_reducible assumption) | ((try lift_lets -underBinder); intro x) | (with_reducible apply wf_State_vdone))
theorem wf_State_vfp (s : State) (d : Reg) (w : Nat) (p : PReg) (z : Bool) (old : VReg) (r : Nat → Rounded) (h0 : W ν s) : OutW ν (Sys2Proof.Machine.State.vfp s d w p z old r) := by
  unfold Sys2Proof.Machine.State.vfp; repeat' (first | (with_reducible assumption) | (with_reducible apply wf_State_addFlags) | (with_reducible apply wf_State_vdone))
theorem wf_State_vfp2 (s : State) (d a b : Reg) (p : BitVec 3) (e z f : BitVec 1) (op : Fmt → Mode → Nat → Nat → Nat → Rounded) (h0 : W ν s) : OutW ν (Sys2Proof.Machine.State.vfp2 s d a b p e z f op) := by
  unfold Sys2Proof.Machine.State.vfp2; repeat' (first | (with_reducible assumption) | ((try lift_lets -underBinder); intro x) | (with_reducible apply wf_State_vfp))
theorem wf_State_vfred (s : State) (d a : Reg) (p : BitVec 3) (e f : BitVec 1) (op : Fmt → Mode → Nat → Nat → Rounded) (h0 : W ν s) : OutW ν (Sys2Proof.Machine.State.vfred s d a p e f op) := by
  unfold Sys2Proof.Machine.State.vfred; repeat' (first | (with_reducible assumption) | ((try lift_lets -underBinder); intro x) | (with_reducible apply wf_State_addFlags) | (with_reducible apply wf_State_vdone))
theorem wf_execVfadd (d a b : Reg) (p : BitVec 3) (e z f : BitVec 1) (s : State) (h0 : W ν s) : OutW ν (Sys2Proof.Machine.execVfadd d a b p e z f s) := by
  unfold Sys2Proof.Machine.execVfadd; repeat' (first | (with_reducible assumption) | (with_reducible apply wf_State_vfp2))
theorem wf_execVfsub (d a b : Reg) (p : BitVec 3) (e z f : BitVec 1) (s : State) (h0 : W ν s) : OutW ν (Sys2Proof.Machine.execVfsub d a b p e z f s) := by
  unfold Sys2Proof.Machine.execVfsub; repeat' (first | (with_reducible assumption) | (with_reducible apply wf_State_vfp2))
theorem wf_execVfmul (d a b : Reg) (p : BitVec 3) (e z f : BitVec 1) (s : State) (h0 : W ν s) : OutW ν (Sys2Proof.Machine.execVfmul d a b p e z f s) := by
  unfold Sys2Proof.Machine.execVfmul; repeat' (first | (with_reducible assumption) | (with_reducible apply wf_State_vfp2))
theorem wf_execVfma (d a b : Reg) (p : BitVec 3) (e z f : BitVec 1) (s : State) (h0 : W ν s) : OutW ν (Sys2Proof.Machine.execVfma d a b p e z f s) := by
  unfold Sys2Proof.Machine.execVfma; repeat' (first | (with_reducible assumption) | (with_reducible apply wf_State_vfp2))
theorem wf_execVfms (d a b : Reg) (p : BitVec 3) (e z f : BitVec 1) (s : State) (h0 : W ν s) : OutW ν (Sys2Proof.Machine.execVfms d a b p e z f s) := by
  unfold Sys2Proof.Machine.execVfms; repeat' (first | (with_reducible assumption) | (with_reducible apply wf_State_vfp2))
theorem wf_execVfmin (d a b : Reg) (p : BitVec 3) (e z f : BitVec 1) (s : State) (h0 : W ν s) : OutW ν (Sys2Proof.Machine.execVfmin d a b p e z f s) := by
  unfold Sys2Proof.Machine.execVfmin; repeat' (first | (with_reducible assumption) | (with_reducible apply wf_State_vfp2))
theorem wf_execVfmax (d a b : Reg) (p : BitVec 3) (e z f : BitVec 1) (s : State) (h0 : W ν s) : OutW ν (Sys2Proof.Machine.execVfmax d a b p e z f s) := by
  unfold Sys2Proof.Machine.execVfmax; repeat' (first | (with_reducible assumption) | (with_reducible apply wf_State_vfp2))
theorem wf_execVfabs (d a : Reg) (p : BitVec 3) (e z f : BitVec 1) (s : State) (h0 : W ν s) : OutW ν (Sys2Proof.Machine.execVfabs d a p e z f s) := by
  unfold Sys2Proof.Machine.execVfabs; repeat' (first | (with_reducible assumption) | ((try lift_lets -underBinder); intro x) | (with_reducible apply wf_State_vdone))
theorem wf_execVfneg (d a : Reg) (p : BitVec 3) (e z f : BitVec 1) (s : State) (h0 : W ν s) : OutW ν (Sys2Proof.Machine.execVfneg d a p e z f s) := by
  unfold Sys2Proof.Machine.execVfneg; repeat' (first | (with_reducible assumption) | ((try lift_lets -underBinder); intro x) | (with_reducible apply wf_State_vdone))
theorem wf_execVfredadd (d a : Reg) (p : BitVec 3) (e f : BitVec 1) (s : State) (h0 : W ν s) : OutW ν (Sys2Proof.Machine.execVfredadd d a p e f s) := by
  unfold Sys2Proof.Machine.execVfredadd; repeat' (first | (with_reducible assumption) | (with_reducible apply wf_State_vfred))
theorem wf_execVfredmax (d a : Reg) (p : BitVec 3) (e f : BitVec 1) (s : State) (h0 : W ν s) : OutW ν (Sys2Proof.Machine.execVfredmax d a p e f s) := by
  unfold Sys2Proof.Machine.execVfredmax; repeat' (first | (with_reducible assumption) | (with_reducible apply wf_State_vfred))
theorem wf_execVfredmin (d a : Reg) (p : BitVec 3) (e f : BitVec 1) (s : State) (h0 : W ν s) : OutW ν (Sys2Proof.Machine.execVfredmin d a p e f s) := by
  unfold Sys2Proof.Machine.execVfredmin; repeat' (first | (with_reducible assumption) | (with_reducible apply wf_State_vfred))
theorem wf_execVfdot2 (d a b : Reg) (p : BitVec 3) (z f : BitVec 1) (s : State) (h0 : W ν s) : OutW ν (Sys2Proof.Machine.execVfdot2 d a b p z f s) := by
  unfold Sys2Proof.Machine.execVfdot2; repeat' (first | (with_reducible assumption) | ((try lift_lets -underBinder); intro x) | (with_reducible apply wf_State_vfp))
theorem wf_State_vcmp (s : State) (d : BitVec 3) (a b : Reg) (p : BitVec 3) (e : BitVec 2) (z : BitVec 1) (c : Nat → Nat → Nat → Bool) (h0 : W ν s) : OutW ν (Sys2Proof.Machine.State.vcmp s d a b p e z c) := by
  unfold Sys2Proof.Machine.State.vcmp; repeat' (first | (with_reducible assumption) | ((try lift_lets -underBinder); intro x) | (with_reducible apply wf_State_pdone))
theorem wf_State_vfcmp (s : State) (d : BitVec 3) (a b : Reg) (p : BitVec 3) (z : BitVec 1) (fm : Fmt) (c : Nat → Nat → Bool × BitVec 5) (h0 : W ν s) : OutW ν (Sys2Proof.Machine.State.vfcmp s d a b p z fm c) := by
  unfold Sys2Proof.Machine.State.vfcmp; repeat' (first | (with_reducible assumption) | ((try lift_lets -underBinder); intro x) | (with_reducible apply wf_State_addFlags) | (with_reducible apply wf_State_pdone))
theorem wf_execVceq (d : BitVec 3) (a b : Reg) (p : BitVec 3) (e : BitVec 2) (z : BitVec 1) (s : State) (h0 : W ν s) : OutW ν (Sys2Proof.Machine.execVceq d a b p e z s) := by
  unfold Sys2Proof.Machine.execVceq; repeat' (first | (with_reducible assumption) | (with_reducible apply wf_State_vcmp))
theorem wf_execVcne (d : BitVec 3) (a b : Reg) (p : BitVec 3) (e : BitVec 2) (z : BitVec 1) (s : State) (h0 : W ν s) : OutW ν (Sys2Proof.Machine.execVcne d a b p e z s) := by
  unfold Sys2Proof.Machine.execVcne; repeat' (first | (with_reducible assumption) | (with_reducible apply wf_State_vcmp))
theorem wf_execVclt (d : BitVec 3) (a b : Reg) (p : BitVec 3) (e : BitVec 2) (z : BitVec 1) (s : State) (h0 : W ν s) : OutW ν (Sys2Proof.Machine.execVclt d a b p e z s) := by
  unfold Sys2Proof.Machine.execVclt; repeat' (first | (with_reducible assumption) | (with_reducible apply wf_State_vcmp))
theorem wf_execVcle (d : BitVec 3) (a b : Reg) (p : BitVec 3) (e : BitVec 2) (z : BitVec 1) (s : State) (h0 : W ν s) : OutW ν (Sys2Proof.Machine.execVcle d a b p e z s) := by
  unfold Sys2Proof.Machine.execVcle; repeat' (first | (with_reducible assumption) | (with_reducible apply wf_State_vcmp))
theorem wf_execVcltu (d : BitVec 3) (a b : Reg) (p : BitVec 3) (e : BitVec 2) (z : BitVec 1) (s : State) (h0 : W ν s) : OutW ν (Sys2Proof.Machine.execVcltu d a b p e z s) := by
  unfold Sys2Proof.Machine.execVcltu; repeat' (first | (with_reducible assumption) | (with_reducible apply wf_State_vcmp))
theorem wf_execVcleu (d : BitVec 3) (a b : Reg) (p : BitVec 3) (e : BitVec 2) (z : BitVec 1) (s : State) (h0 : W ν s) : OutW ν (Sys2Proof.Machine.execVcleu d a b p e z s) := by
  unfold Sys2Proof.Machine.execVcleu; repeat' (first | (with_reducible assumption) | (with_reducible apply wf_State_vcmp))
theorem wf_execVfceq (d : BitVec 3) (a b : Reg) (p : BitVec 3) (e z : BitVec 1) (s : State) (h0 : W ν s) : OutW ν (Sys2Proof.Machine.execVfceq d a b p e z s) := by
  unfold Sys2Proof.Machine.execVfceq; repeat' (first | (with_reducible assumption) | ((try lift_lets -underBinder); intro x) | (with_reducible apply wf_State_vfcmp))
theorem wf_execVfclt (d : BitVec 3) (a b : Reg) (p : BitVec 3) (e z : BitVec 1) (s : State) (h0 : W ν s) : OutW ν (Sys2Proof.Machine.execVfclt d a b p e z s) := by
  unfold Sys2Proof.Machine.execVfclt; repeat' (first | (with_reducible assumption) | ((try lift_lets -underBinder); intro x) | (with_reducible apply wf_State_vfcmp))
theorem wf_execVfcle (d : BitVec 3) (a b : Reg) (p : BitVec 3) (e z : BitVec 1) (s : State) (h0 : W ν s) : OutW ν (Sys2Proof.Machine.execVfcle d a b p e z s) := by
  unfold Sys2Proof.Machine.execVfcle; repeat' (first | (with_reducible assumption) | ((try lift_lets -underBinder); intro x) | (with_reducible apply wf_State_vfcmp))
theorem wf_execVfcun (d : BitVec 3) (a b : Reg) (p : BitVec 3) (e z : BitVec 1) (s : State) (h0 : W ν s) : OutW ν (Sys2Proof.Machine.execVfcun d a b p e z s) := by
  unfold Sys2Proof.Machine.execVfcun; repeat' (first | (with_reducible assumption) | ((try lift_lets -underBinder); intro x) | (with_reducible apply wf_State_vfcmp))
theorem wf_execVfceqBf (d : BitVec 3) (a b : Reg) (p : BitVec 3) (z : BitVec 1) (s : State) (h0 : W ν s) : OutW ν (Sys2Proof.Machine.execVfceqBf d a b p z s) := by
  unfold Sys2Proof.Machine.execVfceqBf; repeat' (first | (with_reducible assumption) | (with_reducible apply wf_State_vfcmp))
theorem wf_execVfcltBf (d : BitVec 3) (a b : Reg) (p : BitVec 3) (z : BitVec 1) (s : State) (h0 : W ν s) : OutW ν (Sys2Proof.Machine.execVfcltBf d a b p z s) := by
  unfold Sys2Proof.Machine.execVfcltBf; repeat' (first | (with_reducible assumption) | (with_reducible apply wf_State_vfcmp))
theorem wf_execVfcleBf (d : BitVec 3) (a b : Reg) (p : BitVec 3) (z : BitVec 1) (s : State) (h0 : W ν s) : OutW ν (Sys2Proof.Machine.execVfcleBf d a b p z s) := by
  unfold Sys2Proof.Machine.execVfcleBf; repeat' (first | (with_reducible assumption) | (with_reducible apply wf_State_vfcmp))
theorem wf_execVfcunBf (d : BitVec 3) (a b : Reg) (p : BitVec 3) (z : BitVec 1) (s : State) (h0 : W ν s) : OutW ν (Sys2Proof.Machine.execVfcunBf d a b p z s) := by
  unfold Sys2Proof.Machine.execVfcunBf; repeat' (first | (with_reducible assumption) | (with_reducible apply wf_State_vfcmp))
theorem wf_execPand (d a b : BitVec 3) (s : State) (h0 : W ν s) : OutW ν (Sys2Proof.Machine.execPand d a b s) := by
  unfold Sys2Proof.Machine.execPand; repeat' (first | (with_reducible assumption) | (with_reducible apply wf_State_pdone))
theorem wf_execPor (d a b : BitVec 3) (s : State) (h0 : W ν s) : OutW ν (Sys2Proof.Machine.execPor d a b s) := by
  unfold Sys2Proof.Machine.execPor; repeat' (first | (with_reducible assumption) | (with_reducible apply wf_State_pdone))
theorem wf_execPxor (d a b : BitVec 3) (s : State) (h0 : W ν s) : OutW ν (Sys2Proof.Machine.execPxor d a b s) := by
  unfold Sys2Proof.Machine.execPxor; repeat' (first | (with_reducible assumption) | (with_reducible apply wf_State_pdone))
theorem wf_execPandn (d a b : BitVec 3) (s : State) (h0 : W ν s) : OutW ν (Sys2Proof.Machine.execPandn d a b s) := by
  unfold Sys2Proof.Machine.execPandn; repeat' (first | (with_reducible assumption) | (with_reducible apply wf_State_pdone))
theorem wf_execPnot (d a : BitVec 3) (s : State) (h0 : W ν s) : OutW ν (Sys2Proof.Machine.execPnot d a s) := by
  unfold Sys2Proof.Machine.execPnot; repeat' (first | (with_reducible assumption) | (with_reducible apply wf_State_pdone))
theorem wf_execPfirst (d a : BitVec 3) (s : State) (h0 : W ν s) : OutW ν (Sys2Proof.Machine.execPfirst d a s) := by
  unfold Sys2Proof.Machine.execPfirst; repeat' (first | (with_reducible assumption) | (with_reducible apply wf_State_pdone))
theorem wf_execPcnt (d : Reg) (a : BitVec 3) (s : State) (h0 : W ν s) : OutW ν (Sys2Proof.Machine.execPcnt d a s) := by
  unfold Sys2Proof.Machine.execPcnt; repeat' (first | (with_reducible assumption) | (with_reducible apply wf_State_done))
theorem wf_execPset (d : BitVec 3) (a : Reg) (s : State) (h0 : W ν s) : OutW ν (Sys2Proof.Machine.execPset d a s) := by
  unfold Sys2Proof.Machine.execPset; repeat' (first | (with_reducible assumption) | (with_reducible apply wf_State_pdone))
theorem wf_execPget (d : Reg) (a : BitVec 3) (s : State) (h0 : W ν s) : OutW ν (Sys2Proof.Machine.execPget d a s) := by
  unfold Sys2Proof.Machine.execPget; repeat' (first | (with_reducible assumption) | (with_reducible apply wf_State_done))
theorem wf_State_vperm (s : State) (d : Reg) (p : BitVec 3) (e : BitVec 2) (z : BitVec 1) (src : Nat → Nat → Nat) (h0 : W ν s) : OutW ν (Sys2Proof.Machine.State.vperm s d p e z src) := by
  unfold Sys2Proof.Machine.State.vperm; repeat' (first | (with_reducible assumption) | ((try lift_lets -underBinder); intro x) | (with_reducible apply wf_State_vdone))
theorem wf_execVperm (d a b : Reg) (p : BitVec 3) (e : BitVec 2) (z : BitVec 1) (s : State) (h0 : W ν s) : OutW ν (Sys2Proof.Machine.execVperm d a b p e z s) := by
  unfold Sys2Proof.Machine.execVperm; repeat' (first | (with_reducible assumption) | ((try lift_lets -underBinder); intro x) | (with_reducible apply wf_State_vperm))
theorem wf_execVsldup (d a b : Reg) (p : BitVec 3) (e : BitVec 2) (z : BitVec 1) (s : State) (h0 : W ν s) : OutW ν (Sys2Proof.Machine.execVsldup d a b p e z s) := by
  unfold Sys2Proof.Machine.execVsldup; repeat' (first | (with_reducible assumption) | ((try lift_lets -underBinder); intro x) | (with_reducible apply wf_State_vperm))
theorem wf_execVslddn (d a b : Reg) (p : BitVec 3) (e : BitVec 2) (z : BitVec 1) (s : State) (h0 : W ν s) : OutW ν (Sys2Proof.Machine.execVslddn d a b p e z s) := by
  unfold Sys2Proof.Machine.execVslddn; repeat' (first | (with_reducible assumption) | ((try lift_lets -underBinder); intro x) | (with_reducible apply wf_State_vperm))
theorem wf_execVziplo (d a b : Reg) (p : BitVec 3) (e : BitVec 2) (z : BitVec 1) (s : State) (h0 : W ν s) : OutW ν (Sys2Proof.Machine.execVziplo d a b p e z s) := by
  unfold Sys2Proof.Machine.execVziplo; repeat' (first | (with_reducible assumption) | ((try lift_lets -underBinder); intro x) | (with_reducible apply wf_State_vperm))
theorem wf_execVziphi (d a b : Reg) (p : BitVec 3) (e : BitVec 2) (z : BitVec 1) (s : State) (h0 : W ν s) : OutW ν (Sys2Proof.Machine.execVziphi d a b p e z s) := by
  unfold Sys2Proof.Machine.execVziphi; repeat' (first | (with_reducible assumption) | ((try lift_lets -underBinder); intro x) | (with_reducible apply wf_State_vperm))
theorem wf_execVuzpe (d a b : Reg) (p : BitVec 3) (e : BitVec 2) (z : BitVec 1) (s : State) (h0 : W ν s) : OutW ν (Sys2Proof.Machine.execVuzpe d a b p e z s) := by
  unfold Sys2Proof.Machine.execVuzpe; repeat' (first | (with_reducible assumption) | ((try lift_lets -underBinder); intro x) | (with_reducible apply wf_State_vperm))
theorem wf_execVuzpo (d a b : Reg) (p : BitVec 3) (e : BitVec 2) (z : BitVec 1) (s : State) (h0 : W ν s) : OutW ν (Sys2Proof.Machine.execVuzpo d a b p e z s) := by
  unfold Sys2Proof.Machine.execVuzpo; repeat' (first | (with_reducible assumption) | ((try lift_lets -underBinder); intro x) | (with_reducible apply wf_State_vperm))
theorem wf_execVcompr (d a : Reg) (p : BitVec 3) (e : BitVec 2) (s : State) (h0 : W ν s) : OutW ν (Sys2Proof.Machine.execVcompr d a p e s) := by
  unfold Sys2Proof.Machine.execVcompr; repeat' (first | (with_reducible assumption) | ((try lift_lets -underBinder); intro x) | (with_reducible apply wf_State_vdone))
theorem wf_execVexpnd (d a : Reg) (p : BitVec 3) (e : BitVec 2) (z : BitVec 1) (s : State) (h0 : W ν s) : OutW ν (Sys2Proof.Machine.execVexpnd d a p e z s) := by
  unfold Sys2Proof.Machine.execVexpnd; repeat' (first | (with_reducible assumption) | ((try lift_lets -underBinder); intro x) | (with_reducible apply wf_State_vperm))
theorem wf_execVins (d a b : Reg) (e : BitVec 2) (s : State) (h0 : W ν s) : OutW ν (Sys2Proof.Machine.execVins d a b e s) := by
  unfold Sys2Proof.Machine.execVins; repeat' (first | (with_reducible assumption) | ((try lift_lets -underBinder); intro x) | (with_reducible apply wf_State_vdone))
theorem wf_execVext (d a : Reg) (k : BitVec 4) (e : BitVec 2) (s : State) (h0 : W ν s) : OutW ν (Sys2Proof.Machine.execVext d a k e s) := by
  unfold Sys2Proof.Machine.execVext; repeat' (first | (with_reducible assumption) | (with_reducible apply wf_State_done))
theorem wf_execVcvtfi (d a : Reg) (p : BitVec 3) (e z : BitVec 1) (s : State) (h0 : W ν s) : OutW ν (Sys2Proof.Machine.execVcvtfi d a p e z s) := by
  unfold Sys2Proof.Machine.execVcvtfi; repeat' (first | (with_reducible assumption) | ((try lift_lets -underBinder); intro x) | (with_reducible apply wf_State_vfp))
theorem wf_execVcvtif (d a : Reg) (p : BitVec 3) (e z : BitVec 1) (s : State) (h0 : W ν s) : OutW ν (Sys2Proof.Machine.execVcvtif d a p e z s) := by
  unfold Sys2Proof.Machine.execVcvtif; repeat' (first | (with_reducible assumption) | ((try lift_lets -underBinder); intro x) | (with_reducible apply wf_State_vfp))
theorem wf_State_vwiden (s : State) (d a : Reg) (src : Fmt) (k : Nat) (p : BitVec 3) (z : BitVec 1) (h0 : W ν s) : OutW ν (Sys2Proof.Machine.State.vwiden s d a src k p z) := by
  unfold Sys2Proof.Machine.State.vwiden; repeat' (first | (with_reducible assumption) | ((try lift_lets -underBinder); intro x) | (with_reducible apply wf_State_vfp))
theorem wf_State_vnarrow (s : State) (d a : Reg) (dst : Fmt) (k : Nat) (p : BitVec 3) (z : BitVec 1) (h0 : W ν s) : OutW ν (Sys2Proof.Machine.State.vnarrow s d a dst k p z) := by
  unfold Sys2Proof.Machine.State.vnarrow; repeat' (first | (with_reducible assumption) | ((try lift_lets -underBinder); intro x) | (with_reducible apply wf_State_addFlags) | (with_reducible apply wf_State_vdone))
theorem wf_execVcvtwh (d a : Reg) (h : BitVec 1) (p : BitVec 3) (z : BitVec 1) (s : State) (h0 : W ν s) : OutW ν (Sys2Proof.Machine.execVcvtwh d a h p z s) := by
  unfold Sys2Proof.Machine.execVcvtwh; repeat' (first | (with_reducible assumption) | (with_reducible apply wf_State_vwiden))
theorem wf_execVcvtwb (d a : Reg) (h : BitVec 1) (p : BitVec 3) (z : BitVec 1) (s : State) (h0 : W ν s) : OutW ν (Sys2Proof.Machine.execVcvtwb d a h p z s) := by
  unfold Sys2Proof.Machine.execVcvtwb; repeat' (first | (with_reducible assumption) | (with_reducible apply wf_State_vwiden))
theorem wf_execVcvtnh (d a : Reg) (h : BitVec 1) (p : BitVec 3) (z : BitVec 1) (s : State) (h0 : W ν s) : OutW ν (Sys2Proof.Machine.execVcvtnh d a h p z s) := by
  unfold Sys2Proof.Machine.execVcvtnh; repeat' (first | (with_reducible assumption) | (with_reducible apply wf_State_vnarrow))
theorem wf_execVcvtnb (d a : Reg) (h : BitVec 1) (p : BitVec 3) (z : BitVec 1) (s : State) (h0 : W ν s) : OutW ν (Sys2Proof.Machine.execVcvtnb d a h p z s) := by
  unfold Sys2Proof.Machine.execVcvtnb; repeat' (first | (with_reducible assumption) | (with_reducible apply wf_State_vnarrow))
theorem wf_execVcvtw8e4 (d a : Reg) (q : BitVec 2) (p : BitVec 3) (z : BitVec 1) (s : State) (h0 : W ν s) : OutW ν (Sys2Proof.Machine.execVcvtw8e4 d a q p z s) := by
  unfold Sys2Proof.Machine.execVcvtw8e4; repeat' (first | (with_reducible assumption) | (with_reducible apply wf_State_vwiden))
theorem wf_execVcvtw8e5 (d a : Reg) (q : BitVec 2) (p : BitVec 3) (z : BitVec 1) (s : State) (h0 : W ν s) : OutW ν (Sys2Proof.Machine.execVcvtw8e5 d a q p z s) := by
  unfold Sys2Proof.Machine.execVcvtw8e5; repeat' (first | (with_reducible assumption) | (with_reducible apply wf_State_vwiden))
theorem wf_execVcvtn8e4 (d a : Reg) (q : BitVec 2) (p : BitVec 3) (z : BitVec 1) (s : State) (h0 : W ν s) : OutW ν (Sys2Proof.Machine.execVcvtn8e4 d a q p z s) := by
  unfold Sys2Proof.Machine.execVcvtn8e4; repeat' (first | (with_reducible assumption) | (with_reducible apply wf_State_vnarrow))
theorem wf_execVcvtn8e5 (d a : Reg) (q : BitVec 2) (p : BitVec 3) (z : BitVec 1) (s : State) (h0 : W ν s) : OutW ν (Sys2Proof.Machine.execVcvtn8e5 d a q p z s) := by
  unfold Sys2Proof.Machine.execVcvtn8e5; repeat' (first | (with_reducible assumption) | (with_reducible apply wf_State_vnarrow))
theorem wf_execVqblk (d a r : Reg) (s : State) (h0 : W ν s) : OutW ν (Sys2Proof.Machine.execVqblk d a r s) := by
  unfold Sys2Proof.Machine.execVqblk; repeat' (first | (with_reducible assumption) | ((try lift_lets -underBinder); intro x; refine W_cut (ν := ν) x ?_ ?_ <;> first | (intro hx; clear_value x) | unfold x) | ((try lift_lets -underBinder); intro x) | (with_reducible apply wf_State_setV) | (with_reducible apply wf_State_addFlags) | (with_reducible apply wf_State_advance) | (with_reducible apply OutW_next))
theorem wf_execVqmx (d a : Reg) (t : BitVec 2) (s : State) (h0 : W ν s) : OutW ν (Sys2Proof.Machine.execVqmx d a t s) := by
  unfold Sys2Proof.Machine.execVqmx; repeat' (first | (with_reducible assumption) | ((try lift_lets -underBinder); intro x; refine W_cut (ν := ν) x ?_ ?_ <;> first | (intro hx; clear_value x) | unfold x) | ((try lift_lets -underBinder); intro x) | (with_reducible apply wf_State_setCtl) | (with_reducible apply wf_State_setV) | (with_reducible apply wf_State_addFlags) | (with_reducible apply wf_State_advance) | (with_reducible apply OutW_next) | (with_reducible apply OutW_ite))
theorem wf_State_checkAll (s : State) (n : Nat) (need : Need) (ak : Byte) (l : List (Nat × Word)) (acc : List (Nat × Word × RegionEnt × Place)) (h0 : W ν s) : GV ν (s.checkAll n need ak l acc) := by
  induction l generalizing s acc with
  | nil => exact h0
  | cons x l ih => unfold State.checkAll; repeat' (first | (with_reducible assumption) | (with_reducible apply ih) | (with_reducible apply wf_State_check) | (with_reducible apply GV_s) | (with_reducible refine GC_u ?_ (by with_reducible assumption)) | (with_reducible refine GC_v ?_ (by with_reducible assumption)) | split)
theorem wf_State_readAll (s : State) (n : Nat) (l : List (Nat × Word × RegionEnt × Place)) (seen : List (Place × Nat)) (acc : List (Nat × Nat)) (h0 : W ν s) : GVL ν (s.readAll n l seen acc) := by
  induction l generalizing s seen acc with
  | nil => exact h0
  | cons x l ih => unfold State.readAll; repeat' (first | (with_reducible assumption) | (with_reducible apply ih) | (with_reducible apply wf_State_readPlace) | (with_reducible apply GVL_s) | (with_reducible refine GLd_u ?_ (by with_reducible assumption)) | (with_reducible refine GLd_v ?_ (by with_reducible assumption)) | split)
theorem wf_State_writeAll (s : State) (n : Nat) (f : Nat → Nat) (l : List (Nat × Word × RegionEnt × Place)) (h0 : W ν s) : GO ν (s.writeAll n f l) := by
  induction l generalizing s with
  | nil => exact GO_s h0
  | cons x l ih => unfold State.writeAll; repeat' (first | (with_reducible assumption) | (with_reducible apply ih) | (with_reducible apply wf_State_writePlace) | (with_reducible apply GO_n) | (with_reducible refine GO_u ?_ (by with_reducible assumption)) | split)
theorem wf_State_vload (s : State) (d : Reg) (p : PReg) (w : Nat) (z : Bool) (l : List (Nat × Word)) (h0 : W ν s) : OutW ν (Sys2Proof.Machine.State.vload s d p w z l) := by
  unfold Sys2Proof.Machine.State.vload; repeat' (first | (with_reducible assumption) | (with_reducible apply wf_State_setV) | (with_reducible apply wf_State_advance) | (with_reducible apply wf_State_checkAll) | (with_reducible apply wf_State_readAll) | (with_reducible apply OutW_next) | (with_reducible refine GV_u ?_ (by with_reducible assumption)) | (with_reducible refine GV_v ?_ (by with_reducible assumption)) | (with_reducible refine GVL_u ?_ (by with_reducible assumption)) | (with_reducible refine GVL_v ?_ (by with_reducible assumption)) | split)
theorem wf_State_vstore (s : State) (t : Reg) (w : Nat) (l : List (Nat × Word)) (h0 : W ν s) : OutW ν (Sys2Proof.Machine.State.vstore s t w l) := by
  unfold Sys2Proof.Machine.State.vstore; repeat' (first | (with_reducible assumption) | (with_reducible apply wf_State_advance) | (with_reducible apply wf_State_park) | (with_reducible apply wf_State_checkAll) | (with_reducible apply wf_State_writeAll) | (with_reducible apply OutW_next) | (with_reducible refine GO_u ?_ (by with_reducible assumption)) | (with_reducible refine GV_u ?_ (by with_reducible assumption)) | (with_reducible refine GV_v ?_ (by with_reducible assumption)) | split)
theorem wf_execVld (d a : Reg) (p : BitVec 3) (e : BitVec 2) (z : BitVec 1) (s : State) (h0 : W ν s) : OutW ν (Sys2Proof.Machine.execVld d a p e z s) := by
  unfold Sys2Proof.Machine.execVld; repeat' (first | (with_reducible assumption) | ((try lift_lets -underBinder); intro x) | (with_reducible apply wf_State_vload))
theorem wf_execVst (d a : Reg) (p : BitVec 3) (e : BitVec 2) (s : State) (h0 : W ν s) : OutW ν (Sys2Proof.Machine.execVst d a p e s) := by
  unfold Sys2Proof.Machine.execVst; repeat' (first | (with_reducible assumption) | ((try lift_lets -underBinder); intro x) | (with_reducible apply wf_State_vstore))
theorem wf_execVldx (d a b : Reg) (p : BitVec 3) (e : BitVec 2) (z : BitVec 1) (s : State) (h0 : W ν s) : OutW ν (Sys2Proof.Machine.execVldx d a b p e z s) := by
  unfold Sys2Proof.Machine.execVldx; repeat' (first | (with_reducible assumption) | ((try lift_lets -underBinder); intro x) | (with_reducible apply wf_State_vload))
theorem wf_execVstx (d a b : Reg) (p : BitVec 3) (e : BitVec 2) (s : State) (h0 : W ν s) : OutW ν (Sys2Proof.Machine.execVstx d a b p e s) := by
  unfold Sys2Proof.Machine.execVstx; repeat' (first | (with_reducible assumption) | ((try lift_lets -underBinder); intro x) | (with_reducible apply wf_State_vstore))
theorem wf_execVldb (d a : Reg) (p : BitVec 3) (e : BitVec 2) (z : BitVec 1) (s : State) (h0 : W ν s) : OutW ν (Sys2Proof.Machine.execVldb d a p e z s) := by
  unfold Sys2Proof.Machine.execVldb; repeat' (first | (with_reducible assumption) | ((try lift_lets -underBinder); intro x) | (with_reducible apply wf_State_setV) | (with_reducible apply wf_State_advance) | (with_reducible apply wf_State_checkAll) | (with_reducible apply wf_State_readAll) | (with_reducible apply OutW_next) | (with_reducible refine GV_u ?_ (by with_reducible assumption)) | (with_reducible refine GV_v ?_ (by with_reducible assumption)) | (with_reducible refine GVL_u ?_ (by with_reducible assumption)) | (with_reducible refine GVL_v ?_ (by with_reducible assumption)) | split)
theorem wf_execVlds (d a b : Reg) (p : BitVec 3) (e : BitVec 2) (z : BitVec 1) (s : State) (h0 : W ν s) : OutW ν (Sys2Proof.Machine.execVlds d a b p e z s) := by
  unfold Sys2Proof.Machine.execVlds; repeat' (first | (with_reducible assumption) | ((try lift_lets -underBinder); intro x) | (with_reducible apply wf_State_vload))
theorem wf_execVsts (d a b : Reg) (p : BitVec 3) (e : BitVec 2) (s : State) (h0 : W ν s) : OutW ν (Sys2Proof.Machine.execVsts d a b p e s) := by
  unfold Sys2Proof.Machine.execVsts; repeat' (first | (with_reducible assumption) | ((try lift_lets -underBinder); intro x) | (with_reducible apply wf_State_vstore))
theorem wf_State_setSfu (s : State) (g u : Nat) (l : List SfuReq) (h0 : W ν s) : W ν (Sys2Proof.Machine.State.setSfu s g u l) := by
  unfold Sys2Proof.Machine.State.setSfu; repeat' (first | (with_reducible assumption) | ((try lift_lets -underBinder); intro x) | (with_reducible apply wf_State_setGath) | (with_reducible apply W_ite))
theorem wf_State_sfuSend (s : State) (fn : BitVec 3) (d a : Reg) (p : BitVec 3) (z : BitVec 1) (h0 : W ν s) : OutW ν (Sys2Proof.Machine.State.sfuSend s fn d a p z) := by
  unfold Sys2Proof.Machine.State.sfuSend; repeat' (first | (with_reducible assumption) | ((try lift_lets -underBinder); intro x) | (with_reducible apply wf_State_setWait) | (with_reducible apply wf_State_setSfu) | (with_reducible apply OutW_next))
theorem wf_execVrcp (d a : Reg) (p : BitVec 3) (z : BitVec 1) (s : State) (h0 : W ν s) : OutW ν (Sys2Proof.Machine.execVrcp d a p z s) := by
  unfold Sys2Proof.Machine.execVrcp; repeat' (first | (with_reducible assumption) | (with_reducible apply wf_State_sfuSend))
theorem wf_execVrsqrt (d a : Reg) (p : BitVec 3) (z : BitVec 1) (s : State) (h0 : W ν s) : OutW ν (Sys2Proof.Machine.execVrsqrt d a p z s) := by
  unfold Sys2Proof.Machine.execVrsqrt; repeat' (first | (with_reducible assumption) | (with_reducible apply wf_State_sfuSend))
theorem wf_execVsqrt (d a : Reg) (p : BitVec 3) (z : BitVec 1) (s : State) (h0 : W ν s) : OutW ν (Sys2Proof.Machine.execVsqrt d a p z s) := by
  unfold Sys2Proof.Machine.execVsqrt; repeat' (first | (with_reducible assumption) | (with_reducible apply wf_State_sfuSend))
theorem wf_execVexp2 (d a : Reg) (p : BitVec 3) (z : BitVec 1) (s : State) (h0 : W ν s) : OutW ν (Sys2Proof.Machine.execVexp2 d a p z s) := by
  unfold Sys2Proof.Machine.execVexp2; repeat' (first | (with_reducible assumption) | (with_reducible apply wf_State_sfuSend))
theorem wf_execVlog2 (d a : Reg) (p : BitVec 3) (z : BitVec 1) (s : State) (h0 : W ν s) : OutW ν (Sys2Proof.Machine.execVlog2 d a p z s) := by
  unfold Sys2Proof.Machine.execVlog2; repeat' (first | (with_reducible assumption) | (with_reducible apply wf_State_sfuSend))
theorem wf_execVsin (d a : Reg) (p : BitVec 3) (z : BitVec 1) (s : State) (h0 : W ν s) : OutW ν (Sys2Proof.Machine.execVsin d a p z s) := by
  unfold Sys2Proof.Machine.execVsin; repeat' (first | (with_reducible assumption) | (with_reducible apply wf_State_sfuSend))
theorem wf_execVcos (d a : Reg) (p : BitVec 3) (z : BitVec 1) (s : State) (h0 : W ν s) : OutW ν (Sys2Proof.Machine.execVcos d a p z s) := by
  unfold Sys2Proof.Machine.execVcos; repeat' (first | (with_reducible assumption) | (with_reducible apply wf_State_sfuSend))
theorem wf_execVtanh (d a : Reg) (p : BitVec 3) (z : BitVec 1) (s : State) (h0 : W ν s) : OutW ν (Sys2Proof.Machine.execVtanh d a p z s) := by
  unfold Sys2Proof.Machine.execVtanh; repeat' (first | (with_reducible assumption) | (with_reducible apply wf_State_sfuSend))
theorem wf_execSfuStart (g : BitVec 6) (u : BitVec 1) (s : State) (h0 : W ν s) : OutW ν (Sys2Proof.Machine.execSfuStart g u s) := by
  unfold Sys2Proof.Machine.execSfuStart; repeat' (first | (with_reducible assumption) | ((try lift_lets -underBinder); intro x) | (with_reducible apply wf_State_setSfu) | (with_reducible apply OutW_next) | (with_reducible apply OutW_ite) | split)
theorem wf_State_sfuLand (s : State) (cid : Nat) (r : SfuReq) (h0 : W ν s) : W ν (Sys2Proof.Machine.State.sfuLand s cid r) := by
  unfold Sys2Proof.Machine.State.sfuLand; repeat' (first | (with_reducible assumption) | ((try lift_lets -underBinder); intro x) | (with_reducible apply wf_State_setCtx))
theorem wf_execSfuReturn (cid : BitVec 12) (s : State) (h0 : W ν s) : OutW ν (Sys2Proof.Machine.execSfuReturn cid s) := by
  unfold Sys2Proof.Machine.execSfuReturn; repeat' (first | (with_reducible assumption) | ((try lift_lets -underBinder); intro x) | (with_reducible apply wf_State_onOwner) | (with_reducible apply wf_State_setSfu) | (with_reducible apply wf_State_sfuLand) | (with_reducible apply OutW_next) | split)
theorem wf_State_nextIssue (s : State) (h0 : W ν s) : GN ν (Sys2Proof.Machine.State.nextIssue s) := by
  unfold Sys2Proof.Machine.State.nextIssue; repeat' (first | (with_reducible assumption) | ((try lift_lets -underBinder); intro x) | (with_reducible apply wf_State_fetchAt) | (with_reducible apply GN_s) | (with_reducible apply GN_w) | (with_reducible apply GN_n) | (with_reducible refine GF_u ?_ (by with_reducible assumption)) | split | (dsimp -zeta +zetaDelta only))
theorem wf_State_begin (s : State) (w : Word32) (h0 : W ν s) : W ν (Sys2Proof.Machine.State.begin s w) := by
  unfold Sys2Proof.Machine.State.begin; repeat' (first | (with_reducible assumption) | ((try lift_lets -underBinder); intro x) | (with_reducible apply wf_State_setCtx))
theorem wf_State_markIssue (s : State) (cid : Nat) (h0 : W ν s) : W ν (Sys2Proof.Machine.State.markIssue s cid) := by
  unfold Sys2Proof.Machine.State.markIssue; repeat' (first | (with_reducible assumption) | ((try lift_lets -underBinder); intro x) | (with_reducible apply wf_State_setCore))
theorem wf_State_unissued (s t : State) (y : Why) (h0 : W ν s) (h1 : W ν t) : W ν (Sys2Proof.Machine.State.unissued s t y) := by
  unfold Sys2Proof.Machine.State.unissued; repeat' (first | (with_reducible assumption) | ((try lift_lets -underBinder); intro x; refine W_cut (ν := ν) x ?_ ?_ <;> first | (intro hx; clear_value x) | unfold x) | ((try lift_lets -underBinder); intro x) | (with_reducible apply wf_State_setSched) | (with_reducible apply wf_State_markIssue) | (with_reducible apply W_ite))
theorem wf_State_issued (s t : State) (h0 : W ν s) (h1 : W ν t) : W ν (Sys2Proof.Machine.State.issued s t) := by
  unfold Sys2Proof.Machine.State.issued; repeat' (first | (with_reducible assumption) | ((try lift_lets -underBinder); intro x) | (with_reducible apply wf_State_setSched) | (with_reducible apply wf_State_takeLine) | (with_reducible apply wf_State_charge) | (with_reducible apply wf_State_markIssue))
theorem wf_State_finishIssue (s t : State) (h0 : W ν s) (h1 : W ν t) : W ν (Sys2Proof.Machine.State.finishIssue s t) := by
  unfold Sys2Proof.Machine.State.finishIssue; repeat' (first | (with_reducible assumption) | ((try lift_lets -underBinder); intro x; refine W_cut (ν := ν) x ?_ ?_ <;> first | (intro hx; clear_value x) | unfold x) | ((try lift_lets -underBinder); intro x) | (with_reducible apply wf_State_settle) | (with_reducible apply wf_State_unissued) | (with_reducible apply wf_State_issued) | (with_reducible apply W_ite) | split)
theorem OutW_onNext {o : Out} {f : State → State} (h : OutW ν o) (hf : ∀ t, W ν t → W ν (f t)) : OutW ν (onNext o f) := by
  cases o with
  | next t => exact OutW_next (hf _ (h.h t rfl))
  | fault r => exact ⟨fun u hu => by cases hu⟩
  | refused r => exact ⟨fun u hu => by cases hu⟩
theorem wf_exec (i : Instr) (s : State) (h0 : W ν s) : OutW ν (exec i s) := by
  unfold exec
  cases i with
  | add d a b => exact wf_execAdd d a b s h0
  | sub d a b => exact wf_execSub d a b s h0
  | and d a b => exact wf_execAnd d a b s h0
  | or d a b => exact wf_execOr d a b s h0
  | xor d a b => exact wf_execXor d a b s h0
  | andn d a b => exact wf_execAndn d a b s h0
  | orn d a b => exact wf_execOrn d a b s h0
  | xnor d a b => exact wf_execXnor d a b s h0
  | sll d a b => exact wf_execSll d a b s h0
  | srl d a b => exact wf_execSrl d a b s h0
  | sra d a b => exact wf_execSra d a b s h0
  | rol d a b => exact wf_execRol d a b s h0
  | ror d a b => exact wf_execRor d a b s h0
  | addw d a b => exact wf_execAddw d a b s h0
  | subw d a b => exact wf_execSubw d a b s h0
  | sllw d a b => exact wf_execSllw d a b s h0
  | srlw d a b => exact wf_execSrlw d a b s h0
  | sraw d a b => exact wf_execSraw d a b s h0
  | min d a b => exact wf_execMin d a b s h0
  | max d a b => exact wf_execMax d a b s h0
  | minu d a b => exact wf_execMinu d a b s h0
  | maxu d a b => exact wf_execMaxu d a b s h0
  | addsat d a b => exact wf_execAddsat d a b s h0
  | subsat d a b => exact wf_execSubsat d a b s h0
  | seq d a b => exact wf_execSeq d a b s h0
  | sne d a b => exact wf_execSne d a b s h0
  | slt d a b => exact wf_execSlt d a b s h0
  | sltu d a b => exact wf_execSltu d a b s h0
  | sge d a b => exact wf_execSge d a b s h0
  | sgeu d a b => exact wf_execSgeu d a b s h0
  | cmovz d a b => exact wf_execCmovz d a b s h0
  | cmovnz d a b => exact wf_execCmovnz d a b s h0
  | clz d a => exact wf_execClz d a s h0
  | ctz d a => exact wf_execCtz d a s h0
  | popc d a => exact wf_execPopc d a s h0
  | brev d a => exact wf_execBrev d a s h0
  | bswap d a => exact wf_execBswap d a s h0
  | extr d a b => exact wf_execExtr d a b s h0
  | extrs d a b => exact wf_execExtrs d a b s h0
  | insr d a b => exact wf_execInsr d a b s h0
  | mul d a b => exact wf_execMul d a b s h0
  | mulh d a b => exact wf_execMulh d a b s h0
  | mulhu d a b => exact wf_execMulhu d a b s h0
  | mulhm d a b => exact wf_execMulhm d a b s h0
  | mulw d a b => exact wf_execMulw d a b s h0
  | div d a b => exact wf_execDiv d a b s h0
  | divu d a b => exact wf_execDivu d a b s h0
  | rem d a b => exact wf_execRem d a b s h0
  | remu d a b => exact wf_execRemu d a b s h0
  | divw d a b => exact wf_execDivw d a b s h0
  | divuw d a b => exact wf_execDivuw d a b s h0
  | remw d a b => exact wf_execRemw d a b s h0
  | remuw d a b => exact wf_execRemuw d a b s h0
  | fadd d a b r p => exact wf_execFadd d a b r p s h0
  | fsub d a b r p => exact wf_execFsub d a b r p s h0
  | fmul d a b r p => exact wf_execFmul d a b r p s h0
  | fdiv d a b r p => exact wf_execFdiv d a b r p s h0
  | fsqrt d a r p => exact wf_execFsqrt d a r p s h0
  | fmin d a b p => exact wf_execFmin d a b p s h0
  | fmax d a b p => exact wf_execFmax d a b p s h0
  | fmac d a b r p => exact wf_execFmac d a b r p s h0
  | fnmac d a b r p => exact wf_execFnmac d a b r p s h0
  | fcpys d a b p => exact wf_execFcpys d a b p s h0
  | fcpysn d a b p => exact wf_execFcpysn d a b p s h0
  | fcpysx d a b p => exact wf_execFcpysx d a b p s h0
  | feq d a b p => exact wf_execFeq d a b p s h0
  | flt d a b p => exact wf_execFlt d a b p s h0
  | fle d a b p => exact wf_execFle d a b p s h0
  | fkind d a p => exact wf_execFkind d a p s h0
  | fcvtl d a r p => exact wf_execFcvtl d a r p s h0
  | fcvtlu d a r p => exact wf_execFcvtlu d a r p s h0
  | fcvtfl d a r p => exact wf_execFcvtfl d a r p s h0
  | fcvtflu d a r p => exact wf_execFcvtflu d a r p s h0
  | fcvtf d a c r p => exact wf_execFcvtf d a c r p s h0
  | addi d a im => exact wf_execAddi d a im s h0
  | andi d a im => exact wf_execAndi d a im s h0
  | ori d a im => exact wf_execOri d a im s h0
  | xori d a im => exact wf_execXori d a im s h0
  | slli d a n => exact wf_execSlli d a n s h0
  | srli d a n => exact wf_execSrli d a n s h0
  | srai d a n => exact wf_execSrai d a n s h0
  | rori d a n => exact wf_execRori d a n s h0
  | slliw d a n => exact wf_execSlliw d a n s h0
  | srliw d a n => exact wf_execSrliw d a n s h0
  | sraiw d a n => exact wf_execSraiw d a n s h0
  | slti d a im => exact wf_execSlti d a im s h0
  | sltiu d a im => exact wf_execSltiu d a im s h0
  | lui d im => exact wf_execLui d im s h0
  | addpc d im => exact wf_execAddpc d im s h0
  | lb t a o => exact wf_execLb t a o s h0
  | lh t a o => exact wf_execLh t a o s h0
  | lw t a o => exact wf_execLw t a o s h0
  | ld t a o => exact wf_execLd t a o s h0
  | lbu t a o => exact wf_execLbu t a o s h0
  | lhu t a o => exact wf_execLhu t a o s h0
  | lwu t a o => exact wf_execLwu t a o s h0
  | lbAcq t a sc => exact wf_execLbAcq t a sc s h0
  | lhAcq t a sc => exact wf_execLhAcq t a sc s h0
  | lwAcq t a sc => exact wf_execLwAcq t a sc s h0
  | ldAcq t a sc => exact wf_execLdAcq t a sc s h0
  | pref h a => exact wf_execPref h a s h0
  | sb t a o => exact wf_execSb t a o s h0
  | sh t a o => exact wf_execSh t a o s h0
  | sw t a o => exact wf_execSw t a o s h0
  | sd t a o => exact wf_execSd t a o s h0
  | sbRel t a sc => exact wf_execSbRel t a sc s h0
  | shRel t a sc => exact wf_execShRel t a sc s h0
  | swRel t a sc => exact wf_execSwRel t a sc s h0
  | sdRel t a sc => exact wf_execSdRel t a sc s h0
  | vadd d a b p e z => exact wf_execVadd d a b p e z s h0
  | vsub d a b p e z => exact wf_execVsub d a b p e z s h0
  | vmul d a b p e z => exact wf_execVmul d a b p e z s h0
  | vmulh d a b p e z => exact wf_execVmulh d a b p e z s h0
  | vmulhu d a b p e z => exact wf_execVmulhu d a b p e z s h0
  | vmin d a b p e z => exact wf_execVmin d a b p e z s h0
  | vmax d a b p e z => exact wf_execVmax d a b p e z s h0
  | vminu d a b p e z => exact wf_execVminu d a b p e z s h0
  | vmaxu d a b p e z => exact wf_execVmaxu d a b p e z s h0
  | vand d a b p e z => exact wf_execVand d a b p e z s h0
  | vor d a b p e z => exact wf_execVor d a b p e z s h0
  | vxor d a b p e z => exact wf_execVxor d a b p e z s h0
  | vsll d a b p e z => exact wf_execVsll d a b p e z s h0
  | vsrl d a b p e z => exact wf_execVsrl d a b p e z s h0
  | vsra d a b p e z => exact wf_execVsra d a b p e z s h0
  | vadds d a b p e z => exact wf_execVadds d a b p e z s h0
  | vaddsu d a b p e z => exact wf_execVaddsu d a b p e z s h0
  | vsubs d a b p e z => exact wf_execVsubs d a b p e z s h0
  | vsubsu d a b p e z => exact wf_execVsubsu d a b p e z s h0
  | vabs d a p e z => exact wf_execVabs d a p e z s h0
  | vmac d a b p e z => exact wf_execVmac d a b p e z s h0
  | vdot4 d a b p z => exact wf_execVdot4 d a b p z s h0
  | vredadd d a p e => exact wf_execVredadd d a p e s h0
  | vredmin d a p e => exact wf_execVredmin d a p e s h0
  | vredmax d a p e => exact wf_execVredmax d a p e s h0
  | vredminu d a p e => exact wf_execVredminu d a p e s h0
  | vredmaxu d a p e => exact wf_execVredmaxu d a p e s h0
  | vbcast d a e => exact wf_execVbcast d a e s h0
  | vfadd d a b p e z f => exact wf_execVfadd d a b p e z f s h0
  | vfsub d a b p e z f => exact wf_execVfsub d a b p e z f s h0
  | vfmul d a b p e z f => exact wf_execVfmul d a b p e z f s h0
  | vfma d a b p e z f => exact wf_execVfma d a b p e z f s h0
  | vfms d a b p e z f => exact wf_execVfms d a b p e z f s h0
  | vfmin d a b p e z f => exact wf_execVfmin d a b p e z f s h0
  | vfmax d a b p e z f => exact wf_execVfmax d a b p e z f s h0
  | vfabs d a p e z f => exact wf_execVfabs d a p e z f s h0
  | vfneg d a p e z f => exact wf_execVfneg d a p e z f s h0
  | vfredadd d a p e f => exact wf_execVfredadd d a p e f s h0
  | vfredmax d a p e f => exact wf_execVfredmax d a p e f s h0
  | vfredmin d a p e f => exact wf_execVfredmin d a p e f s h0
  | vfdot2 d a b p z f => exact wf_execVfdot2 d a b p z f s h0
  | vceq d a b p e z => exact wf_execVceq d a b p e z s h0
  | vcne d a b p e z => exact wf_execVcne d a b p e z s h0
  | vclt d a b p e z => exact wf_execVclt d a b p e z s h0
  | vcle d a b p e z => exact wf_execVcle d a b p e z s h0
  | vcltu d a b p e z => exact wf_execVcltu d a b p e z s h0
  | vcleu d a b p e z => exact wf_execVcleu d a b p e z s h0
  | vfceq d a b p e z => exact wf_execVfceq d a b p e z s h0
  | vfclt d a b p e z => exact wf_execVfclt d a b p e z s h0
  | vfcle d a b p e z => exact wf_execVfcle d a b p e z s h0
  | vfcun d a b p e z => exact wf_execVfcun d a b p e z s h0
  | vfceqBf d a b p z => exact wf_execVfceqBf d a b p z s h0
  | vfcltBf d a b p z => exact wf_execVfcltBf d a b p z s h0
  | vfcleBf d a b p z => exact wf_execVfcleBf d a b p z s h0
  | vfcunBf d a b p z => exact wf_execVfcunBf d a b p z s h0
  | vperm d a b p e z => exact wf_execVperm d a b p e z s h0
  | vsldup d a b p e z => exact wf_execVsldup d a b p e z s h0
  | vslddn d a b p e z => exact wf_execVslddn d a b p e z s h0
  | vziplo d a b p e z => exact wf_execVziplo d a b p e z s h0
  | vziphi d a b p e z => exact wf_execVziphi d a b p e z s h0
  | vuzpe d a b p e z => exact wf_execVuzpe d a b p e z s h0
  | vuzpo d a b p e z => exact wf_execVuzpo d a b p e z s h0
  | vcompr d a p e => exact wf_execVcompr d a p e s h0
  | vexpnd d a p e z => exact wf_execVexpnd d a p e z s h0
  | vins d a b e => exact wf_execVins d a b e s h0
  | vext d a k e => exact wf_execVext d a k e s h0
  | vcvtfi d a p e z => exact wf_execVcvtfi d a p e z s h0
  | vcvtif d a p e z => exact wf_execVcvtif d a p e z s h0
  | vcvtwh d a h p z => exact wf_execVcvtwh d a h p z s h0
  | vcvtwb d a h p z => exact wf_execVcvtwb d a h p z s h0
  | vcvtnh d a h p z => exact wf_execVcvtnh d a h p z s h0
  | vcvtnb d a h p z => exact wf_execVcvtnb d a h p z s h0
  | vcvtw8e4 d a q p z => exact wf_execVcvtw8e4 d a q p z s h0
  | vcvtw8e5 d a q p z => exact wf_execVcvtw8e5 d a q p z s h0
  | vcvtn8e4 d a q p z => exact wf_execVcvtn8e4 d a q p z s h0
  | vcvtn8e5 d a q p z => exact wf_execVcvtn8e5 d a q p z s h0
  | vqblk d a r => exact wf_execVqblk d a r s h0
  | vqmx d a t => exact wf_execVqmx d a t s h0
  | vld d a p e z => exact wf_execVld d a p e z s h0
  | vst d a p e => exact wf_execVst d a p e s h0
  | vldx d a b p e z => exact wf_execVldx d a b p e z s h0
  | vstx d a b p e => exact wf_execVstx d a b p e s h0
  | vldb d a p e z => exact wf_execVldb d a p e z s h0
  | vlds d a b p e z => exact wf_execVlds d a b p e z s h0
  | vsts d a b p e => exact wf_execVsts d a b p e s h0
  | vrcp d a p z => exact wf_execVrcp d a p z s h0
  | vrsqrt d a p z => exact wf_execVrsqrt d a p z s h0
  | vsqrt d a p z => exact wf_execVsqrt d a p z s h0
  | vexp2 d a p z => exact wf_execVexp2 d a p z s h0
  | vlog2 d a p z => exact wf_execVlog2 d a p z s h0
  | vsin d a p z => exact wf_execVsin d a p z s h0
  | vcos d a p z => exact wf_execVcos d a p z s h0
  | vtanh d a p z => exact wf_execVtanh d a p z s h0
  | pand d a b => exact wf_execPand d a b s h0
  | por d a b => exact wf_execPor d a b s h0
  | pxor d a b => exact wf_execPxor d a b s h0
  | pandn d a b => exact wf_execPandn d a b s h0
  | pnot d a => exact wf_execPnot d a s h0
  | pfirst d a => exact wf_execPfirst d a s h0
  | pcnt d a => exact wf_execPcnt d a s h0
  | pset d a => exact wf_execPset d a s h0
  | pget d a => exact wf_execPget d a s h0
  | attach d t => exact wf_execAttach d t s h0
  | join d t => exact wf_execJoin d t s h0
  | donate d a => exact wf_execDonate d a s h0
  | takew d a => exact wf_execTakew d a s h0
  | gang d => exact wf_execGang d s h0
  | map d a b => exact wf_execMap d a b s h0
  | unmap d a => exact wf_execUnmap d a s h0
  | sflush a sc => exact wf_execSflush a sc s h0
  | mxq sc w m im => exact wf_execMxq sc w m im s h0
  | trq sc w m im => exact wf_execTrq sc w m im s h0
  | hset a h => exact wf_execHset a h s h0
  | hclr h => exact wf_execHclr h s h0
  | hend h => exact wf_execHend h s h0
  | spawn d a => exact wf_execSpawn d a s h0
  | redsrv a => exact wf_execRedsrv a s h0
  | rep c m sc => exact wf_execRep c m sc s h0
  | beq a b o => exact wf_execBeq a b o s h0
  | bne a b o => exact wf_execBne a b o s h0
  | blt a b o => exact wf_execBlt a b o s h0
  | bge a b o => exact wf_execBge a b o s h0
  | bltu a b o => exact wf_execBltu a b o s h0
  | bgeu a b o => exact wf_execBgeu a b o s h0
  | beqz a o => exact wf_execBeqz a o s h0
  | bnez a o => exact wf_execBnez a o s h0
  | bltz a o => exact wf_execBltz a o s h0
  | bgez a o => exact wf_execBgez a o s h0
  | bgtz a o => exact wf_execBgtz a o s h0
  | blez a o => exact wf_execBlez a o s h0
  | jal o => exact wf_execJal o s h0
  | jalr d a im => exact wf_execJalr d a im s h0
  | ldvExact d a b p z => exact wf_execLdvExact d a b p z s h0
  | ldvLe d a b p z => exact wf_execLdvLe d a b p z s h0
  | ldvAge d a b p z => exact wf_execLdvAge d a b p z s h0
  | stv t a b z => exact wf_execStv t a b z s h0
  | sealv a b => exact wf_execSealv a b s h0
  | reclv a b => exact wf_execReclv a b s h0
  | handover a b => exact wf_execHandover a b s h0
  | capq d a => exact wf_execCapq d a s h0
  | amoswap d a b q z sc => exact wf_execAmoswap d a b q z sc s h0
  | amoadd d a b q z sc => exact wf_execAmoadd d a b q z sc s h0
  | amoand d a b q z sc => exact wf_execAmoand d a b q z sc s h0
  | amoor d a b q z sc => exact wf_execAmoor d a b q z sc s h0
  | amoxor d a b q z sc => exact wf_execAmoxor d a b q z sc s h0
  | amomin d a b q z sc => exact wf_execAmomin d a b q z sc s h0
  | amomax d a b q z sc => exact wf_execAmomax d a b q z sc s h0
  | amominu d a b q z sc => exact wf_execAmominu d a b q z sc s h0
  | amomaxu d a b q z sc => exact wf_execAmomaxu d a b q z sc s h0
  | amocas d a b q z sc => exact wf_execAmocas d a b q z sc s h0
  | amofadd d a b q sc => exact wf_execAmofadd d a b q sc s h0
  | fenceFull sc => exact wf_execFenceFull sc s h0
  | fenceAcq sc => exact wf_execFenceAcq sc s h0
  | fenceRel sc => exact wf_execFenceRel sc s h0
  | waitv d a b z sc => exact wf_execWaitv d a b z sc s h0
  | cpq c sc w m im => exact wf_execCpq c sc w m im s h0
  | waitc d a k => exact wf_execWaitc d a k s h0
  | engst d e => exact wf_execEngst d e s h0
  | rnginit a b => exact wf_execRnginit a b s h0
  | rngnext d => exact wf_execRngnext d s h0
  | send d a b => exact wf_execSend d a b s h0
  | senda d a b h => exact wf_execSenda d a b h s h0
  | recv d b => exact wf_execRecv d b s h0
  | recvp d b => exact wf_execRecvp d b s h0
  | recvf d a b => exact wf_execRecvf d a b s h0
  | reply d b => exact wf_execReply d b s h0
  | arrive c => exact wf_execArrive c s h0
  | waitb c => exact wf_execWaitb c s h0
  | voteAnd d a c => exact wf_execVoteAnd d a c s h0
  | voteOr d a c => exact wf_execVoteOr d a c s h0
  | ctlr d a => exact wf_execCtlr d a s h0
  | ctlw sc a => exact wf_execCtlw sc a s h0
  | trap im => exact wf_execTrap im s h0
  | brk im => exact wf_execBrk im s h0
  | illegal => exact wf_execIllegal s h0
  | detach => exact wf_execDetach s h0
  | sstep => exact wf_execSstep s h0
  | yield => exact wf_execYield s h0
  | finish => exact wf_execFinish s h0
  | stealoff => exact wf_execStealoff s h0
  | nop => exact wf_execNop s h0
  | tret => exact wf_execTret s h0
  | idle => exact wf_execIdle s h0
  | halt => exact wf_execHalt s h0
  | mxovfRead d => exact wf_execMxovfRead d s h0
  | wpRead d ch => exact wf_execWpRead d ch s h0
  | prioWrite a => exact wf_execPrioWrite a s h0
  | htabWrite a => exact wf_execHtabWrite a s h0
  | mxidleWrite a => exact wf_execMxidleWrite a s h0
  | mxZero g c => exact wf_execMxZero g c s h0
  | mxMul g c => exact wf_execMxMul g c s h0
  | mxSpmul g c => exact wf_execMxSpmul g c s h0
  | mxEpi g c => exact wf_execMxEpi g c s h0
  | mxBase g c => exact wf_execMxBase g c s h0
  | cpCopy g c ch => exact wf_execCpCopy g c ch s h0
  | cpCopy2d g c ch => exact wf_execCpCopy2d g c ch s h0
  | cpGather g c ch => exact wf_execCpGather g c ch s h0
  | cpScatter g c ch => exact wf_execCpScatter g c ch s h0
  | cpPlane g c ch => exact wf_execCpPlane g c ch s h0
  | cpDecode g c ch => exact wf_execCpDecode g c ch s h0
  | cpFill g c ch => exact wf_execCpFill g c ch s h0
  | cpTotier g c ch => exact wf_execCpTotier g c ch s h0
  | trCfg n => exact wf_execTrCfg n s h0
  | trIns n => exact wf_execTrIns n s h0
  | trDraw n => exact wf_execTrDraw n s h0
  | trUpd n => exact wf_execTrUpd n s h0
  | trQry n => exact wf_execTrQry n s h0
  | engineCompletion g c e n => exact wf_execEngineCompletion g c e n s h0
  | streamDeliver g k => exact wf_execStreamDeliver g k s h0
  | joiningAttached cid => exact wf_execJoiningAttached cid s h0
  | joinTimeout cid => exact wf_execJoinTimeout cid s h0
  | streamHoldTimeout g k => exact wf_execStreamHoldTimeout g k s h0
  | budgetExhausted cid => exact wf_execBudgetExhausted cid s h0
  | cycleStart d => exact wf_execCycleStart d s h0
  | latch d => exact wf_execLatch d s h0
  | slotInstant d x => exact wf_execSlotInstant d x s h0
  | deferredLaunch d x => exact wf_execDeferredLaunch d x s h0
  | egress d => exact wf_execEgress d s h0
  | gclInterval p => exact wf_execGclInterval p s h0
  | frameIngress f => exact wf_execFrameIngress f s h0
  | ptpSync t => exact wf_execPtpSync t s h0
  | holdover => exact wf_execHoldover s h0
  | domainEnable d => exact wf_execDomainEnable d s h0
  | domainDisable d => exact wf_execDomainDisable d s h0
  | slotWrite d x v => exact wf_execSlotWrite d x v s h0
  | filterWrite f v => exact wf_execFilterWrite f v s h0
  | egressStreamEnable e v => exact wf_execEgressStreamEnable e v s h0
  | vwopen w => exact wf_execVwopen w s h0
  | vwDeadline w => exact wf_execVwDeadline w s h0
  | pairDigest d u h => exact wf_execPairDigest d u h s h0
  | pairLoss => exact wf_execPairLoss s h0
  | resync => exact wf_execResync s h0
  | pairstRead => exact wf_execPairstRead s h0
  | slotstRead d x => exact wf_execSlotstRead d x s h0
  | sfcntRead f => exact wf_execSfcntRead f s h0
  | egcntRead e => exact wf_execEgcntRead e s h0
  | queueEnable q v => exact wf_execQueueEnable q v s h0
  | lqstRead q => exact wf_execLqstRead q s h0
  | vdbell fn q => exact wf_execVdbell fn q s h0
  | queuePoll q => exact wf_execQueuePoll q s h0
  | taskStart cid => exact wf_execTaskStart cid s h0
  | stealRequest g c => exact wf_execStealRequest g c s h0
  | stealRoundWait g c => exact wf_execStealRoundWait g c s h0
  | loadAverage g => exact wf_execLoadAverage g s h0
  | launchComplete n => exact wf_execLaunchComplete n s h0
  | handlerDispatch g c => exact wf_execHandlerDispatch g c s h0
  | messageArrival n => exact wf_execMessageArrival n s h0
  | sendAnswer n => exact wf_execSendAnswer n s h0
  | resend n => exact wf_execResend n s h0
  | memoryInboxDrain cid => exact wf_execMemoryInboxDrain cid s h0
  | waitForEdge cid => exact wf_execWaitForEdge cid s h0
  | deadlock cid => exact wf_execDeadlock cid s h0
  | amoArrival cid => exact wf_execAmoArrival cid s h0
  | sfuStart g u => exact wf_execSfuStart g u s h0
  | sfuReturn cid => exact wf_execSfuReturn cid s h0
  | stashFill cid => exact wf_execStashFill cid s h0
  | ldvDeadline cid => exact wf_execLdvDeadline cid s h0
  | waitvDeadline cid => exact wf_execWaitvDeadline cid s h0
  | walk n => exact wf_execWalk n s h0
  | walkEnd n => exact wf_execWalkEnd n s h0
  | downMove n => exact wf_execDownMove n s h0
  | upMove n => exact wf_execUpMove n s h0
  | tenantSwitch p => exact wf_execTenantSwitch p s h0
  | sliceExpiry p => exact wf_execSliceExpiry p s h0
  | switchRequest p v => exact wf_execSwitchRequest p v s h0
  | resizeRequest p v => exact wf_execResizeRequest p v s h0
  | partitionResize p => exact wf_execPartitionResize p s h0
  | pcfgWrite p v => exact wf_execPcfgWrite p v s h0
  | slotmapWrite g c v => exact wf_execSlotmapWrite g c v s h0
  | pullResponse n page => exact wf_execPullResponse n page s h0
  | backgroundPull t => exact wf_execBackgroundPull t s h0
  | pullTimeout n => exact wf_execPullTimeout n s h0
  | scrub ch => exact wf_execScrub ch s h0
  | matrixPowerGate g c => exact wf_execMatrixPowerGate g c s h0
  | xinv v => exact wf_execXinv v s h0
  | xinvDone => exact wf_execXinvDone s h0
  | ginv die v => exact wf_execGinv die v s h0
  | ginvDone die => exact wf_execGinvDone die s h0
  | mecntRead ch => exact wf_execMecntRead ch s h0
  | melastClear ch => exact wf_execMelastClear ch s h0
  | kresumeRetry cid => exact wf_execKresumeRetry cid s h0
  | kresumeAbort cid => exact wf_execKresumeAbort cid s h0
  | kresumeKill cid => exact wf_execKresumeKill cid s h0
  | kernelCoreReset g => exact wf_execKernelCoreReset g s h0
  | pause m => exact wf_execPause m s h0
  | retrain m => exact wf_execRetrain m s h0
  | resume m => exact wf_execResume m s h0
  | pauseDone m => exact wf_execPauseDone m s h0
  | pauseTimeout m => exact wf_execPauseTimeout m s h0
  | trainingEnd m ok => exact wf_execTrainingEnd m ok s h0
  | flitRetry m => exact wf_execFlitRetry m s h0
  | retryInterval m => exact wf_execRetryInterval m s h0
  | linkDown m => exact wf_execLinkDown m s h0
  | ucevtClear m v => exact wf_execUcevtClear m v s h0
  | ucretryRead m => exact wf_execUcretryRead m s h0
  | uclerrRead m j => exact wf_execUclerrRead m j s h0
  | enrynLaneLoss p lanes => exact wf_execEnrynLaneLoss p lanes s h0
  | enpcntRead p => exact wf_execEnpcntRead p s h0
  | hostAccess fn off sz wr => exact wf_execHostAccess fn off sz wr s h0
  | vintClear fn v => exact wf_execVintClear fn v s h0
  | functionLevelReset fn => exact wf_execFunctionLevelReset fn s h0
  | powerOnReset => exact wf_execPowerOnReset s h0
  | rcvgo len => exact wf_execRcvgo len s h0
  | partnerImage img => exact wf_execPartnerImage img s h0
  | pwrenvWrite v => exact wf_execPwrenvWrite v s h0
  | envelopeChange => exact wf_execEnvelopeChange s h0
  | thermalThrottle => exact wf_execThermalThrottle s h0
  | folioLoad t folio => exact wf_execFolioLoad t folio s h0
  | imageUnmap n => exact wf_execImageUnmap n s h0
  | registerWrite pa wide v => exact wf_execRegisterWrite pa wide v s h0
  | reservedEncoding w => exact wf_execReservedEncoding w s h0
  | pullRequest dev pa sz => exact wf_execPullRequest dev pa sz s h0
  | resyncCopyEnd => exact wf_execResyncCopyEnd s h0
  | recoveryImageRequest p => exact wf_execRecoveryImageRequest p s h0
  | enrynPortUp p lanes peer => exact wf_execEnrynPortUp p lanes peer s h0
  | enrynPortEnable p v => exact wf_execEnrynPortEnable p v s h0
  | enrynFlitRetry p fec => exact wf_execEnrynFlitRetry p fec s h0
  | pairctlEnWrite v => exact wf_execPairctlEnWrite v s h0
  | hartAccess h op pa sz v => exact wf_execHartAccess h op pa sz v s h0
theorem wf_State_issueWord (s : State) (h0 : W ν s) : OutW ν s.issueWord := by
  have hn := wf_State_nextIssue s h0
  unfold State.issueWord
  generalize s.nextIssue = x at hn
  cases x with
  | none => exact OutW_next h0
  | word w => exact OutW_onNext (wf_exec _ _ (wf_State_begin _ _ h0)) fun t ht => wf_State_finishIssue _ _ h0 ht
  | stop t => exact OutW_next hn
theorem wf_State_idleTurn (s : State) (cid : Nat) (cyc : Word) (w : Vector Word32 4) (h0 : W ν s) : W ν (Sys2Proof.Machine.State.idleTurn s cid cyc w) := by
  unfold Sys2Proof.Machine.State.idleTurn; repeat' (first | (with_reducible assumption) | ((try lift_lets -underBinder); intro x) | (with_reducible apply wf_State_setCtx) | (with_reducible apply W_ite))
theorem wf_State_turn (s : State) (cid : Nat) (h0 : W ν s) : OutW ν (Sys2Proof.Machine.State.turn s cid) := by
  unfold Sys2Proof.Machine.State.turn; repeat' (first | (with_reducible assumption) | ((try lift_lets -underBinder); intro x; refine W_cut (ν := ν) x ?_ ?_ <;> first | (intro hx; clear_value x) | unfold x) | (with_reducible apply wf_State_waitvTurn) | (with_reducible apply wf_State_serve) | (with_reducible apply wf_State_issueWord) | (with_reducible apply wf_State_idleTurn) | (with_reducible apply OutW_next) | (with_reducible apply OutW_ite) | (with_reducible refine toW (ν := ν) ?_) | (with_reducible apply toN) | ((with_reducible refine W_mk ?_ ?_) <;> dsimp -zeta only) | split)
theorem wf_State_issueTurn (s : State) (cid : Nat) (h0 : W ν s) : OutW ν (Sys2Proof.Machine.State.issueTurn s cid) := by
  unfold Sys2Proof.Machine.State.issueTurn; repeat' (first | (with_reducible assumption) | (with_reducible apply wf_State_turn) | (with_reducible apply OutW_next) | (with_reducible apply OutW_ite))
theorem wf_State_elapse (s : State) (n : Nat) (h0 : W ν s) : W ν (Sys2Proof.Machine.State.elapse s n) := by
  unfold Sys2Proof.Machine.State.elapse; repeat' (first | (with_reducible assumption) | ((try lift_lets -underBinder); intro x; refine W_cut (ν := ν) x ?_ ?_ <;> first | (intro hx; clear_value x) | unfold x) | ((try lift_lets -underBinder); intro x) | (with_reducible apply wf_State_forward) | (with_reducible refine toW (ν := ν) ?_) | (with_reducible apply toN) | ((with_reducible refine W_mk ?_ ?_) <;> dsimp -zeta only))
theorem wf_State_hostWrites (s : State) (pa : Nat) (b : Byte) (h0 : W ν s) : W ν (Sys2Proof.Machine.State.hostWrites s pa b) := by
  unfold Sys2Proof.Machine.State.hostWrites; repeat' (first | (with_reducible assumption) | ((try lift_lets -underBinder); intro x) | (with_reducible apply wf_State_physWrite) | (with_reducible apply W_ite))
theorem wf_State_bindVf (s : State) (fn : Nat) (t : Option Byte) (h0 : W ν s) : W ν (Sys2Proof.Machine.State.bindVf s fn t) := by
  unfold Sys2Proof.Machine.State.bindVf; repeat' (first | (with_reducible assumption) | ((try lift_lets -underBinder); intro x) | (with_reducible refine toW (ν := ν) ?_) | (with_reducible apply toN) | ((with_reducible refine W_mk ?_ ?_) <;> dsimp -zeta only))
theorem wf_State_takeTurn (s : State) (t : Turn) (h0 : W ν s) : OutW ν (s.takeTurn t) := by
  unfold State.takeTurn; repeat' (first | (with_reducible assumption) | (with_reducible apply wf_exec) | (with_reducible apply le_raise) | (with_reducible apply wf_State_poisonLine) | (with_reducible apply wf_State_cacheError) | (with_reducible apply wf_State_stashError) | (with_reducible apply wf_State_countError) | (with_reducible apply wf_State_pairArrives) | (with_reducible apply wf_State_pairStarts) | (with_reducible apply wf_State_countLane) | (with_reducible apply wf_State_bar0Read) | (with_reducible apply wf_State_writeVwin) | (with_reducible apply wf_State_setHartMode) | (with_reducible apply wf_State_inbound) | (with_reducible apply wf_State_remoteAnswer) | (with_reducible apply wf_State_issueTurn) | (with_reducible apply wf_State_elapse) | (with_reducible apply wf_State_hostWrites) | (with_reducible apply wf_State_bindVf) | (with_reducible apply OutW_next) | (with_reducible apply OutW_ite) | (with_reducible refine toW (ν := ν) ?_) | (with_reducible apply toN) | ((with_reducible refine W_mk ?_ ?_) <;> dsimp -zeta only) | split)
theorem wf_ownDeadlock (cid : Nat) (s : State) (h0 : W ν s) : OutW ν (Sys2Proof.Machine.ownDeadlock cid s) := by
  unfold Sys2Proof.Machine.ownDeadlock; repeat' (first | (with_reducible assumption) | (with_reducible apply wf_execDeadlock) | (with_reducible apply OutW_next) | split)
theorem wf_State_look (cid : Nat) (s : State) (h0 : W ν s) : OutW ν (Sys2Proof.Machine.State.look cid s) := by
  unfold Sys2Proof.Machine.State.look; repeat' (first | (with_reducible assumption) | (with_reducible apply wf_State_turn) | (with_reducible apply OutW_next) | (with_reducible apply OutW_ite))
def Good (ν : Nat) (f : State → Out) : Prop := ∀ s, W ν s → OutW ν (f s)
def AllG (ν : Nat) (l : List (State → Out)) : Prop := ∀ f ∈ l, Good ν f
theorem Good_m {f : State → Out} (h : ∀ s, W ν s → OutW ν (f s)) : Good ν f := h
theorem AllG_nil : AllG ν [] := fun f h => by cases h
theorem AllG_cons {f l} (hf : Good ν f) (hl : AllG ν l) : AllG ν (f :: l) := fun g h => by
  cases h with
  | head => exact hf
  | tail _ h => exact hl g h
theorem AllG_app {l m} (hl : AllG ν l) (hm : AllG ν m) : AllG ν (l ++ m) := fun g h => (List.mem_append.1 h).elim (hl g) (hm g)
theorem AllG_flat {α : Type} {f : α → List (State → Out)} {l} (h : ∀ x, AllG ν (f x)) : AllG ν (List.flatMap f l) := fun g hg => by
  obtain ⟨x, _, hx⟩ := List.mem_flatMap.1 hg
  exact h x g hx
theorem AllG_map {α : Type} {f : α → (State → Out)} {l} (h : ∀ x, Good ν (f x)) : AllG ν (List.map f l) := fun g hg => by
  obtain ⟨x, _, hx⟩ := List.mem_map.1 hg
  exact hx ▸ h x
theorem AllG_fmap {α : Type} {f : α → Option (State → Out)} {l} (h : ∀ x g, f x = some g → Good ν g) : AllG ν (List.filterMap f l) := fun g hg => by
  obtain ⟨x, _, hx⟩ := List.mem_filterMap.1 hg
  exact h x g hx
theorem AllG_ite {c : Prop} [Decidable c] {l m} (hl : AllG ν l) (hm : AllG ν m) : AllG ν (if c then l else m) := by split <;> assumption
theorem wf_due (s : State) : AllG ν s.dueSteps := by
  unfold State.dueSteps cycleSteps flowSteps engineSteps ctxSteps gathSteps launchSteps deviceSteps
  dsimp only
  repeat' (first
    | exact fun t ht => wf_State_look _ _ ht
    | exact fun t ht => wf_ownDeadlock _ _ ht
    | with_reducible exact AllG_nil
    | with_reducible refine AllG_cons ?_ ?_
    | with_reducible refine AllG_app ?_ ?_
    | with_reducible refine AllG_flat fun x => ?_
    | with_reducible refine AllG_map fun x => ?_
    | (with_reducible refine AllG_fmap fun x g hg => ?_; split at hg <;> cases hg)
    | with_reducible refine AllG_ite ?_ ?_
    | (with_reducible refine Good_m fun t ht => ?_; with_reducible (first | apply wf_execAmoArrival | apply wf_execBudgetExhausted | apply wf_execCpCopy | apply wf_execCpCopy2d | apply wf_execCpDecode | apply wf_execCpFill | apply wf_execCpGather | apply wf_execCpPlane | apply wf_execCpScatter | apply wf_execCpTotier | apply wf_execCycleStart | apply wf_execDeadlock | apply wf_execDeferredLaunch | apply wf_execDownMove | apply wf_execEgress | apply wf_execEngineCompletion | apply wf_execGclInterval | apply wf_execGinvDone | apply wf_execHandlerDispatch | apply wf_execHoldover | apply wf_execImageUnmap | apply wf_execJoinTimeout | apply wf_execJoiningAttached | apply wf_execLatch | apply wf_execLaunchComplete | apply wf_execLdvDeadline | apply wf_execLoadAverage | apply wf_execMatrixPowerGate | apply wf_execMemoryInboxDrain | apply wf_execMessageArrival | apply wf_execMxBase | apply wf_execMxEpi | apply wf_execMxMul | apply wf_execMxSpmul | apply wf_execMxZero | apply wf_execPairLoss | apply wf_execPartitionResize | apply wf_execPullResponse | apply wf_execPullTimeout | apply wf_execQueuePoll | apply wf_execResend | apply wf_execResyncCopyEnd | apply wf_execSendAnswer | apply wf_execSfuReturn | apply wf_execSfuStart | apply wf_execSliceExpiry | apply wf_execSlotInstant | apply wf_execStashFill | apply wf_execStealRequest | apply wf_execStealRoundWait | apply wf_execStreamDeliver | apply wf_execStreamHoldTimeout | apply wf_execTaskStart | apply wf_execTenantSwitch | apply wf_execTrCfg | apply wf_execTrDraw | apply wf_execTrIns | apply wf_execTrQry | apply wf_execTrUpd | apply wf_execUpMove | apply wf_execVwDeadline | apply wf_execWaitForEdge | apply wf_execWaitvDeadline | apply wf_execWalk | apply wf_execWalkEnd | apply wf_execXinvDone); exact ht)
    | dsimp only)
theorem firstChange_wf (s : State) (h0 : W ν s) : ∀ l, AllG ν l → GO ν (firstChange s l)
  | [], _ => GO_n
  | f :: l, h => by
    have h1 := h f (List.mem_cons_self ..) s h0
    have h2 := firstChange_wf s h0 l fun g hg => h g (List.mem_cons_of_mem _ hg)
    unfold firstChange
    split
    · next t e => split
                  · exact h2
                  · exact GO_s (h1.h _ e)
    · exact h2
theorem wf_State_byItself (s : State) (h0 : W ν s) : OutW ν s.byItself := by
  have h1 := firstChange_wf s h0 _ (wf_due s)
  unfold State.byItself
  generalize firstChange s s.dueSteps = o at h1
  cases o with
  | some t => exact OutW_next (GO_u h1 rfl)
  | none =>
    dsimp only
    split
    · exact wf_State_turn _ _ (W_same h0 rfl rfl)
    · exact OutW_next (W_same (wf_State_elapse s 1 h0) rfl rfl)

end Sys2Proof.Laws.Canonical
end

