-- ==== Sys2Proof/Laws/Operands.lean ====
section
/-! SUPPORT. Operand forms and element operations in terms of plain arithmetic. -/

set_option Elab.async false

namespace Sys2Proof.Machine

/-! ### Words from numbers -/

theorem word_eq (x : Word) (n : Nat) (h : x.toNat = n % 2^64) : x = word n := by
  apply BitVec.eq_of_toNat_eq; simp [word, h]
theorem word_eq' (x : Word) (n : Nat) (h : x.toNat = n) : x = word n := by
  subst h; simp [word]
theorem wordI_eq (x : Word) (n : Int) (h : x.toInt = n.bmod (2^64)) : x = wordI n := by
  apply BitVec.eq_of_toInt_eq; simp [wordI, h]
theorem wordI_eq' (x : Word) (n : Int) (h : x.toInt = n) : x = wordI n := by
  subst h; simp [wordI]
theorem sintN_32 (x : Word) : sintN x.toNat 32 = (lo32 x).toInt := by
  simp only [sintN, lo32, BitVec.toInt_eq_toNat_cond, BitVec.truncate, BitVec.toNat_setWidth]; split <;> split <;> omega
theorem sintN_32n (x : Nat) : sintN x 32 = (BitVec.ofNat 32 x).toInt := by
  simp only [sintN, BitVec.toInt_eq_toNat_cond, BitVec.toNat_ofNat]; split <;> split <;> omega
theorem wform_eq (x : Word32) : wform x = wordI x.toInt := by
  apply BitVec.eq_of_toInt_eq; simp only [wform, sx, wordI]; rw [BitVec.toInt_signExtend_of_le (by omega), BitVec.toInt_ofInt]
  have := x.toInt_lt; have := x.le_toInt
  rw [Int.bmod_eq_of_le] <;> omega
theorem wform_eqN (x : Word32) (n : Nat) (h : x.toNat = n % 2^32) : wform x = wordI (sintN n 32) := by
  rw [wform_eq, sintN_32n]; congr 2; apply BitVec.eq_of_toNat_eq; simp [h]
theorem satS_eq (i : Int) : satS i = wordI (max (-2 ^ 63) (min (2 ^ 63 - 1) i)) := by
  unfold satS clampI; congr 1; simp only [Int.max_def, Int.min_def]; split <;> split <;> (try split) <;> (try split) <;> omega
theorem rotL (x : Word) (n : Nat) (h : n < 64) : x.rotateLeft n = x <<< n ||| x >>> (64 - n) := by
  rw [BitVec.rotateLeft_def, Nat.mod_eq_of_lt h]
theorem rotR (x : Word) (n : Nat) (h : n < 64) : x.rotateRight n = x >>> n ||| x <<< (64 - n) := by
  rw [BitVec.rotateRight_def, Nat.mod_eq_of_lt h]
theorem sll_eq (x : Word) (n : Nat) : x <<< n = word (x.toNat * 2 ^ n) := by
  apply word_eq; rw [BitVec.toNat_shiftLeft, Nat.shiftLeft_eq]
theorem srl_eq (x : Word) (n : Nat) : x >>> n = word (x.toNat / 2 ^ n) := by
  apply word_eq'; rw [BitVec.toNat_ushiftRight, Nat.shiftRight_eq_div_pow]
theorem sra_eq (x : Word) (n : Nat) : x.sshiftRight n = wordI (x.toInt / 2 ^ n) := by
  apply wordI_eq'; rw [BitVec.toInt_sshiftRight, Int.shiftRight_eq_div_pow]; simp
theorem sllw_eq (x : Word) (n : Nat) : wform (lo32 x <<< n) = wordI (sintN (x.toNat * 2 ^ n) 32) := by
  apply wform_eqN; rw [BitVec.toNat_shiftLeft, Nat.shiftLeft_eq]; simp only [lo32, BitVec.truncate, BitVec.toNat_setWidth]; simp
theorem srlw_eq (x : Word) (n : Nat) : wform (lo32 x >>> n) = wordI (sintN (x.toNat % 2 ^ 32 / 2 ^ n) 32) := by
  apply wform_eqN; rw [BitVec.toNat_ushiftRight, Nat.shiftRight_eq_div_pow]; simp only [lo32, BitVec.truncate, BitVec.toNat_setWidth]
  exact (Nat.mod_eq_of_lt (Nat.lt_of_le_of_lt (Nat.div_le_self _ _) (Nat.mod_lt _ (by decide)))).symm
theorem sraw_eq (x : Word) (n : Nat) : wform ((lo32 x).sshiftRight n) = wordI (sintN x.toNat 32 / 2 ^ n) := by
  rw [wform_eq, sintN_32, BitVec.toInt_sshiftRight, Int.shiftRight_eq_div_pow]; simp

theorem bne_nat (x y : Word) : (x == y) = decide (x.toNat = y.toNat) := by
  rw [Bool.eq_iff_iff]; simp [BitVec.toNat_inj]

theorem sset_self (r : Regs) (d : Reg) : r.sset d (r.sget d) = r := by
  unfold Regs.sset Regs.sget; split
  · rfl
  · simp
theorem foldNat_succ {σ : Type} (f : σ → Nat → σ) (s : σ) (lo n : Nat) : foldNat f s lo (n+1) = f (foldNat f s lo n) (lo + n) := by
  induction n generalizing s lo with
  | zero => rfl
  | succ n ih => rw [foldNat, ih, foldNat]; congr 1; omega
theorem popc_eq {w : Nat} (a : BitVec w) : ∀ n, foldNat (fun c i => c + b2n (bit a i)) 0 0 n = (List.range n).countP fun i => a.getLsbD i
  | 0 => rfl
  | n+1 => by rw [foldNat_succ, popc_eq a n, List.range_succ, List.countP_append]; simp [bit, b2n, List.countP_cons]
theorem findNat_spec (p : Nat → Bool) (lo n : Nat) : (∃ i, lo ≤ i ∧ i < lo + n ∧ findNat p lo n = some i ∧ p i = true ∧ ∀ j, lo ≤ j → j < i → p j = false) ∨ (findNat p lo n = none ∧ ∀ j, lo ≤ j → j < lo + n → p j = false) := by
  induction n generalizing lo with
  | zero => right; exact ⟨rfl, fun j h1 h2 => by omega⟩
  | succ n ih =>
    rw [findNat]
    by_cases h : p lo = true
    · left; exact ⟨lo, Nat.le_refl _, by omega, by simp [h], h, fun j h1 h2 => by omega⟩
    · have hf : p lo = false := by simpa using h
      rcases ih (lo+1) with ⟨i, h1, h2, h3, h4, h5⟩ | ⟨h1, h2⟩
      · left; refine ⟨i, by omega, by omega, by simp [hf, h3], h4, fun j h6 h7 => ?_⟩
        by_cases hj : j = lo
        · subst hj; exact hf
        · exact h5 j (by omega) h7
      · right; refine ⟨by simp [hf, h1], fun j h3 h4 => ?_⟩
        by_cases hj : j = lo
        · subst hj; exact hf
        · exact h2 j (by omega) (by omega)
theorem natOf_testBit (bs : List Byte) (i : Nat) : (natOf bs).testBit i = (bs.getD (i / 8) 0).getLsbD (i % 8) := by
  induction bs generalizing i with
  | nil => simp [natOf]
  | cons b bs ih =>
    rw [natOf, show b.toNat + 256 * natOf bs = 2 ^ 8 * natOf bs + b.toNat by omega, Nat.testBit_two_pow_mul_add _ (show b.toNat < 2 ^ 8 from b.isLt)]
    by_cases h : i < 8
    · rw [if_pos h, show i / 8 = 0 by omega, show i % 8 = i by omega]; rfl
    · rw [if_neg h, ih, show (i - 8) / 8 = i / 8 - 1 by omega, show (i - 8) % 8 = i % 8 by omega]
      obtain ⟨k, hk⟩ : ∃ k, i / 8 = k + 1 := ⟨i / 8 - 1, by omega⟩
      rw [hk]; rfl

theorem bytesOf_getElem (n x k : Nat) (h : k < n) : (bytesOf n x)[k]? = some (BitVec.ofNat 8 (x / 256 ^ k)) := by
  induction n generalizing x k with
  | zero => omega
  | succ n ih =>
    cases k with
    | zero => simp [bytesOf]
    | succ k => rw [bytesOf, List.getElem?_cons_succ, ih _ _ (by omega), Nat.div_div_eq_div_mul, show 256 * 256 ^ k = 256 ^ (k + 1) by rw [Nat.pow_succ, Nat.mul_comm]]

theorem bytesOf_length (n x : Nat) : (bytesOf n x).length = n := by
  induction n generalizing x with
  | zero => rfl
  | succ n ih => simp [bytesOf, ih]

theorem natOf_bytesOf (n x : Nat) : natOf (bytesOf n x) = x % 256 ^ n := by
  induction n generalizing x with
  | zero => simp [bytesOf, natOf, Nat.mod_one]
  | succ n ih => rw [bytesOf, natOf, ih, BitVec.toNat_ofNat, show 256 ^ (n + 1) = 256 * 256 ^ n by rw [Nat.pow_succ, Nat.mul_comm], Nat.mod_mul]

theorem bswap_bit (x : Word) (i : Nat) (h : i < 64) : (bswap64 x).getLsbD i = x.getLsbD (56 - i / 8 * 8 + i % 8) := by
  rw [bswap64, word, BitVec.getLsbD_ofNat, natOf_testBit, List.getD_eq_getElem?_getD, List.getElem?_reverse (by rw [bytesOf_length]; omega), bytesOf_length, bytesOf_getElem _ _ _ (by omega)]
  simp only [h, decide_true, Bool.true_and, Option.getD_some, BitVec.getLsbD_ofNat]
  rw [show 256 ^ (8 - 1 - i / 8) = 2 ^ (8 * (8 - 1 - i / 8)) by rw [Nat.pow_mul], Nat.testBit_div_two_pow, BitVec.getLsbD]
  rw [show i % 8 + 8 * (8 - 1 - i / 8) = 56 - i / 8 * 8 + i % 8 by omega]
  have : i % 8 < 8 := by omega
  simp [this]

theorem putFld_nat (o lo n v : Nat) (i : Nat) : (o - o / 2 ^ lo % 2 ^ n * 2 ^ lo + v % 2 ^ n * 2 ^ lo).testBit i =
    if lo ≤ i ∧ i < lo + n then v.testBit (i - lo) else o.testBit i := by
  have hpos : 0 < 2 ^ lo := Nat.two_pow_pos lo
  have h1 : o = 2 ^ lo * (o / 2 ^ lo) + o % 2 ^ lo := (Nat.div_add_mod o (2 ^ lo)).symm
  have h2 : o / 2 ^ lo = 2 ^ n * (o / 2 ^ lo / 2 ^ n) + o / 2 ^ lo % 2 ^ n := (Nat.div_add_mod _ _).symm
  have h3 : o - o / 2 ^ lo % 2 ^ n * 2 ^ lo + v % 2 ^ n * 2 ^ lo = 2 ^ lo * (2 ^ n * (o / 2 ^ lo / 2 ^ n) + v % 2 ^ n) + o % 2 ^ lo := by
    have h4 : o = 2 ^ lo * (2 ^ n * (o / 2 ^ lo / 2 ^ n)) + o / 2 ^ lo % 2 ^ n * 2 ^ lo + o % 2 ^ lo := by
      calc o = 2 ^ lo * (o / 2 ^ lo) + o % 2 ^ lo := h1
        _ = 2 ^ lo * (2 ^ n * (o / 2 ^ lo / 2 ^ n) + o / 2 ^ lo % 2 ^ n) + o % 2 ^ lo := by rw [← h2]
        _ = _ := by rw [Nat.mul_add, Nat.mul_comm (2 ^ lo) (o / 2 ^ lo % 2 ^ n)]
    rw [Nat.mul_add, Nat.mul_comm (2 ^ lo) (v % 2 ^ n)]
    omega
  rw [h3, Nat.testBit_two_pow_mul_add _ (Nat.mod_lt _ hpos)]
  by_cases hi : i < lo
  · rw [if_pos hi, if_neg (by omega), Nat.testBit_mod_two_pow]; simp [hi]
  · rw [if_neg hi, Nat.testBit_two_pow_mul_add _ (Nat.mod_lt _ (Nat.two_pow_pos n))]
    by_cases hn : i < lo + n
    · rw [if_pos (by omega), if_pos (by omega), Nat.testBit_mod_two_pow]; simp [show i - lo < n by omega]
    · rw [if_neg (by omega), if_neg (by omega), Nat.testBit_div_two_pow, Nat.testBit_div_two_pow]; congr 1; omega

/-- Bit i of a word with a field replaced. -/
theorem putFld_bit (x : Word) (lo n v i : Nat) (h : i < 64) :
    (putFld x lo n v).getLsbD i = if lo ≤ i ∧ i < lo + n then v.testBit (i - lo) else x.getLsbD i := by
  simp only [putFld, word, BitVec.getLsbD_ofNat, h, decide_true, Bool.true_and]
  exact putFld_nat _ _ _ _ _

end Sys2Proof.Machine
end

