-- ==== Sys2Proof/Laws/PerInstr.lean ====
section
/-! SUPPORT. Decode and encode agree, instruction by instruction. -/

set_option Elab.async false

namespace Sys2Proof.Laws.Encodes

open Sys2Proof.Laws.Bits

/-- What holds of one instruction: a well-formed one that has a word decodes from that word. -/
def Statement (i : Instr) : Prop := i.wellFormed = true → encode i ≠ 0 → decode (encode i) = .instr i

/-- An instruction that its own word selects decodes from that word. -/
theorem of_select {i : Instr} {w : BitVec 32} (e : encode i = w) (h : select w = some i) : Statement i := by
  intro hw _
  simp [decode, e, h, hw]

/-- The same through a name for the word. -/
theorem of_row {i : Instr} {w : BitVec 32} (e : encode i = w) (h : ∀ u : BitVec 32, u = w → select u = some i) : Statement i :=
  of_select e (h w rfl)

/-- One of the part's own steps has no word. -/
theorem of_zero {i : Instr} (e : encode i = 0) : Statement i := fun _ h => absurd e h

theorem illegal : Statement .illegal := of_zero rfl

theorem add (d : BitVec 5) (a : BitVec 5) (b : BitVec 5) : Statement (.add d a b) := by
  refine of_row (w := 1#6 ++ d ++ a ++ b ++ 0#11) rfl fun x0 hw => ?_
  have e0 : x0.extractLsb' 26 6 = 1#6 := at_ hw (hi (hi (hi (hi rfl))))
  have e1 : x0.extractLsb' 0 6 = 0#6 := at_ hw (lo rfl)
  have e2 : x0.extractLsb' 21 5 = d := at_ hw (hi (hi (hi (lo full))))
  have e3 : x0.extractLsb' 16 5 = a := at_ hw (hi (hi (lo full)))
  have e4 : x0.extractLsb' 11 5 = b := at_ hw (hi (lo full))
  simp [select, selectData, select01, e0, e1, e2, e3, e4]

theorem sub (d : BitVec 5) (a : BitVec 5) (b : BitVec 5) : Statement (.sub d a b) := by
  refine of_row (w := 1#6 ++ d ++ a ++ b ++ 1#11) rfl fun x0 hw => ?_
  have e0 : x0.extractLsb' 26 6 = 1#6 := at_ hw (hi (hi (hi (hi rfl))))
  have e1 : x0.extractLsb' 0 6 = 1#6 := at_ hw (lo rfl)
  have e2 : x0.extractLsb' 21 5 = d := at_ hw (hi (hi (hi (lo full))))
  have e3 : x0.extractLsb' 16 5 = a := at_ hw (hi (hi (lo full)))
  have e4 : x0.extractLsb' 11 5 = b := at_ hw (hi (lo full))
  simp [select, selectData, select01, e0, e1, e2, e3, e4]

theorem and (d : BitVec 5) (a : BitVec 5) (b : BitVec 5) : Statement (.and d a b) := by
  refine of_row (w := 1#6 ++ d ++ a ++ b ++ 2#11) rfl fun x0 hw => ?_
  have e0 : x0.extractLsb' 26 6 = 1#6 := at_ hw (hi (hi (hi (hi rfl))))
  have e1 : x0.extractLsb' 0 6 = 2#6 := at_ hw (lo rfl)
  have e2 : x0.extractLsb' 21 5 = d := at_ hw (hi (hi (hi (lo full))))
  have e3 : x0.extractLsb' 16 5 = a := at_ hw (hi (hi (lo full)))
  have e4 : x0.extractLsb' 11 5 = b := at_ hw (hi (lo full))
  simp [select, selectData, select01, e0, e1, e2, e3, e4]

theorem or (d : BitVec 5) (a : BitVec 5) (b : BitVec 5) : Statement (.or d a b) := by
  refine of_row (w := 1#6 ++ d ++ a ++ b ++ 3#11) rfl fun x0 hw => ?_
  have e0 : x0.extractLsb' 26 6 = 1#6 := at_ hw (hi (hi (hi (hi rfl))))
  have e1 : x0.extractLsb' 0 6 = 3#6 := at_ hw (lo rfl)
  have e2 : x0.extractLsb' 21 5 = d := at_ hw (hi (hi (hi (lo full))))
  have e3 : x0.extractLsb' 16 5 = a := at_ hw (hi (hi (lo full)))
  have e4 : x0.extractLsb' 11 5 = b := at_ hw (hi (lo full))
  simp [select, selectData, select01, e0, e1, e2, e3, e4]

theorem xor (d : BitVec 5) (a : BitVec 5) (b : BitVec 5) : Statement (.xor d a b) := by
  refine of_row (w := 1#6 ++ d ++ a ++ b ++ 4#11) rfl fun x0 hw => ?_
  have e0 : x0.extractLsb' 26 6 = 1#6 := at_ hw (hi (hi (hi (hi rfl))))
  have e1 : x0.extractLsb' 0 6 = 4#6 := at_ hw (lo rfl)
  have e2 : x0.extractLsb' 21 5 = d := at_ hw (hi (hi (hi (lo full))))
  have e3 : x0.extractLsb' 16 5 = a := at_ hw (hi (hi (lo full)))
  have e4 : x0.extractLsb' 11 5 = b := at_ hw (hi (lo full))
  simp [select, selectData, select01, e0, e1, e2, e3, e4]

theorem andn (d : BitVec 5) (a : BitVec 5) (b : BitVec 5) : Statement (.andn d a b) := by
  refine of_row (w := 1#6 ++ d ++ a ++ b ++ 5#11) rfl fun x0 hw => ?_
  have e0 : x0.extractLsb' 26 6 = 1#6 := at_ hw (hi (hi (hi (hi rfl))))
  have e1 : x0.extractLsb' 0 6 = 5#6 := at_ hw (lo rfl)
  have e2 : x0.extractLsb' 21 5 = d := at_ hw (hi (hi (hi (lo full))))
  have e3 : x0.extractLsb' 16 5 = a := at_ hw (hi (hi (lo full)))
  have e4 : x0.extractLsb' 11 5 = b := at_ hw (hi (lo full))
  simp [select, selectData, select01, e0, e1, e2, e3, e4]

theorem orn (d : BitVec 5) (a : BitVec 5) (b : BitVec 5) : Statement (.orn d a b) := by
  refine of_row (w := 1#6 ++ d ++ a ++ b ++ 6#11) rfl fun x0 hw => ?_
  have e0 : x0.extractLsb' 26 6 = 1#6 := at_ hw (hi (hi (hi (hi rfl))))
  have e1 : x0.extractLsb' 0 6 = 6#6 := at_ hw (lo rfl)
  have e2 : x0.extractLsb' 21 5 = d := at_ hw (hi (hi (hi (lo full))))
  have e3 : x0.extractLsb' 16 5 = a := at_ hw (hi (hi (lo full)))
  have e4 : x0.extractLsb' 11 5 = b := at_ hw (hi (lo full))
  simp [select, selectData, select01, e0, e1, e2, e3, e4]

theorem xnor (d : BitVec 5) (a : BitVec 5) (b : BitVec 5) : Statement (.xnor d a b) := by
  refine of_row (w := 1#6 ++ d ++ a ++ b ++ 7#11) rfl fun x0 hw => ?_
  have e0 : x0.extractLsb' 26 6 = 1#6 := at_ hw (hi (hi (hi (hi rfl))))
  have e1 : x0.extractLsb' 0 6 = 7#6 := at_ hw (lo rfl)
  have e2 : x0.extractLsb' 21 5 = d := at_ hw (hi (hi (hi (lo full))))
  have e3 : x0.extractLsb' 16 5 = a := at_ hw (hi (hi (lo full)))
  have e4 : x0.extractLsb' 11 5 = b := at_ hw (hi (lo full))
  simp [select, selectData, select01, e0, e1, e2, e3, e4]

theorem sll (d : BitVec 5) (a : BitVec 5) (b : BitVec 5) : Statement (.sll d a b) := by
  refine of_row (w := 1#6 ++ d ++ a ++ b ++ 8#11) rfl fun x0 hw => ?_
  have e0 : x0.extractLsb' 26 6 = 1#6 := at_ hw (hi (hi (hi (hi rfl))))
  have e1 : x0.extractLsb' 0 6 = 8#6 := at_ hw (lo rfl)
  have e2 : x0.extractLsb' 21 5 = d := at_ hw (hi (hi (hi (lo full))))
  have e3 : x0.extractLsb' 16 5 = a := at_ hw (hi (hi (lo full)))
  have e4 : x0.extractLsb' 11 5 = b := at_ hw (hi (lo full))
  simp [select, selectData, select01, e0, e1, e2, e3, e4]

theorem srl (d : BitVec 5) (a : BitVec 5) (b : BitVec 5) : Statement (.srl d a b) := by
  refine of_row (w := 1#6 ++ d ++ a ++ b ++ 9#11) rfl fun x0 hw => ?_
  have e0 : x0.extractLsb' 26 6 = 1#6 := at_ hw (hi (hi (hi (hi rfl))))
  have e1 : x0.extractLsb' 0 6 = 9#6 := at_ hw (lo rfl)
  have e2 : x0.extractLsb' 21 5 = d := at_ hw (hi (hi (hi (lo full))))
  have e3 : x0.extractLsb' 16 5 = a := at_ hw (hi (hi (lo full)))
  have e4 : x0.extractLsb' 11 5 = b := at_ hw (hi (lo full))
  simp [select, selectData, select01, e0, e1, e2, e3, e4]

theorem sra (d : BitVec 5) (a : BitVec 5) (b : BitVec 5) : Statement (.sra d a b) := by
  refine of_row (w := 1#6 ++ d ++ a ++ b ++ 10#11) rfl fun x0 hw => ?_
  have e0 : x0.extractLsb' 26 6 = 1#6 := at_ hw (hi (hi (hi (hi rfl))))
  have e1 : x0.extractLsb' 0 6 = 10#6 := at_ hw (lo rfl)
  have e2 : x0.extractLsb' 21 5 = d := at_ hw (hi (hi (hi (lo full))))
  have e3 : x0.extractLsb' 16 5 = a := at_ hw (hi (hi (lo full)))
  have e4 : x0.extractLsb' 11 5 = b := at_ hw (hi (lo full))
  simp [select, selectData, select01, e0, e1, e2, e3, e4]

theorem rol (d : BitVec 5) (a : BitVec 5) (b : BitVec 5) : Statement (.rol d a b) := by
  refine of_row (w := 1#6 ++ d ++ a ++ b ++ 11#11) rfl fun x0 hw => ?_
  have e0 : x0.extractLsb' 26 6 = 1#6 := at_ hw (hi (hi (hi (hi rfl))))
  have e1 : x0.extractLsb' 0 6 = 11#6 := at_ hw (lo rfl)
  have e2 : x0.extractLsb' 21 5 = d := at_ hw (hi (hi (hi (lo full))))
  have e3 : x0.extractLsb' 16 5 = a := at_ hw (hi (hi (lo full)))
  have e4 : x0.extractLsb' 11 5 = b := at_ hw (hi (lo full))
  simp [select, selectData, select01, e0, e1, e2, e3, e4]

theorem ror (d : BitVec 5) (a : BitVec 5) (b : BitVec 5) : Statement (.ror d a b) := by
  refine of_row (w := 1#6 ++ d ++ a ++ b ++ 12#11) rfl fun x0 hw => ?_
  have e0 : x0.extractLsb' 26 6 = 1#6 := at_ hw (hi (hi (hi (hi rfl))))
  have e1 : x0.extractLsb' 0 6 = 12#6 := at_ hw (lo rfl)
  have e2 : x0.extractLsb' 21 5 = d := at_ hw (hi (hi (hi (lo full))))
  have e3 : x0.extractLsb' 16 5 = a := at_ hw (hi (hi (lo full)))
  have e4 : x0.extractLsb' 11 5 = b := at_ hw (hi (lo full))
  simp [select, selectData, select01, e0, e1, e2, e3, e4]

theorem addw (d : BitVec 5) (a : BitVec 5) (b : BitVec 5) : Statement (.addw d a b) := by
  refine of_row (w := 1#6 ++ d ++ a ++ b ++ 16#11) rfl fun x0 hw => ?_
  have e0 : x0.extractLsb' 26 6 = 1#6 := at_ hw (hi (hi (hi (hi rfl))))
  have e1 : x0.extractLsb' 0 6 = 16#6 := at_ hw (lo rfl)
  have e2 : x0.extractLsb' 21 5 = d := at_ hw (hi (hi (hi (lo full))))
  have e3 : x0.extractLsb' 16 5 = a := at_ hw (hi (hi (lo full)))
  have e4 : x0.extractLsb' 11 5 = b := at_ hw (hi (lo full))
  simp [select, selectData, select01, e0, e1, e2, e3, e4]

theorem subw (d : BitVec 5) (a : BitVec 5) (b : BitVec 5) : Statement (.subw d a b) := by
  refine of_row (w := 1#6 ++ d ++ a ++ b ++ 17#11) rfl fun x0 hw => ?_
  have e0 : x0.extractLsb' 26 6 = 1#6 := at_ hw (hi (hi (hi (hi rfl))))
  have e1 : x0.extractLsb' 0 6 = 17#6 := at_ hw (lo rfl)
  have e2 : x0.extractLsb' 21 5 = d := at_ hw (hi (hi (hi (lo full))))
  have e3 : x0.extractLsb' 16 5 = a := at_ hw (hi (hi (lo full)))
  have e4 : x0.extractLsb' 11 5 = b := at_ hw (hi (lo full))
  simp [select, selectData, select01, e0, e1, e2, e3, e4]

theorem sllw (d : BitVec 5) (a : BitVec 5) (b : BitVec 5) : Statement (.sllw d a b) := by
  refine of_row (w := 1#6 ++ d ++ a ++ b ++ 24#11) rfl fun x0 hw => ?_
  have e0 : x0.extractLsb' 26 6 = 1#6 := at_ hw (hi (hi (hi (hi rfl))))
  have e1 : x0.extractLsb' 0 6 = 24#6 := at_ hw (lo rfl)
  have e2 : x0.extractLsb' 21 5 = d := at_ hw (hi (hi (hi (lo full))))
  have e3 : x0.extractLsb' 16 5 = a := at_ hw (hi (hi (lo full)))
  have e4 : x0.extractLsb' 11 5 = b := at_ hw (hi (lo full))
  simp [select, selectData, select01, e0, e1, e2, e3, e4]

theorem srlw (d : BitVec 5) (a : BitVec 5) (b : BitVec 5) : Statement (.srlw d a b) := by
  refine of_row (w := 1#6 ++ d ++ a ++ b ++ 25#11) rfl fun x0 hw => ?_
  have e0 : x0.extractLsb' 26 6 = 1#6 := at_ hw (hi (hi (hi (hi rfl))))
  have e1 : x0.extractLsb' 0 6 = 25#6 := at_ hw (lo rfl)
  have e2 : x0.extractLsb' 21 5 = d := at_ hw (hi (hi (hi (lo full))))
  have e3 : x0.extractLsb' 16 5 = a := at_ hw (hi (hi (lo full)))
  have e4 : x0.extractLsb' 11 5 = b := at_ hw (hi (lo full))
  simp [select, selectData, select01, e0, e1, e2, e3, e4]

theorem sraw (d : BitVec 5) (a : BitVec 5) (b : BitVec 5) : Statement (.sraw d a b) := by
  refine of_row (w := 1#6 ++ d ++ a ++ b ++ 26#11) rfl fun x0 hw => ?_
  have e0 : x0.extractLsb' 26 6 = 1#6 := at_ hw (hi (hi (hi (hi rfl))))
  have e1 : x0.extractLsb' 0 6 = 26#6 := at_ hw (lo rfl)
  have e2 : x0.extractLsb' 21 5 = d := at_ hw (hi (hi (hi (lo full))))
  have e3 : x0.extractLsb' 16 5 = a := at_ hw (hi (hi (lo full)))
  have e4 : x0.extractLsb' 11 5 = b := at_ hw (hi (lo full))
  simp [select, selectData, select01, e0, e1, e2, e3, e4]

theorem min (d : BitVec 5) (a : BitVec 5) (b : BitVec 5) : Statement (.min d a b) := by
  refine of_row (w := 1#6 ++ d ++ a ++ b ++ 32#11) rfl fun x0 hw => ?_
  have e0 : x0.extractLsb' 26 6 = 1#6 := at_ hw (hi (hi (hi (hi rfl))))
  have e1 : x0.extractLsb' 0 6 = 32#6 := at_ hw (lo rfl)
  have e2 : x0.extractLsb' 21 5 = d := at_ hw (hi (hi (hi (lo full))))
  have e3 : x0.extractLsb' 16 5 = a := at_ hw (hi (hi (lo full)))
  have e4 : x0.extractLsb' 11 5 = b := at_ hw (hi (lo full))
  simp [select, selectData, select01, e0, e1, e2, e3, e4]

theorem max (d : BitVec 5) (a : BitVec 5) (b : BitVec 5) : Statement (.max d a b) := by
  refine of_row (w := 1#6 ++ d ++ a ++ b ++ 33#11) rfl fun x0 hw => ?_
  have e0 : x0.extractLsb' 26 6 = 1#6 := at_ hw (hi (hi (hi (hi rfl))))
  have e1 : x0.extractLsb' 0 6 = 33#6 := at_ hw (lo rfl)
  have e2 : x0.extractLsb' 21 5 = d := at_ hw (hi (hi (hi (lo full))))
  have e3 : x0.extractLsb' 16 5 = a := at_ hw (hi (hi (lo full)))
  have e4 : x0.extractLsb' 11 5 = b := at_ hw (hi (lo full))
  simp [select, selectData, select01, e0, e1, e2, e3, e4]

theorem minu (d : BitVec 5) (a : BitVec 5) (b : BitVec 5) : Statement (.minu d a b) := by
  refine of_row (w := 1#6 ++ d ++ a ++ b ++ 34#11) rfl fun x0 hw => ?_
  have e0 : x0.extractLsb' 26 6 = 1#6 := at_ hw (hi (hi (hi (hi rfl))))
  have e1 : x0.extractLsb' 0 6 = 34#6 := at_ hw (lo rfl)
  have e2 : x0.extractLsb' 21 5 = d := at_ hw (hi (hi (hi (lo full))))
  have e3 : x0.extractLsb' 16 5 = a := at_ hw (hi (hi (lo full)))
  have e4 : x0.extractLsb' 11 5 = b := at_ hw (hi (lo full))
  simp [select, selectData, select01, e0, e1, e2, e3, e4]

theorem maxu (d : BitVec 5) (a : BitVec 5) (b : BitVec 5) : Statement (.maxu d a b) := by
  refine of_row (w := 1#6 ++ d ++ a ++ b ++ 35#11) rfl fun x0 hw => ?_
  have e0 : x0.extractLsb' 26 6 = 1#6 := at_ hw (hi (hi (hi (hi rfl))))
  have e1 : x0.extractLsb' 0 6 = 35#6 := at_ hw (lo rfl)
  have e2 : x0.extractLsb' 21 5 = d := at_ hw (hi (hi (hi (lo full))))
  have e3 : x0.extractLsb' 16 5 = a := at_ hw (hi (hi (lo full)))
  have e4 : x0.extractLsb' 11 5 = b := at_ hw (hi (lo full))
  simp [select, selectData, select01, e0, e1, e2, e3, e4]

theorem addsat (d : BitVec 5) (a : BitVec 5) (b : BitVec 5) : Statement (.addsat d a b) := by
  refine of_row (w := 1#6 ++ d ++ a ++ b ++ 40#11) rfl fun x0 hw => ?_
  have e0 : x0.extractLsb' 26 6 = 1#6 := at_ hw (hi (hi (hi (hi rfl))))
  have e1 : x0.extractLsb' 0 6 = 40#6 := at_ hw (lo rfl)
  have e2 : x0.extractLsb' 21 5 = d := at_ hw (hi (hi (hi (lo full))))
  have e3 : x0.extractLsb' 16 5 = a := at_ hw (hi (hi (lo full)))
  have e4 : x0.extractLsb' 11 5 = b := at_ hw (hi (lo full))
  simp [select, selectData, select01, e0, e1, e2, e3, e4]

theorem subsat (d : BitVec 5) (a : BitVec 5) (b : BitVec 5) : Statement (.subsat d a b) := by
  refine of_row (w := 1#6 ++ d ++ a ++ b ++ 41#11) rfl fun x0 hw => ?_
  have e0 : x0.extractLsb' 26 6 = 1#6 := at_ hw (hi (hi (hi (hi rfl))))
  have e1 : x0.extractLsb' 0 6 = 41#6 := at_ hw (lo rfl)
  have e2 : x0.extractLsb' 21 5 = d := at_ hw (hi (hi (hi (lo full))))
  have e3 : x0.extractLsb' 16 5 = a := at_ hw (hi (hi (lo full)))
  have e4 : x0.extractLsb' 11 5 = b := at_ hw (hi (lo full))
  simp [select, selectData, select01, e0, e1, e2, e3, e4]

theorem seq (d : BitVec 5) (a : BitVec 5) (b : BitVec 5) : Statement (.seq d a b) := by
  refine of_row (w := 2#6 ++ d ++ a ++ b ++ 0#11) rfl fun x0 hw => ?_
  have e0 : x0.extractLsb' 26 6 = 2#6 := at_ hw (hi (hi (hi (hi rfl))))
  have e1 : x0.extractLsb' 0 4 = 0#4 := at_ hw (lo rfl)
  have e2 : x0.extractLsb' 21 5 = d := at_ hw (hi (hi (hi (lo full))))
  have e3 : x0.extractLsb' 16 5 = a := at_ hw (hi (hi (lo full)))
  have e4 : x0.extractLsb' 11 5 = b := at_ hw (hi (lo full))
  simp [select, selectData, select02, e0, e1, e2, e3, e4]

theorem sne (d : BitVec 5) (a : BitVec 5) (b : BitVec 5) : Statement (.sne d a b) := by
  refine of_row (w := 2#6 ++ d ++ a ++ b ++ 1#11) rfl fun x0 hw => ?_
  have e0 : x0.extractLsb' 26 6 = 2#6 := at_ hw (hi (hi (hi (hi rfl))))
  have e1 : x0.extractLsb' 0 4 = 1#4 := at_ hw (lo rfl)
  have e2 : x0.extractLsb' 21 5 = d := at_ hw (hi (hi (hi (lo full))))
  have e3 : x0.extractLsb' 16 5 = a := at_ hw (hi (hi (lo full)))
  have e4 : x0.extractLsb' 11 5 = b := at_ hw (hi (lo full))
  simp [select, selectData, select02, e0, e1, e2, e3, e4]

theorem slt (d : BitVec 5) (a : BitVec 5) (b : BitVec 5) : Statement (.slt d a b) := by
  refine of_row (w := 2#6 ++ d ++ a ++ b ++ 2#11) rfl fun x0 hw => ?_
  have e0 : x0.extractLsb' 26 6 = 2#6 := at_ hw (hi (hi (hi (hi rfl))))
  have e1 : x0.extractLsb' 0 4 = 2#4 := at_ hw (lo rfl)
  have e2 : x0.extractLsb' 21 5 = d := at_ hw (hi (hi (hi (lo full))))
  have e3 : x0.extractLsb' 16 5 = a := at_ hw (hi (hi (lo full)))
  have e4 : x0.extractLsb' 11 5 = b := at_ hw (hi (lo full))
  simp [select, selectData, select02, e0, e1, e2, e3, e4]

theorem sltu (d : BitVec 5) (a : BitVec 5) (b : BitVec 5) : Statement (.sltu d a b) := by
  refine of_row (w := 2#6 ++ d ++ a ++ b ++ 3#11) rfl fun x0 hw => ?_
  have e0 : x0.extractLsb' 26 6 = 2#6 := at_ hw (hi (hi (hi (hi rfl))))
  have e1 : x0.extractLsb' 0 4 = 3#4 := at_ hw (lo rfl)
  have e2 : x0.extractLsb' 21 5 = d := at_ hw (hi (hi (hi (lo full))))
  have e3 : x0.extractLsb' 16 5 = a := at_ hw (hi (hi (lo full)))
  have e4 : x0.extractLsb' 11 5 = b := at_ hw (hi (lo full))
  simp [select, selectData, select02, e0, e1, e2, e3, e4]

theorem sge (d : BitVec 5) (a : BitVec 5) (b : BitVec 5) : Statement (.sge d a b) := by
  refine of_row (w := 2#6 ++ d ++ a ++ b ++ 4#11) rfl fun x0 hw => ?_
  have e0 : x0.extractLsb' 26 6 = 2#6 := at_ hw (hi (hi (hi (hi rfl))))
  have e1 : x0.extractLsb' 0 4 = 4#4 := at_ hw (lo rfl)
  have e2 : x0.extractLsb' 21 5 = d := at_ hw (hi (hi (hi (lo full))))
  have e3 : x0.extractLsb' 16 5 = a := at_ hw (hi (hi (lo full)))
  have e4 : x0.extractLsb' 11 5 = b := at_ hw (hi (lo full))
  simp [select, selectData, select02, e0, e1, e2, e3, e4]

theorem sgeu (d : BitVec 5) (a : BitVec 5) (b : BitVec 5) : Statement (.sgeu d a b) := by
  refine of_row (w := 2#6 ++ d ++ a ++ b ++ 5#11) rfl fun x0 hw => ?_
  have e0 : x0.extractLsb' 26 6 = 2#6 := at_ hw (hi (hi (hi (hi rfl))))
  have e1 : x0.extractLsb' 0 4 = 5#4 := at_ hw (lo rfl)
  have e2 : x0.extractLsb' 21 5 = d := at_ hw (hi (hi (hi (lo full))))
  have e3 : x0.extractLsb' 16 5 = a := at_ hw (hi (hi (lo full)))
  have e4 : x0.extractLsb' 11 5 = b := at_ hw (hi (lo full))
  simp [select, selectData, select02, e0, e1, e2, e3, e4]

theorem cmovz (d : BitVec 5) (a : BitVec 5) (b : BitVec 5) : Statement (.cmovz d a b) := by
  refine of_row (w := 2#6 ++ d ++ a ++ b ++ 8#11) rfl fun x0 hw => ?_
  have e0 : x0.extractLsb' 26 6 = 2#6 := at_ hw (hi (hi (hi (hi rfl))))
  have e1 : x0.extractLsb' 0 4 = 8#4 := at_ hw (lo rfl)
  have e2 : x0.extractLsb' 21 5 = d := at_ hw (hi (hi (hi (lo full))))
  have e3 : x0.extractLsb' 16 5 = a := at_ hw (hi (hi (lo full)))
  have e4 : x0.extractLsb' 11 5 = b := at_ hw (hi (lo full))
  simp [select, selectData, select02, e0, e1, e2, e3, e4]

theorem cmovnz (d : BitVec 5) (a : BitVec 5) (b : BitVec 5) : Statement (.cmovnz d a b) := by
  refine of_row (w := 2#6 ++ d ++ a ++ b ++ 9#11) rfl fun x0 hw => ?_
  have e0 : x0.extractLsb' 26 6 = 2#6 := at_ hw (hi (hi (hi (hi rfl))))
  have e1 : x0.extractLsb' 0 4 = 9#4 := at_ hw (lo rfl)
  have e2 : x0.extractLsb' 21 5 = d := at_ hw (hi (hi (hi (lo full))))
  have e3 : x0.extractLsb' 16 5 = a := at_ hw (hi (hi (lo full)))
  have e4 : x0.extractLsb' 11 5 = b := at_ hw (hi (lo full))
  simp [select, selectData, select02, e0, e1, e2, e3, e4]

theorem clz (d : BitVec 5) (a : BitVec 5) : Statement (.clz d a) := by
  refine of_row (w := 3#6 ++ d ++ a ++ 0#16) rfl fun x0 hw => ?_
  have e0 : x0.extractLsb' 26 6 = 3#6 := at_ hw (hi (hi (hi rfl)))
  have e1 : x0.extractLsb' 0 4 = 0#4 := at_ hw (lo rfl)
  have e2 : x0.extractLsb' 21 5 = d := at_ hw (hi (hi (lo full)))
  have e3 : x0.extractLsb' 16 5 = a := at_ hw (hi (lo full))
  simp [select, selectData, select03, e0, e1, e2, e3]

theorem ctz (d : BitVec 5) (a : BitVec 5) : Statement (.ctz d a) := by
  refine of_row (w := 3#6 ++ d ++ a ++ 1#16) rfl fun x0 hw => ?_
  have e0 : x0.extractLsb' 26 6 = 3#6 := at_ hw (hi (hi (hi rfl)))
  have e1 : x0.extractLsb' 0 4 = 1#4 := at_ hw (lo rfl)
  have e2 : x0.extractLsb' 21 5 = d := at_ hw (hi (hi (lo full)))
  have e3 : x0.extractLsb' 16 5 = a := at_ hw (hi (lo full))
  simp [select, selectData, select03, e0, e1, e2, e3]

theorem popc (d : BitVec 5) (a : BitVec 5) : Statement (.popc d a) := by
  refine of_row (w := 3#6 ++ d ++ a ++ 2#16) rfl fun x0 hw => ?_
  have e0 : x0.extractLsb' 26 6 = 3#6 := at_ hw (hi (hi (hi rfl)))
  have e1 : x0.extractLsb' 0 4 = 2#4 := at_ hw (lo rfl)
  have e2 : x0.extractLsb' 21 5 = d := at_ hw (hi (hi (lo full)))
  have e3 : x0.extractLsb' 16 5 = a := at_ hw (hi (lo full))
  simp [select, selectData, select03, e0, e1, e2, e3]

theorem brev (d : BitVec 5) (a : BitVec 5) : Statement (.brev d a) := by
  refine of_row (w := 3#6 ++ d ++ a ++ 3#16) rfl fun x0 hw => ?_
  have e0 : x0.extractLsb' 26 6 = 3#6 := at_ hw (hi (hi (hi rfl)))
  have e1 : x0.extractLsb' 0 4 = 3#4 := at_ hw (lo rfl)
  have e2 : x0.extractLsb' 21 5 = d := at_ hw (hi (hi (lo full)))
  have e3 : x0.extractLsb' 16 5 = a := at_ hw (hi (lo full))
  simp [select, selectData, select03, e0, e1, e2, e3]

theorem bswap (d : BitVec 5) (a : BitVec 5) : Statement (.bswap d a) := by
  refine of_row (w := 3#6 ++ d ++ a ++ 4#16) rfl fun x0 hw => ?_
  have e0 : x0.extractLsb' 26 6 = 3#6 := at_ hw (hi (hi (hi rfl)))
  have e1 : x0.extractLsb' 0 4 = 4#4 := at_ hw (lo rfl)
  have e2 : x0.extractLsb' 21 5 = d := at_ hw (hi (hi (lo full)))
  have e3 : x0.extractLsb' 16 5 = a := at_ hw (hi (lo full))
  simp [select, selectData, select03, e0, e1, e2, e3]

theorem extr (d : BitVec 5) (a : BitVec 5) (b : BitVec 5) : Statement (.extr d a b) := by
  refine of_row (w := 3#6 ++ d ++ a ++ b ++ 8#11) rfl fun x0 hw => ?_
  have e0 : x0.extractLsb' 26 6 = 3#6 := at_ hw (hi (hi (hi (hi rfl))))
  have e1 : x0.extractLsb' 0 4 = 8#4 := at_ hw (lo rfl)
  have e2 : x0.extractLsb' 21 5 = d := at_ hw (hi (hi (hi (lo full))))
  have e3 : x0.extractLsb' 16 5 = a := at_ hw (hi (hi (lo full)))
  have e4 : x0.extractLsb' 11 5 = b := at_ hw (hi (lo full))
  simp [select, selectData, select03, e0, e1, e2, e3, e4]

theorem extrs (d : BitVec 5) (a : BitVec 5) (b : BitVec 5) : Statement (.extrs d a b) := by
  refine of_row (w := 3#6 ++ d ++ a ++ b ++ 9#11) rfl fun x0 hw => ?_
  have e0 : x0.extractLsb' 26 6 = 3#6 := at_ hw (hi (hi (hi (hi rfl))))
  have e1 : x0.extractLsb' 0 4 = 9#4 := at_ hw (lo rfl)
  have e2 : x0.extractLsb' 21 5 = d := at_ hw (hi (hi (hi (lo full))))
  have e3 : x0.extractLsb' 16 5 = a := at_ hw (hi (hi (lo full)))
  have e4 : x0.extractLsb' 11 5 = b := at_ hw (hi (lo full))
  simp [select, selectData, select03, e0, e1, e2, e3, e4]

theorem insr (d : BitVec 5) (a : BitVec 5) (b : BitVec 5) : Statement (.insr d a b) := by
  refine of_row (w := 3#6 ++ d ++ a ++ b ++ 10#11) rfl fun x0 hw => ?_
  have e0 : x0.extractLsb' 26 6 = 3#6 := at_ hw (hi (hi (hi (hi rfl))))
  have e1 : x0.extractLsb' 0 4 = 10#4 := at_ hw (lo rfl)
  have e2 : x0.extractLsb' 21 5 = d := at_ hw (hi (hi (hi (lo full))))
  have e3 : x0.extractLsb' 16 5 = a := at_ hw (hi (hi (lo full)))
  have e4 : x0.extractLsb' 11 5 = b := at_ hw (hi (lo full))
  simp [select, selectData, select03, e0, e1, e2, e3, e4]

theorem mul (d : BitVec 5) (a : BitVec 5) (b : BitVec 5) : Statement (.mul d a b) := by
  refine of_row (w := 4#6 ++ d ++ a ++ b ++ 0#11) rfl fun x0 hw => ?_
  have e0 : x0.extractLsb' 26 6 = 4#6 := at_ hw (hi (hi (hi (hi rfl))))
  have e1 : x0.extractLsb' 0 4 = 0#4 := at_ hw (lo rfl)
  have e2 : x0.extractLsb' 21 5 = d := at_ hw (hi (hi (hi (lo full))))
  have e3 : x0.extractLsb' 16 5 = a := at_ hw (hi (hi (lo full)))
  have e4 : x0.extractLsb' 11 5 = b := at_ hw (hi (lo full))
  simp [select, selectData, select04, e0, e1, e2, e3, e4]

theorem mulh (d : BitVec 5) (a : BitVec 5) (b : BitVec 5) : Statement (.mulh d a b) := by
  refine of_row (w := 4#6 ++ d ++ a ++ b ++ 1#11) rfl fun x0 hw => ?_
  have e0 : x0.extractLsb' 26 6 = 4#6 := at_ hw (hi (hi (hi (hi rfl))))
  have e1 : x0.extractLsb' 0 4 = 1#4 := at_ hw (lo rfl)
  have e2 : x0.extractLsb' 21 5 = d := at_ hw (hi (hi (hi (lo full))))
  have e3 : x0.extractLsb' 16 5 = a := at_ hw (hi (hi (lo full)))
  have e4 : x0.extractLsb' 11 5 = b := at_ hw (hi (lo full))
  simp [select, selectData, select04, e0, e1, e2, e3, e4]

theorem mulhu (d : BitVec 5) (a : BitVec 5) (b : BitVec 5) : Statement (.mulhu d a b) := by
  refine of_row (w := 4#6 ++ d ++ a ++ b ++ 2#11) rfl fun x0 hw => ?_
  have e0 : x0.extractLsb' 26 6 = 4#6 := at_ hw (hi (hi (hi (hi rfl))))
  have e1 : x0.extractLsb' 0 4 = 2#4 := at_ hw (lo rfl)
  have e2 : x0.extractLsb' 21 5 = d := at_ hw (hi (hi (hi (lo full))))
  have e3 : x0.extractLsb' 16 5 = a := at_ hw (hi (hi (lo full)))
  have e4 : x0.extractLsb' 11 5 = b := at_ hw (hi (lo full))
  simp [select, selectData, select04, e0, e1, e2, e3, e4]

theorem mulhm (d : BitVec 5) (a : BitVec 5) (b : BitVec 5) : Statement (.mulhm d a b) := by
  refine of_row (w := 4#6 ++ d ++ a ++ b ++ 3#11) rfl fun x0 hw => ?_
  have e0 : x0.extractLsb' 26 6 = 4#6 := at_ hw (hi (hi (hi (hi rfl))))
  have e1 : x0.extractLsb' 0 4 = 3#4 := at_ hw (lo rfl)
  have e2 : x0.extractLsb' 21 5 = d := at_ hw (hi (hi (hi (lo full))))
  have e3 : x0.extractLsb' 16 5 = a := at_ hw (hi (hi (lo full)))
  have e4 : x0.extractLsb' 11 5 = b := at_ hw (hi (lo full))
  simp [select, selectData, select04, e0, e1, e2, e3, e4]

theorem mulw (d : BitVec 5) (a : BitVec 5) (b : BitVec 5) : Statement (.mulw d a b) := by
  refine of_row (w := 4#6 ++ d ++ a ++ b ++ 4#11) rfl fun x0 hw => ?_
  have e0 : x0.extractLsb' 26 6 = 4#6 := at_ hw (hi (hi (hi (hi rfl))))
  have e1 : x0.extractLsb' 0 4 = 4#4 := at_ hw (lo rfl)
  have e2 : x0.extractLsb' 21 5 = d := at_ hw (hi (hi (hi (lo full))))
  have e3 : x0.extractLsb' 16 5 = a := at_ hw (hi (hi (lo full)))
  have e4 : x0.extractLsb' 11 5 = b := at_ hw (hi (lo full))
  simp [select, selectData, select04, e0, e1, e2, e3, e4]

theorem div (d : BitVec 5) (a : BitVec 5) (b : BitVec 5) : Statement (.div d a b) := by
  refine of_row (w := 4#6 ++ d ++ a ++ b ++ 8#11) rfl fun x0 hw => ?_
  have e0 : x0.extractLsb' 26 6 = 4#6 := at_ hw (hi (hi (hi (hi rfl))))
  have e1 : x0.extractLsb' 0 4 = 8#4 := at_ hw (lo rfl)
  have e2 : x0.extractLsb' 21 5 = d := at_ hw (hi (hi (hi (lo full))))
  have e3 : x0.extractLsb' 16 5 = a := at_ hw (hi (hi (lo full)))
  have e4 : x0.extractLsb' 11 5 = b := at_ hw (hi (lo full))
  simp [select, selectData, select04, e0, e1, e2, e3, e4]

theorem divu (d : BitVec 5) (a : BitVec 5) (b : BitVec 5) : Statement (.divu d a b) := by
  refine of_row (w := 4#6 ++ d ++ a ++ b ++ 9#11) rfl fun x0 hw => ?_
  have e0 : x0.extractLsb' 26 6 = 4#6 := at_ hw (hi (hi (hi (hi rfl))))
  have e1 : x0.extractLsb' 0 4 = 9#4 := at_ hw (lo rfl)
  have e2 : x0.extractLsb' 21 5 = d := at_ hw (hi (hi (hi (lo full))))
  have e3 : x0.extractLsb' 16 5 = a := at_ hw (hi (hi (lo full)))
  have e4 : x0.extractLsb' 11 5 = b := at_ hw (hi (lo full))
  simp [select, selectData, select04, e0, e1, e2, e3, e4]

theorem rem (d : BitVec 5) (a : BitVec 5) (b : BitVec 5) : Statement (.rem d a b) := by
  refine of_row (w := 4#6 ++ d ++ a ++ b ++ 10#11) rfl fun x0 hw => ?_
  have e0 : x0.extractLsb' 26 6 = 4#6 := at_ hw (hi (hi (hi (hi rfl))))
  have e1 : x0.extractLsb' 0 4 = 10#4 := at_ hw (lo rfl)
  have e2 : x0.extractLsb' 21 5 = d := at_ hw (hi (hi (hi (lo full))))
  have e3 : x0.extractLsb' 16 5 = a := at_ hw (hi (hi (lo full)))
  have e4 : x0.extractLsb' 11 5 = b := at_ hw (hi (lo full))
  simp [select, selectData, select04, e0, e1, e2, e3, e4]

theorem remu (d : BitVec 5) (a : BitVec 5) (b : BitVec 5) : Statement (.remu d a b) := by
  refine of_row (w := 4#6 ++ d ++ a ++ b ++ 11#11) rfl fun x0 hw => ?_
  have e0 : x0.extractLsb' 26 6 = 4#6 := at_ hw (hi (hi (hi (hi rfl))))
  have e1 : x0.extractLsb' 0 4 = 11#4 := at_ hw (lo rfl)
  have e2 : x0.extractLsb' 21 5 = d := at_ hw (hi (hi (hi (lo full))))
  have e3 : x0.extractLsb' 16 5 = a := at_ hw (hi (hi (lo full)))
  have e4 : x0.extractLsb' 11 5 = b := at_ hw (hi (lo full))
  simp [select, selectData, select04, e0, e1, e2, e3, e4]

theorem divw (d : BitVec 5) (a : BitVec 5) (b : BitVec 5) : Statement (.divw d a b) := by
  refine of_row (w := 4#6 ++ d ++ a ++ b ++ 12#11) rfl fun x0 hw => ?_
  have e0 : x0.extractLsb' 26 6 = 4#6 := at_ hw (hi (hi (hi (hi rfl))))
  have e1 : x0.extractLsb' 0 4 = 12#4 := at_ hw (lo rfl)
  have e2 : x0.extractLsb' 21 5 = d := at_ hw (hi (hi (hi (lo full))))
  have e3 : x0.extractLsb' 16 5 = a := at_ hw (hi (hi (lo full)))
  have e4 : x0.extractLsb' 11 5 = b := at_ hw (hi (lo full))
  simp [select, selectData, select04, e0, e1, e2, e3, e4]

theorem divuw (d : BitVec 5) (a : BitVec 5) (b : BitVec 5) : Statement (.divuw d a b) := by
  refine of_row (w := 4#6 ++ d ++ a ++ b ++ 13#11) rfl fun x0 hw => ?_
  have e0 : x0.extractLsb' 26 6 = 4#6 := at_ hw (hi (hi (hi (hi rfl))))
  have e1 : x0.extractLsb' 0 4 = 13#4 := at_ hw (lo rfl)
  have e2 : x0.extractLsb' 21 5 = d := at_ hw (hi (hi (hi (lo full))))
  have e3 : x0.extractLsb' 16 5 = a := at_ hw (hi (hi (lo full)))
  have e4 : x0.extractLsb' 11 5 = b := at_ hw (hi (lo full))
  simp [select, selectData, select04, e0, e1, e2, e3, e4]

theorem remw (d : BitVec 5) (a : BitVec 5) (b : BitVec 5) : Statement (.remw d a b) := by
  refine of_row (w := 4#6 ++ d ++ a ++ b ++ 14#11) rfl fun x0 hw => ?_
  have e0 : x0.extractLsb' 26 6 = 4#6 := at_ hw (hi (hi (hi (hi rfl))))
  have e1 : x0.extractLsb' 0 4 = 14#4 := at_ hw (lo rfl)
  have e2 : x0.extractLsb' 21 5 = d := at_ hw (hi (hi (hi (lo full))))
  have e3 : x0.extractLsb' 16 5 = a := at_ hw (hi (hi (lo full)))
  have e4 : x0.extractLsb' 11 5 = b := at_ hw (hi (lo full))
  simp [select, selectData, select04, e0, e1, e2, e3, e4]

theorem remuw (d : BitVec 5) (a : BitVec 5) (b : BitVec 5) : Statement (.remuw d a b) := by
  refine of_row (w := 4#6 ++ d ++ a ++ b ++ 15#11) rfl fun x0 hw => ?_
  have e0 : x0.extractLsb' 26 6 = 4#6 := at_ hw (hi (hi (hi (hi rfl))))
  have e1 : x0.extractLsb' 0 4 = 15#4 := at_ hw (lo rfl)
  have e2 : x0.extractLsb' 21 5 = d := at_ hw (hi (hi (hi (lo full))))
  have e3 : x0.extractLsb' 16 5 = a := at_ hw (hi (hi (lo full)))
  have e4 : x0.extractLsb' 11 5 = b := at_ hw (hi (lo full))
  simp [select, selectData, select04, e0, e1, e2, e3, e4]

theorem fadd (d : BitVec 5) (a : BitVec 5) (b : BitVec 5) (r : BitVec 3) (p : BitVec 2) : Statement (.fadd d a b r p) := by
  refine of_row (w := 5#6 ++ d ++ a ++ b ++ r ++ p ++ 0#6) rfl fun x0 hw => ?_
  have e0 : x0.extractLsb' 26 6 = 5#6 := at_ hw (hi (hi (hi (hi (hi (hi rfl))))))
  have e1 : x0.extractLsb' 0 5 = 0#5 := at_ hw (lo rfl)
  have e2 : x0.extractLsb' 21 5 = d := at_ hw (hi (hi (hi (hi (hi (lo full))))))
  have e3 : x0.extractLsb' 16 5 = a := at_ hw (hi (hi (hi (hi (lo full)))))
  have e4 : x0.extractLsb' 11 5 = b := at_ hw (hi (hi (hi (lo full))))
  have e5 : x0.extractLsb' 8 3 = r := at_ hw (hi (hi (lo full)))
  have e6 : x0.extractLsb' 6 2 = p := at_ hw (hi (lo full))
  simp [select, selectData, select05, e0, e1, e2, e3, e4, e5, e6]

theorem fsub (d : BitVec 5) (a : BitVec 5) (b : BitVec 5) (r : BitVec 3) (p : BitVec 2) : Statement (.fsub d a b r p) := by
  refine of_row (w := 5#6 ++ d ++ a ++ b ++ r ++ p ++ 1#6) rfl fun x0 hw => ?_
  have e0 : x0.extractLsb' 26 6 = 5#6 := at_ hw (hi (hi (hi (hi (hi (hi rfl))))))
  have e1 : x0.extractLsb' 0 5 = 1#5 := at_ hw (lo rfl)
  have e2 : x0.extractLsb' 21 5 = d := at_ hw (hi (hi (hi (hi (hi (lo full))))))
  have e3 : x0.extractLsb' 16 5 = a := at_ hw (hi (hi (hi (hi (lo full)))))
  have e4 : x0.extractLsb' 11 5 = b := at_ hw (hi (hi (hi (lo full))))
  have e5 : x0.extractLsb' 8 3 = r := at_ hw (hi (hi (lo full)))
  have e6 : x0.extractLsb' 6 2 = p := at_ hw (hi (lo full))
  simp [select, selectData, select05, e0, e1, e2, e3, e4, e5, e6]

theorem fmul (d : BitVec 5) (a : BitVec 5) (b : BitVec 5) (r : BitVec 3) (p : BitVec 2) : Statement (.fmul d a b r p) := by
  refine of_row (w := 5#6 ++ d ++ a ++ b ++ r ++ p ++ 2#6) rfl fun x0 hw => ?_
  have e0 : x0.extractLsb' 26 6 = 5#6 := at_ hw (hi (hi (hi (hi (hi (hi rfl))))))
  have e1 : x0.extractLsb' 0 5 = 2#5 := at_ hw (lo rfl)
  have e2 : x0.extractLsb' 21 5 = d := at_ hw (hi (hi (hi (hi (hi (lo full))))))
  have e3 : x0.extractLsb' 16 5 = a := at_ hw (hi (hi (hi (hi (lo full)))))
  have e4 : x0.extractLsb' 11 5 = b := at_ hw (hi (hi (hi (lo full))))
  have e5 : x0.extractLsb' 8 3 = r := at_ hw (hi (hi (lo full)))
  have e6 : x0.extractLsb' 6 2 = p := at_ hw (hi (lo full))
  simp [select, selectData, select05, e0, e1, e2, e3, e4, e5, e6]

theorem fdiv (d : BitVec 5) (a : BitVec 5) (b : BitVec 5) (r : BitVec 3) (p : BitVec 2) : Statement (.fdiv d a b r p) := by
  refine of_row (w := 5#6 ++ d ++ a ++ b ++ r ++ p ++ 3#6) rfl fun x0 hw => ?_
  have e0 : x0.extractLsb' 26 6 = 5#6 := at_ hw (hi (hi (hi (hi (hi (hi rfl))))))
  have e1 : x0.extractLsb' 0 5 = 3#5 := at_ hw (lo rfl)
  have e2 : x0.extractLsb' 21 5 = d := at_ hw (hi (hi (hi (hi (hi (lo full))))))
  have e3 : x0.extractLsb' 16 5 = a := at_ hw (hi (hi (hi (hi (lo full)))))
  have e4 : x0.extractLsb' 11 5 = b := at_ hw (hi (hi (hi (lo full))))
  have e5 : x0.extractLsb' 8 3 = r := at_ hw (hi (hi (lo full)))
  have e6 : x0.extractLsb' 6 2 = p := at_ hw (hi (lo full))
  simp [select, selectData, select05, e0, e1, e2, e3, e4, e5, e6]

theorem fsqrt (d : BitVec 5) (a : BitVec 5) (r : BitVec 3) (p : BitVec 2) : Statement (.fsqrt d a r p) := by
  refine of_row (w := 5#6 ++ d ++ a ++ 0#5 ++ r ++ p ++ 4#6) rfl fun x0 hw => ?_
  have e0 : x0.extractLsb' 26 6 = 5#6 := at_ hw (hi (hi (hi (hi (hi (hi rfl))))))
  have e1 : x0.extractLsb' 0 5 = 4#5 := at_ hw (lo rfl)
  have e2 : x0.extractLsb' 21 5 = d := at_ hw (hi (hi (hi (hi (hi (lo full))))))
  have e3 : x0.extractLsb' 16 5 = a := at_ hw (hi (hi (hi (hi (lo full)))))
  have e4 : x0.extractLsb' 8 3 = r := at_ hw (hi (hi (lo full)))
  have e5 : x0.extractLsb' 6 2 = p := at_ hw (hi (lo full))
  simp [select, selectData, select05, e0, e1, e2, e3, e4, e5]

theorem fmin (d : BitVec 5) (a : BitVec 5) (b : BitVec 5) (p : BitVec 2) : Statement (.fmin d a b p) := by
  refine of_row (w := 5#6 ++ d ++ a ++ b ++ 0#3 ++ p ++ 5#6) rfl fun x0 hw => ?_
  have e0 : x0.extractLsb' 26 6 = 5#6 := at_ hw (hi (hi (hi (hi (hi (hi rfl))))))
  have e1 : x0.extractLsb' 0 5 = 5#5 := at_ hw (lo rfl)
  have e2 : x0.extractLsb' 21 5 = d := at_ hw (hi (hi (hi (hi (hi (lo full))))))
  have e3 : x0.extractLsb' 16 5 = a := at_ hw (hi (hi (hi (hi (lo full)))))
  have e4 : x0.extractLsb' 11 5 = b := at_ hw (hi (hi (hi (lo full))))
  have e5 : x0.extractLsb' 6 2 = p := at_ hw (hi (lo full))
  simp [select, selectData, select05, e0, e1, e2, e3, e4, e5]

theorem fmax (d : BitVec 5) (a : BitVec 5) (b : BitVec 5) (p : BitVec 2) : Statement (.fmax d a b p) := by
  refine of_row (w := 5#6 ++ d ++ a ++ b ++ 0#3 ++ p ++ 6#6) rfl fun x0 hw => ?_
  have e0 : x0.extractLsb' 26 6 = 5#6 := at_ hw (hi (hi (hi (hi (hi (hi rfl))))))
  have e1 : x0.extractLsb' 0 5 = 6#5 := at_ hw (lo rfl)
  have e2 : x0.extractLsb' 21 5 = d := at_ hw (hi (hi (hi (hi (hi (lo full))))))
  have e3 : x0.extractLsb' 16 5 = a := at_ hw (hi (hi (hi (hi (lo full)))))
  have e4 : x0.extractLsb' 11 5 = b := at_ hw (hi (hi (hi (lo full))))
  have e5 : x0.extractLsb' 6 2 = p := at_ hw (hi (lo full))
  simp [select, selectData, select05, e0, e1, e2, e3, e4, e5]

theorem fmac (d : BitVec 5) (a : BitVec 5) (b : BitVec 5) (r : BitVec 3) (p : BitVec 2) : Statement (.fmac d a b r p) := by
  refine of_row (w := 5#6 ++ d ++ a ++ b ++ r ++ p ++ 7#6) rfl fun x0 hw => ?_
  have e0 : x0.extractLsb' 26 6 = 5#6 := at_ hw (hi (hi (hi (hi (hi (hi rfl))))))
  have e1 : x0.extractLsb' 0 5 = 7#5 := at_ hw (lo rfl)
  have e2 : x0.extractLsb' 21 5 = d := at_ hw (hi (hi (hi (hi (hi (lo full))))))
  have e3 : x0.extractLsb' 16 5 = a := at_ hw (hi (hi (hi (hi (lo full)))))
  have e4 : x0.extractLsb' 11 5 = b := at_ hw (hi (hi (hi (lo full))))
  have e5 : x0.extractLsb' 8 3 = r := at_ hw (hi (hi (lo full)))
  have e6 : x0.extractLsb' 6 2 = p := at_ hw (hi (lo full))
  simp [select, selectData, select05, e0, e1, e2, e3, e4, e5, e6]

theorem fnmac (d : BitVec 5) (a : BitVec 5) (b : BitVec 5) (r : BitVec 3) (p : BitVec 2) : Statement (.fnmac d a b r p) := by
  refine of_row (w := 5#6 ++ d ++ a ++ b ++ r ++ p ++ 8#6) rfl fun x0 hw => ?_
  have e0 : x0.extractLsb' 26 6 = 5#6 := at_ hw (hi (hi (hi (hi (hi (hi rfl))))))
  have e1 : x0.extractLsb' 0 5 = 8#5 := at_ hw (lo rfl)
  have e2 : x0.extractLsb' 21 5 = d := at_ hw (hi (hi (hi (hi (hi (lo full))))))
  have e3 : x0.extractLsb' 16 5 = a := at_ hw (hi (hi (hi (hi (lo full)))))
  have e4 : x0.extractLsb' 11 5 = b := at_ hw (hi (hi (hi (lo full))))
  have e5 : x0.extractLsb' 8 3 = r := at_ hw (hi (hi (lo full)))
  have e6 : x0.extractLsb' 6 2 = p := at_ hw (hi (lo full))
  simp [select, selectData, select05, e0, e1, e2, e3, e4, e5, e6]

theorem fcpys (d : BitVec 5) (a : BitVec 5) (b : BitVec 5) (p : BitVec 2) : Statement (.fcpys d a b p) := by
  refine of_row (w := 5#6 ++ d ++ a ++ b ++ 0#3 ++ p ++ 9#6) rfl fun x0 hw => ?_
  have e0 : x0.extractLsb' 26 6 = 5#6 := at_ hw (hi (hi (hi (hi (hi (hi rfl))))))
  have e1 : x0.extractLsb' 0 5 = 9#5 := at_ hw (lo rfl)
  have e2 : x0.extractLsb' 21 5 = d := at_ hw (hi (hi (hi (hi (hi (lo full))))))
  have e3 : x0.extractLsb' 16 5 = a := at_ hw (hi (hi (hi (hi (lo full)))))
  have e4 : x0.extractLsb' 11 5 = b := at_ hw (hi (hi (hi (lo full))))
  have e5 : x0.extractLsb' 6 2 = p := at_ hw (hi (lo full))
  simp [select, selectData, select05, e0, e1, e2, e3, e4, e5]

theorem fcpysn (d : BitVec 5) (a : BitVec 5) (b : BitVec 5) (p : BitVec 2) : Statement (.fcpysn d a b p) := by
  refine of_row (w := 5#6 ++ d ++ a ++ b ++ 0#3 ++ p ++ 10#6) rfl fun x0 hw => ?_
  have e0 : x0.extractLsb' 26 6 = 5#6 := at_ hw (hi (hi (hi (hi (hi (hi rfl))))))
  have e1 : x0.extractLsb' 0 5 = 10#5 := at_ hw (lo rfl)
  have e2 : x0.extractLsb' 21 5 = d := at_ hw (hi (hi (hi (hi (hi (lo full))))))
  have e3 : x0.extractLsb' 16 5 = a := at_ hw (hi (hi (hi (hi (lo full)))))
  have e4 : x0.extractLsb' 11 5 = b := at_ hw (hi (hi (hi (lo full))))
  have e5 : x0.extractLsb' 6 2 = p := at_ hw (hi (lo full))
  simp [select, selectData, select05, e0, e1, e2, e3, e4, e5]

theorem fcpysx (d : BitVec 5) (a : BitVec 5) (b : BitVec 5) (p : BitVec 2) : Statement (.fcpysx d a b p) := by
  refine of_row (w := 5#6 ++ d ++ a ++ b ++ 0#3 ++ p ++ 11#6) rfl fun x0 hw => ?_
  have e0 : x0.extractLsb' 26 6 = 5#6 := at_ hw (hi (hi (hi (hi (hi (hi rfl))))))
  have e1 : x0.extractLsb' 0 5 = 11#5 := at_ hw (lo rfl)
  have e2 : x0.extractLsb' 21 5 = d := at_ hw (hi (hi (hi (hi (hi (lo full))))))
  have e3 : x0.extractLsb' 16 5 = a := at_ hw (hi (hi (hi (hi (lo full)))))
  have e4 : x0.extractLsb' 11 5 = b := at_ hw (hi (hi (hi (lo full))))
  have e5 : x0.extractLsb' 6 2 = p := at_ hw (hi (lo full))
  simp [select, selectData, select05, e0, e1, e2, e3, e4, e5]

theorem feq (d : BitVec 5) (a : BitVec 5) (b : BitVec 5) (p : BitVec 2) : Statement (.feq d a b p) := by
  refine of_row (w := 5#6 ++ d ++ a ++ b ++ 0#3 ++ p ++ 12#6) rfl fun x0 hw => ?_
  have e0 : x0.extractLsb' 26 6 = 5#6 := at_ hw (hi (hi (hi (hi (hi (hi rfl))))))
  have e1 : x0.extractLsb' 0 5 = 12#5 := at_ hw (lo rfl)
  have e2 : x0.extractLsb' 21 5 = d := at_ hw (hi (hi (hi (hi (hi (lo full))))))
  have e3 : x0.extractLsb' 16 5 = a := at_ hw (hi (hi (hi (hi (lo full)))))
  have e4 : x0.extractLsb' 11 5 = b := at_ hw (hi (hi (hi (lo full))))
  have e5 : x0.extractLsb' 6 2 = p := at_ hw (hi (lo full))
  simp [select, selectData, select05, e0, e1, e2, e3, e4, e5]

theorem flt (d : BitVec 5) (a : BitVec 5) (b : BitVec 5) (p : BitVec 2) : Statement (.flt d a b p) := by
  refine of_row (w := 5#6 ++ d ++ a ++ b ++ 0#3 ++ p ++ 13#6) rfl fun x0 hw => ?_
  have e0 : x0.extractLsb' 26 6 = 5#6 := at_ hw (hi (hi (hi (hi (hi (hi rfl))))))
  have e1 : x0.extractLsb' 0 5 = 13#5 := at_ hw (lo rfl)
  have e2 : x0.extractLsb' 21 5 = d := at_ hw (hi (hi (hi (hi (hi (lo full))))))
  have e3 : x0.extractLsb' 16 5 = a := at_ hw (hi (hi (hi (hi (lo full)))))
  have e4 : x0.extractLsb' 11 5 = b := at_ hw (hi (hi (hi (lo full))))
  have e5 : x0.extractLsb' 6 2 = p := at_ hw (hi (lo full))
  simp [select, selectData, select05, e0, e1, e2, e3, e4, e5]

theorem fle (d : BitVec 5) (a : BitVec 5) (b : BitVec 5) (p : BitVec 2) : Statement (.fle d a b p) := by
  refine of_row (w := 5#6 ++ d ++ a ++ b ++ 0#3 ++ p ++ 14#6) rfl fun x0 hw => ?_
  have e0 : x0.extractLsb' 26 6 = 5#6 := at_ hw (hi (hi (hi (hi (hi (hi rfl))))))
  have e1 : x0.extractLsb' 0 5 = 14#5 := at_ hw (lo rfl)
  have e2 : x0.extractLsb' 21 5 = d := at_ hw (hi (hi (hi (hi (hi (lo full))))))
  have e3 : x0.extractLsb' 16 5 = a := at_ hw (hi (hi (hi (hi (lo full)))))
  have e4 : x0.extractLsb' 11 5 = b := at_ hw (hi (hi (hi (lo full))))
  have e5 : x0.extractLsb' 6 2 = p := at_ hw (hi (lo full))
  simp [select, selectData, select05, e0, e1, e2, e3, e4, e5]

theorem fkind (d : BitVec 5) (a : BitVec 5) (p : BitVec 2) : Statement (.fkind d a p) := by
  refine of_row (w := 5#6 ++ d ++ a ++ 0#8 ++ p ++ 15#6) rfl fun x0 hw => ?_
  have e0 : x0.extractLsb' 26 6 = 5#6 := at_ hw (hi (hi (hi (hi (hi rfl)))))
  have e1 : x0.extractLsb' 0 5 = 15#5 := at_ hw (lo rfl)
  have e2 : x0.extractLsb' 21 5 = d := at_ hw (hi (hi (hi (hi (lo full)))))
  have e3 : x0.extractLsb' 16 5 = a := at_ hw (hi (hi (hi (lo full))))
  have e4 : x0.extractLsb' 6 2 = p := at_ hw (hi (lo full))
  simp [select, selectData, select05, e0, e1, e2, e3, e4]

theorem fcvtl (d : BitVec 5) (a : BitVec 5) (r : BitVec 3) (p : BitVec 2) : Statement (.fcvtl d a r p) := by
  refine of_row (w := 5#6 ++ d ++ a ++ 0#5 ++ r ++ p ++ 16#6) rfl fun x0 hw => ?_
  have e0 : x0.extractLsb' 26 6 = 5#6 := at_ hw (hi (hi (hi (hi (hi (hi rfl))))))
  have e1 : x0.extractLsb' 0 5 = 16#5 := at_ hw (lo rfl)
  have e2 : x0.extractLsb' 21 5 = d := at_ hw (hi (hi (hi (hi (hi (lo full))))))
  have e3 : x0.extractLsb' 16 5 = a := at_ hw (hi (hi (hi (hi (lo full)))))
  have e4 : x0.extractLsb' 8 3 = r := at_ hw (hi (hi (lo full)))
  have e5 : x0.extractLsb' 6 2 = p := at_ hw (hi (lo full))
  simp [select, selectData, select05, e0, e1, e2, e3, e4, e5]

theorem fcvtlu (d : BitVec 5) (a : BitVec 5) (r : BitVec 3) (p : BitVec 2) : Statement (.fcvtlu d a r p) := by
  refine of_row (w := 5#6 ++ d ++ a ++ 0#5 ++ r ++ p ++ 17#6) rfl fun x0 hw => ?_
  have e0 : x0.extractLsb' 26 6 = 5#6 := at_ hw (hi (hi (hi (hi (hi (hi rfl))))))
  have e1 : x0.extractLsb' 0 5 = 17#5 := at_ hw (lo rfl)
  have e2 : x0.extractLsb' 21 5 = d := at_ hw (hi (hi (hi (hi (hi (lo full))))))
  have e3 : x0.extractLsb' 16 5 = a := at_ hw (hi (hi (hi (hi (lo full)))))
  have e4 : x0.extractLsb' 8 3 = r := at_ hw (hi (hi (lo full)))
  have e5 : x0.extractLsb' 6 2 = p := at_ hw (hi (lo full))
  simp [select, selectData, select05, e0, e1, e2, e3, e4, e5]

theorem fcvtfl (d : BitVec 5) (a : BitVec 5) (r : BitVec 3) (p : BitVec 2) : Statement (.fcvtfl d a r p) := by
  refine of_row (w := 5#6 ++ d ++ a ++ 0#5 ++ r ++ p ++ 18#6) rfl fun x0 hw => ?_
  have e0 : x0.extractLsb' 26 6 = 5#6 := at_ hw (hi (hi (hi (hi (hi (hi rfl))))))
  have e1 : x0.extractLsb' 0 5 = 18#5 := at_ hw (lo rfl)
  have e2 : x0.extractLsb' 21 5 = d := at_ hw (hi (hi (hi (hi (hi (lo full))))))
  have e3 : x0.extractLsb' 16 5 = a := at_ hw (hi (hi (hi (hi (lo full)))))
  have e4 : x0.extractLsb' 8 3 = r := at_ hw (hi (hi (lo full)))
  have e5 : x0.extractLsb' 6 2 = p := at_ hw (hi (lo full))
  simp [select, selectData, select05, e0, e1, e2, e3, e4, e5]

theorem fcvtflu (d : BitVec 5) (a : BitVec 5) (r : BitVec 3) (p : BitVec 2) : Statement (.fcvtflu d a r p) := by
  refine of_row (w := 5#6 ++ d ++ a ++ 0#5 ++ r ++ p ++ 19#6) rfl fun x0 hw => ?_
  have e0 : x0.extractLsb' 26 6 = 5#6 := at_ hw (hi (hi (hi (hi (hi (hi rfl))))))
  have e1 : x0.extractLsb' 0 5 = 19#5 := at_ hw (lo rfl)
  have e2 : x0.extractLsb' 21 5 = d := at_ hw (hi (hi (hi (hi (hi (lo full))))))
  have e3 : x0.extractLsb' 16 5 = a := at_ hw (hi (hi (hi (hi (lo full)))))
  have e4 : x0.extractLsb' 8 3 = r := at_ hw (hi (hi (lo full)))
  have e5 : x0.extractLsb' 6 2 = p := at_ hw (hi (lo full))
  simp [select, selectData, select05, e0, e1, e2, e3, e4, e5]

theorem fcvtf (d : BitVec 5) (a : BitVec 5) (c : BitVec 5) (r : BitVec 3) (p : BitVec 2) : Statement (.fcvtf d a c r p) := by
  refine of_row (w := 5#6 ++ d ++ a ++ c ++ r ++ p ++ 20#6) rfl fun x0 hw => ?_
  have e0 : x0.extractLsb' 26 6 = 5#6 := at_ hw (hi (hi (hi (hi (hi (hi rfl))))))
  have e1 : x0.extractLsb' 0 5 = 20#5 := at_ hw (lo rfl)
  have e2 : x0.extractLsb' 21 5 = d := at_ hw (hi (hi (hi (hi (hi (lo full))))))
  have e3 : x0.extractLsb' 16 5 = a := at_ hw (hi (hi (hi (hi (lo full)))))
  have e4 : x0.extractLsb' 11 5 = c := at_ hw (hi (hi (hi (lo full))))
  have e5 : x0.extractLsb' 8 3 = r := at_ hw (hi (hi (lo full)))
  have e6 : x0.extractLsb' 6 2 = p := at_ hw (hi (lo full))
  simp [select, selectData, select05, e0, e1, e2, e3, e4, e5, e6]

theorem addi (d : BitVec 5) (a : BitVec 5) (i : BitVec 16) : Statement (.addi d a i) := by
  refine of_row (w := 8#6 ++ d ++ a ++ i) rfl fun x0 hw => ?_
  have e0 : x0.extractLsb' 26 6 = 8#6 := at_ hw (hi (hi (hi rfl)))
  have e1 : x0.extractLsb' 21 5 = d := at_ hw (hi (hi (lo full)))
  have e2 : x0.extractLsb' 16 5 = a := at_ hw (hi (lo full))
  have e3 : x0.extractLsb' 0 16 = i := at_ hw (lo full)
  simp [select, selectData, e0, e1, e2, e3]

theorem andi (d : BitVec 5) (a : BitVec 5) (i : BitVec 16) : Statement (.andi d a i) := by
  refine of_row (w := 9#6 ++ d ++ a ++ i) rfl fun x0 hw => ?_
  have e0 : x0.extractLsb' 26 6 = 9#6 := at_ hw (hi (hi (hi rfl)))
  have e1 : x0.extractLsb' 21 5 = d := at_ hw (hi (hi (lo full)))
  have e2 : x0.extractLsb' 16 5 = a := at_ hw (hi (lo full))
  have e3 : x0.extractLsb' 0 16 = i := at_ hw (lo full)
  simp [select, selectData, e0, e1, e2, e3]

theorem ori (d : BitVec 5) (a : BitVec 5) (i : BitVec 16) : Statement (.ori d a i) := by
  refine of_row (w := 10#6 ++ d ++ a ++ i) rfl fun x0 hw => ?_
  have e0 : x0.extractLsb' 26 6 = 10#6 := at_ hw (hi (hi (hi rfl)))
  have e1 : x0.extractLsb' 21 5 = d := at_ hw (hi (hi (lo full)))
  have e2 : x0.extractLsb' 16 5 = a := at_ hw (hi (lo full))
  have e3 : x0.extractLsb' 0 16 = i := at_ hw (lo full)
  simp [select, selectData, e0, e1, e2, e3]

theorem xori (d : BitVec 5) (a : BitVec 5) (i : BitVec 16) : Statement (.xori d a i) := by
  refine of_row (w := 11#6 ++ d ++ a ++ i) rfl fun x0 hw => ?_
  have e0 : x0.extractLsb' 26 6 = 11#6 := at_ hw (hi (hi (hi rfl)))
  have e1 : x0.extractLsb' 21 5 = d := at_ hw (hi (hi (lo full)))
  have e2 : x0.extractLsb' 16 5 = a := at_ hw (hi (lo full))
  have e3 : x0.extractLsb' 0 16 = i := at_ hw (lo full)
  simp [select, selectData, e0, e1, e2, e3]

theorem slli (d : BitVec 5) (a : BitVec 5) (n : BitVec 6) : Statement (.slli d a n) := by
  refine of_row (w := 12#6 ++ d ++ a ++ 0#10 ++ n) rfl fun x0 hw => ?_
  have e0 : x0.extractLsb' 26 6 = 12#6 := at_ hw (hi (hi (hi (hi rfl))))
  have e1 : x0.extractLsb' 13 3 = 0#3 := at_ hw (hi (lo rfl))
  have e2 : x0.extractLsb' 21 5 = d := at_ hw (hi (hi (hi (lo full))))
  have e3 : x0.extractLsb' 16 5 = a := at_ hw (hi (hi (lo full)))
  have e4 : x0.extractLsb' 0 6 = n := at_ hw (lo full)
  simp [select, selectData, select0C, e0, e1, e2, e3, e4]

theorem srli (d : BitVec 5) (a : BitVec 5) (n : BitVec 6) : Statement (.srli d a n) := by
  refine of_row (w := 12#6 ++ d ++ a ++ 128#10 ++ n) rfl fun x0 hw => ?_
  have e0 : x0.extractLsb' 26 6 = 12#6 := at_ hw (hi (hi (hi (hi rfl))))
  have e1 : x0.extractLsb' 13 3 = 1#3 := at_ hw (hi (lo rfl))
  have e2 : x0.extractLsb' 21 5 = d := at_ hw (hi (hi (hi (lo full))))
  have e3 : x0.extractLsb' 16 5 = a := at_ hw (hi (hi (lo full)))
  have e4 : x0.extractLsb' 0 6 = n := at_ hw (lo full)
  simp [select, selectData, select0C, e0, e1, e2, e3, e4]

theorem srai (d : BitVec 5) (a : BitVec 5) (n : BitVec 6) : Statement (.srai d a n) := by
  refine of_row (w := 12#6 ++ d ++ a ++ 256#10 ++ n) rfl fun x0 hw => ?_
  have e0 : x0.extractLsb' 26 6 = 12#6 := at_ hw (hi (hi (hi (hi rfl))))
  have e1 : x0.extractLsb' 13 3 = 2#3 := at_ hw (hi (lo rfl))
  have e2 : x0.extractLsb' 21 5 = d := at_ hw (hi (hi (hi (lo full))))
  have e3 : x0.extractLsb' 16 5 = a := at_ hw (hi (hi (lo full)))
  have e4 : x0.extractLsb' 0 6 = n := at_ hw (lo full)
  simp [select, selectData, select0C, e0, e1, e2, e3, e4]

theorem rori (d : BitVec 5) (a : BitVec 5) (n : BitVec 6) : Statement (.rori d a n) := by
  refine of_row (w := 12#6 ++ d ++ a ++ 384#10 ++ n) rfl fun x0 hw => ?_
  have e0 : x0.extractLsb' 26 6 = 12#6 := at_ hw (hi (hi (hi (hi rfl))))
  have e1 : x0.extractLsb' 13 3 = 3#3 := at_ hw (hi (lo rfl))
  have e2 : x0.extractLsb' 21 5 = d := at_ hw (hi (hi (hi (lo full))))
  have e3 : x0.extractLsb' 16 5 = a := at_ hw (hi (hi (lo full)))
  have e4 : x0.extractLsb' 0 6 = n := at_ hw (lo full)
  simp [select, selectData, select0C, e0, e1, e2, e3, e4]

theorem slliw (d : BitVec 5) (a : BitVec 5) (n : BitVec 5) : Statement (.slliw d a n) := by
  refine of_row (w := 12#6 ++ d ++ a ++ 1024#11 ++ n) rfl fun x0 hw => ?_
  have e0 : x0.extractLsb' 26 6 = 12#6 := at_ hw (hi (hi (hi (hi rfl))))
  have e1 : x0.extractLsb' 13 3 = 4#3 := at_ hw (hi (lo rfl))
  have e2 : x0.extractLsb' 21 5 = d := at_ hw (hi (hi (hi (lo full))))
  have e3 : x0.extractLsb' 16 5 = a := at_ hw (hi (hi (lo full)))
  have e4 : x0.extractLsb' 0 5 = n := at_ hw (lo full)
  simp [select, selectData, select0C, e0, e1, e2, e3, e4]

theorem srliw (d : BitVec 5) (a : BitVec 5) (n : BitVec 5) : Statement (.srliw d a n) := by
  refine of_row (w := 12#6 ++ d ++ a ++ 1280#11 ++ n) rfl fun x0 hw => ?_
  have e0 : x0.extractLsb' 26 6 = 12#6 := at_ hw (hi (hi (hi (hi rfl))))
  have e1 : x0.extractLsb' 13 3 = 5#3 := at_ hw (hi (lo rfl))
  have e2 : x0.extractLsb' 21 5 = d := at_ hw (hi (hi (hi (lo full))))
  have e3 : x0.extractLsb' 16 5 = a := at_ hw (hi (hi (lo full)))
  have e4 : x0.extractLsb' 0 5 = n := at_ hw (lo full)
  simp [select, selectData, select0C, e0, e1, e2, e3, e4]

theorem sraiw (d : BitVec 5) (a : BitVec 5) (n : BitVec 5) : Statement (.sraiw d a n) := by
  refine of_row (w := 12#6 ++ d ++ a ++ 1536#11 ++ n) rfl fun x0 hw => ?_
  have e0 : x0.extractLsb' 26 6 = 12#6 := at_ hw (hi (hi (hi (hi rfl))))
  have e1 : x0.extractLsb' 13 3 = 6#3 := at_ hw (hi (lo rfl))
  have e2 : x0.extractLsb' 21 5 = d := at_ hw (hi (hi (hi (lo full))))
  have e3 : x0.extractLsb' 16 5 = a := at_ hw (hi (hi (lo full)))
  have e4 : x0.extractLsb' 0 5 = n := at_ hw (lo full)
  simp [select, selectData, select0C, e0, e1, e2, e3, e4]

theorem slti (d : BitVec 5) (a : BitVec 5) (i : BitVec 15) : Statement (.slti d a i) := by
  refine of_row (w := 13#6 ++ d ++ a ++ 0#1 ++ i) rfl fun x0 hw => ?_
  have e0 : x0.extractLsb' 26 6 = 13#6 := at_ hw (hi (hi (hi (hi rfl))))
  have e1 : x0.extractLsb' 15 1 = 0#1 := at_ hw (hi (lo rfl))
  have e2 : x0.extractLsb' 21 5 = d := at_ hw (hi (hi (hi (lo full))))
  have e3 : x0.extractLsb' 16 5 = a := at_ hw (hi (hi (lo full)))
  have e4 : x0.extractLsb' 0 15 = i := at_ hw (lo full)
  simp [select, selectData, select0D, e0, e1, e2, e3, e4]

theorem sltiu (d : BitVec 5) (a : BitVec 5) (i : BitVec 15) : Statement (.sltiu d a i) := by
  refine of_row (w := 13#6 ++ d ++ a ++ 1#1 ++ i) rfl fun x0 hw => ?_
  have e0 : x0.extractLsb' 26 6 = 13#6 := at_ hw (hi (hi (hi (hi rfl))))
  have e1 : x0.extractLsb' 15 1 = 1#1 := at_ hw (hi (lo rfl))
  have e2 : x0.extractLsb' 21 5 = d := at_ hw (hi (hi (hi (lo full))))
  have e3 : x0.extractLsb' 16 5 = a := at_ hw (hi (hi (lo full)))
  have e4 : x0.extractLsb' 0 15 = i := at_ hw (lo full)
  simp [select, selectData, select0D, e0, e1, e2, e3, e4]

theorem lui (d : BitVec 5) (i : BitVec 21) : Statement (.lui d i) := by
  refine of_row (w := 14#6 ++ d ++ i) rfl fun x0 hw => ?_
  have e0 : x0.extractLsb' 26 6 = 14#6 := at_ hw (hi (hi rfl))
  have e1 : x0.extractLsb' 21 5 = d := at_ hw (hi (lo full))
  have e2 : x0.extractLsb' 0 21 = i := at_ hw (lo full)
  simp [select, selectData, e0, e1, e2]

theorem addpc (d : BitVec 5) (i : BitVec 21) : Statement (.addpc d i) := by
  refine of_row (w := 15#6 ++ d ++ i) rfl fun x0 hw => ?_
  have e0 : x0.extractLsb' 26 6 = 15#6 := at_ hw (hi (hi rfl))
  have e1 : x0.extractLsb' 21 5 = d := at_ hw (hi (lo full))
  have e2 : x0.extractLsb' 0 21 = i := at_ hw (lo full)
  simp [select, selectData, e0, e1, e2]

theorem beq (a : BitVec 5) (b : BitVec 5) (o : BitVec 13) : Statement (.beq a b o) := by
  refine of_row (w := 16#6 ++ a ++ b ++ 0#3 ++ o) rfl fun x0 hw => ?_
  have e0 : x0.extractLsb' 26 6 = 16#6 := at_ hw (hi (hi (hi (hi rfl))))
  have e1 : x0.extractLsb' 13 3 = 0#3 := at_ hw (hi (lo rfl))
  have e2 : x0.extractLsb' 21 5 = a := at_ hw (hi (hi (hi (lo full))))
  have e3 : x0.extractLsb' 16 5 = b := at_ hw (hi (hi (lo full)))
  have e4 : x0.extractLsb' 0 13 = o := at_ hw (lo full)
  simp [select, select10, e0, e1, e2, e3, e4]

theorem bne (a : BitVec 5) (b : BitVec 5) (o : BitVec 13) : Statement (.bne a b o) := by
  refine of_row (w := 16#6 ++ a ++ b ++ 1#3 ++ o) rfl fun x0 hw => ?_
  have e0 : x0.extractLsb' 26 6 = 16#6 := at_ hw (hi (hi (hi (hi rfl))))
  have e1 : x0.extractLsb' 13 3 = 1#3 := at_ hw (hi (lo rfl))
  have e2 : x0.extractLsb' 21 5 = a := at_ hw (hi (hi (hi (lo full))))
  have e3 : x0.extractLsb' 16 5 = b := at_ hw (hi (hi (lo full)))
  have e4 : x0.extractLsb' 0 13 = o := at_ hw (lo full)
  simp [select, select10, e0, e1, e2, e3, e4]

theorem blt (a : BitVec 5) (b : BitVec 5) (o : BitVec 13) : Statement (.blt a b o) := by
  refine of_row (w := 16#6 ++ a ++ b ++ 2#3 ++ o) rfl fun x0 hw => ?_
  have e0 : x0.extractLsb' 26 6 = 16#6 := at_ hw (hi (hi (hi (hi rfl))))
  have e1 : x0.extractLsb' 13 3 = 2#3 := at_ hw (hi (lo rfl))
  have e2 : x0.extractLsb' 21 5 = a := at_ hw (hi (hi (hi (lo full))))
  have e3 : x0.extractLsb' 16 5 = b := at_ hw (hi (hi (lo full)))
  have e4 : x0.extractLsb' 0 13 = o := at_ hw (lo full)
  simp [select, select10, e0, e1, e2, e3, e4]

theorem bge (a : BitVec 5) (b : BitVec 5) (o : BitVec 13) : Statement (.bge a b o) := by
  refine of_row (w := 16#6 ++ a ++ b ++ 3#3 ++ o) rfl fun x0 hw => ?_
  have e0 : x0.extractLsb' 26 6 = 16#6 := at_ hw (hi (hi (hi (hi rfl))))
  have e1 : x0.extractLsb' 13 3 = 3#3 := at_ hw (hi (lo rfl))
  have e2 : x0.extractLsb' 21 5 = a := at_ hw (hi (hi (hi (lo full))))
  have e3 : x0.extractLsb' 16 5 = b := at_ hw (hi (hi (lo full)))
  have e4 : x0.extractLsb' 0 13 = o := at_ hw (lo full)
  simp [select, select10, e0, e1, e2, e3, e4]

theorem bltu (a : BitVec 5) (b : BitVec 5) (o : BitVec 13) : Statement (.bltu a b o) := by
  refine of_row (w := 16#6 ++ a ++ b ++ 4#3 ++ o) rfl fun x0 hw => ?_
  have e0 : x0.extractLsb' 26 6 = 16#6 := at_ hw (hi (hi (hi (hi rfl))))
  have e1 : x0.extractLsb' 13 3 = 4#3 := at_ hw (hi (lo rfl))
  have e2 : x0.extractLsb' 21 5 = a := at_ hw (hi (hi (hi (lo full))))
  have e3 : x0.extractLsb' 16 5 = b := at_ hw (hi (hi (lo full)))
  have e4 : x0.extractLsb' 0 13 = o := at_ hw (lo full)
  simp [select, select10, e0, e1, e2, e3, e4]

theorem bgeu (a : BitVec 5) (b : BitVec 5) (o : BitVec 13) : Statement (.bgeu a b o) := by
  refine of_row (w := 16#6 ++ a ++ b ++ 5#3 ++ o) rfl fun x0 hw => ?_
  have e0 : x0.extractLsb' 26 6 = 16#6 := at_ hw (hi (hi (hi (hi rfl))))
  have e1 : x0.extractLsb' 13 3 = 5#3 := at_ hw (hi (lo rfl))
  have e2 : x0.extractLsb' 21 5 = a := at_ hw (hi (hi (hi (lo full))))
  have e3 : x0.extractLsb' 16 5 = b := at_ hw (hi (hi (lo full)))
  have e4 : x0.extractLsb' 0 13 = o := at_ hw (lo full)
  simp [select, select10, e0, e1, e2, e3, e4]

theorem beqz (a : BitVec 5) (o : BitVec 18) : Statement (.beqz a o) := by
  refine of_row (w := 17#6 ++ a ++ 0#3 ++ o) rfl fun x0 hw => ?_
  have e0 : x0.extractLsb' 26 6 = 17#6 := at_ hw (hi (hi (hi rfl)))
  have e1 : x0.extractLsb' 18 3 = 0#3 := at_ hw (hi (lo rfl))
  have e2 : x0.extractLsb' 21 5 = a := at_ hw (hi (hi (lo full)))
  have e3 : x0.extractLsb' 0 18 = o := at_ hw (lo full)
  simp [select, select11, e0, e1, e2, e3]

theorem bnez (a : BitVec 5) (o : BitVec 18) : Statement (.bnez a o) := by
  refine of_row (w := 17#6 ++ a ++ 1#3 ++ o) rfl fun x0 hw => ?_
  have e0 : x0.extractLsb' 26 6 = 17#6 := at_ hw (hi (hi (hi rfl)))
  have e1 : x0.extractLsb' 18 3 = 1#3 := at_ hw (hi (lo rfl))
  have e2 : x0.extractLsb' 21 5 = a := at_ hw (hi (hi (lo full)))
  have e3 : x0.extractLsb' 0 18 = o := at_ hw (lo full)
  simp [select, select11, e0, e1, e2, e3]

theorem bltz (a : BitVec 5) (o : BitVec 18) : Statement (.bltz a o) := by
  refine of_row (w := 17#6 ++ a ++ 2#3 ++ o) rfl fun x0 hw => ?_
  have e0 : x0.extractLsb' 26 6 = 17#6 := at_ hw (hi (hi (hi rfl)))
  have e1 : x0.extractLsb' 18 3 = 2#3 := at_ hw (hi (lo rfl))
  have e2 : x0.extractLsb' 21 5 = a := at_ hw (hi (hi (lo full)))
  have e3 : x0.extractLsb' 0 18 = o := at_ hw (lo full)
  simp [select, select11, e0, e1, e2, e3]

theorem bgez (a : BitVec 5) (o : BitVec 18) : Statement (.bgez a o) := by
  refine of_row (w := 17#6 ++ a ++ 3#3 ++ o) rfl fun x0 hw => ?_
  have e0 : x0.extractLsb' 26 6 = 17#6 := at_ hw (hi (hi (hi rfl)))
  have e1 : x0.extractLsb' 18 3 = 3#3 := at_ hw (hi (lo rfl))
  have e2 : x0.extractLsb' 21 5 = a := at_ hw (hi (hi (lo full)))
  have e3 : x0.extractLsb' 0 18 = o := at_ hw (lo full)
  simp [select, select11, e0, e1, e2, e3]

theorem bgtz (a : BitVec 5) (o : BitVec 18) : Statement (.bgtz a o) := by
  refine of_row (w := 17#6 ++ a ++ 4#3 ++ o) rfl fun x0 hw => ?_
  have e0 : x0.extractLsb' 26 6 = 17#6 := at_ hw (hi (hi (hi rfl)))
  have e1 : x0.extractLsb' 18 3 = 4#3 := at_ hw (hi (lo rfl))
  have e2 : x0.extractLsb' 21 5 = a := at_ hw (hi (hi (lo full)))
  have e3 : x0.extractLsb' 0 18 = o := at_ hw (lo full)
  simp [select, select11, e0, e1, e2, e3]

theorem blez (a : BitVec 5) (o : BitVec 18) : Statement (.blez a o) := by
  refine of_row (w := 17#6 ++ a ++ 5#3 ++ o) rfl fun x0 hw => ?_
  have e0 : x0.extractLsb' 26 6 = 17#6 := at_ hw (hi (hi (hi rfl)))
  have e1 : x0.extractLsb' 18 3 = 5#3 := at_ hw (hi (lo rfl))
  have e2 : x0.extractLsb' 21 5 = a := at_ hw (hi (hi (lo full)))
  have e3 : x0.extractLsb' 0 18 = o := at_ hw (lo full)
  simp [select, select11, e0, e1, e2, e3]

theorem jal (o : BitVec 26) : Statement (.jal o) := by
  refine of_row (w := 18#6 ++ o) rfl fun x0 hw => ?_
  have e0 : x0.extractLsb' 26 6 = 18#6 := at_ hw (hi rfl)
  have e1 : x0.extractLsb' 0 26 = o := at_ hw (lo full)
  simp [select, e0, e1]

theorem jalr (d : BitVec 5) (a : BitVec 5) (i : BitVec 16) : Statement (.jalr d a i) := by
  refine of_row (w := 19#6 ++ d ++ a ++ i) rfl fun x0 hw => ?_
  have e0 : x0.extractLsb' 26 6 = 19#6 := at_ hw (hi (hi (hi rfl)))
  have e1 : x0.extractLsb' 21 5 = d := at_ hw (hi (hi (lo full)))
  have e2 : x0.extractLsb' 16 5 = a := at_ hw (hi (lo full))
  have e3 : x0.extractLsb' 0 16 = i := at_ hw (lo full)
  simp [select, e0, e1, e2, e3]

theorem detach : Statement .detach := of_select rfl (by decide +kernel)

theorem attach (d : BitVec 5) (t : BitVec 13) : Statement (.attach d t) := by
  refine of_row (w := 20#6 ++ d ++ 1#8 ++ t) rfl fun x0 hw => ?_
  have e0 : x0.extractLsb' 26 6 = 20#6 := at_ hw (hi (hi (hi rfl)))
  have e1 : x0.extractLsb' 13 3 = 1#3 := at_ hw (hi (lo rfl))
  have e2 : x0.extractLsb' 21 5 = d := at_ hw (hi (hi (lo full)))
  have e3 : x0.extractLsb' 0 13 = t := at_ hw (lo full)
  simp [select, select14, e0, e1, e2, e3]

theorem join (d : BitVec 5) (t : BitVec 13) : Statement (.join d t) := by
  refine of_row (w := 20#6 ++ d ++ 2#8 ++ t) rfl fun x0 hw => ?_
  have e0 : x0.extractLsb' 26 6 = 20#6 := at_ hw (hi (hi (hi rfl)))
  have e1 : x0.extractLsb' 13 3 = 2#3 := at_ hw (hi (lo rfl))
  have e2 : x0.extractLsb' 21 5 = d := at_ hw (hi (hi (lo full)))
  have e3 : x0.extractLsb' 0 13 = t := at_ hw (lo full)
  simp [select, select14, e0, e1, e2, e3]

theorem donate (d : BitVec 5) (a : BitVec 5) : Statement (.donate d a) := by
  refine of_row (w := 20#6 ++ d ++ a ++ 24576#16) rfl fun x0 hw => ?_
  have e0 : x0.extractLsb' 26 6 = 20#6 := at_ hw (hi (hi (hi rfl)))
  have e1 : x0.extractLsb' 13 3 = 3#3 := at_ hw (lo rfl)
  have e2 : x0.extractLsb' 21 5 = d := at_ hw (hi (hi (lo full)))
  have e3 : x0.extractLsb' 16 5 = a := at_ hw (hi (lo full))
  simp [select, select14, e0, e1, e2, e3]

theorem takew (d : BitVec 5) (a : BitVec 5) : Statement (.takew d a) := by
  refine of_row (w := 20#6 ++ d ++ a ++ 32768#16) rfl fun x0 hw => ?_
  have e0 : x0.extractLsb' 26 6 = 20#6 := at_ hw (hi (hi (hi rfl)))
  have e1 : x0.extractLsb' 13 3 = 4#3 := at_ hw (lo rfl)
  have e2 : x0.extractLsb' 21 5 = d := at_ hw (hi (hi (lo full)))
  have e3 : x0.extractLsb' 16 5 = a := at_ hw (hi (lo full))
  simp [select, select14, e0, e1, e2, e3]

theorem gang (d : BitVec 5) : Statement (.gang d) := by
  refine of_row (w := 20#6 ++ d ++ 40960#21) rfl fun x0 hw => ?_
  have e0 : x0.extractLsb' 26 6 = 20#6 := at_ hw (hi (hi rfl))
  have e1 : x0.extractLsb' 13 3 = 5#3 := at_ hw (lo rfl)
  have e2 : x0.extractLsb' 21 5 = d := at_ hw (hi (lo full))
  simp [select, select14, e0, e1, e2]

theorem lb (t : BitVec 5) (a : BitVec 5) (o : BitVec 13) : Statement (.lb t a o) := by
  refine of_row (w := 24#6 ++ t ++ a ++ 0#3 ++ o) rfl fun x0 hw => ?_
  have e0 : x0.extractLsb' 26 6 = 24#6 := at_ hw (hi (hi (hi (hi rfl))))
  have e2 : x0.extractLsb' 13 3 = 0#3 := at_ hw (hi (lo rfl))
  have e3 : x0.extractLsb' 21 5 = t := at_ hw (hi (hi (hi (lo full))))
  have e4 : x0.extractLsb' 16 5 = a := at_ hw (hi (hi (lo full)))
  have e5 : x0.extractLsb' 0 13 = o := at_ hw (lo full)
  simp [select, selectData, select18, e0, e2, e3, e4, e5]

theorem lh (t : BitVec 5) (a : BitVec 5) (o : BitVec 13) : Statement (.lh t a o) := by
  refine of_row (w := 24#6 ++ t ++ a ++ 1#3 ++ o) rfl fun x0 hw => ?_
  have e0 : x0.extractLsb' 26 6 = 24#6 := at_ hw (hi (hi (hi (hi rfl))))
  have e2 : x0.extractLsb' 13 3 = 1#3 := at_ hw (hi (lo rfl))
  have e3 : x0.extractLsb' 21 5 = t := at_ hw (hi (hi (hi (lo full))))
  have e4 : x0.extractLsb' 16 5 = a := at_ hw (hi (hi (lo full)))
  have e5 : x0.extractLsb' 0 13 = o := at_ hw (lo full)
  simp [select, selectData, select18, e0, e2, e3, e4, e5]

theorem lw (t : BitVec 5) (a : BitVec 5) (o : BitVec 13) : Statement (.lw t a o) := by
  refine of_row (w := 24#6 ++ t ++ a ++ 2#3 ++ o) rfl fun x0 hw => ?_
  have e0 : x0.extractLsb' 26 6 = 24#6 := at_ hw (hi (hi (hi (hi rfl))))
  have e2 : x0.extractLsb' 13 3 = 2#3 := at_ hw (hi (lo rfl))
  have e3 : x0.extractLsb' 21 5 = t := at_ hw (hi (hi (hi (lo full))))
  have e4 : x0.extractLsb' 16 5 = a := at_ hw (hi (hi (lo full)))
  have e5 : x0.extractLsb' 0 13 = o := at_ hw (lo full)
  simp [select, selectData, select18, e0, e2, e3, e4, e5]

theorem ld (t : BitVec 5) (a : BitVec 5) (o : BitVec 13) : Statement (.ld t a o) := by
  refine of_row (w := 24#6 ++ t ++ a ++ 3#3 ++ o) rfl fun x0 hw => ?_
  have e0 : x0.extractLsb' 26 6 = 24#6 := at_ hw (hi (hi (hi (hi rfl))))
  have e2 : x0.extractLsb' 13 3 = 3#3 := at_ hw (hi (lo rfl))
  have e3 : x0.extractLsb' 21 5 = t := at_ hw (hi (hi (hi (lo full))))
  have e4 : x0.extractLsb' 16 5 = a := at_ hw (hi (hi (lo full)))
  have e5 : x0.extractLsb' 0 13 = o := at_ hw (lo full)
  simp [select, selectData, select18, e0, e2, e3, e4, e5]

theorem lbu (t : BitVec 5) (a : BitVec 5) (o : BitVec 13) : Statement (.lbu t a o) := by
  refine of_row (w := 24#6 ++ t ++ a ++ 4#3 ++ o) rfl fun x0 hw => ?_
  have e0 : x0.extractLsb' 26 6 = 24#6 := at_ hw (hi (hi (hi (hi rfl))))
  have e2 : x0.extractLsb' 13 3 = 4#3 := at_ hw (hi (lo rfl))
  have e3 : x0.extractLsb' 21 5 = t := at_ hw (hi (hi (hi (lo full))))
  have e4 : x0.extractLsb' 16 5 = a := at_ hw (hi (hi (lo full)))
  have e5 : x0.extractLsb' 0 13 = o := at_ hw (lo full)
  simp [select, selectData, select18, e0, e2, e3, e4, e5]

theorem lhu (t : BitVec 5) (a : BitVec 5) (o : BitVec 13) : Statement (.lhu t a o) := by
  refine of_row (w := 24#6 ++ t ++ a ++ 5#3 ++ o) rfl fun x0 hw => ?_
  have e0 : x0.extractLsb' 26 6 = 24#6 := at_ hw (hi (hi (hi (hi rfl))))
  have e2 : x0.extractLsb' 13 3 = 5#3 := at_ hw (hi (lo rfl))
  have e3 : x0.extractLsb' 21 5 = t := at_ hw (hi (hi (hi (lo full))))
  have e4 : x0.extractLsb' 16 5 = a := at_ hw (hi (hi (lo full)))
  have e5 : x0.extractLsb' 0 13 = o := at_ hw (lo full)
  simp [select, selectData, select18, e0, e2, e3, e4, e5]

theorem lwu (t : BitVec 5) (a : BitVec 5) (o : BitVec 13) : Statement (.lwu t a o) := by
  refine of_row (w := 24#6 ++ t ++ a ++ 6#3 ++ o) rfl fun x0 hw => ?_
  have e0 : x0.extractLsb' 26 6 = 24#6 := at_ hw (hi (hi (hi (hi rfl))))
  have e2 : x0.extractLsb' 13 3 = 6#3 := at_ hw (hi (lo rfl))
  have e3 : x0.extractLsb' 21 5 = t := at_ hw (hi (hi (hi (lo full))))
  have e4 : x0.extractLsb' 16 5 = a := at_ hw (hi (hi (lo full)))
  have e5 : x0.extractLsb' 0 13 = o := at_ hw (lo full)
  simp [select, selectData, select18, e0, e2, e3, e4, e5]

theorem lbAcq (t : BitVec 5) (a : BitVec 5) (s : BitVec 3) : Statement (.lbAcq t a s) := by
  refine of_row (w := 24#6 ++ t ++ a ++ 56#6 ++ s ++ 0#7) rfl fun x0 hw => ?_
  have e0 : x0.extractLsb' 26 6 = 24#6 := at_ hw (hi (hi (hi (hi (hi rfl)))))
  have e1 : x0.extractLsb' 10 3 = 0#3 := at_ hw (hi (hi (lo rfl)))
  have e2 : x0.extractLsb' 13 3 = 7#3 := at_ hw (hi (hi (lo rfl)))
  have e3 : x0.extractLsb' 21 5 = t := at_ hw (hi (hi (hi (hi (lo full)))))
  have e4 : x0.extractLsb' 16 5 = a := at_ hw (hi (hi (hi (lo full))))
  have e5 : x0.extractLsb' 7 3 = s := at_ hw (hi (lo full))
  simp [select, selectData, select18, e0, e1, e2, e3, e4, e5]

theorem lhAcq (t : BitVec 5) (a : BitVec 5) (s : BitVec 3) : Statement (.lhAcq t a s) := by
  refine of_row (w := 24#6 ++ t ++ a ++ 58#6 ++ s ++ 0#7) rfl fun x0 hw => ?_
  have e0 : x0.extractLsb' 26 6 = 24#6 := at_ hw (hi (hi (hi (hi (hi rfl)))))
  have e1 : x0.extractLsb' 10 3 = 2#3 := at_ hw (hi (hi (lo rfl)))
  have e2 : x0.extractLsb' 13 3 = 7#3 := at_ hw (hi (hi (lo rfl)))
  have e3 : x0.extractLsb' 21 5 = t := at_ hw (hi (hi (hi (hi (lo full)))))
  have e4 : x0.extractLsb' 16 5 = a := at_ hw (hi (hi (hi (lo full))))
  have e5 : x0.extractLsb' 7 3 = s := at_ hw (hi (lo full))
  simp [select, selectData, select18, e0, e1, e2, e3, e4, e5]

theorem lwAcq (t : BitVec 5) (a : BitVec 5) (s : BitVec 3) : Statement (.lwAcq t a s) := by
  refine of_row (w := 24#6 ++ t ++ a ++ 60#6 ++ s ++ 0#7) rfl fun x0 hw => ?_
  have e0 : x0.extractLsb' 26 6 = 24#6 := at_ hw (hi (hi (hi (hi (hi rfl)))))
  have e1 : x0.extractLsb' 10 3 = 4#3 := at_ hw (hi (hi (lo rfl)))
  have e2 : x0.extractLsb' 13 3 = 7#3 := at_ hw (hi (hi (lo rfl)))
  have e3 : x0.extractLsb' 21 5 = t := at_ hw (hi (hi (hi (hi (lo full)))))
  have e4 : x0.extractLsb' 16 5 = a := at_ hw (hi (hi (hi (lo full))))
  have e5 : x0.extractLsb' 7 3 = s := at_ hw (hi (lo full))
  simp [select, selectData, select18, e0, e1, e2, e3, e4, e5]

theorem ldAcq (t : BitVec 5) (a : BitVec 5) (s : BitVec 3) : Statement (.ldAcq t a s) := by
  refine of_row (w := 24#6 ++ t ++ a ++ 62#6 ++ s ++ 0#7) rfl fun x0 hw => ?_
  have e0 : x0.extractLsb' 26 6 = 24#6 := at_ hw (hi (hi (hi (hi (hi rfl)))))
  have e1 : x0.extractLsb' 10 3 = 6#3 := at_ hw (hi (hi (lo rfl)))
  have e2 : x0.extractLsb' 13 3 = 7#3 := at_ hw (hi (hi (lo rfl)))
  have e3 : x0.extractLsb' 21 5 = t := at_ hw (hi (hi (hi (hi (lo full)))))
  have e4 : x0.extractLsb' 16 5 = a := at_ hw (hi (hi (hi (lo full))))
  have e5 : x0.extractLsb' 7 3 = s := at_ hw (hi (lo full))
  simp [select, selectData, select18, e0, e1, e2, e3, e4, e5]

theorem pref (h : BitVec 5) (a : BitVec 5) : Statement (.pref h a) := by
  refine of_row (w := 24#6 ++ h ++ a ++ 58368#16) rfl fun x0 hw => ?_
  have e0 : x0.extractLsb' 26 6 = 24#6 := at_ hw (hi (hi (hi rfl)))
  have e1 : x0.extractLsb' 10 3 = 1#3 := at_ hw (lo rfl)
  have e2 : x0.extractLsb' 13 3 = 7#3 := at_ hw (lo rfl)
  have e3 : x0.extractLsb' 21 5 = h := at_ hw (hi (hi (lo full)))
  have e4 : x0.extractLsb' 16 5 = a := at_ hw (hi (lo full))
  simp [select, selectData, select18, e0, e1, e2, e3, e4]

theorem sb (t : BitVec 5) (a : BitVec 5) (o : BitVec 13) : Statement (.sb t a o) := by
  refine of_row (w := 25#6 ++ t ++ a ++ 0#3 ++ o) rfl fun x0 hw => ?_
  have e0 : x0.extractLsb' 26 6 = 25#6 := at_ hw (hi (hi (hi (hi rfl))))
  have e2 : x0.extractLsb' 13 3 = 0#3 := at_ hw (hi (lo rfl))
  have e3 : x0.extractLsb' 21 5 = t := at_ hw (hi (hi (hi (lo full))))
  have e4 : x0.extractLsb' 16 5 = a := at_ hw (hi (hi (lo full)))
  have e5 : x0.extractLsb' 0 13 = o := at_ hw (lo full)
  simp [select, selectData, select19, e0, e2, e3, e4, e5]

theorem sh (t : BitVec 5) (a : BitVec 5) (o : BitVec 13) : Statement (.sh t a o) := by
  refine of_row (w := 25#6 ++ t ++ a ++ 1#3 ++ o) rfl fun x0 hw => ?_
  have e0 : x0.extractLsb' 26 6 = 25#6 := at_ hw (hi (hi (hi (hi rfl))))
  have e2 : x0.extractLsb' 13 3 = 1#3 := at_ hw (hi (lo rfl))
  have e3 : x0.extractLsb' 21 5 = t := at_ hw (hi (hi (hi (lo full))))
  have e4 : x0.extractLsb' 16 5 = a := at_ hw (hi (hi (lo full)))
  have e5 : x0.extractLsb' 0 13 = o := at_ hw (lo full)
  simp [select, selectData, select19, e0, e2, e3, e4, e5]

theorem sw (t : BitVec 5) (a : BitVec 5) (o : BitVec 13) : Statement (.sw t a o) := by
  refine of_row (w := 25#6 ++ t ++ a ++ 2#3 ++ o) rfl fun x0 hw => ?_
  have e0 : x0.extractLsb' 26 6 = 25#6 := at_ hw (hi (hi (hi (hi rfl))))
  have e2 : x0.extractLsb' 13 3 = 2#3 := at_ hw (hi (lo rfl))
  have e3 : x0.extractLsb' 21 5 = t := at_ hw (hi (hi (hi (lo full))))
  have e4 : x0.extractLsb' 16 5 = a := at_ hw (hi (hi (lo full)))
  have e5 : x0.extractLsb' 0 13 = o := at_ hw (lo full)
  simp [select, selectData, select19, e0, e2, e3, e4, e5]

theorem sd (t : BitVec 5) (a : BitVec 5) (o : BitVec 13) : Statement (.sd t a o) := by
  refine of_row (w := 25#6 ++ t ++ a ++ 3#3 ++ o) rfl fun x0 hw => ?_
  have e0 : x0.extractLsb' 26 6 = 25#6 := at_ hw (hi (hi (hi (hi rfl))))
  have e2 : x0.extractLsb' 13 3 = 3#3 := at_ hw (hi (lo rfl))
  have e3 : x0.extractLsb' 21 5 = t := at_ hw (hi (hi (hi (lo full))))
  have e4 : x0.extractLsb' 16 5 = a := at_ hw (hi (hi (lo full)))
  have e5 : x0.extractLsb' 0 13 = o := at_ hw (lo full)
  simp [select, selectData, select19, e0, e2, e3, e4, e5]

theorem sbRel (t : BitVec 5) (a : BitVec 5) (s : BitVec 3) : Statement (.sbRel t a s) := by
  refine of_row (w := 25#6 ++ t ++ a ++ 56#6 ++ s ++ 0#7) rfl fun x0 hw => ?_
  have e0 : x0.extractLsb' 26 6 = 25#6 := at_ hw (hi (hi (hi (hi (hi rfl)))))
  have e1 : x0.extractLsb' 11 2 = 0#2 := at_ hw (hi (hi (lo rfl)))
  have e2 : x0.extractLsb' 13 3 = 7#3 := at_ hw (hi (hi (lo rfl)))
  have e3 : x0.extractLsb' 21 5 = t := at_ hw (hi (hi (hi (hi (lo full)))))
  have e4 : x0.extractLsb' 16 5 = a := at_ hw (hi (hi (hi (lo full))))
  have e5 : x0.extractLsb' 7 3 = s := at_ hw (hi (lo full))
  simp [select, selectData, select19, e0, e1, e2, e3, e4, e5]

theorem shRel (t : BitVec 5) (a : BitVec 5) (s : BitVec 3) : Statement (.shRel t a s) := by
  refine of_row (w := 25#6 ++ t ++ a ++ 58#6 ++ s ++ 0#7) rfl fun x0 hw => ?_
  have e0 : x0.extractLsb' 26 6 = 25#6 := at_ hw (hi (hi (hi (hi (hi rfl)))))
  have e1 : x0.extractLsb' 11 2 = 1#2 := at_ hw (hi (hi (lo rfl)))
  have e2 : x0.extractLsb' 13 3 = 7#3 := at_ hw (hi (hi (lo rfl)))
  have e3 : x0.extractLsb' 21 5 = t := at_ hw (hi (hi (hi (hi (lo full)))))
  have e4 : x0.extractLsb' 16 5 = a := at_ hw (hi (hi (hi (lo full))))
  have e5 : x0.extractLsb' 7 3 = s := at_ hw (hi (lo full))
  simp [select, selectData, select19, e0, e1, e2, e3, e4, e5]

theorem swRel (t : BitVec 5) (a : BitVec 5) (s : BitVec 3) : Statement (.swRel t a s) := by
  refine of_row (w := 25#6 ++ t ++ a ++ 60#6 ++ s ++ 0#7) rfl fun x0 hw => ?_
  have e0 : x0.extractLsb' 26 6 = 25#6 := at_ hw (hi (hi (hi (hi (hi rfl)))))
  have e1 : x0.extractLsb' 11 2 = 2#2 := at_ hw (hi (hi (lo rfl)))
  have e2 : x0.extractLsb' 13 3 = 7#3 := at_ hw (hi (hi (lo rfl)))
  have e3 : x0.extractLsb' 21 5 = t := at_ hw (hi (hi (hi (hi (lo full)))))
  have e4 : x0.extractLsb' 16 5 = a := at_ hw (hi (hi (hi (lo full))))
  have e5 : x0.extractLsb' 7 3 = s := at_ hw (hi (lo full))
  simp [select, selectData, select19, e0, e1, e2, e3, e4, e5]

theorem sdRel (t : BitVec 5) (a : BitVec 5) (s : BitVec 3) : Statement (.sdRel t a s) := by
  refine of_row (w := 25#6 ++ t ++ a ++ 62#6 ++ s ++ 0#7) rfl fun x0 hw => ?_
  have e0 : x0.extractLsb' 26 6 = 25#6 := at_ hw (hi (hi (hi (hi (hi rfl)))))
  have e1 : x0.extractLsb' 11 2 = 3#2 := at_ hw (hi (hi (lo rfl)))
  have e2 : x0.extractLsb' 13 3 = 7#3 := at_ hw (hi (hi (lo rfl)))
  have e3 : x0.extractLsb' 21 5 = t := at_ hw (hi (hi (hi (hi (lo full)))))
  have e4 : x0.extractLsb' 16 5 = a := at_ hw (hi (hi (hi (lo full))))
  have e5 : x0.extractLsb' 7 3 = s := at_ hw (hi (lo full))
  simp [select, selectData, select19, e0, e1, e2, e3, e4, e5]

theorem ldvExact (d : BitVec 5) (a : BitVec 5) (b : BitVec 5) (p : BitVec 3) (z : BitVec 2) : Statement (.ldvExact d a b p z) := by
  refine of_row (w := 26#6 ++ d ++ a ++ b ++ 0#3 ++ p ++ 0#1 ++ z ++ 0#2) rfl fun x0 hw => ?_
  have e0 : x0.extractLsb' 26 6 = 26#6 := at_ hw (hi (hi (hi (hi (hi (hi (hi (hi rfl))))))))
  have e1 : x0.extractLsb' 0 2 = 0#2 := at_ hw (lo rfl)
  have e2 : x0.extractLsb' 8 3 = 0#3 := at_ hw (hi (hi (hi (hi (lo rfl)))))
  have e3 : x0.extractLsb' 21 5 = d := at_ hw (hi (hi (hi (hi (hi (hi (hi (lo full))))))))
  have e4 : x0.extractLsb' 16 5 = a := at_ hw (hi (hi (hi (hi (hi (hi (lo full)))))))
  have e5 : x0.extractLsb' 11 5 = b := at_ hw (hi (hi (hi (hi (hi (lo full))))))
  have e6 : x0.extractLsb' 5 3 = p := at_ hw (hi (hi (hi (lo full))))
  have e7 : x0.extractLsb' 2 2 = z := at_ hw (hi (lo full))
  simp [select, select1A, e0, e1, e2, e3, e4, e5, e6, e7]

theorem ldvLe (d : BitVec 5) (a : BitVec 5) (b : BitVec 5) (p : BitVec 3) (z : BitVec 2) : Statement (.ldvLe d a b p z) := by
  refine of_row (w := 26#6 ++ d ++ a ++ b ++ 0#3 ++ p ++ 0#1 ++ z ++ 1#2) rfl fun x0 hw => ?_
  have e0 : x0.extractLsb' 26 6 = 26#6 := at_ hw (hi (hi (hi (hi (hi (hi (hi (hi rfl))))))))
  have e1 : x0.extractLsb' 0 2 = 1#2 := at_ hw (lo rfl)
  have e2 : x0.extractLsb' 8 3 = 0#3 := at_ hw (hi (hi (hi (hi (lo rfl)))))
  have e3 : x0.extractLsb' 21 5 = d := at_ hw (hi (hi (hi (hi (hi (hi (hi (lo full))))))))
  have e4 : x0.extractLsb' 16 5 = a := at_ hw (hi (hi (hi (hi (hi (hi (lo full)))))))
  have e5 : x0.extractLsb' 11 5 = b := at_ hw (hi (hi (hi (hi (hi (lo full))))))
  have e6 : x0.extractLsb' 5 3 = p := at_ hw (hi (hi (hi (lo full))))
  have e7 : x0.extractLsb' 2 2 = z := at_ hw (hi (lo full))
  simp [select, select1A, e0, e1, e2, e3, e4, e5, e6, e7]

theorem ldvAge (d : BitVec 5) (a : BitVec 5) (b : BitVec 5) (p : BitVec 3) (z : BitVec 2) : Statement (.ldvAge d a b p z) := by
  refine of_row (w := 26#6 ++ d ++ a ++ b ++ 0#3 ++ p ++ 0#1 ++ z ++ 2#2) rfl fun x0 hw => ?_
  have e0 : x0.extractLsb' 26 6 = 26#6 := at_ hw (hi (hi (hi (hi (hi (hi (hi (hi rfl))))))))
  have e1 : x0.extractLsb' 0 2 = 2#2 := at_ hw (lo rfl)
  have e2 : x0.extractLsb' 8 3 = 0#3 := at_ hw (hi (hi (hi (hi (lo rfl)))))
  have e3 : x0.extractLsb' 21 5 = d := at_ hw (hi (hi (hi (hi (hi (hi (hi (lo full))))))))
  have e4 : x0.extractLsb' 16 5 = a := at_ hw (hi (hi (hi (hi (hi (hi (lo full)))))))
  have e5 : x0.extractLsb' 11 5 = b := at_ hw (hi (hi (hi (hi (hi (lo full))))))
  have e6 : x0.extractLsb' 5 3 = p := at_ hw (hi (hi (hi (lo full))))
  have e7 : x0.extractLsb' 2 2 = z := at_ hw (hi (lo full))
  simp [select, select1A, e0, e1, e2, e3, e4, e5, e6, e7]

theorem stv (t : BitVec 5) (a : BitVec 5) (b : BitVec 5) (z : BitVec 2) : Statement (.stv t a b z) := by
  refine of_row (w := 26#6 ++ t ++ a ++ b ++ 16#7 ++ z ++ 0#2) rfl fun x0 hw => ?_
  have e0 : x0.extractLsb' 26 6 = 26#6 := at_ hw (hi (hi (hi (hi (hi (hi rfl))))))
  have e1 : x0.extractLsb' 0 2 = 0#2 := at_ hw (lo rfl)
  have e2 : x0.extractLsb' 8 3 = 1#3 := at_ hw (hi (hi (lo rfl)))
  have e3 : x0.extractLsb' 21 5 = t := at_ hw (hi (hi (hi (hi (hi (lo full))))))
  have e4 : x0.extractLsb' 16 5 = a := at_ hw (hi (hi (hi (hi (lo full)))))
  have e5 : x0.extractLsb' 11 5 = b := at_ hw (hi (hi (hi (lo full))))
  have e6 : x0.extractLsb' 2 2 = z := at_ hw (hi (lo full))
  simp [select, select1A, e0, e1, e2, e3, e4, e5, e6]

theorem sealv (a : BitVec 5) (b : BitVec 5) : Statement (.sealv a b) := by
  refine of_row (w := 832#11 ++ a ++ b ++ 512#11) rfl fun x0 hw => ?_
  have e0 : x0.extractLsb' 26 6 = 26#6 := at_ hw (hi (hi (hi rfl)))
  have e1 : x0.extractLsb' 0 2 = 0#2 := at_ hw (lo rfl)
  have e2 : x0.extractLsb' 8 3 = 2#3 := at_ hw (lo rfl)
  have e3 : x0.extractLsb' 16 5 = a := at_ hw (hi (hi (lo full)))
  have e4 : x0.extractLsb' 11 5 = b := at_ hw (hi (lo full))
  simp [select, select1A, e0, e1, e2, e3, e4]

theorem reclv (a : BitVec 5) (b : BitVec 5) : Statement (.reclv a b) := by
  refine of_row (w := 832#11 ++ a ++ b ++ 768#11) rfl fun x0 hw => ?_
  have e0 : x0.extractLsb' 26 6 = 26#6 := at_ hw (hi (hi (hi rfl)))
  have e1 : x0.extractLsb' 0 2 = 0#2 := at_ hw (lo rfl)
  have e2 : x0.extractLsb' 8 3 = 3#3 := at_ hw (lo rfl)
  have e3 : x0.extractLsb' 16 5 = a := at_ hw (hi (hi (lo full)))
  have e4 : x0.extractLsb' 11 5 = b := at_ hw (hi (lo full))
  simp [select, select1A, e0, e1, e2, e3, e4]

theorem map (d : BitVec 5) (a : BitVec 5) (b : BitVec 5) : Statement (.map d a b) := by
  refine of_row (w := 27#6 ++ d ++ a ++ b ++ 0#11) rfl fun x0 hw => ?_
  have e0 : x0.extractLsb' 26 6 = 27#6 := at_ hw (hi (hi (hi (hi rfl))))
  have e1 : x0.extractLsb' 8 3 = 0#3 := at_ hw (lo rfl)
  have e2 : x0.extractLsb' 21 5 = d := at_ hw (hi (hi (hi (lo full))))
  have e3 : x0.extractLsb' 16 5 = a := at_ hw (hi (hi (lo full)))
  have e4 : x0.extractLsb' 11 5 = b := at_ hw (hi (lo full))
  simp [select, select1B, e0, e1, e2, e3, e4]

theorem unmap (d : BitVec 5) (a : BitVec 5) : Statement (.unmap d a) := by
  refine of_row (w := 27#6 ++ d ++ a ++ 256#16) rfl fun x0 hw => ?_
  have e0 : x0.extractLsb' 26 6 = 27#6 := at_ hw (hi (hi (hi rfl)))
  have e1 : x0.extractLsb' 8 3 = 1#3 := at_ hw (lo rfl)
  have e2 : x0.extractLsb' 21 5 = d := at_ hw (hi (hi (lo full)))
  have e3 : x0.extractLsb' 16 5 = a := at_ hw (hi (lo full))
  simp [select, select1B, e0, e1, e2, e3]

theorem sflush (a : BitVec 5) (s : BitVec 3) : Statement (.sflush a s) := by
  refine of_row (w := 864#11 ++ a ++ 64#13 ++ s) rfl fun x0 hw => ?_
  have e0 : x0.extractLsb' 26 6 = 27#6 := at_ hw (hi (hi (hi rfl)))
  have e1 : x0.extractLsb' 8 3 = 2#3 := at_ hw (hi (lo rfl))
  have e2 : x0.extractLsb' 16 5 = a := at_ hw (hi (hi (lo full)))
  have e3 : x0.extractLsb' 0 3 = s := at_ hw (lo full)
  simp [select, select1B, e0, e1, e2, e3]

theorem handover (a : BitVec 5) (b : BitVec 5) : Statement (.handover a b) := by
  refine of_row (w := 864#11 ++ a ++ b ++ 768#11) rfl fun x0 hw => ?_
  have e0 : x0.extractLsb' 26 6 = 27#6 := at_ hw (hi (hi (hi rfl)))
  have e1 : x0.extractLsb' 8 3 = 3#3 := at_ hw (lo rfl)
  have e2 : x0.extractLsb' 16 5 = a := at_ hw (hi (hi (lo full)))
  have e3 : x0.extractLsb' 11 5 = b := at_ hw (hi (lo full))
  simp [select, select1B, e0, e1, e2, e3]

theorem capq (d : BitVec 5) (a : BitVec 5) : Statement (.capq d a) := by
  refine of_row (w := 27#6 ++ d ++ a ++ 1024#16) rfl fun x0 hw => ?_
  have e0 : x0.extractLsb' 26 6 = 27#6 := at_ hw (hi (hi (hi rfl)))
  have e1 : x0.extractLsb' 8 3 = 4#3 := at_ hw (lo rfl)
  have e2 : x0.extractLsb' 21 5 = d := at_ hw (hi (hi (lo full)))
  have e3 : x0.extractLsb' 16 5 = a := at_ hw (hi (lo full))
  simp [select, select1B, e0, e1, e2, e3]

theorem amoswap (d : BitVec 5) (a : BitVec 5) (b : BitVec 5) (q : BitVec 1) (z : BitVec 1) (s : BitVec 3) : Statement (.amoswap d a b q z s) := by
  refine of_row (w := 28#6 ++ d ++ a ++ b ++ q ++ 1#1 ++ z ++ 0#4 ++ s ++ 0#1) rfl fun x0 hw => ?_
  have e0 : x0.extractLsb' 26 6 = 28#6 := at_ hw (hi (hi (hi (hi (hi (hi (hi (hi (hi rfl)))))))))
  have e1 : x0.extractLsb' 4 4 = 0#4 := at_ hw (hi (hi (lo rfl)))
  have e2 : x0.extractLsb' 21 5 = d := at_ hw (hi (hi (hi (hi (hi (hi (hi (hi (lo full)))))))))
  have e3 : x0.extractLsb' 16 5 = a := at_ hw (hi (hi (hi (hi (hi (hi (hi (lo full))))))))
  have e4 : x0.extractLsb' 11 5 = b := at_ hw (hi (hi (hi (hi (hi (hi (lo full)))))))
  have e5 : x0.extractLsb' 10 1 = q := at_ hw (hi (hi (hi (hi (hi (lo full))))))
  have e6 : x0.extractLsb' 8 1 = z := at_ hw (hi (hi (hi (lo full))))
  have e7 : x0.extractLsb' 1 3 = s := at_ hw (hi (lo full))
  simp [select, select1C, e0, e1, e2, e3, e4, e5, e6, e7]

theorem amoadd (d : BitVec 5) (a : BitVec 5) (b : BitVec 5) (q : BitVec 1) (z : BitVec 1) (s : BitVec 3) : Statement (.amoadd d a b q z s) := by
  refine of_row (w := 28#6 ++ d ++ a ++ b ++ q ++ 1#1 ++ z ++ 1#4 ++ s ++ 0#1) rfl fun x0 hw => ?_
  have e0 : x0.extractLsb' 26 6 = 28#6 := at_ hw (hi (hi (hi (hi (hi (hi (hi (hi (hi rfl)))))))))
  have e1 : x0.extractLsb' 4 4 = 1#4 := at_ hw (hi (hi (lo rfl)))
  have e2 : x0.extractLsb' 21 5 = d := at_ hw (hi (hi (hi (hi (hi (hi (hi (hi (lo full)))))))))
  have e3 : x0.extractLsb' 16 5 = a := at_ hw (hi (hi (hi (hi (hi (hi (hi (lo full))))))))
  have e4 : x0.extractLsb' 11 5 = b := at_ hw (hi (hi (hi (hi (hi (hi (lo full)))))))
  have e5 : x0.extractLsb' 10 1 = q := at_ hw (hi (hi (hi (hi (hi (lo full))))))
  have e6 : x0.extractLsb' 8 1 = z := at_ hw (hi (hi (hi (lo full))))
  have e7 : x0.extractLsb' 1 3 = s := at_ hw (hi (lo full))
  simp [select, select1C, e0, e1, e2, e3, e4, e5, e6, e7]

theorem amoand (d : BitVec 5) (a : BitVec 5) (b : BitVec 5) (q : BitVec 1) (z : BitVec 1) (s : BitVec 3) : Statement (.amoand d a b q z s) := by
  refine of_row (w := 28#6 ++ d ++ a ++ b ++ q ++ 1#1 ++ z ++ 2#4 ++ s ++ 0#1) rfl fun x0 hw => ?_
  have e0 : x0.extractLsb' 26 6 = 28#6 := at_ hw (hi (hi (hi (hi (hi (hi (hi (hi (hi rfl)))))))))
  have e1 : x0.extractLsb' 4 4 = 2#4 := at_ hw (hi (hi (lo rfl)))
  have e2 : x0.extractLsb' 21 5 = d := at_ hw (hi (hi (hi (hi (hi (hi (hi (hi (lo full)))))))))
  have e3 : x0.extractLsb' 16 5 = a := at_ hw (hi (hi (hi (hi (hi (hi (hi (lo full))))))))
  have e4 : x0.extractLsb' 11 5 = b := at_ hw (hi (hi (hi (hi (hi (hi (lo full)))))))
  have e5 : x0.extractLsb' 10 1 = q := at_ hw (hi (hi (hi (hi (hi (lo full))))))
  have e6 : x0.extractLsb' 8 1 = z := at_ hw (hi (hi (hi (lo full))))
  have e7 : x0.extractLsb' 1 3 = s := at_ hw (hi (lo full))
  simp [select, select1C, e0, e1, e2, e3, e4, e5, e6, e7]

theorem amoor (d : BitVec 5) (a : BitVec 5) (b : BitVec 5) (q : BitVec 1) (z : BitVec 1) (s : BitVec 3) : Statement (.amoor d a b q z s) := by
  refine of_row (w := 28#6 ++ d ++ a ++ b ++ q ++ 1#1 ++ z ++ 3#4 ++ s ++ 0#1) rfl fun x0 hw => ?_
  have e0 : x0.extractLsb' 26 6 = 28#6 := at_ hw (hi (hi (hi (hi (hi (hi (hi (hi (hi rfl)))))))))
  have e1 : x0.extractLsb' 4 4 = 3#4 := at_ hw (hi (hi (lo rfl)))
  have e2 : x0.extractLsb' 21 5 = d := at_ hw (hi (hi (hi (hi (hi (hi (hi (hi (lo full)))))))))
  have e3 : x0.extractLsb' 16 5 = a := at_ hw (hi (hi (hi (hi (hi (hi (hi (lo full))))))))
  have e4 : x0.extractLsb' 11 5 = b := at_ hw (hi (hi (hi (hi (hi (hi (lo full)))))))
  have e5 : x0.extractLsb' 10 1 = q := at_ hw (hi (hi (hi (hi (hi (lo full))))))
  have e6 : x0.extractLsb' 8 1 = z := at_ hw (hi (hi (hi (lo full))))
  have e7 : x0.extractLsb' 1 3 = s := at_ hw (hi (lo full))
  simp [select, select1C, e0, e1, e2, e3, e4, e5, e6, e7]

theorem amoxor (d : BitVec 5) (a : BitVec 5) (b : BitVec 5) (q : BitVec 1) (z : BitVec 1) (s : BitVec 3) : Statement (.amoxor d a b q z s) := by
  refine of_row (w := 28#6 ++ d ++ a ++ b ++ q ++ 1#1 ++ z ++ 4#4 ++ s ++ 0#1) rfl fun x0 hw => ?_
  have e0 : x0.extractLsb' 26 6 = 28#6 := at_ hw (hi (hi (hi (hi (hi (hi (hi (hi (hi rfl)))))))))
  have e1 : x0.extractLsb' 4 4 = 4#4 := at_ hw (hi (hi (lo rfl)))
  have e2 : x0.extractLsb' 21 5 = d := at_ hw (hi (hi (hi (hi (hi (hi (hi (hi (lo full)))))))))
  have e3 : x0.extractLsb' 16 5 = a := at_ hw (hi (hi (hi (hi (hi (hi (hi (lo full))))))))
  have e4 : x0.extractLsb' 11 5 = b := at_ hw (hi (hi (hi (hi (hi (hi (lo full)))))))
  have e5 : x0.extractLsb' 10 1 = q := at_ hw (hi (hi (hi (hi (hi (lo full))))))
  have e6 : x0.extractLsb' 8 1 = z := at_ hw (hi (hi (hi (lo full))))
  have e7 : x0.extractLsb' 1 3 = s := at_ hw (hi (lo full))
  simp [select, select1C, e0, e1, e2, e3, e4, e5, e6, e7]

theorem amomin (d : BitVec 5) (a : BitVec 5) (b : BitVec 5) (q : BitVec 1) (z : BitVec 1) (s : BitVec 3) : Statement (.amomin d a b q z s) := by
  refine of_row (w := 28#6 ++ d ++ a ++ b ++ q ++ 1#1 ++ z ++ 5#4 ++ s ++ 0#1) rfl fun x0 hw => ?_
  have e0 : x0.extractLsb' 26 6 = 28#6 := at_ hw (hi (hi (hi (hi (hi (hi (hi (hi (hi rfl)))))))))
  have e1 : x0.extractLsb' 4 4 = 5#4 := at_ hw (hi (hi (lo rfl)))
  have e2 : x0.extractLsb' 21 5 = d := at_ hw (hi (hi (hi (hi (hi (hi (hi (hi (lo full)))))))))
  have e3 : x0.extractLsb' 16 5 = a := at_ hw (hi (hi (hi (hi (hi (hi (hi (lo full))))))))
  have e4 : x0.extractLsb' 11 5 = b := at_ hw (hi (hi (hi (hi (hi (hi (lo full)))))))
  have e5 : x0.extractLsb' 10 1 = q := at_ hw (hi (hi (hi (hi (hi (lo full))))))
  have e6 : x0.extractLsb' 8 1 = z := at_ hw (hi (hi (hi (lo full))))
  have e7 : x0.extractLsb' 1 3 = s := at_ hw (hi (lo full))
  simp [select, select1C, e0, e1, e2, e3, e4, e5, e6, e7]

theorem amomax (d : BitVec 5) (a : BitVec 5) (b : BitVec 5) (q : BitVec 1) (z : BitVec 1) (s : BitVec 3) : Statement (.amomax d a b q z s) := by
  refine of_row (w := 28#6 ++ d ++ a ++ b ++ q ++ 1#1 ++ z ++ 6#4 ++ s ++ 0#1) rfl fun x0 hw => ?_
  have e0 : x0.extractLsb' 26 6 = 28#6 := at_ hw (hi (hi (hi (hi (hi (hi (hi (hi (hi rfl)))))))))
  have e1 : x0.extractLsb' 4 4 = 6#4 := at_ hw (hi (hi (lo rfl)))
  have e2 : x0.extractLsb' 21 5 = d := at_ hw (hi (hi (hi (hi (hi (hi (hi (hi (lo full)))))))))
  have e3 : x0.extractLsb' 16 5 = a := at_ hw (hi (hi (hi (hi (hi (hi (hi (lo full))))))))
  have e4 : x0.extractLsb' 11 5 = b := at_ hw (hi (hi (hi (hi (hi (hi (lo full)))))))
  have e5 : x0.extractLsb' 10 1 = q := at_ hw (hi (hi (hi (hi (hi (lo full))))))
  have e6 : x0.extractLsb' 8 1 = z := at_ hw (hi (hi (hi (lo full))))
  have e7 : x0.extractLsb' 1 3 = s := at_ hw (hi (lo full))
  simp [select, select1C, e0, e1, e2, e3, e4, e5, e6, e7]

theorem amominu (d : BitVec 5) (a : BitVec 5) (b : BitVec 5) (q : BitVec 1) (z : BitVec 1) (s : BitVec 3) : Statement (.amominu d a b q z s) := by
  refine of_row (w := 28#6 ++ d ++ a ++ b ++ q ++ 1#1 ++ z ++ 7#4 ++ s ++ 0#1) rfl fun x0 hw => ?_
  have e0 : x0.extractLsb' 26 6 = 28#6 := at_ hw (hi (hi (hi (hi (hi (hi (hi (hi (hi rfl)))))))))
  have e1 : x0.extractLsb' 4 4 = 7#4 := at_ hw (hi (hi (lo rfl)))
  have e2 : x0.extractLsb' 21 5 = d := at_ hw (hi (hi (hi (hi (hi (hi (hi (hi (lo full)))))))))
  have e3 : x0.extractLsb' 16 5 = a := at_ hw (hi (hi (hi (hi (hi (hi (hi (lo full))))))))
  have e4 : x0.extractLsb' 11 5 = b := at_ hw (hi (hi (hi (hi (hi (hi (lo full)))))))
  have e5 : x0.extractLsb' 10 1 = q := at_ hw (hi (hi (hi (hi (hi (lo full))))))
  have e6 : x0.extractLsb' 8 1 = z := at_ hw (hi (hi (hi (lo full))))
  have e7 : x0.extractLsb' 1 3 = s := at_ hw (hi (lo full))
  simp [select, select1C, e0, e1, e2, e3, e4, e5, e6, e7]

theorem amomaxu (d : BitVec 5) (a : BitVec 5) (b : BitVec 5) (q : BitVec 1) (z : BitVec 1) (s : BitVec 3) : Statement (.amomaxu d a b q z s) := by
  refine of_row (w := 28#6 ++ d ++ a ++ b ++ q ++ 1#1 ++ z ++ 8#4 ++ s ++ 0#1) rfl fun x0 hw => ?_
  have e0 : x0.extractLsb' 26 6 = 28#6 := at_ hw (hi (hi (hi (hi (hi (hi (hi (hi (hi rfl)))))))))
  have e1 : x0.extractLsb' 4 4 = 8#4 := at_ hw (hi (hi (lo rfl)))
  have e2 : x0.extractLsb' 21 5 = d := at_ hw (hi (hi (hi (hi (hi (hi (hi (hi (lo full)))))))))
  have e3 : x0.extractLsb' 16 5 = a := at_ hw (hi (hi (hi (hi (hi (hi (hi (lo full))))))))
  have e4 : x0.extractLsb' 11 5 = b := at_ hw (hi (hi (hi (hi (hi (hi (lo full)))))))
  have e5 : x0.extractLsb' 10 1 = q := at_ hw (hi (hi (hi (hi (hi (lo full))))))
  have e6 : x0.extractLsb' 8 1 = z := at_ hw (hi (hi (hi (lo full))))
  have e7 : x0.extractLsb' 1 3 = s := at_ hw (hi (lo full))
  simp [select, select1C, e0, e1, e2, e3, e4, e5, e6, e7]

theorem amocas (d : BitVec 5) (a : BitVec 5) (b : BitVec 5) (q : BitVec 1) (z : BitVec 1) (s : BitVec 3) : Statement (.amocas d a b q z s) := by
  refine of_row (w := 28#6 ++ d ++ a ++ b ++ q ++ 1#1 ++ z ++ 9#4 ++ s ++ 0#1) rfl fun x0 hw => ?_
  have e0 : x0.extractLsb' 26 6 = 28#6 := at_ hw (hi (hi (hi (hi (hi (hi (hi (hi (hi rfl)))))))))
  have e1 : x0.extractLsb' 4 4 = 9#4 := at_ hw (hi (hi (lo rfl)))
  have e2 : x0.extractLsb' 21 5 = d := at_ hw (hi (hi (hi (hi (hi (hi (hi (hi (lo full)))))))))
  have e3 : x0.extractLsb' 16 5 = a := at_ hw (hi (hi (hi (hi (hi (hi (hi (lo full))))))))
  have e4 : x0.extractLsb' 11 5 = b := at_ hw (hi (hi (hi (hi (hi (hi (lo full)))))))
  have e5 : x0.extractLsb' 10 1 = q := at_ hw (hi (hi (hi (hi (hi (lo full))))))
  have e6 : x0.extractLsb' 8 1 = z := at_ hw (hi (hi (hi (lo full))))
  have e7 : x0.extractLsb' 1 3 = s := at_ hw (hi (lo full))
  simp [select, select1C, e0, e1, e2, e3, e4, e5, e6, e7]

theorem amofadd (d : BitVec 5) (a : BitVec 5) (b : BitVec 5) (q : BitVec 1) (s : BitVec 3) : Statement (.amofadd d a b q s) := by
  refine of_row (w := 28#6 ++ d ++ a ++ b ++ q ++ 42#6 ++ s ++ 0#1) rfl fun x0 hw => ?_
  have e0 : x0.extractLsb' 26 6 = 28#6 := at_ hw (hi (hi (hi (hi (hi (hi (hi rfl)))))))
  have e1 : x0.extractLsb' 4 4 = 10#4 := at_ hw (hi (hi (lo rfl)))
  have e2 : x0.extractLsb' 21 5 = d := at_ hw (hi (hi (hi (hi (hi (hi (lo full)))))))
  have e3 : x0.extractLsb' 16 5 = a := at_ hw (hi (hi (hi (hi (hi (lo full))))))
  have e4 : x0.extractLsb' 11 5 = b := at_ hw (hi (hi (hi (hi (lo full)))))
  have e5 : x0.extractLsb' 10 1 = q := at_ hw (hi (hi (hi (lo full))))
  have e6 : x0.extractLsb' 1 3 = s := at_ hw (hi (lo full))
  simp [select, select1C, e0, e1, e2, e3, e4, e5, e6]

theorem fenceFull (s : BitVec 3) : Statement (.fenceFull s) := by
  refine of_row (w := 243269632#29 ++ s) rfl fun x0 hw => ?_
  have e0 : x0.extractLsb' 26 6 = 29#6 := at_ hw (hi rfl)
  have e1 : x0.extractLsb' 3 1 = 0#1 := at_ hw (hi rfl)
  have e2 : x0.extractLsb' 4 5 = 0#5 := at_ hw (hi rfl)
  have e3 : x0.extractLsb' 0 3 = s := at_ hw (lo full)
  simp [select, select1D, e0, e1, e2, e3]

theorem fenceAcq (s : BitVec 3) : Statement (.fenceAcq s) := by
  refine of_row (w := 243269633#29 ++ s) rfl fun x0 hw => ?_
  have e0 : x0.extractLsb' 26 6 = 29#6 := at_ hw (hi rfl)
  have e1 : x0.extractLsb' 3 1 = 1#1 := at_ hw (hi rfl)
  have e2 : x0.extractLsb' 4 5 = 0#5 := at_ hw (hi rfl)
  have e3 : x0.extractLsb' 0 3 = s := at_ hw (lo full)
  simp [select, select1D, e0, e1, e2, e3]

theorem fenceRel (s : BitVec 3) : Statement (.fenceRel s) := by
  refine of_row (w := 243269634#29 ++ s) rfl fun x0 hw => ?_
  have e0 : x0.extractLsb' 26 6 = 29#6 := at_ hw (hi rfl)
  have e1 : x0.extractLsb' 3 1 = 0#1 := at_ hw (hi rfl)
  have e2 : x0.extractLsb' 4 5 = 1#5 := at_ hw (hi rfl)
  have e3 : x0.extractLsb' 0 3 = s := at_ hw (lo full)
  simp [select, select1D, e0, e1, e2, e3]

theorem waitv (d : BitVec 5) (a : BitVec 5) (b : BitVec 5) (z : BitVec 1) (s : BitVec 3) : Statement (.waitv d a b z s) := by
  refine of_row (w := 29#6 ++ d ++ a ++ b ++ 17#7 ++ z ++ s) rfl fun x0 hw => ?_
  have e0 : x0.extractLsb' 26 6 = 29#6 := at_ hw (hi (hi (hi (hi (hi (hi rfl))))))
  have e2 : x0.extractLsb' 4 5 = 17#5 := at_ hw (hi (hi (lo rfl)))
  have e3 : x0.extractLsb' 21 5 = d := at_ hw (hi (hi (hi (hi (hi (lo full))))))
  have e4 : x0.extractLsb' 16 5 = a := at_ hw (hi (hi (hi (hi (lo full)))))
  have e5 : x0.extractLsb' 11 5 = b := at_ hw (hi (hi (hi (lo full))))
  have e6 : x0.extractLsb' 3 1 = z := at_ hw (hi (lo full))
  have e7 : x0.extractLsb' 0 3 = s := at_ hw (lo full)
  simp [select, select1D, e0, e2, e3, e4, e5, e6, e7]

theorem vadd (d : BitVec 5) (a : BitVec 5) (b : BitVec 5) (p : BitVec 3) (e : BitVec 2) (z : BitVec 1) : Statement (.vadd d a b p e z) := by
  refine of_row (w := 32#6 ++ d ++ a ++ b ++ p ++ e ++ z ++ 0#5) rfl fun x0 hw => ?_
  have e0 : x0.extractLsb' 26 6 = 32#6 := at_ hw (hi (hi (hi (hi (hi (hi (hi rfl)))))))
  have e1 : x0.extractLsb' 0 5 = 0#5 := at_ hw (lo rfl)
  have e2 : x0.extractLsb' 21 5 = d := at_ hw (hi (hi (hi (hi (hi (hi (lo full)))))))
  have e3 : x0.extractLsb' 16 5 = a := at_ hw (hi (hi (hi (hi (hi (lo full))))))
  have e4 : x0.extractLsb' 11 5 = b := at_ hw (hi (hi (hi (hi (lo full)))))
  have e5 : x0.extractLsb' 8 3 = p := at_ hw (hi (hi (hi (lo full))))
  have e6 : x0.extractLsb' 6 2 = e := at_ hw (hi (hi (lo full)))
  have e7 : x0.extractLsb' 5 1 = z := at_ hw (hi (lo full))
  simp [select, selectData, select20, e0, e1, e2, e3, e4, e5, e6, e7]

theorem vsub (d : BitVec 5) (a : BitVec 5) (b : BitVec 5) (p : BitVec 3) (e : BitVec 2) (z : BitVec 1) : Statement (.vsub d a b p e z) := by
  refine of_row (w := 32#6 ++ d ++ a ++ b ++ p ++ e ++ z ++ 1#5) rfl fun x0 hw => ?_
  have e0 : x0.extractLsb' 26 6 = 32#6 := at_ hw (hi (hi (hi (hi (hi (hi (hi rfl)))))))
  have e1 : x0.extractLsb' 0 5 = 1#5 := at_ hw (lo rfl)
  have e2 : x0.extractLsb' 21 5 = d := at_ hw (hi (hi (hi (hi (hi (hi (lo full)))))))
  have e3 : x0.extractLsb' 16 5 = a := at_ hw (hi (hi (hi (hi (hi (lo full))))))
  have e4 : x0.extractLsb' 11 5 = b := at_ hw (hi (hi (hi (hi (lo full)))))
  have e5 : x0.extractLsb' 8 3 = p := at_ hw (hi (hi (hi (lo full))))
  have e6 : x0.extractLsb' 6 2 = e := at_ hw (hi (hi (lo full)))
  have e7 : x0.extractLsb' 5 1 = z := at_ hw (hi (lo full))
  simp [select, selectData, select20, e0, e1, e2, e3, e4, e5, e6, e7]

theorem vmul (d : BitVec 5) (a : BitVec 5) (b : BitVec 5) (p : BitVec 3) (e : BitVec 2) (z : BitVec 1) : Statement (.vmul d a b p e z) := by
  refine of_row (w := 32#6 ++ d ++ a ++ b ++ p ++ e ++ z ++ 2#5) rfl fun x0 hw => ?_
  have e0 : x0.extractLsb' 26 6 = 32#6 := at_ hw (hi (hi (hi (hi (hi (hi (hi rfl)))))))
  have e1 : x0.extractLsb' 0 5 = 2#5 := at_ hw (lo rfl)
  have e2 : x0.extractLsb' 21 5 = d := at_ hw (hi (hi (hi (hi (hi (hi (lo full)))))))
  have e3 : x0.extractLsb' 16 5 = a := at_ hw (hi (hi (hi (hi (hi (lo full))))))
  have e4 : x0.extractLsb' 11 5 = b := at_ hw (hi (hi (hi (hi (lo full)))))
  have e5 : x0.extractLsb' 8 3 = p := at_ hw (hi (hi (hi (lo full))))
  have e6 : x0.extractLsb' 6 2 = e := at_ hw (hi (hi (lo full)))
  have e7 : x0.extractLsb' 5 1 = z := at_ hw (hi (lo full))
  simp [select, selectData, select20, e0, e1, e2, e3, e4, e5, e6, e7]

theorem vmulh (d : BitVec 5) (a : BitVec 5) (b : BitVec 5) (p : BitVec 3) (e : BitVec 2) (z : BitVec 1) : Statement (.vmulh d a b p e z) := by
  refine of_row (w := 32#6 ++ d ++ a ++ b ++ p ++ e ++ z ++ 3#5) rfl fun x0 hw => ?_
  have e0 : x0.extractLsb' 26 6 = 32#6 := at_ hw (hi (hi (hi (hi (hi (hi (hi rfl)))))))
  have e1 : x0.extractLsb' 0 5 = 3#5 := at_ hw (lo rfl)
  have e2 : x0.extractLsb' 21 5 = d := at_ hw (hi (hi (hi (hi (hi (hi (lo full)))))))
  have e3 : x0.extractLsb' 16 5 = a := at_ hw (hi (hi (hi (hi (hi (lo full))))))
  have e4 : x0.extractLsb' 11 5 = b := at_ hw (hi (hi (hi (hi (lo full)))))
  have e5 : x0.extractLsb' 8 3 = p := at_ hw (hi (hi (hi (lo full))))
  have e6 : x0.extractLsb' 6 2 = e := at_ hw (hi (hi (lo full)))
  have e7 : x0.extractLsb' 5 1 = z := at_ hw (hi (lo full))
  simp [select, selectData, select20, e0, e1, e2, e3, e4, e5, e6, e7]

theorem vmulhu (d : BitVec 5) (a : BitVec 5) (b : BitVec 5) (p : BitVec 3) (e : BitVec 2) (z : BitVec 1) : Statement (.vmulhu d a b p e z) := by
  refine of_row (w := 32#6 ++ d ++ a ++ b ++ p ++ e ++ z ++ 4#5) rfl fun x0 hw => ?_
  have e0 : x0.extractLsb' 26 6 = 32#6 := at_ hw (hi (hi (hi (hi (hi (hi (hi rfl)))))))
  have e1 : x0.extractLsb' 0 5 = 4#5 := at_ hw (lo rfl)
  have e2 : x0.extractLsb' 21 5 = d := at_ hw (hi (hi (hi (hi (hi (hi (lo full)))))))
  have e3 : x0.extractLsb' 16 5 = a := at_ hw (hi (hi (hi (hi (hi (lo full))))))
  have e4 : x0.extractLsb' 11 5 = b := at_ hw (hi (hi (hi (hi (lo full)))))
  have e5 : x0.extractLsb' 8 3 = p := at_ hw (hi (hi (hi (lo full))))
  have e6 : x0.extractLsb' 6 2 = e := at_ hw (hi (hi (lo full)))
  have e7 : x0.extractLsb' 5 1 = z := at_ hw (hi (lo full))
  simp [select, selectData, select20, e0, e1, e2, e3, e4, e5, e6, e7]

theorem vmin (d : BitVec 5) (a : BitVec 5) (b : BitVec 5) (p : BitVec 3) (e : BitVec 2) (z : BitVec 1) : Statement (.vmin d a b p e z) := by
  refine of_row (w := 32#6 ++ d ++ a ++ b ++ p ++ e ++ z ++ 5#5) rfl fun x0 hw => ?_
  have e0 : x0.extractLsb' 26 6 = 32#6 := at_ hw (hi (hi (hi (hi (hi (hi (hi rfl)))))))
  have e1 : x0.extractLsb' 0 5 = 5#5 := at_ hw (lo rfl)
  have e2 : x0.extractLsb' 21 5 = d := at_ hw (hi (hi (hi (hi (hi (hi (lo full)))))))
  have e3 : x0.extractLsb' 16 5 = a := at_ hw (hi (hi (hi (hi (hi (lo full))))))
  have e4 : x0.extractLsb' 11 5 = b := at_ hw (hi (hi (hi (hi (lo full)))))
  have e5 : x0.extractLsb' 8 3 = p := at_ hw (hi (hi (hi (lo full))))
  have e6 : x0.extractLsb' 6 2 = e := at_ hw (hi (hi (lo full)))
  have e7 : x0.extractLsb' 5 1 = z := at_ hw (hi (lo full))
  simp [select, selectData, select20, e0, e1, e2, e3, e4, e5, e6, e7]

theorem vmax (d : BitVec 5) (a : BitVec 5) (b : BitVec 5) (p : BitVec 3) (e : BitVec 2) (z : BitVec 1) : Statement (.vmax d a b p e z) := by
  refine of_row (w := 32#6 ++ d ++ a ++ b ++ p ++ e ++ z ++ 6#5) rfl fun x0 hw => ?_
  have e0 : x0.extractLsb' 26 6 = 32#6 := at_ hw (hi (hi (hi (hi (hi (hi (hi rfl)))))))
  have e1 : x0.extractLsb' 0 5 = 6#5 := at_ hw (lo rfl)
  have e2 : x0.extractLsb' 21 5 = d := at_ hw (hi (hi (hi (hi (hi (hi (lo full)))))))
  have e3 : x0.extractLsb' 16 5 = a := at_ hw (hi (hi (hi (hi (hi (lo full))))))
  have e4 : x0.extractLsb' 11 5 = b := at_ hw (hi (hi (hi (hi (lo full)))))
  have e5 : x0.extractLsb' 8 3 = p := at_ hw (hi (hi (hi (lo full))))
  have e6 : x0.extractLsb' 6 2 = e := at_ hw (hi (hi (lo full)))
  have e7 : x0.extractLsb' 5 1 = z := at_ hw (hi (lo full))
  simp [select, selectData, select20, e0, e1, e2, e3, e4, e5, e6, e7]

theorem vminu (d : BitVec 5) (a : BitVec 5) (b : BitVec 5) (p : BitVec 3) (e : BitVec 2) (z : BitVec 1) : Statement (.vminu d a b p e z) := by
  refine of_row (w := 32#6 ++ d ++ a ++ b ++ p ++ e ++ z ++ 7#5) rfl fun x0 hw => ?_
  have e0 : x0.extractLsb' 26 6 = 32#6 := at_ hw (hi (hi (hi (hi (hi (hi (hi rfl)))))))
  have e1 : x0.extractLsb' 0 5 = 7#5 := at_ hw (lo rfl)
  have e2 : x0.extractLsb' 21 5 = d := at_ hw (hi (hi (hi (hi (hi (hi (lo full)))))))
  have e3 : x0.extractLsb' 16 5 = a := at_ hw (hi (hi (hi (hi (hi (lo full))))))
  have e4 : x0.extractLsb' 11 5 = b := at_ hw (hi (hi (hi (hi (lo full)))))
  have e5 : x0.extractLsb' 8 3 = p := at_ hw (hi (hi (hi (lo full))))
  have e6 : x0.extractLsb' 6 2 = e := at_ hw (hi (hi (lo full)))
  have e7 : x0.extractLsb' 5 1 = z := at_ hw (hi (lo full))
  simp [select, selectData, select20, e0, e1, e2, e3, e4, e5, e6, e7]

theorem vmaxu (d : BitVec 5) (a : BitVec 5) (b : BitVec 5) (p : BitVec 3) (e : BitVec 2) (z : BitVec 1) : Statement (.vmaxu d a b p e z) := by
  refine of_row (w := 32#6 ++ d ++ a ++ b ++ p ++ e ++ z ++ 8#5) rfl fun x0 hw => ?_
  have e0 : x0.extractLsb' 26 6 = 32#6 := at_ hw (hi (hi (hi (hi (hi (hi (hi rfl)))))))
  have e1 : x0.extractLsb' 0 5 = 8#5 := at_ hw (lo rfl)
  have e2 : x0.extractLsb' 21 5 = d := at_ hw (hi (hi (hi (hi (hi (hi (lo full)))))))
  have e3 : x0.extractLsb' 16 5 = a := at_ hw (hi (hi (hi (hi (hi (lo full))))))
  have e4 : x0.extractLsb' 11 5 = b := at_ hw (hi (hi (hi (hi (lo full)))))
  have e5 : x0.extractLsb' 8 3 = p := at_ hw (hi (hi (hi (lo full))))
  have e6 : x0.extractLsb' 6 2 = e := at_ hw (hi (hi (lo full)))
  have e7 : x0.extractLsb' 5 1 = z := at_ hw (hi (lo full))
  simp [select, selectData, select20, e0, e1, e2, e3, e4, e5, e6, e7]

theorem vand (d : BitVec 5) (a : BitVec 5) (b : BitVec 5) (p : BitVec 3) (e : BitVec 2) (z : BitVec 1) : Statement (.vand d a b p e z) := by
  refine of_row (w := 32#6 ++ d ++ a ++ b ++ p ++ e ++ z ++ 9#5) rfl fun x0 hw => ?_
  have e0 : x0.extractLsb' 26 6 = 32#6 := at_ hw (hi (hi (hi (hi (hi (hi (hi rfl)))))))
  have e1 : x0.extractLsb' 0 5 = 9#5 := at_ hw (lo rfl)
  have e2 : x0.extractLsb' 21 5 = d := at_ hw (hi (hi (hi (hi (hi (hi (lo full)))))))
  have e3 : x0.extractLsb' 16 5 = a := at_ hw (hi (hi (hi (hi (hi (lo full))))))
  have e4 : x0.extractLsb' 11 5 = b := at_ hw (hi (hi (hi (hi (lo full)))))
  have e5 : x0.extractLsb' 8 3 = p := at_ hw (hi (hi (hi (lo full))))
  have e6 : x0.extractLsb' 6 2 = e := at_ hw (hi (hi (lo full)))
  have e7 : x0.extractLsb' 5 1 = z := at_ hw (hi (lo full))
  simp [select, selectData, select20, e0, e1, e2, e3, e4, e5, e6, e7]

theorem vor (d : BitVec 5) (a : BitVec 5) (b : BitVec 5) (p : BitVec 3) (e : BitVec 2) (z : BitVec 1) : Statement (.vor d a b p e z) := by
  refine of_row (w := 32#6 ++ d ++ a ++ b ++ p ++ e ++ z ++ 10#5) rfl fun x0 hw => ?_
  have e0 : x0.extractLsb' 26 6 = 32#6 := at_ hw (hi (hi (hi (hi (hi (hi (hi rfl)))))))
  have e1 : x0.extractLsb' 0 5 = 10#5 := at_ hw (lo rfl)
  have e2 : x0.extractLsb' 21 5 = d := at_ hw (hi (hi (hi (hi (hi (hi (lo full)))))))
  have e3 : x0.extractLsb' 16 5 = a := at_ hw (hi (hi (hi (hi (hi (lo full))))))
  have e4 : x0.extractLsb' 11 5 = b := at_ hw (hi (hi (hi (hi (lo full)))))
  have e5 : x0.extractLsb' 8 3 = p := at_ hw (hi (hi (hi (lo full))))
  have e6 : x0.extractLsb' 6 2 = e := at_ hw (hi (hi (lo full)))
  have e7 : x0.extractLsb' 5 1 = z := at_ hw (hi (lo full))
  simp [select, selectData, select20, e0, e1, e2, e3, e4, e5, e6, e7]

theorem vxor (d : BitVec 5) (a : BitVec 5) (b : BitVec 5) (p : BitVec 3) (e : BitVec 2) (z : BitVec 1) : Statement (.vxor d a b p e z) := by
  refine of_row (w := 32#6 ++ d ++ a ++ b ++ p ++ e ++ z ++ 11#5) rfl fun x0 hw => ?_
  have e0 : x0.extractLsb' 26 6 = 32#6 := at_ hw (hi (hi (hi (hi (hi (hi (hi rfl)))))))
  have e1 : x0.extractLsb' 0 5 = 11#5 := at_ hw (lo rfl)
  have e2 : x0.extractLsb' 21 5 = d := at_ hw (hi (hi (hi (hi (hi (hi (lo full)))))))
  have e3 : x0.extractLsb' 16 5 = a := at_ hw (hi (hi (hi (hi (hi (lo full))))))
  have e4 : x0.extractLsb' 11 5 = b := at_ hw (hi (hi (hi (hi (lo full)))))
  have e5 : x0.extractLsb' 8 3 = p := at_ hw (hi (hi (hi (lo full))))
  have e6 : x0.extractLsb' 6 2 = e := at_ hw (hi (hi (lo full)))
  have e7 : x0.extractLsb' 5 1 = z := at_ hw (hi (lo full))
  simp [select, selectData, select20, e0, e1, e2, e3, e4, e5, e6, e7]

theorem vsll (d : BitVec 5) (a : BitVec 5) (b : BitVec 5) (p : BitVec 3) (e : BitVec 2) (z : BitVec 1) : Statement (.vsll d a b p e z) := by
  refine of_row (w := 32#6 ++ d ++ a ++ b ++ p ++ e ++ z ++ 12#5) rfl fun x0 hw => ?_
  have e0 : x0.extractLsb' 26 6 = 32#6 := at_ hw (hi (hi (hi (hi (hi (hi (hi rfl)))))))
  have e1 : x0.extractLsb' 0 5 = 12#5 := at_ hw (lo rfl)
  have e2 : x0.extractLsb' 21 5 = d := at_ hw (hi (hi (hi (hi (hi (hi (lo full)))))))
  have e3 : x0.extractLsb' 16 5 = a := at_ hw (hi (hi (hi (hi (hi (lo full))))))
  have e4 : x0.extractLsb' 11 5 = b := at_ hw (hi (hi (hi (hi (lo full)))))
  have e5 : x0.extractLsb' 8 3 = p := at_ hw (hi (hi (hi (lo full))))
  have e6 : x0.extractLsb' 6 2 = e := at_ hw (hi (hi (lo full)))
  have e7 : x0.extractLsb' 5 1 = z := at_ hw (hi (lo full))
  simp [select, selectData, select20, e0, e1, e2, e3, e4, e5, e6, e7]

theorem vsrl (d : BitVec 5) (a : BitVec 5) (b : BitVec 5) (p : BitVec 3) (e : BitVec 2) (z : BitVec 1) : Statement (.vsrl d a b p e z) := by
  refine of_row (w := 32#6 ++ d ++ a ++ b ++ p ++ e ++ z ++ 13#5) rfl fun x0 hw => ?_
  have e0 : x0.extractLsb' 26 6 = 32#6 := at_ hw (hi (hi (hi (hi (hi (hi (hi rfl)))))))
  have e1 : x0.extractLsb' 0 5 = 13#5 := at_ hw (lo rfl)
  have e2 : x0.extractLsb' 21 5 = d := at_ hw (hi (hi (hi (hi (hi (hi (lo full)))))))
  have e3 : x0.extractLsb' 16 5 = a := at_ hw (hi (hi (hi (hi (hi (lo full))))))
  have e4 : x0.extractLsb' 11 5 = b := at_ hw (hi (hi (hi (hi (lo full)))))
  have e5 : x0.extractLsb' 8 3 = p := at_ hw (hi (hi (hi (lo full))))
  have e6 : x0.extractLsb' 6 2 = e := at_ hw (hi (hi (lo full)))
  have e7 : x0.extractLsb' 5 1 = z := at_ hw (hi (lo full))
  simp [select, selectData, select20, e0, e1, e2, e3, e4, e5, e6, e7]

theorem vsra (d : BitVec 5) (a : BitVec 5) (b : BitVec 5) (p : BitVec 3) (e : BitVec 2) (z : BitVec 1) : Statement (.vsra d a b p e z) := by
  refine of_row (w := 32#6 ++ d ++ a ++ b ++ p ++ e ++ z ++ 14#5) rfl fun x0 hw => ?_
  have e0 : x0.extractLsb' 26 6 = 32#6 := at_ hw (hi (hi (hi (hi (hi (hi (hi rfl)))))))
  have e1 : x0.extractLsb' 0 5 = 14#5 := at_ hw (lo rfl)
  have e2 : x0.extractLsb' 21 5 = d := at_ hw (hi (hi (hi (hi (hi (hi (lo full)))))))
  have e3 : x0.extractLsb' 16 5 = a := at_ hw (hi (hi (hi (hi (hi (lo full))))))
  have e4 : x0.extractLsb' 11 5 = b := at_ hw (hi (hi (hi (hi (lo full)))))
  have e5 : x0.extractLsb' 8 3 = p := at_ hw (hi (hi (hi (lo full))))
  have e6 : x0.extractLsb' 6 2 = e := at_ hw (hi (hi (lo full)))
  have e7 : x0.extractLsb' 5 1 = z := at_ hw (hi (lo full))
  simp [select, selectData, select20, e0, e1, e2, e3, e4, e5, e6, e7]

theorem vadds (d : BitVec 5) (a : BitVec 5) (b : BitVec 5) (p : BitVec 3) (e : BitVec 2) (z : BitVec 1) : Statement (.vadds d a b p e z) := by
  refine of_row (w := 32#6 ++ d ++ a ++ b ++ p ++ e ++ z ++ 15#5) rfl fun x0 hw => ?_
  have e0 : x0.extractLsb' 26 6 = 32#6 := at_ hw (hi (hi (hi (hi (hi (hi (hi rfl)))))))
  have e1 : x0.extractLsb' 0 5 = 15#5 := at_ hw (lo rfl)
  have e2 : x0.extractLsb' 21 5 = d := at_ hw (hi (hi (hi (hi (hi (hi (lo full)))))))
  have e3 : x0.extractLsb' 16 5 = a := at_ hw (hi (hi (hi (hi (hi (lo full))))))
  have e4 : x0.extractLsb' 11 5 = b := at_ hw (hi (hi (hi (hi (lo full)))))
  have e5 : x0.extractLsb' 8 3 = p := at_ hw (hi (hi (hi (lo full))))
  have e6 : x0.extractLsb' 6 2 = e := at_ hw (hi (hi (lo full)))
  have e7 : x0.extractLsb' 5 1 = z := at_ hw (hi (lo full))
  simp [select, selectData, select20, e0, e1, e2, e3, e4, e5, e6, e7]

theorem vaddsu (d : BitVec 5) (a : BitVec 5) (b : BitVec 5) (p : BitVec 3) (e : BitVec 2) (z : BitVec 1) : Statement (.vaddsu d a b p e z) := by
  refine of_row (w := 32#6 ++ d ++ a ++ b ++ p ++ e ++ z ++ 16#5) rfl fun x0 hw => ?_
  have e0 : x0.extractLsb' 26 6 = 32#6 := at_ hw (hi (hi (hi (hi (hi (hi (hi rfl)))))))
  have e1 : x0.extractLsb' 0 5 = 16#5 := at_ hw (lo rfl)
  have e2 : x0.extractLsb' 21 5 = d := at_ hw (hi (hi (hi (hi (hi (hi (lo full)))))))
  have e3 : x0.extractLsb' 16 5 = a := at_ hw (hi (hi (hi (hi (hi (lo full))))))
  have e4 : x0.extractLsb' 11 5 = b := at_ hw (hi (hi (hi (hi (lo full)))))
  have e5 : x0.extractLsb' 8 3 = p := at_ hw (hi (hi (hi (lo full))))
  have e6 : x0.extractLsb' 6 2 = e := at_ hw (hi (hi (lo full)))
  have e7 : x0.extractLsb' 5 1 = z := at_ hw (hi (lo full))
  simp [select, selectData, select20, e0, e1, e2, e3, e4, e5, e6, e7]

theorem vsubs (d : BitVec 5) (a : BitVec 5) (b : BitVec 5) (p : BitVec 3) (e : BitVec 2) (z : BitVec 1) : Statement (.vsubs d a b p e z) := by
  refine of_row (w := 32#6 ++ d ++ a ++ b ++ p ++ e ++ z ++ 17#5) rfl fun x0 hw => ?_
  have e0 : x0.extractLsb' 26 6 = 32#6 := at_ hw (hi (hi (hi (hi (hi (hi (hi rfl)))))))
  have e1 : x0.extractLsb' 0 5 = 17#5 := at_ hw (lo rfl)
  have e2 : x0.extractLsb' 21 5 = d := at_ hw (hi (hi (hi (hi (hi (hi (lo full)))))))
  have e3 : x0.extractLsb' 16 5 = a := at_ hw (hi (hi (hi (hi (hi (lo full))))))
  have e4 : x0.extractLsb' 11 5 = b := at_ hw (hi (hi (hi (hi (lo full)))))
  have e5 : x0.extractLsb' 8 3 = p := at_ hw (hi (hi (hi (lo full))))
  have e6 : x0.extractLsb' 6 2 = e := at_ hw (hi (hi (lo full)))
  have e7 : x0.extractLsb' 5 1 = z := at_ hw (hi (lo full))
  simp [select, selectData, select20, e0, e1, e2, e3, e4, e5, e6, e7]

theorem vsubsu (d : BitVec 5) (a : BitVec 5) (b : BitVec 5) (p : BitVec 3) (e : BitVec 2) (z : BitVec 1) : Statement (.vsubsu d a b p e z) := by
  refine of_row (w := 32#6 ++ d ++ a ++ b ++ p ++ e ++ z ++ 18#5) rfl fun x0 hw => ?_
  have e0 : x0.extractLsb' 26 6 = 32#6 := at_ hw (hi (hi (hi (hi (hi (hi (hi rfl)))))))
  have e1 : x0.extractLsb' 0 5 = 18#5 := at_ hw (lo rfl)
  have e2 : x0.extractLsb' 21 5 = d := at_ hw (hi (hi (hi (hi (hi (hi (lo full)))))))
  have e3 : x0.extractLsb' 16 5 = a := at_ hw (hi (hi (hi (hi (hi (lo full))))))
  have e4 : x0.extractLsb' 11 5 = b := at_ hw (hi (hi (hi (hi (lo full)))))
  have e5 : x0.extractLsb' 8 3 = p := at_ hw (hi (hi (hi (lo full))))
  have e6 : x0.extractLsb' 6 2 = e := at_ hw (hi (hi (lo full)))
  have e7 : x0.extractLsb' 5 1 = z := at_ hw (hi (lo full))
  simp [select, selectData, select20, e0, e1, e2, e3, e4, e5, e6, e7]

theorem vabs (d : BitVec 5) (a : BitVec 5) (p : BitVec 3) (e : BitVec 2) (z : BitVec 1) : Statement (.vabs d a p e z) := by
  refine of_row (w := 32#6 ++ d ++ a ++ 0#5 ++ p ++ e ++ z ++ 19#5) rfl fun x0 hw => ?_
  have e0 : x0.extractLsb' 26 6 = 32#6 := at_ hw (hi (hi (hi (hi (hi (hi (hi rfl)))))))
  have e1 : x0.extractLsb' 0 5 = 19#5 := at_ hw (lo rfl)
  have e2 : x0.extractLsb' 21 5 = d := at_ hw (hi (hi (hi (hi (hi (hi (lo full)))))))
  have e3 : x0.extractLsb' 16 5 = a := at_ hw (hi (hi (hi (hi (hi (lo full))))))
  have e4 : x0.extractLsb' 8 3 = p := at_ hw (hi (hi (hi (lo full))))
  have e5 : x0.extractLsb' 6 2 = e := at_ hw (hi (hi (lo full)))
  have e6 : x0.extractLsb' 5 1 = z := at_ hw (hi (lo full))
  simp [select, selectData, select20, e0, e1, e2, e3, e4, e5, e6]

theorem vmac (d : BitVec 5) (a : BitVec 5) (b : BitVec 5) (p : BitVec 3) (e : BitVec 2) (z : BitVec 1) : Statement (.vmac d a b p e z) := by
  refine of_row (w := 32#6 ++ d ++ a ++ b ++ p ++ e ++ z ++ 20#5) rfl fun x0 hw => ?_
  have e0 : x0.extractLsb' 26 6 = 32#6 := at_ hw (hi (hi (hi (hi (hi (hi (hi rfl)))))))
  have e1 : x0.extractLsb' 0 5 = 20#5 := at_ hw (lo rfl)
  have e2 : x0.extractLsb' 21 5 = d := at_ hw (hi (hi (hi (hi (hi (hi (lo full)))))))
  have e3 : x0.extractLsb' 16 5 = a := at_ hw (hi (hi (hi (hi (hi (lo full))))))
  have e4 : x0.extractLsb' 11 5 = b := at_ hw (hi (hi (hi (hi (lo full)))))
  have e5 : x0.extractLsb' 8 3 = p := at_ hw (hi (hi (hi (lo full))))
  have e6 : x0.extractLsb' 6 2 = e := at_ hw (hi (hi (lo full)))
  have e7 : x0.extractLsb' 5 1 = z := at_ hw (hi (lo full))
  simp [select, selectData, select20, e0, e1, e2, e3, e4, e5, e6, e7]

theorem vdot4 (d : BitVec 5) (a : BitVec 5) (b : BitVec 5) (p : BitVec 3) (z : BitVec 1) : Statement (.vdot4 d a b p z) := by
  refine of_row (w := 32#6 ++ d ++ a ++ b ++ p ++ 2#2 ++ z ++ 21#5) rfl fun x0 hw => ?_
  have e0 : x0.extractLsb' 26 6 = 32#6 := at_ hw (hi (hi (hi (hi (hi (hi (hi rfl)))))))
  have e1 : x0.extractLsb' 0 5 = 21#5 := at_ hw (lo rfl)
  have e2 : x0.extractLsb' 21 5 = d := at_ hw (hi (hi (hi (hi (hi (hi (lo full)))))))
  have e3 : x0.extractLsb' 16 5 = a := at_ hw (hi (hi (hi (hi (hi (lo full))))))
  have e4 : x0.extractLsb' 11 5 = b := at_ hw (hi (hi (hi (hi (lo full)))))
  have e5 : x0.extractLsb' 8 3 = p := at_ hw (hi (hi (hi (lo full))))
  have e6 : x0.extractLsb' 5 1 = z := at_ hw (hi (lo full))
  simp [select, selectData, select20, e0, e1, e2, e3, e4, e5, e6]

theorem vredadd (d : BitVec 5) (a : BitVec 5) (p : BitVec 3) (e : BitVec 2) : Statement (.vredadd d a p e) := by
  refine of_row (w := 32#6 ++ d ++ a ++ 0#5 ++ p ++ e ++ 22#6) rfl fun x0 hw => ?_
  have e0 : x0.extractLsb' 26 6 = 32#6 := at_ hw (hi (hi (hi (hi (hi (hi rfl))))))
  have e1 : x0.extractLsb' 0 5 = 22#5 := at_ hw (lo rfl)
  have e2 : x0.extractLsb' 21 5 = d := at_ hw (hi (hi (hi (hi (hi (lo full))))))
  have e3 : x0.extractLsb' 16 5 = a := at_ hw (hi (hi (hi (hi (lo full)))))
  have e4 : x0.extractLsb' 8 3 = p := at_ hw (hi (hi (lo full)))
  have e5 : x0.extractLsb' 6 2 = e := at_ hw (hi (lo full))
  simp [select, selectData, select20, e0, e1, e2, e3, e4, e5]

theorem vredmin (d : BitVec 5) (a : BitVec 5) (p : BitVec 3) (e : BitVec 2) : Statement (.vredmin d a p e) := by
  refine of_row (w := 32#6 ++ d ++ a ++ 0#5 ++ p ++ e ++ 23#6) rfl fun x0 hw => ?_
  have e0 : x0.extractLsb' 26 6 = 32#6 := at_ hw (hi (hi (hi (hi (hi (hi rfl))))))
  have e1 : x0.extractLsb' 0 5 = 23#5 := at_ hw (lo rfl)
  have e2 : x0.extractLsb' 21 5 = d := at_ hw (hi (hi (hi (hi (hi (lo full))))))
  have e3 : x0.extractLsb' 16 5 = a := at_ hw (hi (hi (hi (hi (lo full)))))
  have e4 : x0.extractLsb' 8 3 = p := at_ hw (hi (hi (lo full)))
  have e5 : x0.extractLsb' 6 2 = e := at_ hw (hi (lo full))
  simp [select, selectData, select20, e0, e1, e2, e3, e4, e5]

theorem vredmax (d : BitVec 5) (a : BitVec 5) (p : BitVec 3) (e : BitVec 2) : Statement (.vredmax d a p e) := by
  refine of_row (w := 32#6 ++ d ++ a ++ 0#5 ++ p ++ e ++ 24#6) rfl fun x0 hw => ?_
  have e0 : x0.extractLsb' 26 6 = 32#6 := at_ hw (hi (hi (hi (hi (hi (hi rfl))))))
  have e1 : x0.extractLsb' 0 5 = 24#5 := at_ hw (lo rfl)
  have e2 : x0.extractLsb' 21 5 = d := at_ hw (hi (hi (hi (hi (hi (lo full))))))
  have e3 : x0.extractLsb' 16 5 = a := at_ hw (hi (hi (hi (hi (lo full)))))
  have e4 : x0.extractLsb' 8 3 = p := at_ hw (hi (hi (lo full)))
  have e5 : x0.extractLsb' 6 2 = e := at_ hw (hi (lo full))
  simp [select, selectData, select20, e0, e1, e2, e3, e4, e5]

theorem vredminu (d : BitVec 5) (a : BitVec 5) (p : BitVec 3) (e : BitVec 2) : Statement (.vredminu d a p e) := by
  refine of_row (w := 32#6 ++ d ++ a ++ 0#5 ++ p ++ e ++ 25#6) rfl fun x0 hw => ?_
  have e0 : x0.extractLsb' 26 6 = 32#6 := at_ hw (hi (hi (hi (hi (hi (hi rfl))))))
  have e1 : x0.extractLsb' 0 5 = 25#5 := at_ hw (lo rfl)
  have e2 : x0.extractLsb' 21 5 = d := at_ hw (hi (hi (hi (hi (hi (lo full))))))
  have e3 : x0.extractLsb' 16 5 = a := at_ hw (hi (hi (hi (hi (lo full)))))
  have e4 : x0.extractLsb' 8 3 = p := at_ hw (hi (hi (lo full)))
  have e5 : x0.extractLsb' 6 2 = e := at_ hw (hi (lo full))
  simp [select, selectData, select20, e0, e1, e2, e3, e4, e5]

theorem vredmaxu (d : BitVec 5) (a : BitVec 5) (p : BitVec 3) (e : BitVec 2) : Statement (.vredmaxu d a p e) := by
  refine of_row (w := 32#6 ++ d ++ a ++ 0#5 ++ p ++ e ++ 26#6) rfl fun x0 hw => ?_
  have e0 : x0.extractLsb' 26 6 = 32#6 := at_ hw (hi (hi (hi (hi (hi (hi rfl))))))
  have e1 : x0.extractLsb' 0 5 = 26#5 := at_ hw (lo rfl)
  have e2 : x0.extractLsb' 21 5 = d := at_ hw (hi (hi (hi (hi (hi (lo full))))))
  have e3 : x0.extractLsb' 16 5 = a := at_ hw (hi (hi (hi (hi (lo full)))))
  have e4 : x0.extractLsb' 8 3 = p := at_ hw (hi (hi (lo full)))
  have e5 : x0.extractLsb' 6 2 = e := at_ hw (hi (lo full))
  simp [select, selectData, select20, e0, e1, e2, e3, e4, e5]

theorem vbcast (d : BitVec 5) (a : BitVec 5) (e : BitVec 2) : Statement (.vbcast d a e) := by
  refine of_row (w := 32#6 ++ d ++ a ++ 0#8 ++ e ++ 27#6) rfl fun x0 hw => ?_
  have e0 : x0.extractLsb' 26 6 = 32#6 := at_ hw (hi (hi (hi (hi (hi rfl)))))
  have e1 : x0.extractLsb' 0 5 = 27#5 := at_ hw (lo rfl)
  have e2 : x0.extractLsb' 21 5 = d := at_ hw (hi (hi (hi (hi (lo full)))))
  have e3 : x0.extractLsb' 16 5 = a := at_ hw (hi (hi (hi (lo full))))
  have e4 : x0.extractLsb' 6 2 = e := at_ hw (hi (lo full))
  simp [select, selectData, select20, e0, e1, e2, e3, e4]

theorem vfadd (d : BitVec 5) (a : BitVec 5) (b : BitVec 5) (p : BitVec 3) (e : BitVec 1) (z : BitVec 1) (f : BitVec 1) : Statement (.vfadd d a b p e z f) := by
  refine of_row (w := 33#6 ++ d ++ a ++ b ++ p ++ 0#1 ++ e ++ z ++ f ++ 0#4) rfl fun x0 hw => ?_
  have e0 : x0.extractLsb' 26 6 = 33#6 := at_ hw (hi (hi (hi (hi (hi (hi (hi (hi (hi rfl)))))))))
  have e1 : x0.extractLsb' 0 4 = 0#4 := at_ hw (lo rfl)
  have e2 : x0.extractLsb' 21 5 = d := at_ hw (hi (hi (hi (hi (hi (hi (hi (hi (lo full)))))))))
  have e3 : x0.extractLsb' 16 5 = a := at_ hw (hi (hi (hi (hi (hi (hi (hi (lo full))))))))
  have e4 : x0.extractLsb' 11 5 = b := at_ hw (hi (hi (hi (hi (hi (hi (lo full)))))))
  have e5 : x0.extractLsb' 8 3 = p := at_ hw (hi (hi (hi (hi (hi (lo full))))))
  have e6 : x0.extractLsb' 6 1 = e := at_ hw (hi (hi (hi (lo full))))
  have e7 : x0.extractLsb' 5 1 = z := at_ hw (hi (hi (lo full)))
  have e8 : x0.extractLsb' 4 1 = f := at_ hw (hi (lo full))
  simp [select, selectData, select21, e0, e1, e2, e3, e4, e5, e6, e7, e8]

theorem vfsub (d : BitVec 5) (a : BitVec 5) (b : BitVec 5) (p : BitVec 3) (e : BitVec 1) (z : BitVec 1) (f : BitVec 1) : Statement (.vfsub d a b p e z f) := by
  refine of_row (w := 33#6 ++ d ++ a ++ b ++ p ++ 0#1 ++ e ++ z ++ f ++ 1#4) rfl fun x0 hw => ?_
  have e0 : x0.extractLsb' 26 6 = 33#6 := at_ hw (hi (hi (hi (hi (hi (hi (hi (hi (hi rfl)))))))))
  have e1 : x0.extractLsb' 0 4 = 1#4 := at_ hw (lo rfl)
  have e2 : x0.extractLsb' 21 5 = d := at_ hw (hi (hi (hi (hi (hi (hi (hi (hi (lo full)))))))))
  have e3 : x0.extractLsb' 16 5 = a := at_ hw (hi (hi (hi (hi (hi (hi (hi (lo full))))))))
  have e4 : x0.extractLsb' 11 5 = b := at_ hw (hi (hi (hi (hi (hi (hi (lo full)))))))
  have e5 : x0.extractLsb' 8 3 = p := at_ hw (hi (hi (hi (hi (hi (lo full))))))
  have e6 : x0.extractLsb' 6 1 = e := at_ hw (hi (hi (hi (lo full))))
  have e7 : x0.extractLsb' 5 1 = z := at_ hw (hi (hi (lo full)))
  have e8 : x0.extractLsb' 4 1 = f := at_ hw (hi (lo full))
  simp [select, selectData, select21, e0, e1, e2, e3, e4, e5, e6, e7, e8]

theorem vfmul (d : BitVec 5) (a : BitVec 5) (b : BitVec 5) (p : BitVec 3) (e : BitVec 1) (z : BitVec 1) (f : BitVec 1) : Statement (.vfmul d a b p e z f) := by
  refine of_row (w := 33#6 ++ d ++ a ++ b ++ p ++ 0#1 ++ e ++ z ++ f ++ 2#4) rfl fun x0 hw => ?_
  have e0 : x0.extractLsb' 26 6 = 33#6 := at_ hw (hi (hi (hi (hi (hi (hi (hi (hi (hi rfl)))))))))
  have e1 : x0.extractLsb' 0 4 = 2#4 := at_ hw (lo rfl)
  have e2 : x0.extractLsb' 21 5 = d := at_ hw (hi (hi (hi (hi (hi (hi (hi (hi (lo full)))))))))
  have e3 : x0.extractLsb' 16 5 = a := at_ hw (hi (hi (hi (hi (hi (hi (hi (lo full))))))))
  have e4 : x0.extractLsb' 11 5 = b := at_ hw (hi (hi (hi (hi (hi (hi (lo full)))))))
  have e5 : x0.extractLsb' 8 3 = p := at_ hw (hi (hi (hi (hi (hi (lo full))))))
  have e6 : x0.extractLsb' 6 1 = e := at_ hw (hi (hi (hi (lo full))))
  have e7 : x0.extractLsb' 5 1 = z := at_ hw (hi (hi (lo full)))
  have e8 : x0.extractLsb' 4 1 = f := at_ hw (hi (lo full))
  simp [select, selectData, select21, e0, e1, e2, e3, e4, e5, e6, e7, e8]

theorem vfma (d : BitVec 5) (a : BitVec 5) (b : BitVec 5) (p : BitVec 3) (e : BitVec 1) (z : BitVec 1) (f : BitVec 1) : Statement (.vfma d a b p e z f) := by
  refine of_row (w := 33#6 ++ d ++ a ++ b ++ p ++ 0#1 ++ e ++ z ++ f ++ 3#4) rfl fun x0 hw => ?_
  have e0 : x0.extractLsb' 26 6 = 33#6 := at_ hw (hi (hi (hi (hi (hi (hi (hi (hi (hi rfl)))))))))
  have e1 : x0.extractLsb' 0 4 = 3#4 := at_ hw (lo rfl)
  have e2 : x0.extractLsb' 21 5 = d := at_ hw (hi (hi (hi (hi (hi (hi (hi (hi (lo full)))))))))
  have e3 : x0.extractLsb' 16 5 = a := at_ hw (hi (hi (hi (hi (hi (hi (hi (lo full))))))))
  have e4 : x0.extractLsb' 11 5 = b := at_ hw (hi (hi (hi (hi (hi (hi (lo full)))))))
  have e5 : x0.extractLsb' 8 3 = p := at_ hw (hi (hi (hi (hi (hi (lo full))))))
  have e6 : x0.extractLsb' 6 1 = e := at_ hw (hi (hi (hi (lo full))))
  have e7 : x0.extractLsb' 5 1 = z := at_ hw (hi (hi (lo full)))
  have e8 : x0.extractLsb' 4 1 = f := at_ hw (hi (lo full))
  simp [select, selectData, select21, e0, e1, e2, e3, e4, e5, e6, e7, e8]

theorem vfms (d : BitVec 5) (a : BitVec 5) (b : BitVec 5) (p : BitVec 3) (e : BitVec 1) (z : BitVec 1) (f : BitVec 1) : Statement (.vfms d a b p e z f) := by
  refine of_row (w := 33#6 ++ d ++ a ++ b ++ p ++ 0#1 ++ e ++ z ++ f ++ 4#4) rfl fun x0 hw => ?_
  have e0 : x0.extractLsb' 26 6 = 33#6 := at_ hw (hi (hi (hi (hi (hi (hi (hi (hi (hi rfl)))))))))
  have e1 : x0.extractLsb' 0 4 = 4#4 := at_ hw (lo rfl)
  have e2 : x0.extractLsb' 21 5 = d := at_ hw (hi (hi (hi (hi (hi (hi (hi (hi (lo full)))))))))
  have e3 : x0.extractLsb' 16 5 = a := at_ hw (hi (hi (hi (hi (hi (hi (hi (lo full))))))))
  have e4 : x0.extractLsb' 11 5 = b := at_ hw (hi (hi (hi (hi (hi (hi (lo full)))))))
  have e5 : x0.extractLsb' 8 3 = p := at_ hw (hi (hi (hi (hi (hi (lo full))))))
  have e6 : x0.extractLsb' 6 1 = e := at_ hw (hi (hi (hi (lo full))))
  have e7 : x0.extractLsb' 5 1 = z := at_ hw (hi (hi (lo full)))
  have e8 : x0.extractLsb' 4 1 = f := at_ hw (hi (lo full))
  simp [select, selectData, select21, e0, e1, e2, e3, e4, e5, e6, e7, e8]

theorem vfmin (d : BitVec 5) (a : BitVec 5) (b : BitVec 5) (p : BitVec 3) (e : BitVec 1) (z : BitVec 1) (f : BitVec 1) : Statement (.vfmin d a b p e z f) := by
  refine of_row (w := 33#6 ++ d ++ a ++ b ++ p ++ 0#1 ++ e ++ z ++ f ++ 5#4) rfl fun x0 hw => ?_
  have e0 : x0.extractLsb' 26 6 = 33#6 := at_ hw (hi (hi (hi (hi (hi (hi (hi (hi (hi rfl)))))))))
  have e1 : x0.extractLsb' 0 4 = 5#4 := at_ hw (lo rfl)
  have e2 : x0.extractLsb' 21 5 = d := at_ hw (hi (hi (hi (hi (hi (hi (hi (hi (lo full)))))))))
  have e3 : x0.extractLsb' 16 5 = a := at_ hw (hi (hi (hi (hi (hi (hi (hi (lo full))))))))
  have e4 : x0.extractLsb' 11 5 = b := at_ hw (hi (hi (hi (hi (hi (hi (lo full)))))))
  have e5 : x0.extractLsb' 8 3 = p := at_ hw (hi (hi (hi (hi (hi (lo full))))))
  have e6 : x0.extractLsb' 6 1 = e := at_ hw (hi (hi (hi (lo full))))
  have e7 : x0.extractLsb' 5 1 = z := at_ hw (hi (hi (lo full)))
  have e8 : x0.extractLsb' 4 1 = f := at_ hw (hi (lo full))
  simp [select, selectData, select21, e0, e1, e2, e3, e4, e5, e6, e7, e8]

theorem vfmax (d : BitVec 5) (a : BitVec 5) (b : BitVec 5) (p : BitVec 3) (e : BitVec 1) (z : BitVec 1) (f : BitVec 1) : Statement (.vfmax d a b p e z f) := by
  refine of_row (w := 33#6 ++ d ++ a ++ b ++ p ++ 0#1 ++ e ++ z ++ f ++ 6#4) rfl fun x0 hw => ?_
  have e0 : x0.extractLsb' 26 6 = 33#6 := at_ hw (hi (hi (hi (hi (hi (hi (hi (hi (hi rfl)))))))))
  have e1 : x0.extractLsb' 0 4 = 6#4 := at_ hw (lo rfl)
  have e2 : x0.extractLsb' 21 5 = d := at_ hw (hi (hi (hi (hi (hi (hi (hi (hi (lo full)))))))))
  have e3 : x0.extractLsb' 16 5 = a := at_ hw (hi (hi (hi (hi (hi (hi (hi (lo full))))))))
  have e4 : x0.extractLsb' 11 5 = b := at_ hw (hi (hi (hi (hi (hi (hi (lo full)))))))
  have e5 : x0.extractLsb' 8 3 = p := at_ hw (hi (hi (hi (hi (hi (lo full))))))
  have e6 : x0.extractLsb' 6 1 = e := at_ hw (hi (hi (hi (lo full))))
  have e7 : x0.extractLsb' 5 1 = z := at_ hw (hi (hi (lo full)))
  have e8 : x0.extractLsb' 4 1 = f := at_ hw (hi (lo full))
  simp [select, selectData, select21, e0, e1, e2, e3, e4, e5, e6, e7, e8]

theorem vfabs (d : BitVec 5) (a : BitVec 5) (p : BitVec 3) (e : BitVec 1) (z : BitVec 1) (f : BitVec 1) : Statement (.vfabs d a p e z f) := by
  refine of_row (w := 33#6 ++ d ++ a ++ 0#5 ++ p ++ 0#1 ++ e ++ z ++ f ++ 7#4) rfl fun x0 hw => ?_
  have e0 : x0.extractLsb' 26 6 = 33#6 := at_ hw (hi (hi (hi (hi (hi (hi (hi (hi (hi rfl)))))))))
  have e1 : x0.extractLsb' 0 4 = 7#4 := at_ hw (lo rfl)
  have e2 : x0.extractLsb' 21 5 = d := at_ hw (hi (hi (hi (hi (hi (hi (hi (hi (lo full)))))))))
  have e3 : x0.extractLsb' 16 5 = a := at_ hw (hi (hi (hi (hi (hi (hi (hi (lo full))))))))
  have e4 : x0.extractLsb' 8 3 = p := at_ hw (hi (hi (hi (hi (hi (lo full))))))
  have e5 : x0.extractLsb' 6 1 = e := at_ hw (hi (hi (hi (lo full))))
  have e6 : x0.extractLsb' 5 1 = z := at_ hw (hi (hi (lo full)))
  have e7 : x0.extractLsb' 4 1 = f := at_ hw (hi (lo full))
  simp [select, selectData, select21, e0, e1, e2, e3, e4, e5, e6, e7]

theorem vfneg (d : BitVec 5) (a : BitVec 5) (p : BitVec 3) (e : BitVec 1) (z : BitVec 1) (f : BitVec 1) : Statement (.vfneg d a p e z f) := by
  refine of_row (w := 33#6 ++ d ++ a ++ 0#5 ++ p ++ 0#1 ++ e ++ z ++ f ++ 8#4) rfl fun x0 hw => ?_
  have e0 : x0.extractLsb' 26 6 = 33#6 := at_ hw (hi (hi (hi (hi (hi (hi (hi (hi (hi rfl)))))))))
  have e1 : x0.extractLsb' 0 4 = 8#4 := at_ hw (lo rfl)
  have e2 : x0.extractLsb' 21 5 = d := at_ hw (hi (hi (hi (hi (hi (hi (hi (hi (lo full)))))))))
  have e3 : x0.extractLsb' 16 5 = a := at_ hw (hi (hi (hi (hi (hi (hi (hi (lo full))))))))
  have e4 : x0.extractLsb' 8 3 = p := at_ hw (hi (hi (hi (hi (hi (lo full))))))
  have e5 : x0.extractLsb' 6 1 = e := at_ hw (hi (hi (hi (lo full))))
  have e6 : x0.extractLsb' 5 1 = z := at_ hw (hi (hi (lo full)))
  have e7 : x0.extractLsb' 4 1 = f := at_ hw (hi (lo full))
  simp [select, selectData, select21, e0, e1, e2, e3, e4, e5, e6, e7]

theorem vfredadd (d : BitVec 5) (a : BitVec 5) (p : BitVec 3) (e : BitVec 1) (f : BitVec 1) : Statement (.vfredadd d a p e f) := by
  refine of_row (w := 33#6 ++ d ++ a ++ 0#5 ++ p ++ 0#1 ++ e ++ 0#1 ++ f ++ 9#4) rfl fun x0 hw => ?_
  have e0 : x0.extractLsb' 26 6 = 33#6 := at_ hw (hi (hi (hi (hi (hi (hi (hi (hi (hi rfl)))))))))
  have e1 : x0.extractLsb' 0 4 = 9#4 := at_ hw (lo rfl)
  have e2 : x0.extractLsb' 21 5 = d := at_ hw (hi (hi (hi (hi (hi (hi (hi (hi (lo full)))))))))
  have e3 : x0.extractLsb' 16 5 = a := at_ hw (hi (hi (hi (hi (hi (hi (hi (lo full))))))))
  have e4 : x0.extractLsb' 8 3 = p := at_ hw (hi (hi (hi (hi (hi (lo full))))))
  have e5 : x0.extractLsb' 6 1 = e := at_ hw (hi (hi (hi (lo full))))
  have e6 : x0.extractLsb' 4 1 = f := at_ hw (hi (lo full))
  simp [select, selectData, select21, e0, e1, e2, e3, e4, e5, e6]

theorem vfredmax (d : BitVec 5) (a : BitVec 5) (p : BitVec 3) (e : BitVec 1) (f : BitVec 1) : Statement (.vfredmax d a p e f) := by
  refine of_row (w := 33#6 ++ d ++ a ++ 0#5 ++ p ++ 0#1 ++ e ++ 0#1 ++ f ++ 10#4) rfl fun x0 hw => ?_
  have e0 : x0.extractLsb' 26 6 = 33#6 := at_ hw (hi (hi (hi (hi (hi (hi (hi (hi (hi rfl)))))))))
  have e1 : x0.extractLsb' 0 4 = 10#4 := at_ hw (lo rfl)
  have e2 : x0.extractLsb' 21 5 = d := at_ hw (hi (hi (hi (hi (hi (hi (hi (hi (lo full)))))))))
  have e3 : x0.extractLsb' 16 5 = a := at_ hw (hi (hi (hi (hi (hi (hi (hi (lo full))))))))
  have e4 : x0.extractLsb' 8 3 = p := at_ hw (hi (hi (hi (hi (hi (lo full))))))
  have e5 : x0.extractLsb' 6 1 = e := at_ hw (hi (hi (hi (lo full))))
  have e6 : x0.extractLsb' 4 1 = f := at_ hw (hi (lo full))
  simp [select, selectData, select21, e0, e1, e2, e3, e4, e5, e6]

theorem vfredmin (d : BitVec 5) (a : BitVec 5) (p : BitVec 3) (e : BitVec 1) (f : BitVec 1) : Statement (.vfredmin d a p e f) := by
  refine of_row (w := 33#6 ++ d ++ a ++ 0#5 ++ p ++ 0#1 ++ e ++ 0#1 ++ f ++ 11#4) rfl fun x0 hw => ?_
  have e0 : x0.extractLsb' 26 6 = 33#6 := at_ hw (hi (hi (hi (hi (hi (hi (hi (hi (hi rfl)))))))))
  have e1 : x0.extractLsb' 0 4 = 11#4 := at_ hw (lo rfl)
  have e2 : x0.extractLsb' 21 5 = d := at_ hw (hi (hi (hi (hi (hi (hi (hi (hi (lo full)))))))))
  have e3 : x0.extractLsb' 16 5 = a := at_ hw (hi (hi (hi (hi (hi (hi (hi (lo full))))))))
  have e4 : x0.extractLsb' 8 3 = p := at_ hw (hi (hi (hi (hi (hi (lo full))))))
  have e5 : x0.extractLsb' 6 1 = e := at_ hw (hi (hi (hi (lo full))))
  have e6 : x0.extractLsb' 4 1 = f := at_ hw (hi (lo full))
  simp [select, selectData, select21, e0, e1, e2, e3, e4, e5, e6]

theorem vfdot2 (d : BitVec 5) (a : BitVec 5) (b : BitVec 5) (p : BitVec 3) (z : BitVec 1) (f : BitVec 1) : Statement (.vfdot2 d a b p z f) := by
  refine of_row (w := 33#6 ++ d ++ a ++ b ++ p ++ 1#2 ++ z ++ f ++ 12#4) rfl fun x0 hw => ?_
  have e0 : x0.extractLsb' 26 6 = 33#6 := at_ hw (hi (hi (hi (hi (hi (hi (hi (hi rfl))))))))
  have e1 : x0.extractLsb' 0 4 = 12#4 := at_ hw (lo rfl)
  have e2 : x0.extractLsb' 21 5 = d := at_ hw (hi (hi (hi (hi (hi (hi (hi (lo full))))))))
  have e3 : x0.extractLsb' 16 5 = a := at_ hw (hi (hi (hi (hi (hi (hi (lo full)))))))
  have e4 : x0.extractLsb' 11 5 = b := at_ hw (hi (hi (hi (hi (hi (lo full))))))
  have e5 : x0.extractLsb' 8 3 = p := at_ hw (hi (hi (hi (hi (lo full)))))
  have e6 : x0.extractLsb' 5 1 = z := at_ hw (hi (hi (lo full)))
  have e7 : x0.extractLsb' 4 1 = f := at_ hw (hi (lo full))
  simp [select, selectData, select21, e0, e1, e2, e3, e4, e5, e6, e7]

theorem vceq (d : BitVec 3) (a : BitVec 5) (b : BitVec 5) (p : BitVec 3) (e : BitVec 2) (z : BitVec 1) : Statement (.vceq d a b p e z) := by
  refine of_row (w := 136#8 ++ d ++ a ++ b ++ p ++ e ++ z ++ 0#5) rfl fun x0 hw => ?_
  have e0 : x0.extractLsb' 26 6 = 34#6 := at_ hw (hi (hi (hi (hi (hi (hi (hi rfl)))))))
  have e1 : x0.extractLsb' 0 5 = 0#5 := at_ hw (lo rfl)
  have e2 : x0.extractLsb' 21 3 = d := at_ hw (hi (hi (hi (hi (hi (hi (lo full)))))))
  have e3 : x0.extractLsb' 16 5 = a := at_ hw (hi (hi (hi (hi (hi (lo full))))))
  have e4 : x0.extractLsb' 11 5 = b := at_ hw (hi (hi (hi (hi (lo full)))))
  have e5 : x0.extractLsb' 8 3 = p := at_ hw (hi (hi (hi (lo full))))
  have e6 : x0.extractLsb' 6 2 = e := at_ hw (hi (hi (lo full)))
  have e7 : x0.extractLsb' 5 1 = z := at_ hw (hi (lo full))
  simp [select, selectData, select22, e0, e1, e2, e3, e4, e5, e6, e7]

theorem vcne (d : BitVec 3) (a : BitVec 5) (b : BitVec 5) (p : BitVec 3) (e : BitVec 2) (z : BitVec 1) : Statement (.vcne d a b p e z) := by
  refine of_row (w := 136#8 ++ d ++ a ++ b ++ p ++ e ++ z ++ 1#5) rfl fun x0 hw => ?_
  have e0 : x0.extractLsb' 26 6 = 34#6 := at_ hw (hi (hi (hi (hi (hi (hi (hi rfl)))))))
  have e1 : x0.extractLsb' 0 5 = 1#5 := at_ hw (lo rfl)
  have e2 : x0.extractLsb' 21 3 = d := at_ hw (hi (hi (hi (hi (hi (hi (lo full)))))))
  have e3 : x0.extractLsb' 16 5 = a := at_ hw (hi (hi (hi (hi (hi (lo full))))))
  have e4 : x0.extractLsb' 11 5 = b := at_ hw (hi (hi (hi (hi (lo full)))))
  have e5 : x0.extractLsb' 8 3 = p := at_ hw (hi (hi (hi (lo full))))
  have e6 : x0.extractLsb' 6 2 = e := at_ hw (hi (hi (lo full)))
  have e7 : x0.extractLsb' 5 1 = z := at_ hw (hi (lo full))
  simp [select, selectData, select22, e0, e1, e2, e3, e4, e5, e6, e7]

theorem vclt (d : BitVec 3) (a : BitVec 5) (b : BitVec 5) (p : BitVec 3) (e : BitVec 2) (z : BitVec 1) : Statement (.vclt d a b p e z) := by
  refine of_row (w := 136#8 ++ d ++ a ++ b ++ p ++ e ++ z ++ 2#5) rfl fun x0 hw => ?_
  have e0 : x0.extractLsb' 26 6 = 34#6 := at_ hw (hi (hi (hi (hi (hi (hi (hi rfl)))))))
  have e1 : x0.extractLsb' 0 5 = 2#5 := at_ hw (lo rfl)
  have e2 : x0.extractLsb' 21 3 = d := at_ hw (hi (hi (hi (hi (hi (hi (lo full)))))))
  have e3 : x0.extractLsb' 16 5 = a := at_ hw (hi (hi (hi (hi (hi (lo full))))))
  have e4 : x0.extractLsb' 11 5 = b := at_ hw (hi (hi (hi (hi (lo full)))))
  have e5 : x0.extractLsb' 8 3 = p := at_ hw (hi (hi (hi (lo full))))
  have e6 : x0.extractLsb' 6 2 = e := at_ hw (hi (hi (lo full)))
  have e7 : x0.extractLsb' 5 1 = z := at_ hw (hi (lo full))
  simp [select, selectData, select22, e0, e1, e2, e3, e4, e5, e6, e7]

theorem vcle (d : BitVec 3) (a : BitVec 5) (b : BitVec 5) (p : BitVec 3) (e : BitVec 2) (z : BitVec 1) : Statement (.vcle d a b p e z) := by
  refine of_row (w := 136#8 ++ d ++ a ++ b ++ p ++ e ++ z ++ 3#5) rfl fun x0 hw => ?_
  have e0 : x0.extractLsb' 26 6 = 34#6 := at_ hw (hi (hi (hi (hi (hi (hi (hi rfl)))))))
  have e1 : x0.extractLsb' 0 5 = 3#5 := at_ hw (lo rfl)
  have e2 : x0.extractLsb' 21 3 = d := at_ hw (hi (hi (hi (hi (hi (hi (lo full)))))))
  have e3 : x0.extractLsb' 16 5 = a := at_ hw (hi (hi (hi (hi (hi (lo full))))))
  have e4 : x0.extractLsb' 11 5 = b := at_ hw (hi (hi (hi (hi (lo full)))))
  have e5 : x0.extractLsb' 8 3 = p := at_ hw (hi (hi (hi (lo full))))
  have e6 : x0.extractLsb' 6 2 = e := at_ hw (hi (hi (lo full)))
  have e7 : x0.extractLsb' 5 1 = z := at_ hw (hi (lo full))
  simp [select, selectData, select22, e0, e1, e2, e3, e4, e5, e6, e7]

theorem vcltu (d : BitVec 3) (a : BitVec 5) (b : BitVec 5) (p : BitVec 3) (e : BitVec 2) (z : BitVec 1) : Statement (.vcltu d a b p e z) := by
  refine of_row (w := 136#8 ++ d ++ a ++ b ++ p ++ e ++ z ++ 4#5) rfl fun x0 hw => ?_
  have e0 : x0.extractLsb' 26 6 = 34#6 := at_ hw (hi (hi (hi (hi (hi (hi (hi rfl)))))))
  have e1 : x0.extractLsb' 0 5 = 4#5 := at_ hw (lo rfl)
  have e2 : x0.extractLsb' 21 3 = d := at_ hw (hi (hi (hi (hi (hi (hi (lo full)))))))
  have e3 : x0.extractLsb' 16 5 = a := at_ hw (hi (hi (hi (hi (hi (lo full))))))
  have e4 : x0.extractLsb' 11 5 = b := at_ hw (hi (hi (hi (hi (lo full)))))
  have e5 : x0.extractLsb' 8 3 = p := at_ hw (hi (hi (hi (lo full))))
  have e6 : x0.extractLsb' 6 2 = e := at_ hw (hi (hi (lo full)))
  have e7 : x0.extractLsb' 5 1 = z := at_ hw (hi (lo full))
  simp [select, selectData, select22, e0, e1, e2, e3, e4, e5, e6, e7]

theorem vcleu (d : BitVec 3) (a : BitVec 5) (b : BitVec 5) (p : BitVec 3) (e : BitVec 2) (z : BitVec 1) : Statement (.vcleu d a b p e z) := by
  refine of_row (w := 136#8 ++ d ++ a ++ b ++ p ++ e ++ z ++ 5#5) rfl fun x0 hw => ?_
  have e0 : x0.extractLsb' 26 6 = 34#6 := at_ hw (hi (hi (hi (hi (hi (hi (hi rfl)))))))
  have e1 : x0.extractLsb' 0 5 = 5#5 := at_ hw (lo rfl)
  have e2 : x0.extractLsb' 21 3 = d := at_ hw (hi (hi (hi (hi (hi (hi (lo full)))))))
  have e3 : x0.extractLsb' 16 5 = a := at_ hw (hi (hi (hi (hi (hi (lo full))))))
  have e4 : x0.extractLsb' 11 5 = b := at_ hw (hi (hi (hi (hi (lo full)))))
  have e5 : x0.extractLsb' 8 3 = p := at_ hw (hi (hi (hi (lo full))))
  have e6 : x0.extractLsb' 6 2 = e := at_ hw (hi (hi (lo full)))
  have e7 : x0.extractLsb' 5 1 = z := at_ hw (hi (lo full))
  simp [select, selectData, select22, e0, e1, e2, e3, e4, e5, e6, e7]

theorem vfceq (d : BitVec 3) (a : BitVec 5) (b : BitVec 5) (p : BitVec 3) (e : BitVec 1) (z : BitVec 1) : Statement (.vfceq d a b p e z) := by
  refine of_row (w := 136#8 ++ d ++ a ++ b ++ p ++ 0#1 ++ e ++ z ++ 8#5) rfl fun x0 hw => ?_
  have e0 : x0.extractLsb' 26 6 = 34#6 := at_ hw (hi (hi (hi (hi (hi (hi (hi (hi rfl))))))))
  have e1 : x0.extractLsb' 0 5 = 8#5 := at_ hw (lo rfl)
  have e2 : x0.extractLsb' 21 3 = d := at_ hw (hi (hi (hi (hi (hi (hi (hi (lo full))))))))
  have e3 : x0.extractLsb' 16 5 = a := at_ hw (hi (hi (hi (hi (hi (hi (lo full)))))))
  have e4 : x0.extractLsb' 11 5 = b := at_ hw (hi (hi (hi (hi (hi (lo full))))))
  have e5 : x0.extractLsb' 8 3 = p := at_ hw (hi (hi (hi (hi (lo full)))))
  have e6 : x0.extractLsb' 6 1 = e := at_ hw (hi (hi (lo full)))
  have e7 : x0.extractLsb' 5 1 = z := at_ hw (hi (lo full))
  simp [select, selectData, select22, e0, e1, e2, e3, e4, e5, e6, e7]

theorem vfclt (d : BitVec 3) (a : BitVec 5) (b : BitVec 5) (p : BitVec 3) (e : BitVec 1) (z : BitVec 1) : Statement (.vfclt d a b p e z) := by
  refine of_row (w := 136#8 ++ d ++ a ++ b ++ p ++ 0#1 ++ e ++ z ++ 9#5) rfl fun x0 hw => ?_
  have e0 : x0.extractLsb' 26 6 = 34#6 := at_ hw (hi (hi (hi (hi (hi (hi (hi (hi rfl))))))))
  have e1 : x0.extractLsb' 0 5 = 9#5 := at_ hw (lo rfl)
  have e2 : x0.extractLsb' 21 3 = d := at_ hw (hi (hi (hi (hi (hi (hi (hi (lo full))))))))
  have e3 : x0.extractLsb' 16 5 = a := at_ hw (hi (hi (hi (hi (hi (hi (lo full)))))))
  have e4 : x0.extractLsb' 11 5 = b := at_ hw (hi (hi (hi (hi (hi (lo full))))))
  have e5 : x0.extractLsb' 8 3 = p := at_ hw (hi (hi (hi (hi (lo full)))))
  have e6 : x0.extractLsb' 6 1 = e := at_ hw (hi (hi (lo full)))
  have e7 : x0.extractLsb' 5 1 = z := at_ hw (hi (lo full))
  simp [select, selectData, select22, e0, e1, e2, e3, e4, e5, e6, e7]

theorem vfcle (d : BitVec 3) (a : BitVec 5) (b : BitVec 5) (p : BitVec 3) (e : BitVec 1) (z : BitVec 1) : Statement (.vfcle d a b p e z) := by
  refine of_row (w := 136#8 ++ d ++ a ++ b ++ p ++ 0#1 ++ e ++ z ++ 10#5) rfl fun x0 hw => ?_
  have e0 : x0.extractLsb' 26 6 = 34#6 := at_ hw (hi (hi (hi (hi (hi (hi (hi (hi rfl))))))))
  have e1 : x0.extractLsb' 0 5 = 10#5 := at_ hw (lo rfl)
  have e2 : x0.extractLsb' 21 3 = d := at_ hw (hi (hi (hi (hi (hi (hi (hi (lo full))))))))
  have e3 : x0.extractLsb' 16 5 = a := at_ hw (hi (hi (hi (hi (hi (hi (lo full)))))))
  have e4 : x0.extractLsb' 11 5 = b := at_ hw (hi (hi (hi (hi (hi (lo full))))))
  have e5 : x0.extractLsb' 8 3 = p := at_ hw (hi (hi (hi (hi (lo full)))))
  have e6 : x0.extractLsb' 6 1 = e := at_ hw (hi (hi (lo full)))
  have e7 : x0.extractLsb' 5 1 = z := at_ hw (hi (lo full))
  simp [select, selectData, select22, e0, e1, e2, e3, e4, e5, e6, e7]

theorem vfcun (d : BitVec 3) (a : BitVec 5) (b : BitVec 5) (p : BitVec 3) (e : BitVec 1) (z : BitVec 1) : Statement (.vfcun d a b p e z) := by
  refine of_row (w := 136#8 ++ d ++ a ++ b ++ p ++ 0#1 ++ e ++ z ++ 11#5) rfl fun x0 hw => ?_
  have e0 : x0.extractLsb' 26 6 = 34#6 := at_ hw (hi (hi (hi (hi (hi (hi (hi (hi rfl))))))))
  have e1 : x0.extractLsb' 0 5 = 11#5 := at_ hw (lo rfl)
  have e2 : x0.extractLsb' 21 3 = d := at_ hw (hi (hi (hi (hi (hi (hi (hi (lo full))))))))
  have e3 : x0.extractLsb' 16 5 = a := at_ hw (hi (hi (hi (hi (hi (hi (lo full)))))))
  have e4 : x0.extractLsb' 11 5 = b := at_ hw (hi (hi (hi (hi (hi (lo full))))))
  have e5 : x0.extractLsb' 8 3 = p := at_ hw (hi (hi (hi (hi (lo full)))))
  have e6 : x0.extractLsb' 6 1 = e := at_ hw (hi (hi (lo full)))
  have e7 : x0.extractLsb' 5 1 = z := at_ hw (hi (lo full))
  simp [select, selectData, select22, e0, e1, e2, e3, e4, e5, e6, e7]

theorem vfceqBf (d : BitVec 3) (a : BitVec 5) (b : BitVec 5) (p : BitVec 3) (z : BitVec 1) : Statement (.vfceqBf d a b p z) := by
  refine of_row (w := 136#8 ++ d ++ a ++ b ++ p ++ 1#2 ++ z ++ 16#5) rfl fun x0 hw => ?_
  have e0 : x0.extractLsb' 26 6 = 34#6 := at_ hw (hi (hi (hi (hi (hi (hi (hi rfl)))))))
  have e1 : x0.extractLsb' 0 5 = 16#5 := at_ hw (lo rfl)
  have e2 : x0.extractLsb' 21 3 = d := at_ hw (hi (hi (hi (hi (hi (hi (lo full)))))))
  have e3 : x0.extractLsb' 16 5 = a := at_ hw (hi (hi (hi (hi (hi (lo full))))))
  have e4 : x0.extractLsb' 11 5 = b := at_ hw (hi (hi (hi (hi (lo full)))))
  have e5 : x0.extractLsb' 8 3 = p := at_ hw (hi (hi (hi (lo full))))
  have e6 : x0.extractLsb' 5 1 = z := at_ hw (hi (lo full))
  simp [select, selectData, select22, e0, e1, e2, e3, e4, e5, e6]

theorem vfcltBf (d : BitVec 3) (a : BitVec 5) (b : BitVec 5) (p : BitVec 3) (z : BitVec 1) : Statement (.vfcltBf d a b p z) := by
  refine of_row (w := 136#8 ++ d ++ a ++ b ++ p ++ 1#2 ++ z ++ 17#5) rfl fun x0 hw => ?_
  have e0 : x0.extractLsb' 26 6 = 34#6 := at_ hw (hi (hi (hi (hi (hi (hi (hi rfl)))))))
  have e1 : x0.extractLsb' 0 5 = 17#5 := at_ hw (lo rfl)
  have e2 : x0.extractLsb' 21 3 = d := at_ hw (hi (hi (hi (hi (hi (hi (lo full)))))))
  have e3 : x0.extractLsb' 16 5 = a := at_ hw (hi (hi (hi (hi (hi (lo full))))))
  have e4 : x0.extractLsb' 11 5 = b := at_ hw (hi (hi (hi (hi (lo full)))))
  have e5 : x0.extractLsb' 8 3 = p := at_ hw (hi (hi (hi (lo full))))
  have e6 : x0.extractLsb' 5 1 = z := at_ hw (hi (lo full))
  simp [select, selectData, select22, e0, e1, e2, e3, e4, e5, e6]

theorem vfcleBf (d : BitVec 3) (a : BitVec 5) (b : BitVec 5) (p : BitVec 3) (z : BitVec 1) : Statement (.vfcleBf d a b p z) := by
  refine of_row (w := 136#8 ++ d ++ a ++ b ++ p ++ 1#2 ++ z ++ 18#5) rfl fun x0 hw => ?_
  have e0 : x0.extractLsb' 26 6 = 34#6 := at_ hw (hi (hi (hi (hi (hi (hi (hi rfl)))))))
  have e1 : x0.extractLsb' 0 5 = 18#5 := at_ hw (lo rfl)
  have e2 : x0.extractLsb' 21 3 = d := at_ hw (hi (hi (hi (hi (hi (hi (lo full)))))))
  have e3 : x0.extractLsb' 16 5 = a := at_ hw (hi (hi (hi (hi (hi (lo full))))))
  have e4 : x0.extractLsb' 11 5 = b := at_ hw (hi (hi (hi (hi (lo full)))))
  have e5 : x0.extractLsb' 8 3 = p := at_ hw (hi (hi (hi (lo full))))
  have e6 : x0.extractLsb' 5 1 = z := at_ hw (hi (lo full))
  simp [select, selectData, select22, e0, e1, e2, e3, e4, e5, e6]

theorem vfcunBf (d : BitVec 3) (a : BitVec 5) (b : BitVec 5) (p : BitVec 3) (z : BitVec 1) : Statement (.vfcunBf d a b p z) := by
  refine of_row (w := 136#8 ++ d ++ a ++ b ++ p ++ 1#2 ++ z ++ 19#5) rfl fun x0 hw => ?_
  have e0 : x0.extractLsb' 26 6 = 34#6 := at_ hw (hi (hi (hi (hi (hi (hi (hi rfl)))))))
  have e1 : x0.extractLsb' 0 5 = 19#5 := at_ hw (lo rfl)
  have e2 : x0.extractLsb' 21 3 = d := at_ hw (hi (hi (hi (hi (hi (hi (lo full)))))))
  have e3 : x0.extractLsb' 16 5 = a := at_ hw (hi (hi (hi (hi (hi (lo full))))))
  have e4 : x0.extractLsb' 11 5 = b := at_ hw (hi (hi (hi (hi (lo full)))))
  have e5 : x0.extractLsb' 8 3 = p := at_ hw (hi (hi (hi (lo full))))
  have e6 : x0.extractLsb' 5 1 = z := at_ hw (hi (lo full))
  simp [select, selectData, select22, e0, e1, e2, e3, e4, e5, e6]

theorem vperm (d : BitVec 5) (a : BitVec 5) (b : BitVec 5) (p : BitVec 3) (e : BitVec 2) (z : BitVec 1) : Statement (.vperm d a b p e z) := by
  refine of_row (w := 35#6 ++ d ++ a ++ b ++ p ++ e ++ z ++ 0#5) rfl fun x0 hw => ?_
  have e0 : x0.extractLsb' 26 6 = 35#6 := at_ hw (hi (hi (hi (hi (hi (hi (hi rfl)))))))
  have e1 : x0.extractLsb' 0 4 = 0#4 := at_ hw (lo rfl)
  have e2 : x0.extractLsb' 21 5 = d := at_ hw (hi (hi (hi (hi (hi (hi (lo full)))))))
  have e3 : x0.extractLsb' 16 5 = a := at_ hw (hi (hi (hi (hi (hi (lo full))))))
  have e4 : x0.extractLsb' 11 5 = b := at_ hw (hi (hi (hi (hi (lo full)))))
  have e5 : x0.extractLsb' 8 3 = p := at_ hw (hi (hi (hi (lo full))))
  have e6 : x0.extractLsb' 6 2 = e := at_ hw (hi (hi (lo full)))
  have e7 : x0.extractLsb' 5 1 = z := at_ hw (hi (lo full))
  simp [select, selectData, select23, e0, e1, e2, e3, e4, e5, e6, e7]

theorem vsldup (d : BitVec 5) (a : BitVec 5) (b : BitVec 5) (p : BitVec 3) (e : BitVec 2) (z : BitVec 1) : Statement (.vsldup d a b p e z) := by
  refine of_row (w := 35#6 ++ d ++ a ++ b ++ p ++ e ++ z ++ 1#5) rfl fun x0 hw => ?_
  have e0 : x0.extractLsb' 26 6 = 35#6 := at_ hw (hi (hi (hi (hi (hi (hi (hi rfl)))))))
  have e1 : x0.extractLsb' 0 4 = 1#4 := at_ hw (lo rfl)
  have e2 : x0.extractLsb' 21 5 = d := at_ hw (hi (hi (hi (hi (hi (hi (lo full)))))))
  have e3 : x0.extractLsb' 16 5 = a := at_ hw (hi (hi (hi (hi (hi (lo full))))))
  have e4 : x0.extractLsb' 11 5 = b := at_ hw (hi (hi (hi (hi (lo full)))))
  have e5 : x0.extractLsb' 8 3 = p := at_ hw (hi (hi (hi (lo full))))
  have e6 : x0.extractLsb' 6 2 = e := at_ hw (hi (hi (lo full)))
  have e7 : x0.extractLsb' 5 1 = z := at_ hw (hi (lo full))
  simp [select, selectData, select23, e0, e1, e2, e3, e4, e5, e6, e7]

theorem vslddn (d : BitVec 5) (a : BitVec 5) (b : BitVec 5) (p : BitVec 3) (e : BitVec 2) (z : BitVec 1) : Statement (.vslddn d a b p e z) := by
  refine of_row (w := 35#6 ++ d ++ a ++ b ++ p ++ e ++ z ++ 2#5) rfl fun x0 hw => ?_
  have e0 : x0.extractLsb' 26 6 = 35#6 := at_ hw (hi (hi (hi (hi (hi (hi (hi rfl)))))))
  have e1 : x0.extractLsb' 0 4 = 2#4 := at_ hw (lo rfl)
  have e2 : x0.extractLsb' 21 5 = d := at_ hw (hi (hi (hi (hi (hi (hi (lo full)))))))
  have e3 : x0.extractLsb' 16 5 = a := at_ hw (hi (hi (hi (hi (hi (lo full))))))
  have e4 : x0.extractLsb' 11 5 = b := at_ hw (hi (hi (hi (hi (lo full)))))
  have e5 : x0.extractLsb' 8 3 = p := at_ hw (hi (hi (hi (lo full))))
  have e6 : x0.extractLsb' 6 2 = e := at_ hw (hi (hi (lo full)))
  have e7 : x0.extractLsb' 5 1 = z := at_ hw (hi (lo full))
  simp [select, selectData, select23, e0, e1, e2, e3, e4, e5, e6, e7]

theorem vziplo (d : BitVec 5) (a : BitVec 5) (b : BitVec 5) (p : BitVec 3) (e : BitVec 2) (z : BitVec 1) : Statement (.vziplo d a b p e z) := by
  refine of_row (w := 35#6 ++ d ++ a ++ b ++ p ++ e ++ z ++ 3#5) rfl fun x0 hw => ?_
  have e0 : x0.extractLsb' 26 6 = 35#6 := at_ hw (hi (hi (hi (hi (hi (hi (hi rfl)))))))
  have e1 : x0.extractLsb' 0 4 = 3#4 := at_ hw (lo rfl)
  have e2 : x0.extractLsb' 21 5 = d := at_ hw (hi (hi (hi (hi (hi (hi (lo full)))))))
  have e3 : x0.extractLsb' 16 5 = a := at_ hw (hi (hi (hi (hi (hi (lo full))))))
  have e4 : x0.extractLsb' 11 5 = b := at_ hw (hi (hi (hi (hi (lo full)))))
  have e5 : x0.extractLsb' 8 3 = p := at_ hw (hi (hi (hi (lo full))))
  have e6 : x0.extractLsb' 6 2 = e := at_ hw (hi (hi (lo full)))
  have e7 : x0.extractLsb' 5 1 = z := at_ hw (hi (lo full))
  simp [select, selectData, select23, e0, e1, e2, e3, e4, e5, e6, e7]

theorem vziphi (d : BitVec 5) (a : BitVec 5) (b : BitVec 5) (p : BitVec 3) (e : BitVec 2) (z : BitVec 1) : Statement (.vziphi d a b p e z) := by
  refine of_row (w := 35#6 ++ d ++ a ++ b ++ p ++ e ++ z ++ 4#5) rfl fun x0 hw => ?_
  have e0 : x0.extractLsb' 26 6 = 35#6 := at_ hw (hi (hi (hi (hi (hi (hi (hi rfl)))))))
  have e1 : x0.extractLsb' 0 4 = 4#4 := at_ hw (lo rfl)
  have e2 : x0.extractLsb' 21 5 = d := at_ hw (hi (hi (hi (hi (hi (hi (lo full)))))))
  have e3 : x0.extractLsb' 16 5 = a := at_ hw (hi (hi (hi (hi (hi (lo full))))))
  have e4 : x0.extractLsb' 11 5 = b := at_ hw (hi (hi (hi (hi (lo full)))))
  have e5 : x0.extractLsb' 8 3 = p := at_ hw (hi (hi (hi (lo full))))
  have e6 : x0.extractLsb' 6 2 = e := at_ hw (hi (hi (lo full)))
  have e7 : x0.extractLsb' 5 1 = z := at_ hw (hi (lo full))
  simp [select, selectData, select23, e0, e1, e2, e3, e4, e5, e6, e7]

theorem vuzpe (d : BitVec 5) (a : BitVec 5) (b : BitVec 5) (p : BitVec 3) (e : BitVec 2) (z : BitVec 1) : Statement (.vuzpe d a b p e z) := by
  refine of_row (w := 35#6 ++ d ++ a ++ b ++ p ++ e ++ z ++ 5#5) rfl fun x0 hw => ?_
  have e0 : x0.extractLsb' 26 6 = 35#6 := at_ hw (hi (hi (hi (hi (hi (hi (hi rfl)))))))
  have e1 : x0.extractLsb' 0 4 = 5#4 := at_ hw (lo rfl)
  have e2 : x0.extractLsb' 21 5 = d := at_ hw (hi (hi (hi (hi (hi (hi (lo full)))))))
  have e3 : x0.extractLsb' 16 5 = a := at_ hw (hi (hi (hi (hi (hi (lo full))))))
  have e4 : x0.extractLsb' 11 5 = b := at_ hw (hi (hi (hi (hi (lo full)))))
  have e5 : x0.extractLsb' 8 3 = p := at_ hw (hi (hi (hi (lo full))))
  have e6 : x0.extractLsb' 6 2 = e := at_ hw (hi (hi (lo full)))
  have e7 : x0.extractLsb' 5 1 = z := at_ hw (hi (lo full))
  simp [select, selectData, select23, e0, e1, e2, e3, e4, e5, e6, e7]

theorem vuzpo (d : BitVec 5) (a : BitVec 5) (b : BitVec 5) (p : BitVec 3) (e : BitVec 2) (z : BitVec 1) : Statement (.vuzpo d a b p e z) := by
  refine of_row (w := 35#6 ++ d ++ a ++ b ++ p ++ e ++ z ++ 6#5) rfl fun x0 hw => ?_
  have e0 : x0.extractLsb' 26 6 = 35#6 := at_ hw (hi (hi (hi (hi (hi (hi (hi rfl)))))))
  have e1 : x0.extractLsb' 0 4 = 6#4 := at_ hw (lo rfl)
  have e2 : x0.extractLsb' 21 5 = d := at_ hw (hi (hi (hi (hi (hi (hi (lo full)))))))
  have e3 : x0.extractLsb' 16 5 = a := at_ hw (hi (hi (hi (hi (hi (lo full))))))
  have e4 : x0.extractLsb' 11 5 = b := at_ hw (hi (hi (hi (hi (lo full)))))
  have e5 : x0.extractLsb' 8 3 = p := at_ hw (hi (hi (hi (lo full))))
  have e6 : x0.extractLsb' 6 2 = e := at_ hw (hi (hi (lo full)))
  have e7 : x0.extractLsb' 5 1 = z := at_ hw (hi (lo full))
  simp [select, selectData, select23, e0, e1, e2, e3, e4, e5, e6, e7]

theorem vcompr (d : BitVec 5) (a : BitVec 5) (p : BitVec 3) (e : BitVec 2) : Statement (.vcompr d a p e) := by
  refine of_row (w := 35#6 ++ d ++ a ++ 0#5 ++ p ++ e ++ 7#6) rfl fun x0 hw => ?_
  have e0 : x0.extractLsb' 26 6 = 35#6 := at_ hw (hi (hi (hi (hi (hi (hi rfl))))))
  have e1 : x0.extractLsb' 0 4 = 7#4 := at_ hw (lo rfl)
  have e2 : x0.extractLsb' 21 5 = d := at_ hw (hi (hi (hi (hi (hi (lo full))))))
  have e3 : x0.extractLsb' 16 5 = a := at_ hw (hi (hi (hi (hi (lo full)))))
  have e4 : x0.extractLsb' 8 3 = p := at_ hw (hi (hi (lo full)))
  have e5 : x0.extractLsb' 6 2 = e := at_ hw (hi (lo full))
  simp [select, selectData, select23, e0, e1, e2, e3, e4, e5]

theorem vexpnd (d : BitVec 5) (a : BitVec 5) (p : BitVec 3) (e : BitVec 2) (z : BitVec 1) : Statement (.vexpnd d a p e z) := by
  refine of_row (w := 35#6 ++ d ++ a ++ 0#5 ++ p ++ e ++ z ++ 8#5) rfl fun x0 hw => ?_
  have e0 : x0.extractLsb' 26 6 = 35#6 := at_ hw (hi (hi (hi (hi (hi (hi (hi rfl)))))))
  have e1 : x0.extractLsb' 0 4 = 8#4 := at_ hw (lo rfl)
  have e2 : x0.extractLsb' 21 5 = d := at_ hw (hi (hi (hi (hi (hi (hi (lo full)))))))
  have e3 : x0.extractLsb' 16 5 = a := at_ hw (hi (hi (hi (hi (hi (lo full))))))
  have e4 : x0.extractLsb' 8 3 = p := at_ hw (hi (hi (hi (lo full))))
  have e5 : x0.extractLsb' 6 2 = e := at_ hw (hi (hi (lo full)))
  have e6 : x0.extractLsb' 5 1 = z := at_ hw (hi (lo full))
  simp [select, selectData, select23, e0, e1, e2, e3, e4, e5, e6]

theorem vins (d : BitVec 5) (a : BitVec 5) (b : BitVec 5) (e : BitVec 2) : Statement (.vins d a b e) := by
  refine of_row (w := 35#6 ++ d ++ a ++ b ++ 0#3 ++ e ++ 9#6) rfl fun x0 hw => ?_
  have e0 : x0.extractLsb' 26 6 = 35#6 := at_ hw (hi (hi (hi (hi (hi (hi rfl))))))
  have e1 : x0.extractLsb' 0 4 = 9#4 := at_ hw (lo rfl)
  have e2 : x0.extractLsb' 21 5 = d := at_ hw (hi (hi (hi (hi (hi (lo full))))))
  have e3 : x0.extractLsb' 16 5 = a := at_ hw (hi (hi (hi (hi (lo full)))))
  have e4 : x0.extractLsb' 11 5 = b := at_ hw (hi (hi (hi (lo full))))
  have e5 : x0.extractLsb' 6 2 = e := at_ hw (hi (lo full))
  simp [select, selectData, select23, e0, e1, e2, e3, e4, e5]

theorem vext (d : BitVec 5) (a : BitVec 5) (k : BitVec 4) (e : BitVec 2) : Statement (.vext d a k e) := by
  refine of_row (w := 35#6 ++ d ++ a ++ 0#1 ++ k ++ 0#3 ++ e ++ 10#6) rfl fun x0 hw => ?_
  have e0 : x0.extractLsb' 26 6 = 35#6 := at_ hw (hi (hi (hi (hi (hi (hi (hi rfl)))))))
  have e1 : x0.extractLsb' 0 4 = 10#4 := at_ hw (lo rfl)
  have e2 : x0.extractLsb' 21 5 = d := at_ hw (hi (hi (hi (hi (hi (hi (lo full)))))))
  have e3 : x0.extractLsb' 16 5 = a := at_ hw (hi (hi (hi (hi (hi (lo full))))))
  have e4 : x0.extractLsb' 11 4 = k := at_ hw (hi (hi (hi (lo full))))
  have e5 : x0.extractLsb' 6 2 = e := at_ hw (hi (lo full))
  simp [select, selectData, select23, e0, e1, e2, e3, e4, e5]

theorem vcvtfi (d : BitVec 5) (a : BitVec 5) (p : BitVec 3) (e : BitVec 1) (z : BitVec 1) : Statement (.vcvtfi d a p e z) := by
  refine of_row (w := 36#6 ++ d ++ a ++ 0#5 ++ p ++ 0#1 ++ e ++ z ++ 0#5) rfl fun x0 hw => ?_
  have e0 : x0.extractLsb' 26 6 = 36#6 := at_ hw (hi (hi (hi (hi (hi (hi (hi (hi rfl))))))))
  have e1 : x0.extractLsb' 0 4 = 0#4 := at_ hw (lo rfl)
  have e2 : x0.extractLsb' 21 5 = d := at_ hw (hi (hi (hi (hi (hi (hi (hi (lo full))))))))
  have e3 : x0.extractLsb' 16 5 = a := at_ hw (hi (hi (hi (hi (hi (hi (lo full)))))))
  have e4 : x0.extractLsb' 8 3 = p := at_ hw (hi (hi (hi (hi (lo full)))))
  have e5 : x0.extractLsb' 6 1 = e := at_ hw (hi (hi (lo full)))
  have e6 : x0.extractLsb' 5 1 = z := at_ hw (hi (lo full))
  simp [select, selectData, select24, e0, e1, e2, e3, e4, e5, e6]

theorem vcvtif (d : BitVec 5) (a : BitVec 5) (p : BitVec 3) (e : BitVec 1) (z : BitVec 1) : Statement (.vcvtif d a p e z) := by
  refine of_row (w := 36#6 ++ d ++ a ++ 0#5 ++ p ++ 0#1 ++ e ++ z ++ 1#5) rfl fun x0 hw => ?_
  have e0 : x0.extractLsb' 26 6 = 36#6 := at_ hw (hi (hi (hi (hi (hi (hi (hi (hi rfl))))))))
  have e1 : x0.extractLsb' 0 4 = 1#4 := at_ hw (lo rfl)
  have e2 : x0.extractLsb' 21 5 = d := at_ hw (hi (hi (hi (hi (hi (hi (hi (lo full))))))))
  have e3 : x0.extractLsb' 16 5 = a := at_ hw (hi (hi (hi (hi (hi (hi (lo full)))))))
  have e4 : x0.extractLsb' 8 3 = p := at_ hw (hi (hi (hi (hi (lo full)))))
  have e5 : x0.extractLsb' 6 1 = e := at_ hw (hi (hi (lo full)))
  have e6 : x0.extractLsb' 5 1 = z := at_ hw (hi (lo full))
  simp [select, selectData, select24, e0, e1, e2, e3, e4, e5, e6]

theorem vcvtwh (d : BitVec 5) (a : BitVec 5) (h : BitVec 1) (p : BitVec 3) (z : BitVec 1) : Statement (.vcvtwh d a h p z) := by
  refine of_row (w := 36#6 ++ d ++ a ++ 0#4 ++ h ++ p ++ 0#2 ++ z ++ 2#5) rfl fun x0 hw => ?_
  have e0 : x0.extractLsb' 26 6 = 36#6 := at_ hw (hi (hi (hi (hi (hi (hi (hi (hi rfl))))))))
  have e1 : x0.extractLsb' 0 4 = 2#4 := at_ hw (lo rfl)
  have e2 : x0.extractLsb' 21 5 = d := at_ hw (hi (hi (hi (hi (hi (hi (hi (lo full))))))))
  have e3 : x0.extractLsb' 16 5 = a := at_ hw (hi (hi (hi (hi (hi (hi (lo full)))))))
  have e4 : x0.extractLsb' 11 1 = h := at_ hw (hi (hi (hi (hi (lo full)))))
  have e5 : x0.extractLsb' 8 3 = p := at_ hw (hi (hi (hi (lo full))))
  have e6 : x0.extractLsb' 5 1 = z := at_ hw (hi (lo full))
  simp [select, selectData, select24, e0, e1, e2, e3, e4, e5, e6]

theorem vcvtwb (d : BitVec 5) (a : BitVec 5) (h : BitVec 1) (p : BitVec 3) (z : BitVec 1) : Statement (.vcvtwb d a h p z) := by
  refine of_row (w := 36#6 ++ d ++ a ++ 0#4 ++ h ++ p ++ 0#2 ++ z ++ 3#5) rfl fun x0 hw => ?_
  have e0 : x0.extractLsb' 26 6 = 36#6 := at_ hw (hi (hi (hi (hi (hi (hi (hi (hi rfl))))))))
  have e1 : x0.extractLsb' 0 4 = 3#4 := at_ hw (lo rfl)
  have e2 : x0.extractLsb' 21 5 = d := at_ hw (hi (hi (hi (hi (hi (hi (hi (lo full))))))))
  have e3 : x0.extractLsb' 16 5 = a := at_ hw (hi (hi (hi (hi (hi (hi (lo full)))))))
  have e4 : x0.extractLsb' 11 1 = h := at_ hw (hi (hi (hi (hi (lo full)))))
  have e5 : x0.extractLsb' 8 3 = p := at_ hw (hi (hi (hi (lo full))))
  have e6 : x0.extractLsb' 5 1 = z := at_ hw (hi (lo full))
  simp [select, selectData, select24, e0, e1, e2, e3, e4, e5, e6]

theorem vcvtnh (d : BitVec 5) (a : BitVec 5) (h : BitVec 1) (p : BitVec 3) (z : BitVec 1) : Statement (.vcvtnh d a h p z) := by
  refine of_row (w := 36#6 ++ d ++ a ++ 0#4 ++ h ++ p ++ 0#2 ++ z ++ 4#5) rfl fun x0 hw => ?_
  have e0 : x0.extractLsb' 26 6 = 36#6 := at_ hw (hi (hi (hi (hi (hi (hi (hi (hi rfl))))))))
  have e1 : x0.extractLsb' 0 4 = 4#4 := at_ hw (lo rfl)
  have e2 : x0.extractLsb' 21 5 = d := at_ hw (hi (hi (hi (hi (hi (hi (hi (lo full))))))))
  have e3 : x0.extractLsb' 16 5 = a := at_ hw (hi (hi (hi (hi (hi (hi (lo full)))))))
  have e4 : x0.extractLsb' 11 1 = h := at_ hw (hi (hi (hi (hi (lo full)))))
  have e5 : x0.extractLsb' 8 3 = p := at_ hw (hi (hi (hi (lo full))))
  have e6 : x0.extractLsb' 5 1 = z := at_ hw (hi (lo full))
  simp [select, selectData, select24, e0, e1, e2, e3, e4, e5, e6]

theorem vcvtnb (d : BitVec 5) (a : BitVec 5) (h : BitVec 1) (p : BitVec 3) (z : BitVec 1) : Statement (.vcvtnb d a h p z) := by
  refine of_row (w := 36#6 ++ d ++ a ++ 0#4 ++ h ++ p ++ 0#2 ++ z ++ 5#5) rfl fun x0 hw => ?_
  have e0 : x0.extractLsb' 26 6 = 36#6 := at_ hw (hi (hi (hi (hi (hi (hi (hi (hi rfl))))))))
  have e1 : x0.extractLsb' 0 4 = 5#4 := at_ hw (lo rfl)
  have e2 : x0.extractLsb' 21 5 = d := at_ hw (hi (hi (hi (hi (hi (hi (hi (lo full))))))))
  have e3 : x0.extractLsb' 16 5 = a := at_ hw (hi (hi (hi (hi (hi (hi (lo full)))))))
  have e4 : x0.extractLsb' 11 1 = h := at_ hw (hi (hi (hi (hi (lo full)))))
  have e5 : x0.extractLsb' 8 3 = p := at_ hw (hi (hi (hi (lo full))))
  have e6 : x0.extractLsb' 5 1 = z := at_ hw (hi (lo full))
  simp [select, selectData, select24, e0, e1, e2, e3, e4, e5, e6]

theorem vcvtw8e4 (d : BitVec 5) (a : BitVec 5) (q : BitVec 2) (p : BitVec 3) (z : BitVec 1) : Statement (.vcvtw8e4 d a q p z) := by
  refine of_row (w := 36#6 ++ d ++ a ++ 0#3 ++ q ++ p ++ 0#2 ++ z ++ 6#5) rfl fun x0 hw => ?_
  have e0 : x0.extractLsb' 26 6 = 36#6 := at_ hw (hi (hi (hi (hi (hi (hi (hi (hi rfl))))))))
  have e1 : x0.extractLsb' 0 4 = 6#4 := at_ hw (lo rfl)
  have e2 : x0.extractLsb' 21 5 = d := at_ hw (hi (hi (hi (hi (hi (hi (hi (lo full))))))))
  have e3 : x0.extractLsb' 16 5 = a := at_ hw (hi (hi (hi (hi (hi (hi (lo full)))))))
  have e4 : x0.extractLsb' 11 2 = q := at_ hw (hi (hi (hi (hi (lo full)))))
  have e5 : x0.extractLsb' 8 3 = p := at_ hw (hi (hi (hi (lo full))))
  have e6 : x0.extractLsb' 5 1 = z := at_ hw (hi (lo full))
  simp [select, selectData, select24, e0, e1, e2, e3, e4, e5, e6]

theorem vcvtw8e5 (d : BitVec 5) (a : BitVec 5) (q : BitVec 2) (p : BitVec 3) (z : BitVec 1) : Statement (.vcvtw8e5 d a q p z) := by
  refine of_row (w := 36#6 ++ d ++ a ++ 0#3 ++ q ++ p ++ 0#2 ++ z ++ 7#5) rfl fun x0 hw => ?_
  have e0 : x0.extractLsb' 26 6 = 36#6 := at_ hw (hi (hi (hi (hi (hi (hi (hi (hi rfl))))))))
  have e1 : x0.extractLsb' 0 4 = 7#4 := at_ hw (lo rfl)
  have e2 : x0.extractLsb' 21 5 = d := at_ hw (hi (hi (hi (hi (hi (hi (hi (lo full))))))))
  have e3 : x0.extractLsb' 16 5 = a := at_ hw (hi (hi (hi (hi (hi (hi (lo full)))))))
  have e4 : x0.extractLsb' 11 2 = q := at_ hw (hi (hi (hi (hi (lo full)))))
  have e5 : x0.extractLsb' 8 3 = p := at_ hw (hi (hi (hi (lo full))))
  have e6 : x0.extractLsb' 5 1 = z := at_ hw (hi (lo full))
  simp [select, selectData, select24, e0, e1, e2, e3, e4, e5, e6]

theorem vcvtn8e4 (d : BitVec 5) (a : BitVec 5) (q : BitVec 2) (p : BitVec 3) (z : BitVec 1) : Statement (.vcvtn8e4 d a q p z) := by
  refine of_row (w := 36#6 ++ d ++ a ++ 0#3 ++ q ++ p ++ 0#2 ++ z ++ 8#5) rfl fun x0 hw => ?_
  have e0 : x0.extractLsb' 26 6 = 36#6 := at_ hw (hi (hi (hi (hi (hi (hi (hi (hi rfl))))))))
  have e1 : x0.extractLsb' 0 4 = 8#4 := at_ hw (lo rfl)
  have e2 : x0.extractLsb' 21 5 = d := at_ hw (hi (hi (hi (hi (hi (hi (hi (lo full))))))))
  have e3 : x0.extractLsb' 16 5 = a := at_ hw (hi (hi (hi (hi (hi (hi (lo full)))))))
  have e4 : x0.extractLsb' 11 2 = q := at_ hw (hi (hi (hi (hi (lo full)))))
  have e5 : x0.extractLsb' 8 3 = p := at_ hw (hi (hi (hi (lo full))))
  have e6 : x0.extractLsb' 5 1 = z := at_ hw (hi (lo full))
  simp [select, selectData, select24, e0, e1, e2, e3, e4, e5, e6]

theorem vcvtn8e5 (d : BitVec 5) (a : BitVec 5) (q : BitVec 2) (p : BitVec 3) (z : BitVec 1) : Statement (.vcvtn8e5 d a q p z) := by
  refine of_row (w := 36#6 ++ d ++ a ++ 0#3 ++ q ++ p ++ 0#2 ++ z ++ 9#5) rfl fun x0 hw => ?_
  have e0 : x0.extractLsb' 26 6 = 36#6 := at_ hw (hi (hi (hi (hi (hi (hi (hi (hi rfl))))))))
  have e1 : x0.extractLsb' 0 4 = 9#4 := at_ hw (lo rfl)
  have e2 : x0.extractLsb' 21 5 = d := at_ hw (hi (hi (hi (hi (hi (hi (hi (lo full))))))))
  have e3 : x0.extractLsb' 16 5 = a := at_ hw (hi (hi (hi (hi (hi (hi (lo full)))))))
  have e4 : x0.extractLsb' 11 2 = q := at_ hw (hi (hi (hi (hi (lo full)))))
  have e5 : x0.extractLsb' 8 3 = p := at_ hw (hi (hi (hi (lo full))))
  have e6 : x0.extractLsb' 5 1 = z := at_ hw (hi (lo full))
  simp [select, selectData, select24, e0, e1, e2, e3, e4, e5, e6]

theorem vqblk (d : BitVec 5) (a : BitVec 5) (r : BitVec 5) : Statement (.vqblk d a r) := by
  refine of_row (w := 36#6 ++ d ++ a ++ r ++ 10#11) rfl fun x0 hw => ?_
  have e0 : x0.extractLsb' 26 6 = 36#6 := at_ hw (hi (hi (hi (hi rfl))))
  have e1 : x0.extractLsb' 0 4 = 10#4 := at_ hw (lo rfl)
  have e2 : x0.extractLsb' 21 5 = d := at_ hw (hi (hi (hi (lo full))))
  have e3 : x0.extractLsb' 16 5 = a := at_ hw (hi (hi (lo full)))
  have e4 : x0.extractLsb' 11 5 = r := at_ hw (hi (lo full))
  simp [select, selectData, select24, e0, e1, e2, e3, e4]

theorem vqmx (d : BitVec 5) (a : BitVec 5) (t : BitVec 2) : Statement (.vqmx d a t) := by
  refine of_row (w := 36#6 ++ d ++ a ++ 0#3 ++ t ++ 11#11) rfl fun x0 hw => ?_
  have e0 : x0.extractLsb' 26 6 = 36#6 := at_ hw (hi (hi (hi (hi (hi rfl)))))
  have e1 : x0.extractLsb' 0 4 = 11#4 := at_ hw (lo rfl)
  have e2 : x0.extractLsb' 21 5 = d := at_ hw (hi (hi (hi (hi (lo full)))))
  have e3 : x0.extractLsb' 16 5 = a := at_ hw (hi (hi (hi (lo full))))
  have e4 : x0.extractLsb' 11 2 = t := at_ hw (hi (lo full))
  simp [select, selectData, select24, e0, e1, e2, e3, e4]

theorem vld (d : BitVec 5) (a : BitVec 5) (p : BitVec 3) (e : BitVec 2) (z : BitVec 1) : Statement (.vld d a p e z) := by
  refine of_row (w := 37#6 ++ d ++ a ++ 0#5 ++ p ++ e ++ z ++ 0#5) rfl fun x0 hw => ?_
  have e0 : x0.extractLsb' 26 6 = 37#6 := at_ hw (hi (hi (hi (hi (hi (hi (hi rfl)))))))
  have e1 : x0.extractLsb' 0 3 = 0#3 := at_ hw (lo rfl)
  have e2 : x0.extractLsb' 21 5 = d := at_ hw (hi (hi (hi (hi (hi (hi (lo full)))))))
  have e3 : x0.extractLsb' 16 5 = a := at_ hw (hi (hi (hi (hi (hi (lo full))))))
  have e4 : x0.extractLsb' 8 3 = p := at_ hw (hi (hi (hi (lo full))))
  have e5 : x0.extractLsb' 6 2 = e := at_ hw (hi (hi (lo full)))
  have e6 : x0.extractLsb' 5 1 = z := at_ hw (hi (lo full))
  simp [select, selectData, select25, e0, e1, e2, e3, e4, e5, e6]

theorem vst (d : BitVec 5) (a : BitVec 5) (p : BitVec 3) (e : BitVec 2) : Statement (.vst d a p e) := by
  refine of_row (w := 37#6 ++ d ++ a ++ 0#5 ++ p ++ e ++ 1#6) rfl fun x0 hw => ?_
  have e0 : x0.extractLsb' 26 6 = 37#6 := at_ hw (hi (hi (hi (hi (hi (hi rfl))))))
  have e1 : x0.extractLsb' 0 3 = 1#3 := at_ hw (lo rfl)
  have e2 : x0.extractLsb' 21 5 = d := at_ hw (hi (hi (hi (hi (hi (lo full))))))
  have e3 : x0.extractLsb' 16 5 = a := at_ hw (hi (hi (hi (hi (lo full)))))
  have e4 : x0.extractLsb' 8 3 = p := at_ hw (hi (hi (lo full)))
  have e5 : x0.extractLsb' 6 2 = e := at_ hw (hi (lo full))
  simp [select, selectData, select25, e0, e1, e2, e3, e4, e5]

theorem vldx (d : BitVec 5) (a : BitVec 5) (b : BitVec 5) (p : BitVec 3) (e : BitVec 2) (z : BitVec 1) : Statement (.vldx d a b p e z) := by
  refine of_row (w := 37#6 ++ d ++ a ++ b ++ p ++ e ++ z ++ 2#5) rfl fun x0 hw => ?_
  have e0 : x0.extractLsb' 26 6 = 37#6 := at_ hw (hi (hi (hi (hi (hi (hi (hi rfl)))))))
  have e1 : x0.extractLsb' 0 3 = 2#3 := at_ hw (lo rfl)
  have e2 : x0.extractLsb' 21 5 = d := at_ hw (hi (hi (hi (hi (hi (hi (lo full)))))))
  have e3 : x0.extractLsb' 16 5 = a := at_ hw (hi (hi (hi (hi (hi (lo full))))))
  have e4 : x0.extractLsb' 11 5 = b := at_ hw (hi (hi (hi (hi (lo full)))))
  have e5 : x0.extractLsb' 8 3 = p := at_ hw (hi (hi (hi (lo full))))
  have e6 : x0.extractLsb' 6 2 = e := at_ hw (hi (hi (lo full)))
  have e7 : x0.extractLsb' 5 1 = z := at_ hw (hi (lo full))
  simp [select, selectData, select25, e0, e1, e2, e3, e4, e5, e6, e7]

theorem vstx (d : BitVec 5) (a : BitVec 5) (b : BitVec 5) (p : BitVec 3) (e : BitVec 2) : Statement (.vstx d a b p e) := by
  refine of_row (w := 37#6 ++ d ++ a ++ b ++ p ++ e ++ 3#6) rfl fun x0 hw => ?_
  have e0 : x0.extractLsb' 26 6 = 37#6 := at_ hw (hi (hi (hi (hi (hi (hi rfl))))))
  have e1 : x0.extractLsb' 0 3 = 3#3 := at_ hw (lo rfl)
  have e2 : x0.extractLsb' 21 5 = d := at_ hw (hi (hi (hi (hi (hi (lo full))))))
  have e3 : x0.extractLsb' 16 5 = a := at_ hw (hi (hi (hi (hi (lo full)))))
  have e4 : x0.extractLsb' 11 5 = b := at_ hw (hi (hi (hi (lo full))))
  have e5 : x0.extractLsb' 8 3 = p := at_ hw (hi (hi (lo full)))
  have e6 : x0.extractLsb' 6 2 = e := at_ hw (hi (lo full))
  simp [select, selectData, select25, e0, e1, e2, e3, e4, e5, e6]

theorem vldb (d : BitVec 5) (a : BitVec 5) (p : BitVec 3) (e : BitVec 2) (z : BitVec 1) : Statement (.vldb d a p e z) := by
  refine of_row (w := 37#6 ++ d ++ a ++ 0#5 ++ p ++ e ++ z ++ 4#5) rfl fun x0 hw => ?_
  have e0 : x0.extractLsb' 26 6 = 37#6 := at_ hw (hi (hi (hi (hi (hi (hi (hi rfl)))))))
  have e1 : x0.extractLsb' 0 3 = 4#3 := at_ hw (lo rfl)
  have e2 : x0.extractLsb' 21 5 = d := at_ hw (hi (hi (hi (hi (hi (hi (lo full)))))))
  have e3 : x0.extractLsb' 16 5 = a := at_ hw (hi (hi (hi (hi (hi (lo full))))))
  have e4 : x0.extractLsb' 8 3 = p := at_ hw (hi (hi (hi (lo full))))
  have e5 : x0.extractLsb' 6 2 = e := at_ hw (hi (hi (lo full)))
  have e6 : x0.extractLsb' 5 1 = z := at_ hw (hi (lo full))
  simp [select, selectData, select25, e0, e1, e2, e3, e4, e5, e6]

theorem vlds (d : BitVec 5) (a : BitVec 5) (b : BitVec 5) (p : BitVec 3) (e : BitVec 2) (z : BitVec 1) : Statement (.vlds d a b p e z) := by
  refine of_row (w := 37#6 ++ d ++ a ++ b ++ p ++ e ++ z ++ 5#5) rfl fun x0 hw => ?_
  have e0 : x0.extractLsb' 26 6 = 37#6 := at_ hw (hi (hi (hi (hi (hi (hi (hi rfl)))))))
  have e1 : x0.extractLsb' 0 3 = 5#3 := at_ hw (lo rfl)
  have e2 : x0.extractLsb' 21 5 = d := at_ hw (hi (hi (hi (hi (hi (hi (lo full)))))))
  have e3 : x0.extractLsb' 16 5 = a := at_ hw (hi (hi (hi (hi (hi (lo full))))))
  have e4 : x0.extractLsb' 11 5 = b := at_ hw (hi (hi (hi (hi (lo full)))))
  have e5 : x0.extractLsb' 8 3 = p := at_ hw (hi (hi (hi (lo full))))
  have e6 : x0.extractLsb' 6 2 = e := at_ hw (hi (hi (lo full)))
  have e7 : x0.extractLsb' 5 1 = z := at_ hw (hi (lo full))
  simp [select, selectData, select25, e0, e1, e2, e3, e4, e5, e6, e7]

theorem vsts (d : BitVec 5) (a : BitVec 5) (b : BitVec 5) (p : BitVec 3) (e : BitVec 2) : Statement (.vsts d a b p e) := by
  refine of_row (w := 37#6 ++ d ++ a ++ b ++ p ++ e ++ 6#6) rfl fun x0 hw => ?_
  have e0 : x0.extractLsb' 26 6 = 37#6 := at_ hw (hi (hi (hi (hi (hi (hi rfl))))))
  have e1 : x0.extractLsb' 0 3 = 6#3 := at_ hw (lo rfl)
  have e2 : x0.extractLsb' 21 5 = d := at_ hw (hi (hi (hi (hi (hi (lo full))))))
  have e3 : x0.extractLsb' 16 5 = a := at_ hw (hi (hi (hi (hi (lo full)))))
  have e4 : x0.extractLsb' 11 5 = b := at_ hw (hi (hi (hi (lo full))))
  have e5 : x0.extractLsb' 8 3 = p := at_ hw (hi (hi (lo full)))
  have e6 : x0.extractLsb' 6 2 = e := at_ hw (hi (lo full))
  simp [select, selectData, select25, e0, e1, e2, e3, e4, e5, e6]

theorem vrcp (d : BitVec 5) (a : BitVec 5) (p : BitVec 3) (z : BitVec 1) : Statement (.vrcp d a p z) := by
  refine of_row (w := 38#6 ++ d ++ a ++ 0#5 ++ p ++ 0#2 ++ z ++ 0#5) rfl fun x0 hw => ?_
  have e0 : x0.extractLsb' 26 6 = 38#6 := at_ hw (hi (hi (hi (hi (hi (hi (hi rfl)))))))
  have e1 : x0.extractLsb' 0 3 = 0#3 := at_ hw (lo rfl)
  have e2 : x0.extractLsb' 21 5 = d := at_ hw (hi (hi (hi (hi (hi (hi (lo full)))))))
  have e3 : x0.extractLsb' 16 5 = a := at_ hw (hi (hi (hi (hi (hi (lo full))))))
  have e4 : x0.extractLsb' 8 3 = p := at_ hw (hi (hi (hi (lo full))))
  have e5 : x0.extractLsb' 5 1 = z := at_ hw (hi (lo full))
  simp [select, selectData, select26, e0, e1, e2, e3, e4, e5]

theorem vrsqrt (d : BitVec 5) (a : BitVec 5) (p : BitVec 3) (z : BitVec 1) : Statement (.vrsqrt d a p z) := by
  refine of_row (w := 38#6 ++ d ++ a ++ 0#5 ++ p ++ 0#2 ++ z ++ 1#5) rfl fun x0 hw => ?_
  have e0 : x0.extractLsb' 26 6 = 38#6 := at_ hw (hi (hi (hi (hi (hi (hi (hi rfl)))))))
  have e1 : x0.extractLsb' 0 3 = 1#3 := at_ hw (lo rfl)
  have e2 : x0.extractLsb' 21 5 = d := at_ hw (hi (hi (hi (hi (hi (hi (lo full)))))))
  have e3 : x0.extractLsb' 16 5 = a := at_ hw (hi (hi (hi (hi (hi (lo full))))))
  have e4 : x0.extractLsb' 8 3 = p := at_ hw (hi (hi (hi (lo full))))
  have e5 : x0.extractLsb' 5 1 = z := at_ hw (hi (lo full))
  simp [select, selectData, select26, e0, e1, e2, e3, e4, e5]

theorem vsqrt (d : BitVec 5) (a : BitVec 5) (p : BitVec 3) (z : BitVec 1) : Statement (.vsqrt d a p z) := by
  refine of_row (w := 38#6 ++ d ++ a ++ 0#5 ++ p ++ 0#2 ++ z ++ 2#5) rfl fun x0 hw => ?_
  have e0 : x0.extractLsb' 26 6 = 38#6 := at_ hw (hi (hi (hi (hi (hi (hi (hi rfl)))))))
  have e1 : x0.extractLsb' 0 3 = 2#3 := at_ hw (lo rfl)
  have e2 : x0.extractLsb' 21 5 = d := at_ hw (hi (hi (hi (hi (hi (hi (lo full)))))))
  have e3 : x0.extractLsb' 16 5 = a := at_ hw (hi (hi (hi (hi (hi (lo full))))))
  have e4 : x0.extractLsb' 8 3 = p := at_ hw (hi (hi (hi (lo full))))
  have e5 : x0.extractLsb' 5 1 = z := at_ hw (hi (lo full))
  simp [select, selectData, select26, e0, e1, e2, e3, e4, e5]

theorem vexp2 (d : BitVec 5) (a : BitVec 5) (p : BitVec 3) (z : BitVec 1) : Statement (.vexp2 d a p z) := by
  refine of_row (w := 38#6 ++ d ++ a ++ 0#5 ++ p ++ 0#2 ++ z ++ 3#5) rfl fun x0 hw => ?_
  have e0 : x0.extractLsb' 26 6 = 38#6 := at_ hw (hi (hi (hi (hi (hi (hi (hi rfl)))))))
  have e1 : x0.extractLsb' 0 3 = 3#3 := at_ hw (lo rfl)
  have e2 : x0.extractLsb' 21 5 = d := at_ hw (hi (hi (hi (hi (hi (hi (lo full)))))))
  have e3 : x0.extractLsb' 16 5 = a := at_ hw (hi (hi (hi (hi (hi (lo full))))))
  have e4 : x0.extractLsb' 8 3 = p := at_ hw (hi (hi (hi (lo full))))
  have e5 : x0.extractLsb' 5 1 = z := at_ hw (hi (lo full))
  simp [select, selectData, select26, e0, e1, e2, e3, e4, e5]

theorem vlog2 (d : BitVec 5) (a : BitVec 5) (p : BitVec 3) (z : BitVec 1) : Statement (.vlog2 d a p z) := by
  refine of_row (w := 38#6 ++ d ++ a ++ 0#5 ++ p ++ 0#2 ++ z ++ 4#5) rfl fun x0 hw => ?_
  have e0 : x0.extractLsb' 26 6 = 38#6 := at_ hw (hi (hi (hi (hi (hi (hi (hi rfl)))))))
  have e1 : x0.extractLsb' 0 3 = 4#3 := at_ hw (lo rfl)
  have e2 : x0.extractLsb' 21 5 = d := at_ hw (hi (hi (hi (hi (hi (hi (lo full)))))))
  have e3 : x0.extractLsb' 16 5 = a := at_ hw (hi (hi (hi (hi (hi (lo full))))))
  have e4 : x0.extractLsb' 8 3 = p := at_ hw (hi (hi (hi (lo full))))
  have e5 : x0.extractLsb' 5 1 = z := at_ hw (hi (lo full))
  simp [select, selectData, select26, e0, e1, e2, e3, e4, e5]

theorem vsin (d : BitVec 5) (a : BitVec 5) (p : BitVec 3) (z : BitVec 1) : Statement (.vsin d a p z) := by
  refine of_row (w := 38#6 ++ d ++ a ++ 0#5 ++ p ++ 0#2 ++ z ++ 5#5) rfl fun x0 hw => ?_
  have e0 : x0.extractLsb' 26 6 = 38#6 := at_ hw (hi (hi (hi (hi (hi (hi (hi rfl)))))))
  have e1 : x0.extractLsb' 0 3 = 5#3 := at_ hw (lo rfl)
  have e2 : x0.extractLsb' 21 5 = d := at_ hw (hi (hi (hi (hi (hi (hi (lo full)))))))
  have e3 : x0.extractLsb' 16 5 = a := at_ hw (hi (hi (hi (hi (hi (lo full))))))
  have e4 : x0.extractLsb' 8 3 = p := at_ hw (hi (hi (hi (lo full))))
  have e5 : x0.extractLsb' 5 1 = z := at_ hw (hi (lo full))
  simp [select, selectData, select26, e0, e1, e2, e3, e4, e5]

theorem vcos (d : BitVec 5) (a : BitVec 5) (p : BitVec 3) (z : BitVec 1) : Statement (.vcos d a p z) := by
  refine of_row (w := 38#6 ++ d ++ a ++ 0#5 ++ p ++ 0#2 ++ z ++ 6#5) rfl fun x0 hw => ?_
  have e0 : x0.extractLsb' 26 6 = 38#6 := at_ hw (hi (hi (hi (hi (hi (hi (hi rfl)))))))
  have e1 : x0.extractLsb' 0 3 = 6#3 := at_ hw (lo rfl)
  have e2 : x0.extractLsb' 21 5 = d := at_ hw (hi (hi (hi (hi (hi (hi (lo full)))))))
  have e3 : x0.extractLsb' 16 5 = a := at_ hw (hi (hi (hi (hi (hi (lo full))))))
  have e4 : x0.extractLsb' 8 3 = p := at_ hw (hi (hi (hi (lo full))))
  have e5 : x0.extractLsb' 5 1 = z := at_ hw (hi (lo full))
  simp [select, selectData, select26, e0, e1, e2, e3, e4, e5]

theorem vtanh (d : BitVec 5) (a : BitVec 5) (p : BitVec 3) (z : BitVec 1) : Statement (.vtanh d a p z) := by
  refine of_row (w := 38#6 ++ d ++ a ++ 0#5 ++ p ++ 0#2 ++ z ++ 7#5) rfl fun x0 hw => ?_
  have e0 : x0.extractLsb' 26 6 = 38#6 := at_ hw (hi (hi (hi (hi (hi (hi (hi rfl)))))))
  have e1 : x0.extractLsb' 0 3 = 7#3 := at_ hw (lo rfl)
  have e2 : x0.extractLsb' 21 5 = d := at_ hw (hi (hi (hi (hi (hi (hi (lo full)))))))
  have e3 : x0.extractLsb' 16 5 = a := at_ hw (hi (hi (hi (hi (hi (lo full))))))
  have e4 : x0.extractLsb' 8 3 = p := at_ hw (hi (hi (hi (lo full))))
  have e5 : x0.extractLsb' 5 1 = z := at_ hw (hi (lo full))
  simp [select, selectData, select26, e0, e1, e2, e3, e4, e5]

theorem pand (d : BitVec 3) (a : BitVec 3) (b : BitVec 3) : Statement (.pand d a b) := by
  refine of_row (w := 156#8 ++ d ++ 0#2 ++ a ++ 0#2 ++ b ++ 0#11) rfl fun x0 hw => ?_
  have e0 : x0.extractLsb' 26 6 = 39#6 := at_ hw (hi (hi (hi (hi (hi (hi rfl))))))
  have e1 : x0.extractLsb' 0 4 = 0#4 := at_ hw (lo rfl)
  have e2 : x0.extractLsb' 21 3 = d := at_ hw (hi (hi (hi (hi (hi (lo full))))))
  have e3 : x0.extractLsb' 16 3 = a := at_ hw (hi (hi (hi (lo full))))
  have e4 : x0.extractLsb' 11 3 = b := at_ hw (hi (lo full))
  simp [select, selectData, select27, e0, e1, e2, e3, e4]

theorem por (d : BitVec 3) (a : BitVec 3) (b : BitVec 3) : Statement (.por d a b) := by
  refine of_row (w := 156#8 ++ d ++ 0#2 ++ a ++ 0#2 ++ b ++ 1#11) rfl fun x0 hw => ?_
  have e0 : x0.extractLsb' 26 6 = 39#6 := at_ hw (hi (hi (hi (hi (hi (hi rfl))))))
  have e1 : x0.extractLsb' 0 4 = 1#4 := at_ hw (lo rfl)
  have e2 : x0.extractLsb' 21 3 = d := at_ hw (hi (hi (hi (hi (hi (lo full))))))
  have e3 : x0.extractLsb' 16 3 = a := at_ hw (hi (hi (hi (lo full))))
  have e4 : x0.extractLsb' 11 3 = b := at_ hw (hi (lo full))
  simp [select, selectData, select27, e0, e1, e2, e3, e4]

theorem pxor (d : BitVec 3) (a : BitVec 3) (b : BitVec 3) : Statement (.pxor d a b) := by
  refine of_row (w := 156#8 ++ d ++ 0#2 ++ a ++ 0#2 ++ b ++ 2#11) rfl fun x0 hw => ?_
  have e0 : x0.extractLsb' 26 6 = 39#6 := at_ hw (hi (hi (hi (hi (hi (hi rfl))))))
  have e1 : x0.extractLsb' 0 4 = 2#4 := at_ hw (lo rfl)
  have e2 : x0.extractLsb' 21 3 = d := at_ hw (hi (hi (hi (hi (hi (lo full))))))
  have e3 : x0.extractLsb' 16 3 = a := at_ hw (hi (hi (hi (lo full))))
  have e4 : x0.extractLsb' 11 3 = b := at_ hw (hi (lo full))
  simp [select, selectData, select27, e0, e1, e2, e3, e4]

theorem pandn (d : BitVec 3) (a : BitVec 3) (b : BitVec 3) : Statement (.pandn d a b) := by
  refine of_row (w := 156#8 ++ d ++ 0#2 ++ a ++ 0#2 ++ b ++ 3#11) rfl fun x0 hw => ?_
  have e0 : x0.extractLsb' 26 6 = 39#6 := at_ hw (hi (hi (hi (hi (hi (hi rfl))))))
  have e1 : x0.extractLsb' 0 4 = 3#4 := at_ hw (lo rfl)
  have e2 : x0.extractLsb' 21 3 = d := at_ hw (hi (hi (hi (hi (hi (lo full))))))
  have e3 : x0.extractLsb' 16 3 = a := at_ hw (hi (hi (hi (lo full))))
  have e4 : x0.extractLsb' 11 3 = b := at_ hw (hi (lo full))
  simp [select, selectData, select27, e0, e1, e2, e3, e4]

theorem pnot (d : BitVec 3) (a : BitVec 3) : Statement (.pnot d a) := by
  refine of_row (w := 156#8 ++ d ++ 0#2 ++ a ++ 4#16) rfl fun x0 hw => ?_
  have e0 : x0.extractLsb' 26 6 = 39#6 := at_ hw (hi (hi (hi (hi rfl))))
  have e1 : x0.extractLsb' 0 4 = 4#4 := at_ hw (lo rfl)
  have e2 : x0.extractLsb' 21 3 = d := at_ hw (hi (hi (hi (lo full))))
  have e3 : x0.extractLsb' 16 3 = a := at_ hw (hi (lo full))
  simp [select, selectData, select27, e0, e1, e2, e3]

theorem pfirst (d : BitVec 3) (a : BitVec 3) : Statement (.pfirst d a) := by
  refine of_row (w := 156#8 ++ d ++ 0#2 ++ a ++ 5#16) rfl fun x0 hw => ?_
  have e0 : x0.extractLsb' 26 6 = 39#6 := at_ hw (hi (hi (hi (hi rfl))))
  have e1 : x0.extractLsb' 0 4 = 5#4 := at_ hw (lo rfl)
  have e2 : x0.extractLsb' 21 3 = d := at_ hw (hi (hi (hi (lo full))))
  have e3 : x0.extractLsb' 16 3 = a := at_ hw (hi (lo full))
  simp [select, selectData, select27, e0, e1, e2, e3]

theorem pcnt (d : BitVec 5) (a : BitVec 3) : Statement (.pcnt d a) := by
  refine of_row (w := 39#6 ++ d ++ 0#2 ++ a ++ 6#16) rfl fun x0 hw => ?_
  have e0 : x0.extractLsb' 26 6 = 39#6 := at_ hw (hi (hi (hi (hi rfl))))
  have e1 : x0.extractLsb' 0 4 = 6#4 := at_ hw (lo rfl)
  have e2 : x0.extractLsb' 21 5 = d := at_ hw (hi (hi (hi (lo full))))
  have e3 : x0.extractLsb' 16 3 = a := at_ hw (hi (lo full))
  simp [select, selectData, select27, e0, e1, e2, e3]

theorem pset (d : BitVec 3) (a : BitVec 5) : Statement (.pset d a) := by
  refine of_row (w := 156#8 ++ d ++ a ++ 7#16) rfl fun x0 hw => ?_
  have e0 : x0.extractLsb' 26 6 = 39#6 := at_ hw (hi (hi (hi rfl)))
  have e1 : x0.extractLsb' 0 4 = 7#4 := at_ hw (lo rfl)
  have e2 : x0.extractLsb' 21 3 = d := at_ hw (hi (hi (lo full)))
  have e3 : x0.extractLsb' 16 5 = a := at_ hw (hi (lo full))
  simp [select, selectData, select27, e0, e1, e2, e3]

theorem pget (d : BitVec 5) (a : BitVec 3) : Statement (.pget d a) := by
  refine of_row (w := 39#6 ++ d ++ 0#2 ++ a ++ 8#16) rfl fun x0 hw => ?_
  have e0 : x0.extractLsb' 26 6 = 39#6 := at_ hw (hi (hi (hi (hi rfl))))
  have e1 : x0.extractLsb' 0 4 = 8#4 := at_ hw (lo rfl)
  have e2 : x0.extractLsb' 21 5 = d := at_ hw (hi (hi (hi (lo full))))
  have e3 : x0.extractLsb' 16 3 = a := at_ hw (hi (lo full))
  simp [select, selectData, select27, e0, e1, e2, e3]

theorem mxq (s : BitVec 5) (w : BitVec 2) (m : BitVec 1) (i : BitVec 15) : Statement (.mxq s w m i) := by
  refine of_row (w := 320#9 ++ s ++ w ++ m ++ i) rfl fun x0 hw => ?_
  have e0 : x0.extractLsb' 26 6 = 40#6 := at_ hw (hi (hi (hi (hi rfl))))
  have e1 : x0.extractLsb' 18 5 = s := at_ hw (hi (hi (hi (lo full))))
  have e2 : x0.extractLsb' 16 2 = w := at_ hw (hi (hi (lo full)))
  have e3 : x0.extractLsb' 15 1 = m := at_ hw (hi (lo full))
  have e4 : x0.extractLsb' 0 15 = i := at_ hw (lo full)
  simp [select, e0, e1, e2, e3, e4]

theorem cpq (c : BitVec 2) (s : BitVec 5) (w : BitVec 2) (m : BitVec 1) (i : BitVec 15) : Statement (.cpq c s w m i) := by
  refine of_row (w := 82#7 ++ c ++ s ++ w ++ m ++ i) rfl fun x0 hw => ?_
  have e0 : x0.extractLsb' 26 6 = 41#6 := at_ hw (hi (hi (hi (hi (hi rfl)))))
  have e1 : x0.extractLsb' 23 2 = c := at_ hw (hi (hi (hi (hi (lo full)))))
  have e2 : x0.extractLsb' 18 5 = s := at_ hw (hi (hi (hi (lo full))))
  have e3 : x0.extractLsb' 16 2 = w := at_ hw (hi (hi (lo full)))
  have e4 : x0.extractLsb' 15 1 = m := at_ hw (hi (lo full))
  have e5 : x0.extractLsb' 0 15 = i := at_ hw (lo full)
  simp [select, e0, e1, e2, e3, e4, e5]

theorem trq (s : BitVec 5) (w : BitVec 2) (m : BitVec 1) (i : BitVec 15) : Statement (.trq s w m i) := by
  refine of_row (w := 339#9 ++ s ++ w ++ m ++ i) rfl fun x0 hw => ?_
  have e0 : x0.extractLsb' 26 6 = 42#6 := at_ hw (hi (hi (hi (hi rfl))))
  have e1 : x0.extractLsb' 18 5 = s := at_ hw (hi (hi (hi (lo full))))
  have e2 : x0.extractLsb' 16 2 = w := at_ hw (hi (hi (lo full)))
  have e3 : x0.extractLsb' 15 1 = m := at_ hw (hi (lo full))
  have e4 : x0.extractLsb' 0 15 = i := at_ hw (lo full)
  simp [select, e0, e1, e2, e3, e4]

theorem waitc (d : BitVec 5) (a : BitVec 5) (k : BitVec 2) : Statement (.waitc d a k) := by
  refine of_row (w := 43#6 ++ d ++ a ++ 0#14 ++ k) rfl fun x0 hw => ?_
  have e0 : x0.extractLsb' 26 6 = 43#6 := at_ hw (hi (hi (hi (hi rfl))))
  have e1 : x0.extractLsb' 8 2 = 0#2 := at_ hw (hi (lo rfl))
  have e2 : x0.extractLsb' 21 5 = d := at_ hw (hi (hi (hi (lo full))))
  have e3 : x0.extractLsb' 16 5 = a := at_ hw (hi (hi (lo full)))
  have e4 : x0.extractLsb' 0 2 = k := at_ hw (lo full)
  simp [select, select2B, e0, e1, e2, e3, e4]

theorem engst (d : BitVec 5) (e : BitVec 2) : Statement (.engst d e) := by
  refine of_row (w := 43#6 ++ d ++ 64#19 ++ e) rfl fun x0 hw => ?_
  have e0 : x0.extractLsb' 26 6 = 43#6 := at_ hw (hi (hi (hi rfl)))
  have e1 : x0.extractLsb' 8 2 = 1#2 := at_ hw (hi (lo rfl))
  have e2 : x0.extractLsb' 21 5 = d := at_ hw (hi (hi (lo full)))
  have e3 : x0.extractLsb' 0 2 = e := at_ hw (lo full)
  simp [select, select2B, e0, e1, e2, e3]

theorem rnginit (a : BitVec 5) (b : BitVec 5) : Statement (.rnginit a b) := by
  refine of_row (w := 1376#11 ++ a ++ b ++ 512#11) rfl fun x0 hw => ?_
  have e0 : x0.extractLsb' 26 6 = 43#6 := at_ hw (hi (hi (hi rfl)))
  have e1 : x0.extractLsb' 8 2 = 2#2 := at_ hw (lo rfl)
  have e2 : x0.extractLsb' 16 5 = a := at_ hw (hi (hi (lo full)))
  have e3 : x0.extractLsb' 11 5 = b := at_ hw (hi (lo full))
  simp [select, select2B, e0, e1, e2, e3]

theorem rngnext (d : BitVec 5) : Statement (.rngnext d) := by
  refine of_row (w := 43#6 ++ d ++ 768#21) rfl fun x0 hw => ?_
  have e0 : x0.extractLsb' 26 6 = 43#6 := at_ hw (hi (hi rfl))
  have e1 : x0.extractLsb' 8 2 = 3#2 := at_ hw (lo rfl)
  have e2 : x0.extractLsb' 21 5 = d := at_ hw (hi (lo full))
  simp [select, select2B, e0, e1, e2]

theorem send (d : BitVec 5) (a : BitVec 5) (b : BitVec 5) : Statement (.send d a b) := by
  refine of_row (w := 44#6 ++ d ++ a ++ b ++ 0#11) rfl fun x0 hw => ?_
  have e0 : x0.extractLsb' 26 6 = 44#6 := at_ hw (hi (hi (hi (hi rfl))))
  have e1 : x0.extractLsb' 8 3 = 0#3 := at_ hw (lo rfl)
  have e2 : x0.extractLsb' 21 5 = d := at_ hw (hi (hi (hi (lo full))))
  have e3 : x0.extractLsb' 16 5 = a := at_ hw (hi (hi (lo full)))
  have e4 : x0.extractLsb' 11 5 = b := at_ hw (hi (lo full))
  simp [select, select2C, e0, e1, e2, e3, e4]

theorem senda (d : BitVec 5) (a : BitVec 5) (b : BitVec 5) (h : BitVec 6) : Statement (.senda d a b h) := by
  refine of_row (w := 44#6 ++ d ++ a ++ b ++ 4#5 ++ h) rfl fun x0 hw => ?_
  have e0 : x0.extractLsb' 26 6 = 44#6 := at_ hw (hi (hi (hi (hi (hi rfl)))))
  have e1 : x0.extractLsb' 8 3 = 1#3 := at_ hw (hi (lo rfl))
  have e2 : x0.extractLsb' 21 5 = d := at_ hw (hi (hi (hi (hi (lo full)))))
  have e3 : x0.extractLsb' 16 5 = a := at_ hw (hi (hi (hi (lo full))))
  have e4 : x0.extractLsb' 11 5 = b := at_ hw (hi (hi (lo full)))
  have e5 : x0.extractLsb' 0 6 = h := at_ hw (lo full)
  simp [select, select2C, e0, e1, e2, e3, e4, e5]

theorem recv (d : BitVec 5) (b : BitVec 5) : Statement (.recv d b) := by
  refine of_row (w := 44#6 ++ d ++ 0#5 ++ b ++ 512#11) rfl fun x0 hw => ?_
  have e0 : x0.extractLsb' 26 6 = 44#6 := at_ hw (hi (hi (hi (hi rfl))))
  have e1 : x0.extractLsb' 8 3 = 2#3 := at_ hw (lo rfl)
  have e2 : x0.extractLsb' 21 5 = d := at_ hw (hi (hi (hi (lo full))))
  have e3 : x0.extractLsb' 11 5 = b := at_ hw (hi (lo full))
  simp [select, select2C, e0, e1, e2, e3]

theorem recvp (d : BitVec 5) (b : BitVec 5) : Statement (.recvp d b) := by
  refine of_row (w := 44#6 ++ d ++ 0#5 ++ b ++ 768#11) rfl fun x0 hw => ?_
  have e0 : x0.extractLsb' 26 6 = 44#6 := at_ hw (hi (hi (hi (hi rfl))))
  have e1 : x0.extractLsb' 8 3 = 3#3 := at_ hw (lo rfl)
  have e2 : x0.extractLsb' 21 5 = d := at_ hw (hi (hi (hi (lo full))))
  have e3 : x0.extractLsb' 11 5 = b := at_ hw (hi (lo full))
  simp [select, select2C, e0, e1, e2, e3]

theorem recvf (d : BitVec 5) (a : BitVec 5) (b : BitVec 5) : Statement (.recvf d a b) := by
  refine of_row (w := 44#6 ++ d ++ a ++ b ++ 1024#11) rfl fun x0 hw => ?_
  have e0 : x0.extractLsb' 26 6 = 44#6 := at_ hw (hi (hi (hi (hi rfl))))
  have e1 : x0.extractLsb' 8 3 = 4#3 := at_ hw (lo rfl)
  have e2 : x0.extractLsb' 21 5 = d := at_ hw (hi (hi (hi (lo full))))
  have e3 : x0.extractLsb' 16 5 = a := at_ hw (hi (hi (lo full)))
  have e4 : x0.extractLsb' 11 5 = b := at_ hw (hi (lo full))
  simp [select, select2C, e0, e1, e2, e3, e4]

theorem reply (d : BitVec 5) (b : BitVec 5) : Statement (.reply d b) := by
  refine of_row (w := 44#6 ++ d ++ 0#5 ++ b ++ 1280#11) rfl fun x0 hw => ?_
  have e0 : x0.extractLsb' 26 6 = 44#6 := at_ hw (hi (hi (hi (hi rfl))))
  have e1 : x0.extractLsb' 8 3 = 5#3 := at_ hw (lo rfl)
  have e2 : x0.extractLsb' 21 5 = d := at_ hw (hi (hi (hi (lo full))))
  have e3 : x0.extractLsb' 11 5 = b := at_ hw (hi (lo full))
  simp [select, select2C, e0, e1, e2, e3]

theorem hset (a : BitVec 5) (h : BitVec 6) : Statement (.hset a h) := by
  refine of_row (w := 1440#11 ++ a ++ 0#10 ++ h) rfl fun x0 hw => ?_
  have e0 : x0.extractLsb' 26 6 = 45#6 := at_ hw (hi (hi (hi rfl)))
  have e1 : x0.extractLsb' 8 2 = 0#2 := at_ hw (hi (lo rfl))
  have e2 : x0.extractLsb' 16 5 = a := at_ hw (hi (hi (lo full)))
  have e3 : x0.extractLsb' 0 6 = h := at_ hw (lo full)
  simp [select, select2D, e0, e1, e2, e3]

theorem hclr (h : BitVec 6) : Statement (.hclr h) := by
  refine of_row (w := 47185924#26 ++ h) rfl fun x0 hw => ?_
  have e0 : x0.extractLsb' 26 6 = 45#6 := at_ hw (hi rfl)
  have e1 : x0.extractLsb' 8 2 = 1#2 := at_ hw (hi rfl)
  have e2 : x0.extractLsb' 0 6 = h := at_ hw (lo full)
  simp [select, select2D, e0, e1, e2]

theorem hend (h : BitVec 6) : Statement (.hend h) := by
  refine of_row (w := 47185928#26 ++ h) rfl fun x0 hw => ?_
  have e0 : x0.extractLsb' 26 6 = 45#6 := at_ hw (hi rfl)
  have e1 : x0.extractLsb' 8 2 = 2#2 := at_ hw (hi rfl)
  have e2 : x0.extractLsb' 0 6 = h := at_ hw (lo full)
  simp [select, select2D, e0, e1, e2]

theorem arrive (c : BitVec 5) : Statement (.arrive c) := by
  refine of_row (w := 96468992#27 ++ c) rfl fun x0 hw => ?_
  have e0 : x0.extractLsb' 26 6 = 46#6 := at_ hw (hi rfl)
  have e1 : x0.extractLsb' 8 3 = 0#3 := at_ hw (hi rfl)
  have e2 : x0.extractLsb' 0 5 = c := at_ hw (lo full)
  simp [select, select2E, e0, e1, e2]

theorem waitb (c : BitVec 5) : Statement (.waitb c) := by
  refine of_row (w := 96469000#27 ++ c) rfl fun x0 hw => ?_
  have e0 : x0.extractLsb' 26 6 = 46#6 := at_ hw (hi rfl)
  have e1 : x0.extractLsb' 8 3 = 1#3 := at_ hw (hi rfl)
  have e2 : x0.extractLsb' 0 5 = c := at_ hw (lo full)
  simp [select, select2E, e0, e1, e2]

theorem voteAnd (d : BitVec 5) (a : BitVec 5) (c : BitVec 5) : Statement (.voteAnd d a c) := by
  refine of_row (w := 46#6 ++ d ++ a ++ 16#11 ++ c) rfl fun x0 hw => ?_
  have e0 : x0.extractLsb' 26 6 = 46#6 := at_ hw (hi (hi (hi (hi rfl))))
  have e1 : x0.extractLsb' 8 3 = 2#3 := at_ hw (hi (lo rfl))
  have e2 : x0.extractLsb' 21 5 = d := at_ hw (hi (hi (hi (lo full))))
  have e3 : x0.extractLsb' 16 5 = a := at_ hw (hi (hi (lo full)))
  have e4 : x0.extractLsb' 0 5 = c := at_ hw (lo full)
  simp [select, select2E, e0, e1, e2, e3, e4]

theorem voteOr (d : BitVec 5) (a : BitVec 5) (c : BitVec 5) : Statement (.voteOr d a c) := by
  refine of_row (w := 46#6 ++ d ++ a ++ 24#11 ++ c) rfl fun x0 hw => ?_
  have e0 : x0.extractLsb' 26 6 = 46#6 := at_ hw (hi (hi (hi (hi rfl))))
  have e1 : x0.extractLsb' 8 3 = 3#3 := at_ hw (hi (lo rfl))
  have e2 : x0.extractLsb' 21 5 = d := at_ hw (hi (hi (hi (lo full))))
  have e3 : x0.extractLsb' 16 5 = a := at_ hw (hi (hi (lo full)))
  have e4 : x0.extractLsb' 0 5 = c := at_ hw (lo full)
  simp [select, select2E, e0, e1, e2, e3, e4]

theorem sstep : Statement .sstep := of_select rfl (by decide +kernel)

theorem spawn (d : BitVec 5) (a : BitVec 5) : Statement (.spawn d a) := by
  refine of_row (w := 47#6 ++ d ++ a ++ 0#16) rfl fun x0 hw => ?_
  have e0 : x0.extractLsb' 26 6 = 47#6 := at_ hw (hi (hi (hi rfl)))
  have e1 : x0.extractLsb' 8 3 = 0#3 := at_ hw (lo rfl)
  have e2 : x0.extractLsb' 21 5 = d := at_ hw (hi (hi (lo full)))
  have e3 : x0.extractLsb' 16 5 = a := at_ hw (hi (lo full))
  simp [select, select2F, e0, e1, e2, e3]

theorem yield : Statement .yield := of_select rfl (by decide +kernel)

theorem finish : Statement .finish := of_select rfl (by decide +kernel)

theorem redsrv (a : BitVec 5) : Statement (.redsrv a) := by
  refine of_row (w := 1504#11 ++ a ++ 768#16) rfl fun x0 hw => ?_
  have e0 : x0.extractLsb' 26 6 = 47#6 := at_ hw (hi (hi rfl))
  have e1 : x0.extractLsb' 8 3 = 3#3 := at_ hw (lo rfl)
  have e2 : x0.extractLsb' 16 5 = a := at_ hw (hi (lo full))
  simp [select, select2F, e0, e1, e2]

theorem stealoff : Statement .stealoff := of_select rfl (by decide +kernel)

theorem rep (c : BitVec 6) (m : BitVec 3) (s : BitVec 3) : Statement (.rep c m s) := by
  refine of_row (w := 62#6 ++ c ++ m ++ s ++ 0#14) rfl fun x0 hw => ?_
  have e0 : x0.extractLsb' 26 6 = 62#6 := at_ hw (hi (hi (hi (hi rfl))))
  have e1 : x0.extractLsb' 20 6 = c := at_ hw (hi (hi (hi (lo full))))
  have e2 : x0.extractLsb' 17 3 = m := at_ hw (hi (hi (lo full)))
  have e3 : x0.extractLsb' 14 3 = s := at_ hw (hi (lo full))
  simp [select, e0, e1, e2, e3]

theorem nop : Statement .nop := of_select rfl (by decide +kernel)

theorem ctlr (d : BitVec 5) (a : BitVec 12) : Statement (.ctlr d a) := by
  refine of_row (w := 63#6 ++ d ++ 16#9 ++ a) rfl fun x0 hw => ?_
  have e0 : x0.extractLsb' 26 6 = 63#6 := at_ hw (hi (hi (hi rfl)))
  have e1 : x0.extractLsb' 16 3 = 1#3 := at_ hw (hi (lo rfl))
  have e2 : x0.extractLsb' 21 5 = d := at_ hw (hi (hi (lo full)))
  have e3 : x0.extractLsb' 0 12 = a := at_ hw (lo full)
  simp [select, select3F, e0, e1, e2, e3]

theorem ctlw (s : BitVec 5) (a : BitVec 12) : Statement (.ctlw s a) := by
  refine of_row (w := 63#6 ++ s ++ 32#9 ++ a) rfl fun x0 hw => ?_
  have e0 : x0.extractLsb' 26 6 = 63#6 := at_ hw (hi (hi (hi rfl)))
  have e1 : x0.extractLsb' 16 3 = 2#3 := at_ hw (hi (lo rfl))
  have e2 : x0.extractLsb' 21 5 = s := at_ hw (hi (hi (lo full)))
  have e3 : x0.extractLsb' 0 12 = a := at_ hw (lo full)
  simp [select, select3F, e0, e1, e2, e3]

theorem trap (i : BitVec 16) : Statement (.trap i) := by
  refine of_row (w := 64515#16 ++ i) rfl fun x0 hw => ?_
  have e0 : x0.extractLsb' 26 6 = 63#6 := at_ hw (hi rfl)
  have e1 : x0.extractLsb' 16 3 = 3#3 := at_ hw (hi rfl)
  have e2 : x0.extractLsb' 0 16 = i := at_ hw (lo full)
  simp [select, select3F, e0, e1, e2]

theorem tret : Statement .tret := of_select rfl (by decide +kernel)

theorem brk (i : BitVec 16) : Statement (.brk i) := by
  refine of_row (w := 64517#16 ++ i) rfl fun x0 hw => ?_
  have e0 : x0.extractLsb' 26 6 = 63#6 := at_ hw (hi rfl)
  have e1 : x0.extractLsb' 16 3 = 5#3 := at_ hw (hi rfl)
  have e2 : x0.extractLsb' 0 16 = i := at_ hw (lo full)
  simp [select, select3F, e0, e1, e2]

theorem idle : Statement .idle := of_select rfl (by decide +kernel)

theorem halt : Statement .halt := of_select rfl (by decide +kernel)

theorem mxovfRead (d : BitVec 5) : Statement (.mxovfRead d) := of_zero rfl

theorem wpRead (d : BitVec 5) (ch : BitVec 1) : Statement (.wpRead d ch) := of_zero rfl

theorem prioWrite (a : BitVec 5) : Statement (.prioWrite a) := of_zero rfl

theorem htabWrite (a : BitVec 5) : Statement (.htabWrite a) := of_zero rfl

theorem mxidleWrite (a : BitVec 5) : Statement (.mxidleWrite a) := of_zero rfl

theorem mxZero (g : BitVec 6) (c : BitVec 4) : Statement (.mxZero g c) := of_zero rfl

theorem mxMul (g : BitVec 6) (c : BitVec 4) : Statement (.mxMul g c) := of_zero rfl

theorem mxSpmul (g : BitVec 6) (c : BitVec 4) : Statement (.mxSpmul g c) := of_zero rfl

theorem mxEpi (g : BitVec 6) (c : BitVec 4) : Statement (.mxEpi g c) := of_zero rfl

theorem mxBase (g : BitVec 6) (c : BitVec 4) : Statement (.mxBase g c) := of_zero rfl

theorem cpCopy (g : BitVec 6) (c : BitVec 4) (ch : BitVec 1) : Statement (.cpCopy g c ch) := of_zero rfl

theorem cpCopy2d (g : BitVec 6) (c : BitVec 4) (ch : BitVec 1) : Statement (.cpCopy2d g c ch) := of_zero rfl

theorem cpGather (g : BitVec 6) (c : BitVec 4) (ch : BitVec 1) : Statement (.cpGather g c ch) := of_zero rfl

theorem cpScatter (g : BitVec 6) (c : BitVec 4) (ch : BitVec 1) : Statement (.cpScatter g c ch) := of_zero rfl

theorem cpPlane (g : BitVec 6) (c : BitVec 4) (ch : BitVec 1) : Statement (.cpPlane g c ch) := of_zero rfl

theorem cpDecode (g : BitVec 6) (c : BitVec 4) (ch : BitVec 1) : Statement (.cpDecode g c ch) := of_zero rfl

theorem cpFill (g : BitVec 6) (c : BitVec 4) (ch : BitVec 1) : Statement (.cpFill g c ch) := of_zero rfl

theorem cpTotier (g : BitVec 6) (c : BitVec 4) (ch : BitVec 1) : Statement (.cpTotier g c ch) := of_zero rfl

theorem trCfg (n : Nat) : Statement (.trCfg n) := of_zero rfl

theorem trIns (n : Nat) : Statement (.trIns n) := of_zero rfl

theorem trDraw (n : Nat) : Statement (.trDraw n) := of_zero rfl

theorem trUpd (n : Nat) : Statement (.trUpd n) := of_zero rfl

theorem trQry (n : Nat) : Statement (.trQry n) := of_zero rfl

theorem engineCompletion (g : BitVec 6) (c : BitVec 4) (e : BitVec 2) (n : Nat) : Statement (.engineCompletion g c e n) := of_zero rfl

theorem streamDeliver (g : BitVec 6) (k : BitVec 2) : Statement (.streamDeliver g k) := of_zero rfl

theorem joiningAttached (cid : BitVec 12) : Statement (.joiningAttached cid) := of_zero rfl

theorem joinTimeout (cid : BitVec 12) : Statement (.joinTimeout cid) := of_zero rfl

theorem streamHoldTimeout (g : BitVec 6) (k : BitVec 2) : Statement (.streamHoldTimeout g k) := of_zero rfl

theorem budgetExhausted (cid : BitVec 12) : Statement (.budgetExhausted cid) := of_zero rfl

theorem cycleStart (d : BitVec 3) : Statement (.cycleStart d) := of_zero rfl

theorem latch (d : BitVec 3) : Statement (.latch d) := of_zero rfl

theorem slotInstant (d : BitVec 3) (x : BitVec 8) : Statement (.slotInstant d x) := of_zero rfl

theorem deferredLaunch (d : BitVec 3) (x : BitVec 8) : Statement (.deferredLaunch d x) := of_zero rfl

theorem egress (d : BitVec 3) : Statement (.egress d) := of_zero rfl

theorem gclInterval (p : BitVec 3) : Statement (.gclInterval p) := of_zero rfl

theorem frameIngress (f : Frame) : Statement (.frameIngress f) := of_zero rfl

theorem ptpSync (t : BitVec 64) : Statement (.ptpSync t) := of_zero rfl

theorem holdover : Statement .holdover := of_zero rfl

theorem domainEnable (d : BitVec 3) : Statement (.domainEnable d) := of_zero rfl

theorem domainDisable (d : BitVec 3) : Statement (.domainDisable d) := of_zero rfl

theorem slotWrite (d : BitVec 3) (x : BitVec 8) (v : BitVec 64) : Statement (.slotWrite d x v) := of_zero rfl

theorem filterWrite (f : BitVec 10) (v : BitVec 64) : Statement (.filterWrite f v) := of_zero rfl

theorem egressStreamEnable (e : BitVec 14) (v : BitVec 64) : Statement (.egressStreamEnable e v) := of_zero rfl

theorem vwopen (w : BitVec 6) : Statement (.vwopen w) := of_zero rfl

theorem vwDeadline (w : BitVec 6) : Statement (.vwDeadline w) := of_zero rfl

theorem pairDigest (d : BitVec 3) (u : BitVec 32) (h : BitVec 256) : Statement (.pairDigest d u h) := of_zero rfl

theorem pairLoss : Statement .pairLoss := of_zero rfl

theorem resync : Statement .resync := of_zero rfl

theorem pairstRead : Statement .pairstRead := of_zero rfl

theorem slotstRead (d : BitVec 3) (x : BitVec 8) : Statement (.slotstRead d x) := of_zero rfl

theorem sfcntRead (f : BitVec 10) : Statement (.sfcntRead f) := of_zero rfl

theorem egcntRead (e : BitVec 14) : Statement (.egcntRead e) := of_zero rfl

theorem queueEnable (q : BitVec 10) (v : BitVec 64) : Statement (.queueEnable q v) := of_zero rfl

theorem lqstRead (q : BitVec 10) : Statement (.lqstRead q) := of_zero rfl

theorem vdbell (fn : BitVec 8) (q : BitVec 10) : Statement (.vdbell fn q) := of_zero rfl

theorem queuePoll (q : BitVec 10) : Statement (.queuePoll q) := of_zero rfl

theorem taskStart (cid : BitVec 12) : Statement (.taskStart cid) := of_zero rfl

theorem stealRequest (g : BitVec 6) (c : BitVec 4) : Statement (.stealRequest g c) := of_zero rfl

theorem stealRoundWait (g : BitVec 6) (c : BitVec 4) : Statement (.stealRoundWait g c) := of_zero rfl

theorem loadAverage (g : BitVec 6) : Statement (.loadAverage g) := of_zero rfl

theorem launchComplete (n : Nat) : Statement (.launchComplete n) := of_zero rfl

theorem handlerDispatch (g : BitVec 6) (c : BitVec 4) : Statement (.handlerDispatch g c) := of_zero rfl

theorem messageArrival (n : Nat) : Statement (.messageArrival n) := of_zero rfl

theorem sendAnswer (n : Nat) : Statement (.sendAnswer n) := of_zero rfl

theorem resend (n : Nat) : Statement (.resend n) := of_zero rfl

theorem memoryInboxDrain (cid : BitVec 12) : Statement (.memoryInboxDrain cid) := of_zero rfl

theorem waitForEdge (cid : BitVec 12) : Statement (.waitForEdge cid) := of_zero rfl

theorem deadlock (cid : BitVec 12) : Statement (.deadlock cid) := of_zero rfl

theorem amoArrival (cid : BitVec 12) : Statement (.amoArrival cid) := of_zero rfl

theorem sfuStart (g : BitVec 6) (u : BitVec 1) : Statement (.sfuStart g u) := of_zero rfl

theorem sfuReturn (cid : BitVec 12) : Statement (.sfuReturn cid) := of_zero rfl

theorem stashFill (cid : BitVec 12) : Statement (.stashFill cid) := of_zero rfl

theorem ldvDeadline (cid : BitVec 12) : Statement (.ldvDeadline cid) := of_zero rfl

theorem waitvDeadline (cid : BitVec 12) : Statement (.waitvDeadline cid) := of_zero rfl

theorem walk (n : Nat) : Statement (.walk n) := of_zero rfl

theorem walkEnd (n : Nat) : Statement (.walkEnd n) := of_zero rfl

theorem downMove (n : BitVec 26) : Statement (.downMove n) := of_zero rfl

theorem upMove (n : BitVec 26) : Statement (.upMove n) := of_zero rfl

theorem tenantSwitch (p : BitVec 6) : Statement (.tenantSwitch p) := of_zero rfl

theorem sliceExpiry (p : BitVec 6) : Statement (.sliceExpiry p) := of_zero rfl

theorem switchRequest (p : BitVec 6) (v : BitVec 64) : Statement (.switchRequest p v) := of_zero rfl

theorem resizeRequest (p : BitVec 6) (v : BitVec 64) : Statement (.resizeRequest p v) := of_zero rfl

theorem partitionResize (p : BitVec 6) : Statement (.partitionResize p) := of_zero rfl

theorem pcfgWrite (p : BitVec 6) (v : BitVec 64) : Statement (.pcfgWrite p v) := of_zero rfl

theorem slotmapWrite (g : BitVec 6) (c : BitVec 3) (v : BitVec 64) : Statement (.slotmapWrite g c v) := of_zero rfl

theorem pullResponse (n : Nat) (page : List (BitVec 8)) : Statement (.pullResponse n page) := of_zero rfl

theorem backgroundPull (t : BitVec 8) : Statement (.backgroundPull t) := of_zero rfl

theorem pullTimeout (n : Nat) : Statement (.pullTimeout n) := of_zero rfl

theorem scrub (ch : BitVec 5) : Statement (.scrub ch) := of_zero rfl

theorem matrixPowerGate (g : BitVec 6) (c : BitVec 4) : Statement (.matrixPowerGate g c) := of_zero rfl

theorem xinv (v : BitVec 64) : Statement (.xinv v) := of_zero rfl

theorem xinvDone : Statement .xinvDone := of_zero rfl

theorem ginv (die : BitVec 2) (v : BitVec 64) : Statement (.ginv die v) := of_zero rfl

theorem ginvDone (die : BitVec 2) : Statement (.ginvDone die) := of_zero rfl

theorem mecntRead (ch : BitVec 5) : Statement (.mecntRead ch) := of_zero rfl

theorem melastClear (ch : BitVec 5) : Statement (.melastClear ch) := of_zero rfl

theorem kresumeRetry (cid : BitVec 12) : Statement (.kresumeRetry cid) := of_zero rfl

theorem kresumeAbort (cid : BitVec 12) : Statement (.kresumeAbort cid) := of_zero rfl

theorem kresumeKill (cid : BitVec 12) : Statement (.kresumeKill cid) := of_zero rfl

theorem kernelCoreReset (g : BitVec 6) : Statement (.kernelCoreReset g) := of_zero rfl

theorem pause (m : LinkEnd) : Statement (.pause m) := of_zero rfl

theorem retrain (m : LinkEnd) : Statement (.retrain m) := of_zero rfl

theorem resume (m : LinkEnd) : Statement (.resume m) := of_zero rfl

theorem pauseDone (m : LinkEnd) : Statement (.pauseDone m) := of_zero rfl

theorem pauseTimeout (m : LinkEnd) : Statement (.pauseTimeout m) := of_zero rfl

theorem trainingEnd (m : LinkEnd) (ok : Bool) : Statement (.trainingEnd m ok) := of_zero rfl

theorem flitRetry (m : LinkEnd) : Statement (.flitRetry m) := of_zero rfl

theorem retryInterval (m : LinkEnd) : Statement (.retryInterval m) := of_zero rfl

theorem linkDown (m : LinkEnd) : Statement (.linkDown m) := of_zero rfl

theorem ucevtClear (m : LinkEnd) (v : BitVec 64) : Statement (.ucevtClear m v) := of_zero rfl

theorem ucretryRead (m : LinkEnd) : Statement (.ucretryRead m) := of_zero rfl

theorem uclerrRead (m : LinkEnd) (j : BitVec 4) : Statement (.uclerrRead m j) := of_zero rfl

theorem enrynLaneLoss (p : BitVec 2) (lanes : BitVec 4) : Statement (.enrynLaneLoss p lanes) := of_zero rfl

theorem enpcntRead (p : BitVec 2) : Statement (.enpcntRead p) := of_zero rfl

theorem hostAccess (fn : BitVec 8) (off : BitVec 36) (sz : BitVec 2) (wr : Option (BitVec 64)) : Statement (.hostAccess fn off sz wr) := of_zero rfl

theorem vintClear (fn : BitVec 8) (v : BitVec 64) : Statement (.vintClear fn v) := of_zero rfl

theorem functionLevelReset (fn : BitVec 8) : Statement (.functionLevelReset fn) := of_zero rfl

theorem powerOnReset : Statement .powerOnReset := of_zero rfl

theorem rcvgo (len : BitVec 24) : Statement (.rcvgo len) := of_zero rfl

theorem partnerImage (img : List (BitVec 8)) : Statement (.partnerImage img) := of_zero rfl

theorem pwrenvWrite (v : BitVec 64) : Statement (.pwrenvWrite v) := of_zero rfl

theorem envelopeChange : Statement .envelopeChange := of_zero rfl

theorem thermalThrottle : Statement .thermalThrottle := of_zero rfl

theorem folioLoad (t : BitVec 8) (folio : List (BitVec 8)) : Statement (.folioLoad t folio) := of_zero rfl

theorem imageUnmap (n : Nat) : Statement (.imageUnmap n) := of_zero rfl

theorem registerWrite (pa : BitVec 52) (wide : Bool) (v : BitVec 64) : Statement (.registerWrite pa wide v) := of_zero rfl

theorem reservedEncoding (w : BitVec 32) : Statement (.reservedEncoding w) := of_zero rfl

theorem pullRequest (dev : BitVec 8) (pa : BitVec 52) (sz : BitVec 2) : Statement (.pullRequest dev pa sz) := of_zero rfl

theorem resyncCopyEnd : Statement .resyncCopyEnd := of_zero rfl

theorem recoveryImageRequest (p : BitVec 2) : Statement (.recoveryImageRequest p) := of_zero rfl

theorem enrynPortUp (p : BitVec 2) (lanes : BitVec 4) (peer : BitVec 8) : Statement (.enrynPortUp p lanes peer) := of_zero rfl

theorem enrynPortEnable (p : BitVec 2) (v : BitVec 64) : Statement (.enrynPortEnable p v) := of_zero rfl

theorem enrynFlitRetry (p : BitVec 2) (fec : Bool) : Statement (.enrynFlitRetry p fec) := of_zero rfl

theorem pairctlEnWrite (v : BitVec 64) : Statement (.pairctlEnWrite v) := of_zero rfl

theorem hartAccess (h : BitVec 4) (op : HartOp) (pa : BitVec 52) (sz : BitVec 2) (v : BitVec 64) : Statement (.hartAccess h op pa sz v) := of_zero rfl

end Sys2Proof.Laws.Encodes
end

