-- ==== Sys2Proof/Laws/Spine.lean ====
section
/-! SUPPORT. What leaving a stream, ending a hold, exhaustion and a refill can change: contexts and gatherings, nothing else. -/

set_option Elab.async false

namespace Sys2Proof.Machine

/-- t is s but for contexts and gatherings. -/
def SpineOnly (s t : State) : Prop := { t with ctxs := s.ctxs, gaths := s.gaths } = s

theorem SpineOnly.refl (s : State) : SpineOnly s s := rfl

theorem SpineOnly.trans {s t u : State} (h : SpineOnly s t) (h' : SpineOnly t u) : SpineOnly s u := by
  unfold SpineOnly at *
  show ({ ({ u with ctxs := t.ctxs, gaths := t.gaths } : State) with ctxs := s.ctxs, gaths := s.gaths } : State) = s
  rw [h', h]

theorem SpineOnly.foldl {α : Type} {f : State → α → State} (h : ∀ s x, SpineOnly s (f s x)) : ∀ (l : List α) (s : State), SpineOnly s (l.foldl f s)
  | [], s => .refl s
  | x :: l, s => (h s x).trans (SpineOnly.foldl h l (f s x))

theorem SpineOnly.ite {s a b : State} {c : Prop} [Decidable c] (h : SpineOnly s a) (h' : SpineOnly s b) : SpineOnly s (if c then a else b) := by
  split <;> assumption

theorem setCtx_spine (s : State) (k : Nat) (c : Ctx) : SpineOnly s (s.setCtx k c) := rfl
theorem setSched_spine (s : State) (k : Nat) (c : Sched) : SpineOnly s (s.setSched k c) := rfl
theorem setStream_spine (s : State) (g k : Nat) (x : Stream) : SpineOnly s (s.setStream g k x) := rfl

theorem joinEnds_spine (s : State) (cid n : Nat) : SpineOnly s (s.joinEnds cid n) := by
  unfold State.joinEnds
  dsimp only
  split
  · exact setCtx_spine _ _ _
  · exact .refl s

theorem stopIfEmpty_spine (s : State) (g k : Nat) : SpineOnly s (s.stopIfEmpty g k) := by
  unfold State.stopIfEmpty
  split
  · exact (setStream_spine s g k _).trans (SpineOnly.foldl (fun s c => SpineOnly.ite (joinEnds_spine s c 2) (.refl s)) _ _)
  · exact .refl s

theorem leaveOne_spine (s : State) (cid : Nat) (b : Bool) : SpineOnly s (s.leaveOne cid b) := rfl

/-- Contexts that leave a stream, the last one with it. -/
theorem leaveAll_spine {s u : State} (h : SpineOnly s u) (g k : Nat) (out : List Nat) :
    SpineOnly s (match out with
      | [] => u
      | out => (out.foldl (fun s cid => s.leaveOne cid true) u).stopIfEmpty g k) := by
  cases out with
  | nil => exact h
  | cons c out => exact (h.trans (SpineOnly.foldl (fun s c => leaveOne_spine s c true) (c :: out) u)).trans (stopIfEmpty_spine _ g k)

theorem settle_spine (s : State) (g k : Nat) : SpineOnly s (s.settle g k) := by
  unfold State.settle
  dsimp only
  refine leaveAll_spine ?_ g k _
  split
  · exact SpineOnly.ite (setStream_spine _ _ _ _) (.refl s)
  · exact .refl s

/-- Detaching changes contexts and gatherings alone (R27). -/
theorem detach_spine (s : State) (cid : Nat) : SpineOnly s (s.detach cid) := by
  unfold State.detach
  split
  · exact ((leaveOne_spine s cid true).trans (stopIfEmpty_spine _ _ _)).trans (settle_spine _ _ _)
  · exact setSched_spine _ _ _
  · exact .refl s

/-- Exhaustion changes contexts and gatherings alone (R335). -/
theorem exhaust_spine (s : State) (cid : Nat) : SpineOnly s (s.exhaust cid) := by
  unfold State.exhaust
  dsimp only
  refine SpineOnly.ite (.refl s) (SpineOnly.ite (setSched_spine _ _ _) (SpineOnly.ite (setCtx_spine _ _ _) ?_))
  exact (setCtx_spine _ _ _).trans (detach_spine _ _)

/-- A refill changes contexts and gatherings alone (R335). -/
theorem refill_spine (s : State) (cid : Nat) : SpineOnly s (s.refill cid) := by
  unfold State.refill
  dsimp only
  refine SpineOnly.ite (.refl s) ?_
  have h1 : ∀ (u : State), SpineOnly s u → SpineOnly s (if (s.ctxOf cid).sched.pktBudget = 0 then u.exhaust cid else u) :=
    fun u hu => SpineOnly.ite (hu.trans (exhaust_spine u cid)) hu
  apply h1
  refine SpineOnly.ite (setCtx_spine _ _ _) (SpineOnly.ite ?_ ?_)
  · exact (setCtx_spine _ _ _).trans ((setCtx_spine _ _ _).trans (detach_spine _ _))
  · exact (setCtx_spine _ _ _).trans (setCtx_spine _ _ _)

end Sys2Proof.Machine
end

