-- ==== Sys2Proof/Laws/Vector.lean ====
section
/-! SUPPORT. Vector registers by their elements: what building, merging and reducing give. -/

set_option Elab.async false

namespace Sys2Proof.Machine

/-! ### Elements of a built register -/

theorem build_lt (w : Nat) (f : Nat → Nat) (n : Nat) : build w f n < 2 ^ (w * n) := by
  induction n with
  | zero => simp [build]
  | succ n ih =>
    have h := Nat.mod_lt (f n) (Nat.two_pow_pos w)
    have h2 : (f n % 2 ^ w + 1) * 2 ^ (w * n) ≤ 2 ^ w * 2 ^ (w * n) := Nat.mul_le_mul_right _ h
    rw [Nat.add_mul, Nat.one_mul] at h2
    rw [build, Nat.mul_succ, Nat.pow_add, Nat.mul_comm (2 ^ (w * n))]
    omega

/-- Element k of n elements built is what f gives, modulo its width. -/
theorem build_elem (w : Nat) (f : Nat → Nat) (n k : Nat) (h : k < n) : build w f n / 2 ^ (w * k) % 2 ^ w = f k % 2 ^ w := by
  induction n with
  | zero => omega
  | succ n ih =>
    rw [build]
    by_cases hk : k = n
    · subst hk
      rw [Nat.add_mul_div_right _ _ (Nat.two_pow_pos _), Nat.div_eq_of_lt (build_lt w f k), Nat.zero_add, Nat.mod_mod]
    · have h1 : 2 ^ (w * n) = 2 ^ w * 2 ^ (w * (n - k - 1)) * 2 ^ (w * k) := by
        rw [← Nat.pow_add, ← Nat.pow_add]; congr 1
        rw [show w + w * (n - k - 1) = w * (n - k - 1 + 1) by rw [Nat.mul_succ, Nat.add_comm], ← Nat.mul_add]; congr 1; omega
      rw [h1, ← Nat.mul_assoc, Nat.add_mul_div_right _ _ (Nat.two_pow_pos _), ← Nat.mul_assoc, Nat.mul_comm (f n % 2 ^ w) (2 ^ w), Nat.mul_assoc,
        Nat.add_mul_mod_self_left]
      exact ih (by omega)

/-- The widths of R50. -/
theorem ewidth_cases (e : BitVec 2) : ewidth e = 8 ∨ ewidth e = 16 ∨ ewidth e = 32 ∨ ewidth e = 64 := by
  unfold ewidth; split
  · simp
  · split
    · simp
    · split <;> simp

/-- Element k of a register built from its elements. -/
theorem elem_ofElems (w : Nat) (f : Nat → Nat) (k : Nat) (hw : w * ecount w = 512) (h : k < ecount w) :
    elem (ofElems w f) w k = f k % 2 ^ w := by
  have hlt := build_lt w f (ecount w)
  rw [hw] at hlt
  rw [elem, fld, ofElems, BitVec.toNat_ofNat, Nat.mod_eq_of_lt hlt]
  exact build_elem w f _ k h

theorem width_ok {w : Nat} (h : w = 8 ∨ w = 16 ∨ w = 32 ∨ w = 64) : w * ecount w = 512 := by
  rcases h with rfl | rfl | rfl | rfl <;> rfl

theorem elem_lt (v : VReg) (w k : Nat) : elem v w k < 2 ^ w := Nat.mod_lt _ (Nat.two_pow_pos _)

theorem active_eq (p : PReg) (w k : Nat) : active p w k = p.getLsbD (if w = 64 then 2 * k else w * k / 32) := rfl

/-- Element k of a merged result (R15). -/
theorem elem_merge (w : Nat) (p : PReg) (z : BitVec 1) (old : VReg) (f : Nat → Nat) (k : Nat) (hw : w = 8 ∨ w = 16 ∨ w = 32 ∨ w = 64)
    (h : k < 512 / w) : elem (merge w p (z == 1) old f) w k =
      if p.getLsbD (if w = 64 then 2 * k else w * k / 32) then f k % 2 ^ w else if z = 1 then 0 else elem old w k := by
  rw [merge, elem_ofElems _ _ _ (width_ok hw) h, active_eq]
  cases p.getLsbD (if w = 64 then 2 * k else w * k / 32) with
  | true => rfl
  | false =>
    simp only [Bool.false_eq_true, if_false]
    by_cases hz : z = 1
    · simp [hz]
    · have : (z == 1) = false := by simpa using hz
      simp only [this, hz, if_false, Bool.false_eq_true]
      exact Nat.mod_eq_of_lt (elem_lt _ _ _)

/-- Element k of a reduction's result (R214). -/
theorem elem_reduceTo (r : Option Nat) (w k : Nat) (hw : w = 8 ∨ w = 16 ∨ w = 32 ∨ w = 64) :
    elem (reduceTo r w) w k = if k = 0 then r.getD 0 % 2 ^ w else 0 := by
  have hlt : r.getD 0 % 2 ^ w < 2 ^ w := Nat.mod_lt _ (Nat.two_pow_pos _)
  have h512 : r.getD 0 % 2 ^ w < 2 ^ 512 := Nat.lt_of_lt_of_le hlt (Nat.pow_le_pow_right (by omega) (by omega))
  rw [elem, fld, reduceTo, BitVec.toNat_ofNat, Nat.mod_eq_of_lt h512]
  split
  · next h => subst h; simp
  · next h =>
    rw [Nat.div_eq_of_lt (Nat.lt_of_lt_of_le hlt (Nat.pow_le_pow_right (by omega) ?_)), Nat.zero_mod]
    exact Nat.le_mul_of_pos_right w (by omega)

/-! ### Numbers of w bits -/

theorem ofInt_lt (w : Nat) (x : Int) : ofInt w x < 2 ^ w := by
  have hp : (0 : Int) < (2 ^ w : Nat) := by exact_mod_cast Nat.two_pow_pos w
  have h1 := Int.emod_nonneg x (Int.ne_of_gt hp)
  have h2 := Int.emod_lt_of_pos x hp
  unfold ofInt; omega

@[simp] theorem ofInt_mod (w : Nat) (x : Int) : ofInt w x % 2 ^ w = ofInt w x := Nat.mod_eq_of_lt (ofInt_lt w x)

end Sys2Proof.Machine
end

