-- ==== Sys2Proof/Laws/Walk.lean ====
section
/-! SUPPORT. Laws of the page-table walk (R308, R311): addresses of one 4 KiB page walk alike, so the bytes of one page are read from one leaf. -/

set_option Elab.async false

namespace Sys2Proof.Machine

theorem twelve_le_levelLog2 (l : Nat) : 12 ≤ levelLog2 l := by
  unfold levelLog2
  split <;> omega

/-- The walk looks at no bit of the address below bit 12. -/
theorem State.walkLoop_congr (s : State) {va vb : Nat} (h : va / 2 ^ 12 = vb / 2 ^ 12) (fuel : Nat) :
    ∀ lvl ea, s.walkLoop va fuel lvl ea = s.walkLoop vb fuel lvl ea := by
  have shifted : ∀ n, 12 ≤ n → va / 2 ^ n = vb / 2 ^ n := by
    intro n hn
    obtain ⟨k, rfl⟩ := Nat.exists_eq_add_of_le hn
    rw [Nat.pow_add, ← Nat.div_div_eq_div_mul, h, Nat.div_div_eq_div_mul]
  induction fuel with
  | zero => intro _ _; rfl
  | succ n ih =>
    intro lvl ea
    simp only [State.walkLoop, ih, shifted _ (twelve_le_levelLog2 _), shifted 16 (by decide)]

/-- So do two addresses of one page. -/
theorem State.walkTables_congr (s : State) (t : Byte) {va vb : Nat} (h : va / 2 ^ 12 = vb / 2 ^ 12) : s.walkTables t va = s.walkTables t vb := by
  have h56 : va / 2 ^ 56 = vb / 2 ^ 56 := by
    rw [show (2 : Nat) ^ 56 = 2 ^ 12 * 2 ^ 44 from rfl, ← Nat.div_div_eq_div_mul, h, Nat.div_div_eq_div_mul]
  have h48 : va / 2 ^ 48 = vb / 2 ^ 48 := by
    rw [show (2 : Nat) ^ 48 = 2 ^ 12 * 2 ^ 36 from rfl, ← Nat.div_div_eq_div_mul, h, Nat.div_div_eq_div_mul]
  simp only [State.walkTables, h56, h48, State.walkLoop_congr s h]

/-- Bytes that lie in one page are read from its leaf. -/
theorem State.vaBytes_of_leaf (s : State) (t : Byte) {ea log2 base e : Nat} (hl : 12 ≤ log2) (n : Nat) :
    ∀ va, s.walkTables t va = .leaf ea log2 base e → va % 2 ^ 12 + n ≤ 2 ^ 12 →
      s.vaBytes t va n = some (s.physBytes (base + va % 2 ^ log2) n) := by
  induction n with
  | zero => intro _ _ _; rfl
  | succ n ih =>
    intro va hw hn
    have hpa : s.vaByte t va = some (s.physByte (base + va % 2 ^ log2)) := by simp only [State.vaByte, State.whereAt, hw]
    rcases Nat.eq_zero_or_pos n with rfl | hpos
    · simp [State.vaBytes, State.physBytes, hpa]
    · have hq : (va + 1) / 2 ^ 12 = va / 2 ^ 12 := by omega
      have hm : (va + 1) % 2 ^ log2 = va % 2 ^ log2 + 1 := by
        obtain ⟨k, rfl⟩ := Nat.exists_eq_add_of_le hl
        rw [Nat.pow_add, Nat.mod_mul, Nat.mod_mul, hq]
        omega
      have := ih (va + 1) (by rw [State.walkTables_congr s t hq]; exact hw) (by omega)
      rw [hm, ← Nat.add_assoc] at this
      simp [State.vaBytes, State.physBytes, hpa, this]

end Sys2Proof.Machine
end

