-- ==== Sys2Proof/Tests/Slice0.lean ====
section
/-! SUPPORT. Tests. The expected results come from the spec's worked examples and tables, or from the encodings written out bit by bit; each
says which. The theorems test_meets_… show, for each statement that has hypotheses, values that meet them together, at the ends of their ranges. -/

set_option Elab.async false

namespace Sys2Proof.Tests

open Sys2Proof Sys2Proof.Machine

/-- A part whose context 0 is c and in which nothing else has happened. -/
def one (c : Ctx) : State := { ctxs := [(0, c)] }

/-- A context with these registers. -/
def regs (l : List (Reg × Word)) : Regs := l.foldl (fun r e => r.sset e.1 e.2) {}

/-- Scalar register d after instruction i. -/
def after (i : Instr) (s : State) (d : Reg) : Option Word :=
  match exec i s with
  | .next t => some (t.s! d)
  | _ => none

/-! ### What the statements' hypotheses are met by -/

theorem test_meets_divide_by_zero : (precFmt 2).val 0x3C00 = .fin false 1024 (-10) ∧ (1024 : Nat) ≠ 0 ∧ (precFmt 2).val 0x8000 = .fin true 0 (-24) := by decide
theorem test_meets_zero_by_zero : (precFmt 2).val 0x8000 = .fin true 0 (-24) ∧ (precFmt 2).val 0 = .fin false 0 (-24) := by decide
theorem test_meets_infinity_by_infinity : (precFmt 2).val 0x7C00 = .inf false ∧ (precFmt 2).val 0xFC00 = .inf true := by decide
theorem test_meets_finite_by_infinity : (precFmt 2).val 0x8000 = .fin true 0 (-24) ∧ (precFmt 2).val 0xFC00 = .inf true := by decide
theorem test_meets_infinities_summed : (precFmt 2).val 0xFC00 = .inf true ∧ (precFmt 2).val 0x7C00 = .inf (!true) := by decide
theorem test_meets_root_of_negative : (precFmt 0).val 0x80000001 = .fin true 1 (-149) ∧ (1 : Nat) ≠ 0 := by decide
theorem test_meets_nan : (precFmt 2).val 0x7E00 = .nan ∧ (precFmt 3).val 0x7F81 = .nan := by decide
theorem test_meets_exact_zero_sum : (precFmt 2).val 0x3C00 = .fin false 1024 (-10) ∧ (precFmt 2).val 0xBC00 = .fin (!false) 1024 (-10)
    ∧ 1024 * 2 ^ ((-10 : Int) - min (-10) (-10)).toNat = 1024 * 2 ^ ((-10 : Int) - min (-10) (-10)).toNat ∧ (1024 : Nat) ≠ 0 := by decide
theorem test_meets_representable : e4m3 ∈ [fp64, fp32, fp16, bf16, e4m3, e5m2] ∧ 0xFE < 2 ^ e4m3.w ∧ e4m3.isNaN 0xFE = false := by decide

/-- A PRIVATE context with this PC, these control registers. -/
def priv (r : Regs) (c : Ctl) : State := one { regs := r, ctl := c, sched := { spine := .priv } }

theorem test_meets_branch_not_taken : ¬ ((one {}).s! 0).toNat ≠ ((one {}).s! 0).toNat := by decide
theorem test_meets_branch_to_the_top : Claims.goodTarget (wordI ((Claims.here (one { regs := { pc := 0xFFFFFFFFFFFFF8 } })).toInt + (1 : BitVec 13).toInt * 4)) := by
  unfold Claims.goodTarget; decide
theorem test_meets_branch_past_the_top : ¬ Claims.goodTarget (wordI ((Claims.here (one { regs := { pc := 0xFFFFFFFFFFFFFC } })).toInt + (1 : BitVec 13).toInt * 4)) := by
  unfold Claims.goodTarget; decide
theorem test_meets_jalr_to_an_odd_word : ¬ Claims.goodTarget (wordI (((one {}).s! 0).toInt + (2 : BitVec 16).toInt)) := by unfold Claims.goodTarget; decide
theorem test_meets_nop_outside_rep : (one {}).me.regs.rep = none := by decide
theorem test_meets_repeat_goes_on : (one { regs := { ri := 62, rep := some { count := 63, mask := 0, stride := 0 } } }).me.regs.rep = some { count := 63, mask := 0, stride := 0 }
    ∧ (62 : BitVec 6).toNat < (63 : BitVec 6).toNat := by decide
theorem test_meets_last_repeat : (one { regs := { ri := 0, rep := some { count := 0, mask := 0, stride := 0 } } }).me.regs.rep = some { count := 0, mask := 0, stride := 0 }
    ∧ (0 : BitVec 6).toNat ≤ (0 : BitVec 6).toNat := by decide
theorem test_meets_trap_entry : let s := priv {} { tvec := 4 }
    s.me.ctl.tvec ≠ 0 ∧ s.me.ctl.tcause.getLsbD 8 = false ∧ s.me.sched.spine = .priv := by decide
theorem test_meets_trap_of_attached : let s := one { ctl := { tvec := 4 }, sched := { spine := .attached } }
    s.me.ctl.tvec ≠ 0 ∧ s.me.ctl.tcause.getLsbD 8 = false ∧ s.me.sched.spine = .attached ∧ s.cur < 4096 ∧ s.cur % 64 < 32 := by decide
theorem test_meets_escalation : let s := priv {} {}
    (s.me.ctl.tvec = 0 ∨ s.me.ctl.tcause.getLsbD 8 = true) ∧ s.me.sched.spine = .priv ∧ s.cur < 4096 ∧ s.cur % 64 ≠ 32 := by decide
theorem test_meets_escalation_in_handler : let s : State := { priv {} { tvec := 4, tcause := 0x100 } with cur := 4095, ctxs := [(4095, { ctl := { tvec := 4, tcause := 0x100 }, sched := { spine := .priv } })] }
    (s.me.ctl.tvec = 0 ∨ s.me.ctl.tcause.getLsbD 8 = true) ∧ s.me.sched.spine = .priv ∧ s.cur < 4096 ∧ s.cur % 64 ≠ 32 := by decide
theorem test_meets_tret_outside_handler : (priv {} {}).me.ctl.tcause.getLsbD 8 = false := by decide
theorem test_meets_tret : (priv {} { tcause := 0x100 }).me.ctl.tcause.getLsbD 8 = true := by decide
theorem test_meets_idle_with_message : (one { inbox := [{ hdr := 0, payload := 0 }] }).me.inbox ≠ [] ∧ (one {}).me.inbox = [] := by decide
theorem test_meets_halt : ({ cur := 35 } : State).cur % 64 / 4 = 8 := by decide
theorem test_meets_ctlr_outside_the_table : (0x003 : BitVec 12).toNat ∉ [0x000, 0x001, 0x002, 0x010, 0x011, 0x012, 0x013, 0x020, 0x021, 0x030, 0x031, 0x032, 0x040, 0x041,
    0x050, 0x060, 0x061, 0x062, 0x063, 0x064, 0x065, 0x070, 0x071, 0x080, 0x081, 0x090, 0x0A0, 0x0B0] := by decide
theorem test_meets_ctlw_read_only : (0x000 : BitVec 12).toNat ∉ [0x010, 0x011, 0x012, 0x013, 0x020, 0x021, 0x032, 0x040, 0x041, 0x050, 0x060, 0x061, 0x062, 0x063, 0x064,
    0x065, 0x081, 0x090, 0x0B0] := by decide
theorem test_meets_bmask_kept : let s := one { regs := regs [(1, 1)] }
    ∀ j, j < 32 → s.me.ctl.bmask.getLsbD j = true → (s.s! 1).getLsbD j = true := by decide
theorem test_meets_prio_write : (priv {} {}).me.sched.spine ≠ .attached ∧ (priv {} {}).me.sched.exhausted = false := by decide
theorem test_meets_attach_to_an_empty_stream : let s := priv {} {}
    s.cur % 64 / 4 ≠ 8 ∧ s.me.sched.spine = .priv ∧ ∀ c, c < 8 → ¬ (s.ctxOf (s.cur / 64 * 64 + c * 4 + s.cur % 4)).sched.spine = .attached := by decide
theorem test_meets_attach_waits : let s : State := { ctxs := [(0, { sched := { spine := .priv } }), (28, { sched := { spine := .attached } })] }
    s.cur % 64 / 4 ≠ 8 ∧ s.me.sched.spine = .priv ∧ (s.ctxOf (s.cur / 64 * 64 + 7 * 4 + s.cur % 4)).sched.spine = .attached ∧ (Claims.myStream s).atJoin ≠ some s.me.regs.pc := by decide
theorem test_meets_attached_at_a_join : let s : State := { ctxs := [(0, { sched := { spine := .attached, accepted := some 7 } })], gaths := [(0, { streams := [(0, { status := [(7, 1)] })] })] }
    s.me.sched.spine = .attached ∧ s.me.sched.accepted = some 7 ∧ (7, 1) ∈ (Claims.myStream s).status ∧ ∀ p ∈ (Claims.myStream s).status, p.1 = 7 → p.2 = 1 := by decide
theorem test_meets_donate_refused : let s := priv (regs [(1, 5), (2, 5)]) {}
    s.cur % 64 / 4 ≠ 8 ∧ (s.s! (1 + 1)).toNat % 2 ^ 32 ≤ (s.s! 1).toNat % 2 ^ 32 := by decide
theorem test_meets_donate : let s := priv (regs [(1, 4), (2, 5)]) {}
    (s.s! 1).toNat % 2 ^ 32 < (s.s! (1 + 1)).toNat % 2 ^ 32 ∧ (s.gathSt (s.cur / 64)).rejoin.length < 64 := by decide
/-- An entry of a rejoin queue. -/
def entry : Rejoin := { start := 4, stop := 5, tag := 9, donor := 0, launch := none }
theorem test_meets_donate_full : let s : State := { priv (regs [(1, 4), (2, 5)]) {} with gaths := [(0, { rejoin := List.replicate 64 entry })] }
    (s.s! 1).toNat % 2 ^ 32 < (s.s! (1 + 1)).toNat % 2 ^ 32 ∧ 64 ≤ (s.gathSt (s.cur / 64)).rejoin.length := by decide
theorem test_meets_takew_empty : ∀ e ∈ ((priv {} {}).gathSt 0).rejoin, ¬ e.tag.toNat = 9 := by decide
theorem test_meets_takew : let s : State := { priv (regs [(3, 9)]) {} with gaths := [(0, { rejoin := [{ entry with tag := 8 }, entry, entry] })] }
    (s.gathSt (s.cur / 64)).rejoin = [{ entry with tag := 8 }] ++ entry :: [entry]
    ∧ (∀ e ∈ [{ entry with tag := 8 }], ¬ (e.tag.toNat = (s.s! (1 + 2)).toNat % 2 ^ 32 ∧ e.launch = s.me.sched.task.map (·.launch)))
    ∧ entry.tag.toNat = (s.s! (1 + 2)).toNat % 2 ^ 32 ∧ entry.launch = s.me.sched.task.map (·.launch) := by decide
theorem test_meets_kernel_core : ({ cur := 4067 } : State).cur % 64 / 4 = 8 ∧ (Instr.gang 1) ∈ [Instr.detach, .gang 1] := by decide

/-- Context 0 with these two words at its PC, fetched as step fetches them. -/
def fetching (a b : Nat) : State :=
  let s := State.reset.withFetchWord 32 a
  let c := s.ctxOf 0
  s.setCtx 0 { c with sched := { c.sched with code := Memory.writeLE c.sched.code 4 4 b } }

theorem test_meets_rep_of_a_good_word : let s := fetching 0 0b000001_00011_00100_00101_00000000000
    s.fetchAt s.cur (s.me.regs.pc + 4) = .word 0b000001_00011_00100_00101_00000000000
    ∧ repOk 0b000001_00011_00100_00101_00000000000 { count := 63, mask := 0, stride := 0 } = true ∧ s.me.regs.ri.toNat < (63 : BitVec 6).toNat + 1 := by decide +kernel
theorem test_meets_rep_of_a_bad_word : let s := fetching 0 0b010010_00000000000000000000000001
    s.fetchAt s.cur (s.me.regs.pc + 4) = .word 0b010010_00000000000000000000000001
    ∧ repOk 0b010010_00000000000000000000000001 { count := 1, mask := 0, stride := 0 } = false := by decide +kernel
theorem test_meets_rep_with_nothing_left : let s := fetching 0 0b000001_00011_00100_00101_00000000000
    let t := s.setCtx 0 { s.ctxOf 0 with regs := { (s.ctxOf 0).regs with ri := 1 } }
    t.fetchAt t.cur (t.me.regs.pc + 4) = .word 0b000001_00011_00100_00101_00000000000
    ∧ repOk 0b000001_00011_00100_00101_00000000000 { count := 0, mask := 0, stride := 0 } = true ∧ (0 : BitVec 6).toNat + 1 ≤ t.me.regs.ri.toNat := by decide +kernel

/-- The region of the tests: 64 KiB at 0x10000, of tenant 0. -/
def area (kind : BitVec 3) : RegionEnt :=
  { part := 0, base := 0x10000, len := 0x10000, kind := kind, x := false, fbk := false, depth := 2, ocls := 0, tenant := 0, owner := 0, svc := 0, frec := 0 }

/-- The task binding of the tests. -/
def bind1 : TaskBind := { launch := 1, index := none, trec := { entry := 0, args := [] } }

/-- Context 0 runs a task that may load, store and use engines on that region, which translates to 0x20000. -/
def work (r : Regs) (kind : BitVec 3) (m : List Mapping) : State :=
  let s : State := { ctxs := [(0, { regs := r, sched := { spine := .priv, task := some bind1 } })]
                     cores := [(0, { maps := m, gateR := [area kind], gateC := [{ tenant := 0, typ := 2, rights := 15, w4 := 16, w8 := 0x10000 }]
                                     tlb := [{ tenant := 0, va := 0x10000, log2 := 16, pa := 0x20000, written := true }] })] }
  (s.setWin (rPCFG 0) (word (2 ^ 8 + 2 ^ 63))).setWin (rPSTAT 0) 0

/-- A stash mapping of the region's first page, its first and last lines filled. -/
def mapped : Mapping :=
  { base := 0x10000, spage := 1, npg := 1, zero := false, nowb := false, writable := true, owner := 0, graph := some 1, tenant := 0, frames := [0x20000], filled := [64, 127], dirty := [] }

theorem test_meets_load_misaligned : (0x1FFFF : Word).toNat % 2 ≠ 0 ∧ (0x10001 : Word).toNat % 8 ≠ 0 := by decide
theorem test_meets_load_at_the_end_of_a_region : let s := work {} kOWNED []
    Claims.Lands s 0x1FFF8 8 8 .load (area kOWNED) 0x2FFF8 ∧ s.isPoisoned 0x2FFF8 8 = false ∧ (area kOWNED).kind ≠ kVERSIONED ∧ Claims.Unowned s 0x2FFF8 8 := by
  unfold Claims.Lands Claims.LandsFor Claims.Unowned; decide +kernel
theorem test_meets_load_of_a_version : let s := work {} kVERSIONED []
    Claims.Lands s 0x10000 1 1 .load (area kVERSIONED) 0x20000 ∧ s.isPoisoned 0x20000 1 = false ∧ (area kVERSIONED).kind = kVERSIONED ∧ ∀ a, s.stashAt a = none :=
  ⟨by unfold Claims.Lands Claims.LandsFor; decide +kernel, by decide +kernel, rfl, fun _ => rfl⟩
theorem test_meets_load_of_a_stash_line : let s := work {} kPRIVATE [mapped]
    Claims.InStash s 0x10FF8 8 .load mapped 0x1FF8 ∧ Claims.InStash s 0x10000 8 .store mapped 0x1000 := by
  have h1 : (work {} kPRIVATE [mapped]).judge 0 0x10FF8 8 .load = .ok (area kPRIVATE) := by decide +kernel
  have h2 : (work {} kPRIVATE [mapped]).judge 0 0x10000 8 .store = .ok (area kPRIVATE) := by decide +kernel
  exact ⟨⟨by decide, ⟨_, h1⟩, by decide +kernel, by decide +kernel, by decide +kernel, by decide +kernel⟩, ⟨by decide, ⟨_, h2⟩, by decide +kernel, by decide +kernel, by decide +kernel, by decide +kernel⟩⟩
theorem test_meets_store_at_the_end_of_a_region : let s := work {} kPRIVATE []
    Claims.Lands s 0x1FFFF 1 1 .store (area kPRIVATE) 0x2FFFF ∧ Claims.Unowned s 0x2FFFF 1 := by
  unfold Claims.Lands Claims.LandsFor Claims.Unowned; decide +kernel
theorem test_meets_kernel_core_device_access : let s : State := { cur := 32 }
    (∃ r, s.judge 32 0x20000000000 8 .load = .ok r) ∧ (∃ r, s.judge 32 0x20000000000 8 .store = .ok r) ∧ s.cur % 64 / 4 = 8 ∧ inDevice 0x20000000000 = true := by
  refine ⟨?_, ?_, by decide, by decide⟩
  · exact ⟨_, rfl⟩
  · exact ⟨_, rfl⟩
/-- The element addresses of a contiguous access of 64-bit elements. -/
def eights (s : State) : List (Nat × Word) := Claims.vlist s 1 64 fun k => 0x1FFC0 + word (k * 8)
/-- The elements of a checked access. -/
def checked (v : VChecked) : List (Nat × Word × RegionEnt × Place) :=
  match v with
  | .ok l _ => l
  | .stop _ => []
/-- Predicate 1 with every bit set. -/
def allOn : Regs := ({} : Regs).pset 1 0xFFFF
theorem test_meets_vector_load : let s := work allOn kOWNED []
    (checked (s.checkAll 8 .load akLoad (eights s) [])).length = 8
    ∧ ((checked (s.checkAll 8 .load akLoad (eights s) [])).map fun e => (e.2.2.1.kind, e.2.2.2)) = (List.range 8).map fun k => (kOWNED, Place.mem (0x2FFC0 + 8 * k)) := by decide +kernel
theorem test_meets_vector_store : let s := work allOn kPRIVATE []
    ((checked (s.checkAll 8 .store akStore (eights s) [])).map fun e => e.2.2.2) = (List.range 8).map fun k => Place.mem (0x2FFC0 + 8 * k) := by decide +kernel
theorem test_meets_vector_access_that_faults : (match (work allOn kOWNED []).checkAll 8 .load akLoad [(0, 0x20000)] [] with
    | .stop _ => true
    | .ok _ _ => false) = true := by decide +kernel
theorem test_meets_broadcast_of_nothing : ∀ k, k < 512 / 8 → ¬ ((one {}).p! 1).getLsbD (8 * k / 32) = true := by decide
theorem test_meets_broadcast : Claims.on (work allOn kOWNED []) 1 64 7 ∧ Claims.Lands (work allOn kOWNED []) 0x10000 8 8 .load (area kOWNED) 0x20000 := by
  unfold Claims.on Claims.Lands Claims.LandsFor; decide +kernel
theorem test_meets_atomic : let s := work {} kATOMIC []
    Claims.Lands s 0x1FFFC 4 4 .amo (area kATOMIC) 0x2FFFC ∧ s.isPoisoned 0x2FFFC 4 = false ∧ Claims.Unowned s 0x2FFFC 4 ∧ s.nextSeq 0x2FFFC = 0
    ∧ s.admission (homeSlice 0x2FFFC) (0x2FFFC / 8) 0 0 = .apply ∧ ∀ h ∈ s.heldAmos, h.2.2.pa / 8 ≠ 0x2FFFC / 8 := by
  unfold Claims.Lands Claims.LandsFor Claims.Unowned; decide +kernel
theorem test_meets_atomic_held : (work {} kATOMIC []).admission (homeSlice 0x20000) (0x20000 / 8) 0 0x7FFFFFFF = .hold := by decide +kernel
theorem test_meets_atomic_too_late : (0xFFFFFFFF : Word32) ≠ 0 ∧ serialLater 0xFFFFFFFF 0 = false := by decide

/-- MAP's operands: VA in s1, the descriptor in s2. -/
def mapArgs (va desc : Word) : Regs := regs [(1, va), (2, desc)]
theorem test_meets_map_bad_descriptor : (0x40 : Word).toNat / 2 ^ 6 % 2 ^ 2 ≠ 0 ∧ 63 < (0x13F : Word).toNat % 2 ^ 6 + ((0x13F : Word).toNat / 2 ^ 8 % 2 ^ 6 + 1 - 1) := by decide
theorem test_meets_map_unaligned : ¬ ((63 : Word).toNat / 2 ^ 6 % 2 ^ 2 ≠ 0 ∨ 63 < (63 : Word).toNat % 2 ^ 6 + 0) ∧ (0x10FFF : Word).toNat % 4096 ≠ 0 := by decide
theorem test_meets_map_of_no_region : (work (mapArgs 0x20000 0) kPRIVATE []).reached 0 0x20000 = none := by decide +kernel
theorem test_meets_map_past_the_region : let s := work (mapArgs 0x1F000 0x100) kPRIVATE []
    s.reached s.cur 0x1F000 = some (area kPRIVATE) ∧ ¬ 0x1F000 + 2 * 4096 ≤ (area kPRIVATE).base + (area kPRIVATE).len := by decide +kernel
theorem test_meets_map_of_a_wrong_kind : (work {} kATOMIC []).reached 0 0x10000 = some (area kATOMIC) ∧ ¬ ((area kATOMIC).kind = kPRIVATE ∨ (area kATOMIC).kind = kOWNED) := by decide +kernel
theorem test_meets_map_over_stash_pages : let s := work {} kPRIVATE [mapped]
    s.mayMap s.cur 0x12000 4096 = true ∧ ¬ ∀ m, m ∈ (s.coreOf 0).maps → 1 + 1 ≤ m.spage ∨ m.spage + m.npg ≤ 1 := by decide +kernel
theorem test_meets_map_over_mapped_pages : let s := work {} kPRIVATE [mapped]
    (∀ m, m ∈ (s.coreOf 0).maps → 2 + 1 ≤ m.spage ∨ m.spage + m.npg ≤ 2) ∧ ¬ ∀ m, m ∈ (s.coreOf 0).maps → 0x10000 + 4096 ≤ m.base ∨ m.base + m.npg * 4096 ≤ 0x10000 := by decide +kernel
theorem test_meets_map_with_sixteen_mappings : let s := work {} kPRIVATE ((List.range 16).map fun k => { mapped with base := 0x40000 + 4096 * k, spage := 8 + k })
    16 ≤ (s.coreOf 0).maps.length ∧ (∀ m, m ∈ (s.coreOf 0).maps → 0 + 1 ≤ m.spage ∨ m.spage + m.npg ≤ 0) := by decide +kernel
theorem test_meets_map : let s := work (mapArgs 0x1F000 0x3003F) kPRIVATE []
    s.cur % 64 / 4 ≠ 8 ∧ s.reached s.cur 0x1F000 = some (area kPRIVATE) ∧ 0x1F000 + 1 * 4096 ≤ (area kPRIVATE).base + (area kPRIVATE).len
    ∧ s.mayMap s.cur 0x1F000 4096 = true ∧ s.mayWrite s.cur (area kPRIVATE) = true ∧ (s.coreOf 0).maps.length < 16
    ∧ s.tlbLookup 0 (s.tenantOf 0) 0x1F000 false = some 0x2F000 ∧ inLocal 0x2F000 = true := by decide +kernel
theorem test_meets_map_zero_or_not : (0x3003F : Word).getLsbD 16 = true ∧ (0x3F : Word).getLsbD 16 = false := by decide
theorem test_meets_map_of_host_memory : inLocal 0x8000000000000 = false := by decide
theorem test_meets_unmap : let s := work (regs [(1, 0x10FFF)]) kPRIVATE [mapped]
    mapped ∈ (s.coreOf (coreKey s.cur)).maps ∧ mapped.base ≤ (s.s! 1).toNat ∧ (s.s! 1).toNat < mapped.base + mapped.npg * 4096 ∧ mapped.owner = s.cur ∧ mapped.nowb = false := by decide +kernel
theorem test_meets_unmap_of_nothing : let s := work (regs [(1, 0x11000)]) kPRIVATE [mapped]
    ∀ m, m ∈ (s.coreOf (coreKey s.cur)).maps → ¬ (m.base ≤ (s.s! 1).toNat ∧ (s.s! 1).toNat < m.base + m.npg * 4096) := by decide +kernel
theorem test_meets_unmap_of_another : let s := work (regs [(1, 0x10000)]) kPRIVATE [{ mapped with owner := 4, nowb := true }]
    ∀ m, m ∈ (s.coreOf (coreKey s.cur)).maps → m.base ≤ (s.s! 1).toNat ∧ m.owner ≠ s.cur ∧ m.nowb = true := by decide +kernel
theorem test_meets_prefetch_dropped : let s := work (regs [(1, 0x20000)]) kPRIVATE []
    s.judge s.cur ((s.s! 1).toNat / 64 * 64) 1 .load = .gate 1 ∧ s.tlbLookup 0 0 0x20000 false = none ∧ s.mapFor s.cur 0x20000 false = none := by decide +kernel
theorem test_meets_prefetch_fill : let s := work (regs [(1, 0x10F80)]) kPRIVATE [mapped]
    s.judge s.cur 0x10F80 1 .load = .ok (area kPRIVATE) ∧ (area kPRIVATE).kind ≠ kDEVICE ∧ s.mapFor s.cur 0x10F80 false = some mapped
    ∧ (mapped.spage * 4096 + (0x10F80 - mapped.base)) / 64 ∉ mapped.filled ∧ s.isPoisoned (mapped.paOf (126 * 64)) 64 = false := by decide +kernel
theorem test_meets_prefetch_fill_unowned : Claims.Unowned (work {} kPRIVATE [mapped]) (mapped.paOf (126 * 64)) 64 := by unfold Claims.Unowned; decide +kernel
theorem test_meets_prefetch_of_a_filled_line : (mapped.spage * 4096 + (0x10FC0 - mapped.base)) / 64 ∈ mapped.filled := by decide
/-- Context 0 waits for the fill of line 65. -/
def filling : State := { ctxs := [(0, { sched := { wait := .again (.fill 65) } })], cores := [(0, { maps := [mapped] })] }
theorem test_meets_fill : (filling.ctxOf 0).sched.wait = .again (.fill 65) ∧ mapped ∈ (filling.coreOf (coreKey 0)).maps ∧ mapped.spage * 64 ≤ 65
    ∧ 65 < (mapped.spage + mapped.npg) * 64 ∧ 65 ∉ mapped.filled ∧ filling.isPoisoned (mapped.paOf (65 * 64)) 64 = false := by decide +kernel
theorem test_meets_no_fill : ∀ l, (({} : State).ctxOf 0).sched.wait ≠ .again (.fill l) := fun _ h => by cases h
theorem test_meets_capq : let s := work (regs [(1, 0x1FFFF)]) kPRIVATE []
    s.reached s.cur 0x1FFFF = some (area kPRIVATE) ∧ (area kPRIVATE).depth < 16 ∧ s.reached s.cur 0x20000 = none := by decide +kernel

/-- Context 0 at work on a VERSIONED region whose ring holds these slots, and of which it holds the writer capability. -/
def ringed (r : Regs) (l : List VSlot) : State := { work r kVERSIONED [] with rings := [(0x10000, { slots := l })], holders := [(0x10000, .ctx 0)] }
def slotS (v : Word32) : VSlot := { st := .sealed, ver := v }
def slotO (v : Word32) : VSlot := { st := .opened, ver := v }

theorem test_meets_ring : let s := ringed {} [slotS 5, slotO 7]
    s.ring (s.regionKey (area kVERSIONED)) 2 = [slotS 5, slotO 7] ∧ Claims.Lands s 0x1FFF8 8 8 .ldv (area kVERSIONED) 0x2FFF8 ∧ s.isPoisoned 0x2FFF8 8 = false ∧ Claims.Unowned s 0x2FFF8 8
    ∧ Claims.Lands s 0x1FFFF 1 1 .version (area kVERSIONED) 0x2FFFF ∧ Claims.Lands s 0x10000 0 1 .version (area kVERSIONED) 0x20000 := by
  unfold Claims.Lands Claims.LandsFor Claims.Unowned; decide +kernel
theorem test_meets_ring_of_an_input_image : let s : State := { ringed {} [] with rings := [(imageKey 0, { slots := [slotS 5, slotO 7] })] }
    2 ^ 70 ≤ imageKey 0 ∧ (s.ring (imageKey 0) 2)[1]? = some (slotO 7) ∧ (0x10000 : Nat) < 2 ^ 70 := by decide +kernel
theorem test_meets_exact_sealed : Claims.NewestOf (fun x => x.st = .sealed ∧ x.ver = 5) [slotS 5, slotO 7] (slotS 5) := by unfold Claims.NewestOf; decide
theorem test_meets_exact_parks : (∀ x, x ∈ [slotS 5, slotO 7] → ¬ (x.st = .sealed ∧ x.ver = 7)) ∧ ∃ o, o ∈ [slotS 5, slotO 7] ∧ o.st = .opened ∧ o.ver = 7 := by decide
theorem test_meets_exact_later : (∀ x, x ∈ [slotS 0xFFFFFFFF] → ¬ (x.st = .sealed ∧ x.ver = 0)) ∧ Claims.NewestOf (fun x => x.st ≠ .free) [slotS 0xFFFFFFFF] (slotS 0xFFFFFFFF)
    ∧ serialLater 0 0xFFFFFFFF = true := by unfold Claims.NewestOf; decide
theorem test_meets_exact_gone : (∀ x, x ∈ [slotS 5] → ¬ (x.st = .sealed ∧ x.ver = 4)) ∧ (∀ o, o ∈ [slotS 5] → ¬ (o.st = .opened ∧ o.ver = 4))
    ∧ Claims.NewestOf (fun x => x.st ≠ .free) [slotS 5] (slotS 5) ∧ serialLater 4 5 = false := by unfold Claims.NewestOf; decide
theorem test_meets_le_parks : ∃ o, o ∈ [slotS 5, slotO 7] ∧ o.st = .opened ∧ serialLater o.ver 7 = false := by decide
theorem test_meets_le_delivers : (∀ o, o ∈ [slotS 5, slotO 7] → o.st = .opened → serialLater o.ver 6 = true)
    ∧ Claims.NewestOf (fun x => x.st = .sealed ∧ serialLater x.ver 6 = false) [slotS 5, slotO 7] (slotS 5) := by unfold Claims.NewestOf; decide
theorem test_meets_le_gone : (∀ o, o ∈ [slotS 5, slotO 7] → o.st = .opened → serialLater o.ver 4 = true) ∧ ∀ x, x ∈ [slotS 5, slotO 7] → x.st = .sealed → serialLater x.ver 4 = true := by decide
theorem test_meets_age_delivers : Claims.NewestOf (fun x => x.st = .sealed ∧ serialLater 5 x.ver = false) [slotS 4, slotS 5] (slotS 5) := by unfold Claims.NewestOf; decide
theorem test_meets_age_parks : ∀ x, x ∈ [slotS 5, slotO 6] → x.st = .sealed → serialLater 6 x.ver = true := by decide
theorem test_meets_stv_into_the_open_version : [slotS 5, slotO 7][1]? = some (slotO 7) ∧ (slotO 7).st = .opened ∧ (slotO 7).ver = 7
    ∧ ∀ j y, j < 1 → [slotS 5, slotO 7][j]? = some y → ¬ (y.st = .opened ∧ y.ver = 7) := by
  refine ⟨rfl, rfl, rfl, fun j y h e => ?_⟩
  obtain rfl : j = 0 := by omega
  cases e; decide
theorem test_meets_stv_opens_a_free_slot : let l : List VSlot := [slotS 5, {}]
    (∀ x, x ∈ l → x.st ≠ .opened) ∧ Claims.NewestOf (fun x => x.st ≠ .free) l (slotS 5) ∧ serialLater 6 5 = true ∧ l[1]? = some ({} : VSlot) ∧ 1 < l.length
    ∧ Claims.NewestOf (fun x => x.st = .sealed) l (slotS 5) := by unfold Claims.NewestOf; decide
theorem test_meets_stv_reuses_the_oldest : let l := [slotS 0, slotS 0xFFFFFFFF]
    (∀ y, y ∈ l → y.st ≠ .free) ∧ l[1]? = some (slotS 0xFFFFFFFF) ∧ serialLater 0 0xFFFFFFFF = true := by decide
theorem test_meets_quiet_ring : Claims.QuietRing (ringed {} [slotS 5]) 0x10000 :=
  And.intro (fun e w h g => by
    have h1 : ∀ e ∈ (ringed {} [slotS 5]).ctxs, e.2.sched.wait = .none := by decide +kernel
    rw [h1 e h] at g; cases g) (And.intro (fun _ _ h => nomatch h) (by decide +kernel))
theorem test_meets_stv_gone : (∀ x, x ∈ [slotS 5, slotO 7] → ¬ (x.st = .opened ∧ x.ver = 6)) ∧ ∃ x, x ∈ [slotS 5, slotO 7] ∧ x.st = .opened := by decide
theorem test_meets_seal_outside_a_pair : ((ringed {} [slotS 5, slotO 7]).win! rPAIRCTL).getLsbD 10 = false := by decide +kernel
theorem test_meets_recl : Claims.NewestOf (fun x => x.st = .sealed) [slotS 4, slotS 5] (slotS 5) := by unfold Claims.NewestOf; decide
theorem test_meets_waitv_waits : let s := work {} kOWNED []
    s.mem.readLE 0x2FFFC 4 = 0 % 2 ^ (8 * 4) ∧ s.me.ctl.vdeadl ≠ 0 ∧ Claims.Lands s 0x1FFFC 4 4 .load (area kOWNED) 0x2FFFC := by
  unfold Claims.Lands Claims.LandsFor; decide +kernel
theorem test_meets_waitv_differs : (work {} kOWNED []).mem.readLE 0x2FFFC 4 ≠ 1 % 2 ^ (8 * 4) := by decide +kernel
/-- Context 0 waits since device time 3 with this wait; it is now device time n. -/
def waiting (w : Wait) (n : Nat) : State :=
  let s := work {} kOWNED []
  { s with dtime := n, ctxs := [(0, { sched := { spine := .priv, task := some bind1, wait := w } })] }
def waitv1 : WaitvWait := { sd := 1, va := 0x1FFF8, size := 8, value := 0, t0 := 3, dl := 4 }
theorem test_meets_waitv_deadline : let s := waiting (.waitv waitv1) 7
    (s.ctxOf 0).sched.wait = .waitv waitv1 ∧ waitv1.dl ≠ 0xFFFFFFFF ∧ waitv1.t0 + waitv1.dl.toNat ≤ s.dtime ∧ s.switchedOut 0 = false ∧ (waitv1.size = 4 ∨ waitv1.size = 8)
    ∧ Claims.LandsFor s 0 waitv1.va 8 8 .load (area kOWNED) 0x2FFF8 ∧ s.isPoisoned 0x2FFF8 8 = false ∧ Claims.Unowned s 0x2FFF8 8 := by
  unfold Claims.LandsFor Claims.Unowned; decide +kernel
theorem test_meets_waitv_in_time : let s := waiting (.waitv waitv1) 6
    (s.ctxOf 0).sched.wait = .waitv waitv1 ∧ waitv1.t0 ≤ s.dtime ∧ s.dtime < waitv1.t0 + waitv1.dl.toNat := by decide +kernel
def ldv1 (f : Bool) : LdvWait := { ring := 0x10000, mode := 0, sd := 1, pf := 1, off := 8, size := 8, arg := 9, deadline := some 7, reg := { area kVERSIONED with fbk := f, frec := 0x20000 } }
theorem test_meets_ldv_deadline : let s := waiting (.ldv (ldv1 true)) 8
    (s.ctxOf 0).sched.wait = .ldv (ldv1 true) ∧ (ldv1 true).deadline = some 7 ∧ 7 < s.dtime ∧ s.switchedOut 0 = false ∧ Claims.Unowned s (0x20000 + 8 % 64) 8
    ∧ s.isPoisoned (0x20000 + 8 % 64) 8 = false := by
  unfold Claims.Unowned; decide +kernel
theorem test_meets_ldv_stale : ((waiting (.ldv (ldv1 false)) 8).ctxOf 0).sched.wait = .ldv (ldv1 false) ∧ (ldv1 false).reg.fbk = false := by decide +kernel
theorem test_meets_ldv_in_time : (waiting (.ldv (ldv1 false)) 7).dtime ≤ 7 := by decide +kernel

theorem test_meets_fill_for_waitv : let s := { waiting (.waitv { waitv1 with va := 0x10080 }) 3 with cores := [(0, { maps := [mapped] })] }
    (s.ctxOf 0).sched.wait = .waitv { waitv1 with va := 0x10080 } ∧ s.switchedOut 0 = false ∧ s.mapFor 0 0x10080 false = some mapped
    ∧ (mapped.spage * 4096 + (0x10080 - mapped.base)) / 64 ∉ mapped.filled ∧ s.isPoisoned (mapped.paOf (66 * 64)) 64 = false := by decide +kernel
theorem test_meets_no_fill_of_a_tenant_switched_out : ({} : State).switchedOut 0 = true := by decide +kernel
/-- Context 0 at work, with the right to send to every context of the device, and this on its inbox and holders. -/
def sending (r : Regs) (kind : BitVec 3) (c : Ctx) (h : SMap Holder) : State :=
  let s := work r kind []
  let k := s.coreOf 0
  { s.setCore 0 { k with gateC := { tenant := 0, typ := 3, rights := 3, w4 := 0xFFF0000, w8 := 0 } :: k.gateC } with
    ctxs := [(0, { c with regs := r, sched := { c.sched with spine := .priv, task := some bind1 } })], holders := h }
def flight (w : Word) (p : Purpose) (a : Answer) : Flight :=
  { src := some 0, tenant := 0, part := 0, launch := none, msg := { hdr := w, payload := 0 }, remote := none, purpose := p, answer := a, resends := 0, dead := false }
/-- What is sent to context 31, the last of its gathering; KIND is the argument. -/
def to31 (kind : Nat) : Word := word (kind + 31 * 2 ^ 24 + 2 ^ 47)

theorem test_meets_send : let s := sending {} kOWNED {} []
    s.gateSends 0 (s.judged 0 0 31 none) none 1 = true ∧ s.gateSends 0 (s.judged 0 1 31 none) none 2 = true ∧ s.gateSends 0 (s.judged 0 0 64 none) none 1 = false ∧ s.ownDev < 2 ^ 8 := by decide +kernel
theorem test_meets_reply : let s := sending {} kOWNED { sched := { reply := some { pcid := 31, dev := 0, rmt := false, seq := 0xFFFF } } } []
    s.me.sched.reply = some { pcid := 31, dev := 0, rmt := false, seq := 0xFFFF } ∧ (sending {} kOWNED {} []).me.sched.reply = none := by decide +kernel
def msgFrom (src seq : Nat) : Msg := { hdr := word (src * 2 ^ 12 + 2 ^ 47 + seq * 2 ^ 48), payload := 0 }
theorem test_meets_receive : let s := sending {} kOWNED { inbox := [msgFrom 5 1, msgFrom 6 2] } []
    Claims.Oldest s (fun _ => True) (msgFrom 5 1) ∧ Claims.Oldest s (fun m => m.hdr.toNat / 2 ^ 12 % 2 ^ 12 = 6) (msgFrom 6 2) :=
  And.intro ⟨[], [msgFrom 6 2], rfl, by decide +kernel, trivial, by decide⟩ ⟨[msgFrom 5 1], [], rfl, by decide +kernel, by decide, by decide⟩
theorem test_meets_nothing_to_receive : ∀ m, ¬ Claims.Oldest (sending {} kOWNED {} []) (fun _ => True) m := fun _ ⟨l, l', h, _⟩ => by
  have : (sending {} kOWNED {} []).me.inbox = [] := by decide +kernel
  rw [this] at h; cases l <;> cases h
theorem test_meets_judged : let s := sending {} kOWNED {} []
    s.partOf (s.cur / 64) = some 0 ∧ s.cidOfPcid 0 (31 / 4 * 4) = some 28 ∧ 28 % 64 / 4 ≠ 8 := by decide +kernel
theorem test_meets_named_by_a_kernel_core : let s : State := { cur := 32 }
    s.cur % 64 / 4 = 8 ∧ s.reached s.cur 0x10000 = none ∧ s.named 0x10000 = none := by decide +kernel
theorem test_meets_handover_of_no_region : (work {} kOWNED []).named 0x20000 = none := by decide +kernel
theorem test_meets_handover_of_a_wrong_kind : (work {} kATOMIC []).named 0x10000 = some (area kATOMIC) ∧ (area kATOMIC).kind ≠ kOWNED ∧ (area kATOMIC).kind ≠ kVERSIONED := by decide +kernel
theorem test_meets_handover_by_another : let s := sending {} kOWNED {} []
    s.named 0x10000 = some (area kOWNED) ∧ ¬ (s.holder (s.regionKey (area kOWNED)) = .ctx s.cur ∨ (s.cur % 64 / 4 = 8 ∧ s.holder (s.regionKey (area kOWNED)) = .service)) := by decide +kernel
theorem test_meets_handover : let s := sending (regs [(2, 31)]) kOWNED {} [(0x10000, .ctx 0)]
    s.holder (s.regionKey (area kOWNED)) = .ctx s.cur ∧ (s.s! 2).toNat % 2 ^ 12 ≠ s.pcidOf s.cur ∧ s.gateSends s.cur 31 none 1 = true ∧ s.cmdsOf s.cur = []
    ∧ s.partOf (s.cur / 64) = some 0 ∧ s.cidOfPcid 0 31 = some 31 ∧ (∀ m, m ∈ (s.coreOf (coreKey s.cur)).maps → ¬ m.writable = true)
    ∧ (area kOWNED).base < 2 ^ 64 ∧ (area kOWNED).len < 2 ^ 64 := by decide +kernel
theorem test_meets_handover_to_itself : (sending {} kOWNED {} [(0x10000, .ctx 0)]).pcidOf 0 = 0 ∧ (sending {} kOWNED {} []).gateSends 0 64 none 1 = false := by decide +kernel
theorem test_meets_arrival_in_an_inbox : let s : State := { sending {} kOWNED {} [] with flights := [(7, flight (to31 0) (.send 1) .pending)] }
    s.flights.find? (·.1 == 7) = some (7, flight (to31 0) (.send 1) .pending) ∧ s.cidOfPcid 0 ((to31 0).toNat / 2 ^ 24 % 2 ^ 12) = some 31 ∧ s.descheduled 31 = none
    ∧ ¬ (to31 0).toNat % 2 ^ 3 = 1 ∧ (∀ e, e ∈ s.meminbox → ¬ (e.cid = 31 ∧ e.tenant = s.tenantOf 31)) ∧ s.server 31 = none ∧ s.inboxFull 31 = false := by decide +kernel
theorem test_meets_arrival_nowhere : (sending {} kOWNED {} []).cidOfPcid 0 64 = none := by decide +kernel
theorem test_meets_arrival_in_a_full_inbox : let s := sending {} kOWNED { inbox := List.replicate 16 (msgFrom 5 1) } []
    s.inboxFull 0 = true ∧ s.server 0 = none ∧ s.descheduled 0 = none := by decide +kernel
theorem test_meets_arrival_of_active : let s : State := { sending {} kOWNED {} [] with cores := [(7, { htEn := true, htSlot := 3, handlers := [(63, { st := .valid }), (62, { st := .writing })] })] }
    (to31 1).toNat % 2 ^ 3 = 1 ∧ 31 / 4 * 4 + (s.coreOf (coreKey 31)).htSlot.toNat = 31 ∧ (s.coreOf 7).htEn = true ∧ ((s.coreOf 7).handler 63).st = .valid
    ∧ ((s.coreOf 7).handler 62).st = .writing ∧ ((s.coreOf 7).handler 0).st = .empty ∧ s.descheduled 31 = none := by decide +kernel
theorem test_meets_arrival_behind_held_messages : let s : State := { sending {} kOWNED {} [] with meminbox := [{ tenant := 0, cid := 31, msg := msgFrom 5 1 }] }
    (∃ e, e ∈ s.meminbox ∧ e.cid = 31 ∧ e.tenant = s.tenantOf 31) ∧ (s.meminbox.filter (·.tenant == s.tenantOf 31)).length < 65536 ∧ s.descheduled 31 = none := by decide +kernel
theorem test_meets_dead_flight : { flight (to31 0) (.send 1) .pending with dead := true }.answer = .pending ∧ { flight (to31 0) (.send 1) .pending with dead := true }.dead = true := by decide
theorem test_meets_answer : let s : State := { ctxs := [(0, { sched := { wait := .send 1 } })], flights := [(7, flight (to31 0) (.send 1) .accepted)] }
    (s.ctxOf 0).sched.wait = .send 1 ∧ s.flights.find? (·.1 == 7) = some (7, flight (to31 0) (.send 1) .accepted) ∧ (flight (to31 0) (.send 1) .accepted).src = some 0
    ∧ (∀ x, x ∈ s.slots → ¬ (x.tenant = (flight (to31 0) (.send 1) .accepted).tenant ∧ x.cid = 0)) := by decide
theorem test_meets_answer_off_its_slot : let s : State := { slots := [{ tenant := 0, cid := 0, ctx := { sched := { wait := .send 1 } } }] }
    ¬ ∀ x, x ∈ s.slots → ¬ (x.tenant = 0 ∧ x.cid = 0) := by decide
theorem test_meets_refused_answer : (flight (to31 0) (.send 1) (.refused 0x80000000000A)).answer = .refused 0x80000000000A := by decide
theorem test_meets_handover_refused : (0x80000000000A : Word).toNat / 2 ^ 3 % 2 ^ 3 = 1 ∧ (0x800000000022 : Word).toNat / 2 ^ 3 % 2 ^ 3 = 4 := by decide
theorem test_meets_resend : let s : State := { sending {} kOWNED {} [] with clk := 64, flights := [(7, flight (to31 4) (.handover 0x10000 0x10000) (.backoff 64))] }
    s.tenantOf 0 = 0 ∧ s.maySend 0 = true ∧ (s.ctxOf 0).sched.susp = none ∧ 64 ≤ s.clk ∧ s.flights.find? (·.1 == 7) = some (7, flight (to31 4) (.handover 0x10000 0x10000) (.backoff 64)) := by decide +kernel
theorem test_meets_no_resend_yet : ({ clk := 63 } : State).clk < 64 := by decide
theorem test_meets_drain : let s : State := { sending {} kOWNED {} [] with meminbox := [{ tenant := 0, cid := 0, msg := msgFrom 5 1 }] }
    s.meminbox.find? (fun e => e.cid == 0 && e.tenant == s.tenantOf 0) = some { tenant := 0, cid := 0, msg := msgFrom 5 1 } ∧ s.switchedOut 0 = false ∧ s.server 0 = none ∧ s.inboxFull 0 = false := by decide +kernel
theorem test_meets_edge : let s : State := { ctxs := [(0, { sched := { wait := .again (.recvf 4), since := 5 } })], dtime := 1005 }
    (s.ctxOf 0).sched.wait = .again (.recvf 4) ∧ (s.ctxOf 0).sched.edge = none ∧ (s.ctxOf 0).sched.since + 1000 ≤ s.dtime ∧ 1004 < (s.ctxOf 0).sched.since + 1000 := by decide
theorem test_meets_deadlock : let s : State := { sending {} kOWNED { sched := { edge := some 4 } } [] with
    ctxs := [(0, { sched := { edge := some 4 } }), (4, { sched := { edge := some 0 } })] }
    (s.ctxOf 0).sched.edge = some 4 ∧ s.partOf 0 = some 0 ∧ (4 : Word).getLsbD 20 = false ∧ s.cidOfPcid 0 4 = some 4 ∧ (s.ctxOf 4).sched.edge = some 0 ∧ s.cidOfPcid 0 0 = some 0 := by decide +kernel
theorem test_meets_no_edge : (({} : State).ctxOf 0).sched.edge = none ∧ ∀ h, h ∈ ({} : State).meminbox → ¬ (h.cid = 0 ∧ h.tenant = ({} : State).tenantOf 0) := by decide

theorem test_meets_descheduled : let s := (sending {} kOWNED {} []).setWin (rPSTAT 0) 1
    s.descheduled 0 = some 0 ∧ (s.meminbox.filter (·.tenant == 0)).length < 65536 := by decide +kernel

/-- A launch of image 1. -/
def launch1 : Launch :=
  { id := 1, tenant := 0, part := 0, src := .queue 0 0, pkt := 0, packet := { graph := 0, crec := 0, errq := 0, budget := 0, tag := 0, flags := 0, dom := 0, pcore := 0, rest := false }
    graph := { tasks := 0, deps := 0, succ := 0, grant := 0, pool := 0, tvec := 0, ntask := 1, nsucc := 0, ngrant := 0, rest := false }, image := 1, pbase := 0, plen := 1, rule := none
    live := [], ready := [], started := [], ended := [], ring := [], armed := [] }
/-- Context 0 at work for launch 1, with a scheduling state of its own. -/
def tasked (r : Regs) (c : Ctl) (x : Sched) : State :=
  { work r kPRIVATE [] with ctxs := [(0, { regs := r, ctl := c, sched := { x with task := some bind1 } })], launches := [launch1] }

theorem test_meets_barrier_of_no_member : let s := tasked {} {} { spine := .priv }
    s.isMember s.cur 31 = false := by decide +kernel
theorem test_meets_barrier_arrival : let s := tasked {} { bmask := 0x80000001 } { spine := .priv }
    s.isMember s.cur 31 = true ∧ s.cur ∈ s.members 0 31 ∧ (s.barOf s.cur 31).st = 0 ∧ s.pending 0 = false ∧ s.partOf (s.cur / 64) = some 0 ∧ s.heldHere s.cur = false
    ∧ s.cur ∈ s.members 0 0 ∧ s.me.sched.wait = .none := by decide +kernel
theorem test_meets_barrier_arrived : let s := tasked {} { bmask := 0x80000001 } { spine := .priv, bar := [(31, { st := 1 }), (0, { st := 1 })] }
    s.isMember s.cur 31 = true ∧ (s.barOf s.cur 31).st = 1 ∧ s.isMember s.cur 0 = true ∧ (s.barOf s.cur 0).st = 1 := by decide +kernel
theorem test_meets_barrier_done : let s := tasked {} { bmask := 0x80000001 } { spine := .priv, bar := [(31, { st := 2 }), (0, { st := 2 })] }
    (s.barOf s.cur 31).st = 2 ∧ (s.barOf s.cur 0).st = 2 ∧ s.heldHere s.cur = false ∧ ({ s with parts := [(0, { held := true })] } : State).heldHere s.cur = true := by decide +kernel
theorem test_meets_superstep_with_a_request : let s := (tasked {} {} { spine := .priv }).setWin (rPREQ 0) (word (2 ^ 63))
    s.pending 0 = true ∧ s.cur ∈ s.members 0 0 ∧ (s.barOf s.cur 0).st = 0 ∧ s.heldHere s.cur = false := by decide +kernel

theorem test_meets_spawn_misaligned : (0x1003F : Word).toNat % 64 ≠ 0 := by decide
theorem test_meets_spawn : let s := tasked {} {} { spine := .priv }
    s.cur % 64 / 4 ≠ 8 ∧ Claims.Lands s 0x1FFC0 64 64 .load (area kPRIVATE) 0x2FFC0 ∧ s.isPoisoned 0x2FFC0 64 = false ∧ (area kPRIVATE).kind ≠ kVERSIONED ∧ Claims.Unowned s 0x2FFC0 64
    ∧ Claims.goodTarget (word (s.mem.readLE 0x2FFC0 64 % 2 ^ 64)) ∧ s.launchOf s.cur = some 1 ∧ s.deterministic s.cur = false ∧ (s.coreOf (coreKey s.cur)).deque.length < 64 := by
  unfold Claims.Lands Claims.LandsFor Claims.Unowned Claims.goodTarget; decide +kernel
theorem test_meets_spawn_of_a_bad_entry : ¬ Claims.goodTarget (word (2 ^ 56)) ∧ ¬ Claims.goodTarget 2 := by unfold Claims.goodTarget; decide
theorem test_meets_spawn_deterministic : { tasked {} {} {} with launches := [{ launch1 with packet := { launch1.packet with flags := 1 } }] }.deterministic 0 = true := by decide +kernel
/-- What a handler's dispatch saved. -/
def saved (f : Bool) : HSave :=
  { free := f, pc := 4, ri := 63, frm := 0, fflags := 0, cls := 3, s := Vector.replicate 32 0, p := Vector.replicate 8 0, v := Vector.replicate 4 0, reply := none, wait := .none, yielded := false }
theorem test_meets_words_in_a_handler : (tasked {} {} { handler := some (saved true) }).me.sched.handler.isSome = true
    ∧ (tasked {} {} { handler := some (saved false) }).me.sched.lowered = false ∧ (saved false).free = false ∧ (saved true).free = true := by decide +kernel
theorem test_meets_the_end_of_a_handler : let s := tasked {} {} { spine := .priv, handler := some (saved true) }
    s.me.sched.handler = some (saved true) ∧ s.me.sched.spine = .priv ∧ s.cur < 4096 ∧ (s.stream (s.cur / 64) (s.cur % 4)).holdTo = none := by decide +kernel
theorem test_meets_the_end_of_a_handler_with_its_class : let s := tasked {} { prioCls := 3 } { spine := .attached, handler := some (saved false) }
    (saved false).cls = s.me.ctl.prioCls ∧ (tasked {} {} { spine := .attached }).me.sched.spine = .attached ∧ (saved false).cls ≠ (tasked {} {} {}).me.ctl.prioCls := by decide +kernel
theorem test_meets_spawn_of_no_graph : (work {} kPRIVATE []).setCtx 0 {} |>.launchOf 0 |>.isNone := by decide +kernel
theorem test_meets_yield : (tasked {} {} { spine := .priv }).me.sched.handler = none ∧ (tasked {} {} { spine := .priv }).me.sched.spine = .priv := by decide +kernel
/-- A command of context 0. -/
def cmd1 (w : Vector Word32 8) : Cmd :=
  { w := w, idx := 0, cid := 0, tenant := 0, launch := some 1, ctr := 0, msg := false, fmta := 0, fmtb := 0, scla := 0, sclb := 0, accbase := 0 }
theorem test_meets_finish_with_commands : let s : State := { tasked {} {} { spine := .priv } with cores := [(0, { eng := [(0, { queue := [cmd1 (Vector.replicate 8 0)] })] })] }
    s.me.sched.handler = none ∧ s.cmdsOf s.cur ≠ [] := by decide +kernel
theorem test_meets_finish_with_a_failure : let s := tasked { failw := 0x8000 } {} { spine := .priv }
    s.me.sched.handler = none ∧ s.cmdsOf s.cur = [] ∧ (s.me.regs.failw.toNat / 2 ^ 16 % 2 ^ 8 ≠ 0 ∨ s.me.regs.failw.getLsbD 15 = true) := by decide +kernel
theorem test_meets_finish : let s := tasked {} {} { spine := .priv }
    s.me.sched.handler = none ∧ s.cmdsOf s.cur = [] ∧ s.me.regs.failw.toNat / 2 ^ 16 % 2 ^ 8 = 0 ∧ s.me.regs.failw.getLsbD 15 = false ∧ s.me.sched.spine = .priv ∧ s.cur < 4096
    ∧ (s.stream (s.cur / 64) (s.cur % 4)).holdTo = none := by decide +kernel
/-- The same with the core's four slots assigned to tenant 0 and this core state. -/
def slotted (k : Core) (x : List (Nat × Ctx)) : State := ({ tasked {} {} { spine := .priv } with cores := [(0, k)], ctxs := x }).setWin (rSLOTMAP 0 0) (word (15 * 2 ^ 32))
theorem test_meets_hset : let s := slotted { handlers := [(63, { st := .writing })] } [(0, { sched := { spine := .priv, task := some bind1 } })]
    s.slotTenant (s.cur / 4 * 4 + (s.coreOf 0).htSlot.toNat) = some (s.tenantOf s.cur) ∧ ((s.coreOf 0).handler 63).st = .writing ∧ ((s.coreOf 0).handler 0).st ≠ .writing
    ∧ Claims.goodTarget (s.s! 1) := by unfold Claims.goodTarget; decide +kernel
theorem test_meets_hset_of_another : ¬ (tasked {} {} { spine := .priv }).slotTenant 0 = some ((tasked {} {} { spine := .priv }).tenantOf 0) := by decide +kernel
/-- An ACTIVE message for handler 63. -/
def active63 : Msg := { hdr := word (1 + 63 * 2 ^ 6 + 2 ^ 47), payload := 0 }
theorem test_meets_dispatch : let s := slotted { htEn := true, handlers := [(63, { st := .valid })] } [(0, { inbox := [msgFrom 5 1, active63], sched := { spine := .priv, task := some bind1 } })]
    (s.ctxOf 0).inbox = [msgFrom 5 1] ++ active63 :: [] ∧ s.heldFor 0 (msgFrom 5 1) = false ∧ s.heldFor 0 active63 = true
    ∧ ((s.coreOf 0).handler (active63.hdr.toNat / 2 ^ 6 % 2 ^ 6)).st = .valid ∧ (∀ j, j < 4 → (s.ctxOf (0 / 4 * 4 + j)).sched.handler = none) ∧ (s.ctxOf 0).sched.wait = .none ∧ (s.ctxOf 0).sched.susp = none
    ∧ (s.ctxOf 0).sched.frozen = false ∧ s.switchedOut 0 = false ∧ (s.ctxOf 0).sched.lowered = false := by decide +kernel
theorem test_meets_dispatch_on_a_free_context : let s := slotted { htEn := true, handlers := [(63, { st := .valid })] } [(0, { inbox := [active63] })]
    (s.ctxOf 0).sched.task = none ∧ s.heldFor 0 active63 = true ∧ s.switchedOut 0 = false := by decide +kernel
theorem test_meets_no_dispatch : (slotted {} []).oldestHeld 0 = none := by decide +kernel

/-- A request to a special-function unit. -/
def asked (c n : Nat) (st : Option Nat) : SfuReq := { cid := c, tenant := 0, fn := 7, vd := 31, ops := 0, pred := 0xFFFF, z := false, frm := 0, arrival := n, started := st }
theorem test_meets_unit_busy : let l := [asked 0 1 (some 10), asked 1 2 none]
    ∃ r t, r ∈ l ∧ r.started = some t ∧ 13 < t + 4 := ⟨asked 0 1 (some 10), 10, List.mem_cons_self .., rfl, by decide⟩
theorem test_meets_unit_start : let l := [asked 0 1 (some 10), asked 1 2 none, asked 2 2 none]
    asked 1 2 none ∈ l ∧ (∀ r', r' ∈ l → r'.started = none → r' = asked 1 2 none ∨ 2 < r'.arrival ∨ (2 = r'.arrival ∧ 1 < r'.cid)) := by decide +kernel
theorem test_meets_unit_idle : ∀ r, r ∈ [asked 0 1 (some 10)] → r.started ≠ none := by decide +kernel
theorem test_meets_token : let s : State := { gaths := [(0, { sfu0 := [asked 1 9 (some 10), asked 0 1 (some 10)] })], clk := 30 }
    Claims.sfuList (s.gathSt 0) 0 = [asked 1 9 (some 10)] ++ asked 0 1 (some 10) :: [] ∧ 10 + 20 ≤ s.clk ∧ (asked 1 9 (some 10)).cid ≠ 0 ∧ s.slots = [] := by decide +kernel
theorem test_meets_token_for_a_saved_context : let s : State := { gaths := [(0, { sfu0 := [asked 0 1 (some 10)] })], clk := 30, slots := [{ tenant := 0, cid := 0, ctx := {} }] }
    ∃ y, y ∈ s.slots ∧ y.tenant = (asked 0 1 (some 10)).tenant ∧ y.cid = 0 := ⟨_, List.mem_cons_self .., rfl, rfl⟩
theorem test_meets_no_token : let s : State := { gaths := [(0, { sfu0 := [asked 0 1 (some 11)] })], clk := 30 }
    ∀ r, r ∈ Claims.sfuList (s.gathSt 0) 0 → ¬ (r.cid = 0 ∧ 11 + 20 ≤ s.clk) := by decide +kernel
theorem test_meets_block_of_nan : fp32.val (elem ((({} : Regs).vset 1 (BitVec.ofNat 512 0x7FC00000)).vget 1) 32 0) = .nan := by decide +kernel
theorem test_meets_block_of_zeros : ∀ k, k < 32 → fp32.val (elem (({} : Regs).vget 0) 32 (k % 16)) ≠ .nan := by decide +kernel

/-- Tables that map tenant 0's 64 KiB at 0x10000 to 0x20000. -/
def tables : Memory :=
  [(0x100000, 0x110001), (0x110000, 0x120001), (0x120000, 0x130001), (0x130000, 0x140005), (0x140008, 0x20003)].foldl (fun m e => Memory.writeLE m e.1 8 e.2) []
/-- Context 0 at work for launch 1 of an image whose pool, of two records, lies at 0x10000; this is word 0 of record 0. -/
def pooled (w0 : Nat) (k : Core) : State :=
  ({ tasked {} {} { spine := .priv } with
     mem := Memory.writeLE tables 0x20000 4 w0, cores := [(0, k)]
     images := [{ id := 1, tenant := 0, base := 0x10000, size := 64, text := 0x10000, poolAt := 0x10000, nrec := 2, modes := 0, parts := [] }] }).setWin (rXROOT 0) 0x100000

/-- Word 0 of a pushed record. -/
def firstWord (s : State) (i : Nat) : Option Nat :=
  match s.poolRec s.cur i with
  | .record bs => some (natAt bs 0 4)
  | _ => none
theorem test_meets_push_past_the_pool : (pooled 5 {}).poolRec 0 2 = .absent := by decide +kernel
theorem test_meets_push_of_a_record_that_is_away : let s := pooled 5 {}
    ({ s with mem := s.mem.writeLE 0x140008 8 2 } : State).poolRec 0 1 = .away 0x10020 := by decide +kernel
theorem test_meets_push_of_a_poisoned_record : ({ pooled 5 {} with poison := [0x20000 / 64] } : State).poolRec 0 1 = .lost 0x10020 := by decide +kernel
theorem test_meets_push_of_registers_past_s31 : headBad 0x60005 0 31 = some 6 := by decide +kernel
theorem test_meets_push_of_an_unknown_kind : firstWord (pooled 6 {}) 0 = some 6 ∧ firstWord (pooled 0x18 {}) 0 = some 0x18 := by decide +kernel
theorem test_meets_push_to_another_engine : firstWord (pooled 0x105 {}) 0 = some 0x105 ∧ 0x105 / 2 ^ 8 % 2 ^ 3 ≠ 0 := by decide +kernel
theorem test_meets_push_not_served : firstWord (pooled 0x110 {}) 0 = some 0x110 ∧ ¬ (0x110 / 2 ^ 8 % 2 ^ 3 = 0) := by decide +kernel
theorem test_meets_push_of_reserved_bits : (BitVec.ofNat 32 0x10005 : Word32).getLsbD 16 = true ∧ (BitVec.ofNat 32 0x80000005 : Word32).toNat / 2 ^ 24 ≠ 0 := by decide
theorem test_meets_push : firstWord (pooled 1 {}) 0 = some 1 ∧ headBad 1 0 0 = none ∧ (cmd1 (((Vector.replicate 8 0).set 0 1).set 1 0)).bad false = none := by decide +kernel
theorem test_meets_push_of_a_bad_record : ((cmd1 (((Vector.replicate 8 0xFFFFFFFF).set 0 1))).bad false).isSome = true := by decide +kernel
theorem test_meets_push_on_a_full_queue : 2 ≤ ({ queue := [cmd1 (Vector.replicate 8 0), cmd1 (Vector.replicate 8 0)] } : EngQ).queue.length := by decide
theorem test_meets_waitc_done : serialLater 5 5 = false ∧ ¬ ((0 : Word32).toNat / 2 ^ 16 % 2 ^ 8 ≠ 0 ∨ (0 : Word32).getLsbD 15 = true) := by decide
theorem test_meets_waitc_failed : (0x00020000 : Word32).toNat / 2 ^ 16 % 2 ^ 8 ≠ 0 := by decide
theorem test_meets_waitc_waits : let s := pooled 1 { eng := [(0, { queue := [cmd1 ((Vector.replicate 8 0).set 0 0x801)] })] }
    serialLater 1 0 = true ∧ ∃ x, x ∈ s.cmdsOf s.cur ∧ x.2.w[0].getLsbD 11 = true ∧ x.2.ctr = 0 := by decide +kernel
theorem test_meets_waitc_hopeless : serialLater 1 0 = true ∧ ¬ ∃ x, x ∈ (pooled 1 {}).cmdsOf 0 ∧ x.2.w[0].getLsbD 11 = true ∧ x.2.ctr = 0 := by decide +kernel
theorem test_meets_random_stream_ended : (0xFFFFFFFFFFFFFFFF : Word).toNat = 2 ^ 64 - 1 ∧ (0xFFFFFFFFFFFFFFFE : Word).toNat ≠ 2 ^ 64 - 1 := by decide

/-- A record: word 0 and the others. -/
def rec8 (w0 w1 w2 w3 w4 w5 w6 w7 : Word32) : Cmd := cmd1 #v[w0, w1, w2, w3, w4, w5, w6, w7]
/-- Core 0 with this command at the head of engine e, p of it done. -/
def headed (e : Nat) (c : Cmd) (p : Nat) : State := { pooled 1 {} with cores := [(0, { eng := [(e, { queue := [c], prog := p })] })] }
theorem test_meets_matrix_heads : (headed 0 (rec8 1 1 0 0 0 0 0 0) 0).headCmd 0 0 = some (rec8 1 1 0 0 0 0 0 0) ∧ (headed 0 (rec8 5 0 0x200 0 0 0 0 0) 0).headCmd 0 0 = some (rec8 5 0 0x200 0 0 0 0 0)
    ∧ (pooled 1 {}).headCmd 0 0 = none := by decide +kernel
/-- That core with stash word 0 poisoned. -/
def poisonedWord (s : State) : State := s.setCore 0 { s.coreOf 0 with bad := [0] }
theorem test_meets_multiply : let c := rec8 2 0 0 0x3F1F1F 0 0 0 0
    (headed 0 c 0).headCmd 0 0 = some c ∧ c.ra ≤ 32 ∧ c.cb ≤ 32 ∧ (headed 0 c 0).mulLost 0 c = false ∧ (poisonedWord (headed 0 c 0)).mulLost 0 c = true
    ∧ (poisonedWord (headed 0 (rec8 3 0 0 0x1F1F 0 0 0 0) 0)).mulLost 0 (rec8 3 0 0 0x1F1F 0 0 0 0) = true := by decide +kernel
theorem test_meets_command_of_a_context_off_its_slot : let c := rec8 1 1 0 0 0 0 0 0
    ∃ y, y ∈ ({ headed 0 c 0 with slots := [{ tenant := 0, cid := 0, ctx := {} }] } : State).slots ∧ y.cid = c.cid ∧ y.tenant = c.tenant := ⟨_, List.mem_cons_self .., by decide⟩
theorem test_meets_multiply_well_formed : let c := rec8 2 0 0 0x1F1F 0 0 0 0
    ¬ (c.opA.wellFormed [] c.g = false ∨ c.opB.wellFormed [] c.g = false) ∧ c.ra = 32 ∧ c.cb = 32 := by decide +kernel
theorem test_meets_multiply_ill_formed : let c := { rec8 2 0 0 0 0 0 0 0 with fmta := 0x40 }
    c.opA.wellFormed [] c.g = false := by decide +kernel
theorem test_meets_sparse_multiply : let c := rec8 3 0 0 0 0 0 0 0
    ¬ (c.opA.wellFormed [] c.g = false ∨ c.opB.wellFormed [] c.g = false) ∧ c.keptOk [] = true ∧ c.ra ≤ 32 ∧ c.cb ≤ 32 := by decide +kernel
theorem test_meets_sparse_multiply_bad_index : let c := rec8 0x2003 0 0 0x30000 0 0 0 0
    ¬ (c.opA.wellFormed [] c.g = false ∨ c.opB.wellFormed [] c.g = false) ∧ c.keptOk [] = false := by decide +kernel
theorem test_meets_epilogue : let c := rec8 4 0 0x3FFF0 8 0 0 0 0
    (headed 0 c 0).headCmd 0 0 = some c ∧ ((headed 0 c 0).coreOf 0).maps = [] ∧ ((headed 0 c 0).coreOf 0).bad = [] ∧ 0 = coreKey c.cid ∧ 0 < c.rowBytes ∧ c.rowBytes ≤ c.w[3].toNat ∧ c.w[3].toNat % 4 = 0
    ∧ c.w[2].toNat + c.ra * c.w[3].toNat + 4 ≤ 0x40000 := by decide +kernel
theorem test_meets_power_gate : let s : State := { cores := [(0, { mxSince := 5 })], clk := 261 }
    (s.coreOf 0).mxidle.toNat ≠ 0 ∧ (SMap.read {} (s.coreOf 0).eng 0 : EngQ).queue = [] ∧ (SMap.read {} (s.coreOf 0).eng 0 : EngQ).done = []
    ∧ (s.coreOf 0).mxSince + (s.coreOf 0).mxidle.toNat ≤ s.clk ∧ ¬ (s.coreOf 0).mxSince + (s.coreOf 0).mxidle.toNat ≤ 260 := by decide +kernel
theorem test_meets_completion : let s : State := { cores := [(0, { eng := [(0, { done := [{ cmd := rec8 0x801 0 0 0 0 0 0 0, reason := 0, res0 := 0, res1 := 0 }] })] })] }
    (SMap.read {} (s.coreOf 0).eng 0 : EngQ).done[0]? = some { cmd := rec8 0x801 0 0 0 0 0 0 0, reason := 0, res0 := 0, res1 := 0 } ∧ (∀ y, y ∈ s.slots → ¬ y.cid = 0)
    ∧ (SMap.read {} (s.coreOf 0).eng 0 : EngQ).done[1]? = none := by decide +kernel
theorem test_meets_copy : let c := rec8 0x3110 0x3FFF8 8 0x3FFF0 0 0 0 0
    (headed 1 c 0).headCmd 0 1 = some c ∧ 0 = coreKey c.cid ∧ c.w[0].getLsbD 12 = true ∧ c.w[0].getLsbD 13 = true ∧ ((headed 1 c 0).coreOf 0).maps = [] ∧ ((headed 1 c 0).coreOf 0).bad = [] ∧ (headed 1 c 0).slots = []
    ∧ ∀ a, a < c.w[2].toNat / 4 → c.w[3].toNat + 4 * a + 4 ≤ 0x40000 ∧ c.w[1].toNat + 4 * a + 4 ≤ 0x40000 := by decide +kernel
theorem test_meets_copy2d : let c := rec8 0x3111 0x100 0x10001 0x200 0 0 0x3FDF8 0xFFFFFFF8
    let src := fun (a : Nat) => 0x200 + a / 2 * 0x3FDF8 - 0 + 4 * (a % 2)
    let dst := fun (a : Nat) => 0x100 - a / 2 * 8 + 4 * (a % 2)
    c.w[2].toNat % 65536 + 1 = 2 ∧ (∀ a, a < 4 → (src a : Int) = 0x200 + (a / 2 : Nat) * sintN c.w[6].toNat 32 + 4 * (a % 2 : Nat))
    ∧ (∀ a, a < 4 → (dst a : Int) = 0x100 + (a / 2 : Nat) * sintN c.w[7].toNat 32 + 4 * (a % 2 : Nat)) ∧ ∀ a, a < 4 → src a + 4 ≤ 0x40000 ∧ dst a + 4 ≤ 0x40000 := by decide +kernel
theorem test_meets_fill_of_the_stash : let c := rec8 0x2116 0x3FFF8 8 0xFFFFFFFF 0 0 0 0
    c.w[0].getLsbD 13 = true ∧ ∀ a, a < c.w[2].toNat / 4 → c.w[1].toNat + 4 * a + 4 ≤ 0x40000 := by decide +kernel
theorem test_meets_gather : let c := rec8 0x3112 4 0 0x3FFFC 0 0 0x100 0
    0 < c.w[2].toNat % 65536 + 1 ∧ (c.w[1].toNat + 0) % 8 = 4 ∧ (0 : Int) ≤ (c.w[3].toNat : Int) + sintN (SMap.readLE ([] : SMap Byte) 0x100 4) 32 * 4 ∧ 0x3FFFC + 4 ≤ 0x40000
    ∧ c.w[0].getLsbD 14 = false := by decide +kernel
theorem test_meets_gather_outside : let st := SMap.writeLE ([] : SMap Byte) 0x100 4 0xFFFFFFFF
    (0 : Int) + sintN (SMap.readLE st 0x100 4) 32 * 4 < 0 := by decide +kernel
theorem test_meets_planes : let c := rec8 0x2114 0 0 0 0 0 0 0
    c.planeP ≤ 16 ∧ c.w[1].toNat + 8 * (c.planeP * (0 + 1)) ≤ 0x40000 ∧ c.w[0].getLsbD 13 = true := by decide +kernel
theorem test_meets_decode_past_the_end : let q : EngQ := { aux := 57 }
    (rec8 0x115 0 0 0 0 0 0 64).w[7].toNat < q.aux + 8 := by decide +kernel
/-- Core 0 with the tier command of this record at the head of channel 0; the leaf of the tenant's granule is e. -/
def tiering (e : Nat) (c : Cmd) : State := let s := headed 1 c 0
  let k := (work {} kPRIVATE []).coreOf 0
  ({ s with mem := s.mem.writeLE 0x140008 8 e } : State).setCore 0 { k with eng := (s.coreOf 0).eng }
def granuleIs (s : State) (c : Cmd) (asked : Bool) : Nat :=
  match s.granule c c.dst asked with
  | .passed => 0
  | .move _ => 1
  | .waits => 2
  | .fails (.fail n) => n
  | .fails _ => 3
theorem test_meets_tier_refused : granuleIs (tiering 0x20003 (rec8 0x117 0x30000 0 1 0 0 0 0)) (rec8 0x117 0x30000 0 1 0 0 0 0) false = 0x41 := by decide +kernel
theorem test_meets_tier_over : granuleIs (tiering 0x20003 (rec8 0x117 0x10000 1 0 0 0 0 0)) (rec8 0x117 0x10000 1 0 0 0 0 0) false = 0 := by decide +kernel
theorem test_meets_tier_move : granuleIs (tiering 0x20023 (rec8 0x117 0x10000 1 0 0 0 0 0)) (rec8 0x117 0x10000 1 0 0 0 0 0) false = 1 := by decide +kernel
theorem test_meets_tier_waits : let c := rec8 0x117 0x10000 1 0 0 0 0 0
    granuleIs { tiering 0x20023 c with moves := [{ gran := (tiering 0x20023 c).granuleOf 0x20000, up := false, demand := false }] } c true = 2 := by decide +kernel

/-- Core 0 has forwarded tree command c as number 5; the tree t is configured. -/
def treed (c : Cmd) (held : Bool) (t : List Tree) : State :=
  let s : State := { work {} kTREE [] with mem := tables, trees := t, treeQ := [(5, { core := 0, cmd := c, held := held, refused := 0 })] }
  s.setWin (rXROOT 0) 0x100000
def tree1 (total : Nat) : Tree :=
  { key := 0x20000, tenant := 0, tb := 0x10000, l := 4, total := total, pmin := 0, ncount := 0, beta := 0, tstale := 0, cursor := 0, nextlsn := 7, seed := 0, used := 1 }
def isOk {α : Type} (x : Except EStop α) : Bool :=
  match x with
  | .ok _ => true
  | .error _ => false
theorem test_meets_tree_now : Claims.TreeNow (treed (rec8 0x321 0x10000 0 0 0 0 0 0) false [tree1 0]) 5 0x21 { core := 0, cmd := rec8 0x321 0x10000 0 0 0 0 0 0, held := false, refused := 0 } (tree1 0) := by
  unfold Claims.TreeNow; decide +kernel
theorem test_meets_tree_held : Claims.TreeNow (treed (rec8 0x8321 0x10000 0 0 0 0 0 7) true [tree1 0]) 5 0x21 { core := 0, cmd := rec8 0x8321 0x10000 0 0 0 0 0 7, held := true, refused := 0 } (tree1 0) := by
  unfold Claims.TreeNow; decide +kernel
theorem test_meets_tree_gate : (treed (rec8 0x321 0x30000 0 0 0 0 0 0) false []).treeRegion (rec8 0x321 0x30000 0 0 0 0 0 0) = none
    ∧ (treed (rec8 0x321 0x30000 0 0 0 0 0 0) false []).arrivesNow 5 { core := 0, cmd := rec8 0x321 0x30000 0 0 0 0 0 0, held := false, refused := 0 } = true := by decide +kernel
theorem test_meets_tree_unconfigured : let c := rec8 0x321 0x10000 0 0 0 0 0 0
    ((treed c false []).treeRegion c).isSome = true ∧ (treed c false []).treeOf c = none := by decide +kernel
theorem test_meets_tree_orders : let s := treed (rec8 0x8321 0x10000 0 0 0 0 0 7) false [tree1 0]
    s.admission (homeSlice 0x20000) (2 ^ 64 + 0x20000) 7 7 = .apply ∧ s.admission (homeSlice 0x20000) (2 ^ 64 + 0x20000) 7 8 = .hold ∧ s.admission (homeSlice 0x20000) (2 ^ 64 + 0x20000) 7 6 = .stale
    ∧ serialLater 6 7 = false ∧ serialLater 8 7 = true := by decide +kernel
theorem test_meets_tree_configuration : let c := rec8 0x320 0x10000 0 0 0 4 0 0
    let s := treed c false []
    s.treeRegion c = some (area kTREE) ∧ c.w[0].getLsbD 13 = false ∧ c.tb + 32 * 2 ^ 4 ≤ (area kTREE).base + (area kTREE).len ∧ s.trees.length < 64 ∧ isOk (s.treePa c 0 true) = true
    ∧ isOk (s.zeroTree c (2 ^ 4 / 2) 0) = true := by decide +kernel
theorem test_meets_tree_too_large : (area kTREE).base + (area kTREE).len < (rec8 0x320 0x10000 0 0 0 12 0 0).tb + 32 * 2 ^ 12 := by decide +kernel
theorem test_meets_tree_beta_alone : (rec8 0x2320 0x10000 0 0 0 0 0 0).w[0].getLsbD 13 = true := by decide
theorem test_meets_tree_insert : let c := rec8 0x1321 0x10000 0 0 0 5 0 0
    let s := treed c false [tree1 0]
    isOk (s.treeGet c 4 4) = true ∧ isOk (s.setLeaf c (tree1 0) 0 5 1) = true ∧ (s.resPuts c [1]).2 = none := by decide +kernel
theorem test_meets_tree_draw : let c := rec8 0x1322 0x10000 0 0 0 0 0 0
    let s := treed c false [tree1 9]
    (tree1 9).total ≠ 0 ∧ (tree1 0).total = 0 ∧ isOk (s.drawRecs c (tree1 9) 1 1 0) = true := by decide +kernel
theorem test_meets_tree_update : let c := rec8 0x1323 0x10000 0 0 0 0 0 0
    let s := treed c false [tree1 9]
    isOk (s.resGets c 2 c.res) = true ∧ (∀ y, y ∈ updEntries [0, 0] → y.1 < 2 ^ 4) ∧ ∃ y, y ∈ updEntries [16, 0] ∧ 2 ^ 4 ≤ y.1 := by decide +kernel
theorem test_meets_tree_query : let c := rec8 0x1324 0x10000 0 0 0 1 15 0
    let s := treed c false [tree1 9]
    c.w[5].toNat % 2 = 1 ∧ c.w[6].toNat < 2 ^ (tree1 9).l ∧ isOk (s.treeGet c (16 * 15) 8) = true ∧ isOk (s.treeGet c (16 * 15 + 8) 8) = true ∧ (s.resPuts c [0, 0]).2 = none := by decide +kernel
theorem test_meets_tree_query_outside : let c := rec8 0x1324 0x10000 0 0 0 1 16 0
    c.w[5].toNat % 2 = 1 ∧ 2 ^ (tree1 9).l ≤ c.w[6].toNat := by decide


/-- Gathering 0's stream 0 runs at its end of the drift. -/
def stream0 (x : Stream) (c : Sched) : State :=
  { tasked {} {} { spine := .priv } with ctxs := [(0, { sched := { c with spine := .attached, task := some bind1 } })], gaths := [(0, { streams := [(0, x)] })] }
theorem test_meets_stream_that_waits : let s := stream0 { running := true, pos := 33, outcomes := [(32, none)] } {}
    (Claims.strm s 0 0).outcomes = (32, none) :: [] ∧ (Claims.strm s 0 0).running = true ∧ s.attached 0 0 = [0] ∧ (Claims.strm s 0 1).running = false ∧ s.attached 0 3 = []
    ∧ ((s.ctxOf 0).sched.accepted = none) := by decide +kernel
theorem test_meets_spine_that_has_delivered : let s : State := { gaths := [(0, { decAt := 5, decs := [1] }), (1, { decAt := 5, decs := [1, 0] }), (2, { decAt := 4, decs := [2, 1] })], clk := 5 }
    let past := fun (g : Nat) => if (s.gathSt g).decAt = s.clk then (s.gathSt g).decs else []
    (0 ∉ past 0 ∧ (past 0).length < 2) ∧ ¬ (1 ∉ past 0) ∧ ¬ (past 1).length < 2 ∧ (1 ∉ past 2 ∧ (past 2).length < 2) := by decide +kernel
theorem test_meets_stream_delivery : let s := stream0 { running := true, pos := 33, nextPc := 0x1000, cls := 0 } { accepted := some 1 }
    (Claims.strm s 0 0).running = true ∧ (Claims.strm s 0 0).holdTo = none ∧ (Claims.strm s 0 0).outcomes = [] ∧ s.attached 0 0 = [0] ∧ 33 - 32 ≤ 1 ∧ s.leader 0 0 = some 0
    ∧ ((s.ctxOf 0).sched.accepted = some 1) ∧ ∀ c, c < 8 → (s.ctxOf (64 * 0 + 4 * c + 0)).sched.spine ≠ .joining := by decide +kernel
/-- Context 0 follows stream 0, whose next word, at address 0, is w. -/
def streamAt (w : Nat) (x : Stream) : State :=
  let s := State.reset.withFetchWord 32 w
  { s with ctxs := [(0, { s.ctxOf 0 with sched := { (s.ctxOf 0).sched with spine := .attached, accepted := some 0 } })], gaths := [(0, { streams := [(0, x)] })] }
theorem test_meets_word_at_the_stream : let x : Stream := { running := true, pos := 32 }
    (streamAt 0x48000001 x).peekWord 0 0 = some 0x48000001 ∧ (streamAt 0x50002000 x).leader 0 0 = some 0 ∧ (streamAt 0x50002000 x).peekWord 0 0 = some 0x50002000
    ∧ ¬ Claims.joinPoint 0x48000001 ∧ Claims.joinPoint 0x50002000 ∧ Claims.joinPoint 0x50005FFF ∧ Claims.gangWord 0x5000A000 ∧ Claims.dataDependent 0xFC040000 ∧ Claims.dataDependent 0xBC000200 ∧ Claims.dataDependent 0xFC070000 ∧ ¬ Claims.dataDependent 0x48000001 := by
  unfold Claims.joinPoint Claims.gangWord Claims.dataDependent; decide +kernel
theorem test_meets_join : let s : State := { ctxs := [(0, { sched := { spine := .joining, wait := .join { point := 0x1000, sd := 31, stopAt := 500 }, task := some bind1 } })]
                                             gaths := [(0, { streams := [(0, { running := true, pos := 1, atJoin := some 0x1000, strag := 3, holdTo := some 400 })] })], clk := 500 }
    (s.ctxOf 0).sched.wait = .join { point := 0x1000, sd := 31, stopAt := 500 } ∧ (s.ctxOf 0).sched.spine = .joining ∧ (Claims.strm s 0 0).atJoin = some 0x1000
    ∧ (Claims.strm s 0 0).cls = (s.ctxOf 0).ctl.prioCls ∧ ((Claims.strm s 0 0).strag &&& ~~~ BitVec.ofNat 8 (2 ^ (0 % 64 / 4))) ≠ 0 ∧ 500 ≤ s.clk
    ∧ (Claims.strm s 0 0).holdTo = some 400 ∧ (Claims.strm s 0 1).holdTo = none ∧ (Claims.strm s 0 1).atJoin ≠ some 0x1000 ∧ (s.ctxOf 4).sched.spine ≠ .joining := by decide +kernel
theorem test_meets_budget_exhausted : let s := tasked {} { budget := 0, prioFlr := 3, prioCls := 3 } { spine := .attached, rule := none }
    (s.ctxOf 0).ctl.budget = 0 ∧ (s.ctxOf 0).sched.task.isSome = true ∧ (s.ctxOf 0).sched.exhausted = false ∧ (s.ctxOf 0).sched.rule ≠ some 2
    ∧ (if (s.ctxOf 0).ctl.prioFlr = 3 then 3 else 2 : BitVec 2) = (s.ctxOf 0).ctl.prioCls ∧ (s.ctxOf 0).sched.handler = none := by decide +kernel
theorem test_meets_budget_exhausted_in_a_handler : let s := tasked {} { budget := 0 } { spine := .priv, rule := some 2, handler := some (saved false) }
    (s.ctxOf 0).ctl.budget = 0 ∧ (s.ctxOf 0).sched.rule = some 2 ∧ (s.ctxOf 0).sched.handler = some (saved false) ∧ (s.ctxOf 0).sched.spine ≠ .attached := by decide +kernel
/-- An atomic refused RETRY, for the word at the last place of the region. -/
def amo1 (seq : Option Nat) : AmoReq :=
  { va := 0x1FFF8, pa := 0x2FFF8, size := 8, op := 0, val := 1, exp := 0, sd := 1, seq := seq }
theorem test_meets_refused_atomic : let s := tasked {} {} { wait := .amo (amo1 (some 0)) false }
    (s.ctxOf 0).sched.wait = .amo (amo1 (some 0)) false ∧ s.isPoisoned 0x2FFF8 8 = false ∧ Claims.Unowned s 0x2FFF8 8 ∧ s.nextSeq 0x2FFF8 = 0
    ∧ s.admission (homeSlice 0x2FFF8) (0x2FFF8 / 8) 0 0 = .apply ∧ s.admission (homeSlice 0x2FFF8) (0x2FFF8 / 8) 0 1 = .hold
    ∧ s.admission (homeSlice 0x2FFF8) (0x2FFF8 / 8) 1 0 = .stale ∧ ∀ h ∈ s.heldAmos, h.2.2.pa / 8 ≠ 0x2FFF8 / 8 := by
  unfold Claims.Unowned; decide +kernel

/-- Cycle domain 0 (or n) runs cycles of 25 µs from time 100000; its latch is at 20 µs, its egress at 24 µs. -/
def domain (n : Nat) (x : Dom) (now : Nat) : State :=
  let s : State := { doms := [(n, x)], dtime := now }
  [(rCDT0 n, 100000), (rCDLEN n, 25000), (rCDOFS n, word (20000 + 24000 * 2 ^ 32))].foldl (fun s e => s.setWin e.1 e.2) s
theorem test_meets_first_lock : let s := ({} : State).setWin rPTPCTL 8
    s.locked = false ∧ (∀ d, d < 8 → (s.dom d).en = false) ∧ s.dtime ≤ (0 : BitVec 64).toNat ∧ (s.win! rPTPCTL).getLsbD 3 = true := by decide +kernel
theorem test_meets_offset : (0x80000000 : BitVec 32).toInt = max (-(2 ^ 31 : Int)) (min (2 ^ 31 - 1) ((0 : Int) - 2 ^ 40))
    ∧ (0x7FFFFFFF : BitVec 32).toInt = max (-(2 ^ 31 : Int)) (min (2 ^ 31 - 1) ((2 ^ 40 : Int) - 0)) ∧ ({ locked := true } : State).locked = true := by decide
theorem test_meets_holdover : ({ locked := true, dtime := 3 * Config.syncInterval } : State).locked = true
    ∧ ({ locked := true, dtime := 3 * Config.syncInterval } : State).syncAt + 3 * Config.syncInterval ≤ ({ locked := true, dtime := 3 * Config.syncInterval } : State).dtime
    ∧ ({} : State).locked = false := ⟨rfl, Nat.le_of_eq (Nat.zero_add _), rfl⟩
theorem test_meets_cycle_start_of_a_domain_that_restarts : let s : State := { domain 0 { en := true, cyc := 0, latch := 1, egress := 1 } 125000 with pair := { holding := [0], restart := [(0, 1)] } }
    (s.dom 0).latch = (s.dom 0).cyc + 1 ∧ s.cycleAt 0 1 ≤ s.dtime ∧ 0 ∈ s.pair.holding ∧ (∃ y, y ∈ s.pair.restart ∧ y.1 = 0 ∧ y.2.toNat ≤ ((s.dom 0).cyc + 1).toNat)
    ∧ s.ctxs = [] ∧ s.slots = [] ∧ s.envReq = Option.none :=
  ⟨by decide +kernel, by decide +kernel, by decide +kernel, ⟨(0, 1), List.mem_cons_self .., by decide +kernel⟩, rfl, rfl, rfl⟩
theorem test_meets_end_of_a_yield : let s := one { sched := { yielded := true } }
    (s.ctxOf 0).sched.handler = Option.none ∧ (s.ctxOf 0).sched.yielded = true := by decide +kernel
theorem test_meets_cycle_start : let s := domain 0 { en := true, cyc := 0, latch := 1, egress := 1 } 125000
    (s.dom 0).en = true ∧ (s.dom 0).latch = (s.dom 0).cyc + 1 ∧ (s.dom 0).egress = (s.dom 0).cyc + 1 ∧ s.cycleAt 0 1 ≤ s.dtime ∧ s.ctxs = [] ∧ s.isPair 0 = false
    ∧ ({ s with envReq := some 0 } : State).envReq = some 0 := by decide +kernel
theorem test_meets_cycle_start_of_a_stopping_domain : let s := domain 7 { en := true, stop := true, cyc := 0xFFFFFFFFFFFFFFFF, latch := 0, egress := 0 } 100000
    (s.dom 7).stop = true ∧ (s.dom 7).latch = (s.dom 7).cyc + 1 ∧ s.cycleAt 7 0 ≤ s.dtime := by decide +kernel
theorem test_meets_refill : let c : Ctx := { sched := { task := some bind1, spine := .priv, pktBudget := 1, yielded := true } }
    c.sched.task.isSome = true ∧ c.sched.spine ≠ .attached ∧ c.sched.pktBudget ≠ 0 ∧ c.sched.handler = none := by decide
theorem test_meets_latch : let s : State := { domain 0 { en := true, cyc := 0, latch := 0, egress := 0 } 120000 with rings := [(imageKey 0, { slots := [{ st := .opened, ver := 0 }, {}] })] }
    (s.dom 0).cyc = (s.dom 0).latch ∧ s.cycleAt 0 0 + s.cdLatch 0 ≤ s.dtime ∧ openIdx (s.ring (imageKey 0) 2) ((s.dom 0).latch.truncate 32) = some 0 ∧ s.filters = [] ∧ s.pair.unver = [] := by decide +kernel
theorem test_meets_domain_enable : let s := ((domain 0 {} 0).setWin rPTPCTL 8).setWin (rCDIMG 0) 0x200000
    (s.win! (rCDCTL 0)).getLsbD 0 = false ∧ s.filters = [] ∧ (s.dom 0).area ≠ some (s.win! (rCDIMG 0)) ∧ s.cdLen 0 = 25000 ∧ ¬ s.cdT0 0 < s.dtime + 100000
    ∧ ((domain 0 {} 1).cdT0 0 < (domain 0 {} 1).dtime + 100000) ∧ s.enableRef 0 false ≠ 0 ∧ (({} : State).cdLen 0 < 25000) := by decide +kernel
/-- Memory whose tables map 0x10000 to 0x20000: a launch queue at 0x10000 that holds one packet, its error queue at 0x11000, a completion region
at 0x12000, the packet at 0x13000, the graph descriptor of one task at 0x14000 with its record at 0x14040 and its dependence entry at 0x14080; the
region table at 0x180000 names the first three. -/
def worldMem : Memory := [
  (0x20000, 0x1), (0x20041, 0x30), (0x20042, 0x1), (0x23001, 0x40), (0x23002, 0x1), (0x23009, 0x20), (0x2300A, 0x1), (0x23011, 0x10), 
  (0x23012, 0x1), (0x23018, 0x64), (0x23020, 0x2), (0x24000, 0x40), (0x24001, 0x40), (0x24002, 0x1), (0x24008, 0x80), (0x24009, 0x40), 
  (0x2400A, 0x1), (0x24021, 0x50), (0x24022, 0x1), (0x24030, 0x1), (0x100000, 0x1), (0x100002, 0x11), (0x110000, 0x1), (0x110002, 0x12), 
  (0x120000, 0x1), (0x120002, 0x13), (0x130000, 0x5), (0x130002, 0x14), (0x140008, 0x3), (0x14000A, 0x2), (0x180002, 0x1), (0x180008, 0x1), 
  (0x18000C, 0x5), (0x18000F, 0x1), (0x180021, 0x10), (0x180022, 0x1), (0x180028, 0x1), (0x18002C, 0x5), (0x18002F, 0x1), (0x180041, 0x20), 
  (0x180042, 0x1), (0x180048, 0x1), (0x18004C, 0x1), (0x18004F, 0x1)]

/-- A part with that memory in which tenant 0 runs in partition 0, of gathering 0; launch queue 0 is enabled. -/
def world : State :=
  { mem := worldMem
    win := [(0x20000400000, 0x100000), (0x20000600000, 0x8000000000000100), (0x20000600018, 0x180000), (0x20000600020, 0x3), (0x20008600000, 0x10000), (0x20008600008, 0x11000), (0x20008600010, 0x10001)]
    images := [{ id := 1, tenant := 0, base := 0x10000, size := 0x8000, text := 0x1000, poolAt := 0x15000, nrec := 2, modes := 3, parts := [] }] }
/-- The packet. -/
def packet1 : Packet := { graph := 0x14000, crec := 0x12000, errq := 0x11000, budget := 100, tag := 0, flags := 2, dom := 0, pcore := 0, rest := false }
/-- The bytes at 0x13000 and at 0x14000, in a state that has the world's memory and its tables. -/
theorem world_bytes (s : State) (h : s.walkTables 0 0x13000 = .leaf 0x140008 16 0x20000 0x20003 ∧ s.walkTables 0 0x14000 = .leaf 0x140008 16 0x20000 0x20003) :
    s.vaBytes 0 0x13000 64 = some (s.physBytes 0x23000 64) ∧ s.vaBytes 0 0x14000 64 = some (s.physBytes 0x24000 64) :=
  ⟨(s.vaBytes_of_leaf 0 (by decide) 64 _ h.1 (by decide)).trans (congrArg (fun a => some (s.physBytes a 64)) (by decide)),
   (s.vaBytes_of_leaf 0 (by decide) 64 _ h.2 (by decide)).trans (congrArg (fun a => some (s.physBytes a 64)) (by decide))⟩
theorem world_walks : world.walkTables 0 0x13000 = .leaf 0x140008 16 0x20000 0x20003 ∧ world.walkTables 0 0x14000 = .leaf 0x140008 16 0x20000 0x20003 := by decide +kernel
theorem test_meets_launch : world.malformed 0 0 (some 0) packet1 = none ∧ world.malformed 0 0 none packet1 = none ∧ world.malformed 0 0 none { packet1 with rest := true } = some 1
    ∧ parsePacket ((world.vaBytes 0 0x13000 64).getD []) = packet1 := by
  have hb := world_bytes world world_walks
  unfold State.malformed State.graphAt
  simp only [show packet1.graph.toNat = 0x14000 from rfl, hb.1, hb.2]
  decide +kernel
/-- That part in cycle 0 of domain 0, whose slot 0 is valid and has this overrun rule. -/
def slotWorld (i : SlotInst) (rule : Nat) : State :=
  [(rCDT0 0, word 100000), (rCDLEN 0, word 25000), (rSLOTA 0 0, word (rule * 2 ^ 30 + 2 ^ 32)), (rSLOTB 0 0, word 0x13000)].foldl (fun s e => s.setWin e.1 e.2)
    { world with doms := [(0, { en := true, ever := true, cyc := 0, latch := 0, egress := 0 })], dtime := 100000, slotI := [(0, i)] }
/-- The check of slot 0 in such a state. -/
theorem slot_fails (s : State) (h : s.walkTables 0 0x13000 = .leaf 0x140008 16 0x20000 0x20003 ∧ s.walkTables 0 0x14000 = .leaf 0x140008 16 0x20000 0x20003)
    (ho : s.slotOwner 0 0 = 0) (hp : s.slotPkt 0 0 = 0x13000) (hx : parsePacket (s.physBytes 0x23000 64) = packet1) (hm : s.malformed 0 (s.slotPart 0 0) none packet1 = none) (b : Bool)
    (hb : (decide (s.slotRule 0 0 = 3) || decide (s.cdLen 0 ≤ s.slotOffset 0 0) || !s.pvalid (s.slotPart 0 0)) = b) : s.slotFails 0 0 = if b then some 10 else none := by
  have hk : s.slotPacket 0 0 = packet1 := by simp only [State.slotPacket, ho, hp, (world_bytes s h).1, Option.getD, hx]
  simp only [State.slotFails, hk, ho, hm, hb]
theorem test_meets_slot_instant : let s := slotWorld {} 0
    s.slotDue 0 0 = true ∧ s.slotDue 0 255 = false ∧ s.slotRuns 0 0 = true ∧ (s.setWin (rPSTAT 0) 0x100).slotDue 0 0 = true ∧ (s.setWin (rPSTAT 0) 0x100).slotRuns 0 0 = false
    ∧ (s.inst 0 0).launch = none ∧ (s.inst 0 0).deferred = false := by decide +kernel
theorem test_meets_slot_instant_that_passes : ((slotWorld {} 0).setInst 0 0 { instants := 1 }).slotFails 0 0 = none := by
  have hw : ((slotWorld {} 0).setInst 0 0 { instants := 1 }).walkTables 0 0x13000 = .leaf 0x140008 16 0x20000 0x20003
      ∧ ((slotWorld {} 0).setInst 0 0 { instants := 1 }).walkTables 0 0x14000 = .leaf 0x140008 16 0x20000 0x20003 := by decide +kernel
  have h : ((slotWorld {} 0).setInst 0 0 { instants := 1 }).malformed 0 0 none packet1 = none := by
    have hb := world_bytes _ hw
    unfold State.malformed State.graphAt
    simp only [show packet1.graph.toNat = 0x14000 from rfl, hb.2]
    decide +kernel
  exact slot_fails _ hw (by decide +kernel) (by decide +kernel) (by decide +kernel) h false (by decide +kernel)
theorem test_meets_slot_instant_that_fails : let s := (slotWorld {} 3).setWin (rXROOT 0) 0
    (slotWorld {} 3).slotDue 0 0 = true ∧ s.slotDue 0 0 = true ∧ (parsePacket []).rest = false ∧ s.imageOf 0 0 = none ∧ s.slotRule 0 0 = 3 := by decide +kernel
theorem test_meets_slot_instant_overrun : ∀ r, r < 3 →
    let s := (slotWorld { launch := some 1 } r).setWin (rSLOTST 0 0) 1
    s.slotDue 0 0 = true ∧ s.slotRuns 0 0 = true ∧ (s.inst 0 0).launch.isSome = true ∧ s.slotRule 0 0 = BitVec.ofNat 2 r ∧ (s.win! (rSLOTST 0 0)).toNat % 4 = 1 := by decide +kernel
theorem test_meets_slot_that_cannot_start : let s := (slotWorld {} 1).setWin (rXROOT 0) 0
    s.slotDue 0 0 = true ∧ s.slotRuns 0 0 = true ∧ s.slotPartFails 0 0 = some 3 := by decide +kernel
theorem test_meets_deferred_launch : let s := slotWorld { deferred := true } 1
    (s.inst 0 0).deferred = true ∧ (s.inst 0 0).launch = none ∧ s.slotRuns 0 0 = true ∧ (s.setWin (rPSTAT 0) 0x100).slotRuns 0 0 = false := by decide +kernel

/-- A part whose filter 0 names station 1 of VLAN 2, with these registers of the filter and its domain 0 in this state. -/
def filtered (l : List (Nat × Word)) (d : Dom) : State :=
  (([(rSF 0 0, word (1 + 2 * 2 ^ 48 + 2 ^ 63)), (rSF 0 0x10, 1), (rCDT0 0, 100000), (rCDLEN 0, 25000)] ++ l).foldl (fun s e => s.setWin e.1 e.2) ({ doms := [(0, d)] } : State))
/-- A frame for station 1 of VLAN 2 that comes at this time. -/
def frame (sof n : Nat) (r : Option (BitVec 16)) : Frame := { port := 0, dst := 1, src := 0, vid := 2, rtag := r, sof := sof, payload := List.replicate n 0 }
theorem test_meets_frame_for_nobody : ∀ k, k < 16 → (filtered [] {}).sfMatches k { frame 0 46 none with vid := 3 } = false := by decide +kernel
theorem test_meets_frame_for_a_filter : (filtered [] {}).sfMatches 0 (frame 0 46 none) = true ∧ (filtered [] {}).sfRtag 0 = false ∧ (filtered [] {}).sfBulk 0 = false
    ∧ ((filtered [] {}).dom ((filtered [] {}).sfDom 0)).en = false := by decide +kernel
theorem test_meets_frame_with_a_tag : let s := filtered [(rSF 0 0, word (1 + 2 * 2 ^ 48 + 2 ^ 61 + 2 ^ 63))] {}
    s.sfRtag 0 = true ∧ (recover (s.filter 0) 0).isSome = true ∧ (∃ z, recover (s.filter 0) 65535 = some z ∧ recover z 65535 = none) := by decide +kernel
theorem test_meets_frame_policed : let s := filtered [(rSF 0 0x10, word (1 + 2 ^ 16 + 45 * 2 ^ 17))] {}
    45 < (frame 0 46 none).payload.length ∧ s.meter 0 46 = none ∧ s.meter 255 46 = none := by decide +kernel
theorem test_meets_frame_in_its_window : let s := filtered [(rSF 0 8, word (25000 * 2 ^ 32)), (rSF 0 0x20, word (46 * 2 ^ 16))] { en := true, latch := 0 }
    (s.dom 0).en = true ∧ s.sfSeqb 0 = false ∧ s.cdT0 0 ≤ (frame 124999 46 none).sof ∧ (124999 - 100000) % 25000 < 25000 ∧ 0 + 46 ≤ (frame 124999 46 none).payload.length
    ∧ ((s.dom 0).latch).toNat ≤ s.openAt 0 124999 ∧ 99999 < s.cdT0 0 := by decide +kernel
theorem test_meets_bulk_frame_too_long : let s := filtered [(rSF 0 0, word (1 + 2 * 2 ^ 48 + 2 ^ 62 + 2 ^ 63))] {}
    s.sfMatches 0 (frame 0 2025 none) = true ∧ s.sfBulk 0 = true ∧ 2 ^ (11 + min 4 ((s.win! (rBR 0 8)).toNat % 2 ^ 3)) < 2025 + 24 := by decide +kernel
/-- Domain 0 at this time of its cycle 0, of 25 µs from 100000, with its egress instant at 24 µs. -/
def egressing (now : Nat) : State :=
  [(rCDT0 0, 100000), (rCDLEN 0, 25000), (rCDOFS 0, word (24000 * 2 ^ 32))].foldl (fun s e => s.setWin e.1 e.2) { doms := [(0, { en := true, cyc := 0, egress := 0 })], dtime := now }
theorem test_meets_egress : let s := egressing 124000
    (s.dom 0).cyc = (s.dom 0).egress ∧ s.cycleAt 0 0 + s.cdEgoff 0 ≤ s.dtime ∧ s.isPair 0 = false ∧ ¬ (egressing 123999).cycleAt 0 0 + (egressing 123999).cdEgoff 0 ≤ 123999 := by decide +kernel
theorem test_meets_egress_of_a_stream : let s := [(rEG 0 0, word (2 ^ 9 + 2 ^ 11)), (rEG 0 8, word (46 * 2 ^ 32))].foldl (fun s e => s.setWin e.1 e.2) ({} : State)
    (s.win! (rEG 0 8)).toNat / 2 ^ 32 % 2 ^ 11 = 46 ∧ 0 + 46 ≤ 4096 ∧ 45 < 0 + 46 ∧ serialLater (1 - 0) 0 = true ∧ serialLater (0 - 0) (0 : Word32) = false
    ∧ (s.win! (rEG 0 0)).toNat / 2 ^ 11 % 2 = 1 := by decide +kernel
theorem test_meets_gate_interval : let s : State := { ports := [(7, { queue := [{ stream := 1, cls := 3, bytes := [] }, { stream := 2, cls := 7, bytes := [] }] })] }
    s.gates 7 = Option.none ∧ (s.port 7).busy ≤ s.dtime ∧ (s.port 7).queue = [{ stream := 1, cls := 3, bytes := [] }] ++ { stream := 2, cls := 7, bytes := [] } :: []
    ∧ (∀ y, y ∈ [({ stream := 1, cls := 3, bytes := [] } : OutFrame)] → y.cls ≠ 7) ∧ (3 : BitVec 3).toNat ≤ (7 : BitVec 3).toNat := by decide +kernel
theorem test_meets_closed_gate : openFor 7 [(25000, 0x7F)] = 0 ∧ openFor 0 [(100, 1), (10, 3), (890, 2)] = 110 := by decide +kernel
theorem test_meets_version_window : let s : State := { world with mem := worldMem.map fun e => if e.1 = 0x18002C then (e.1, 2) else e }
    ((s.ownRegion 0 0 0x11000).map fun r => (r.kind, r.base)) = some (kVERSIONED, 0x11000) ∧ s.ownRegion 1 0 0x11000 = none ∧ resolveV [{ st := .sealed, ver := 0 }, {}] 2 0 = .hit 0
    ∧ resolveV [{ st := .sealed, ver := 5 }, {}] 0 0 = .gone ∧ resolveV [{}, {}] 2 0 = .park := by decide +kernel
theorem test_meets_window_deadline : let s := { (({} : State).setWin (rVW 63 0x20) 1) with vwins := [(63, { deadline := some 9, ring := 0, slot := 0, size := 4096, mode := 0, arg := 0, fbk := true, frec := 0 })], dtime := 10 }
    (SMap.read {} s.vwins 63 : VWin).deadline = some 9 ∧ 9 < s.dtime ∧ (s.win! (rVW 63 0x20)).getLsbD 0 = true ∧ 9 ≤ ({ s with dtime := 9 } : State).dtime := by decide +kernel

theorem test_meets_partner_lost : let s : State := { (({} : State).setWin rPAIRCTL (word (2 ^ 10 + 65535 * 2 ^ 16))) with dtime := 65535000 }
    (s.win! rPAIRCTL).getLsbD 10 = true ∧ s.pair.heard + 1000 * ((s.win! rPAIRCTL).toNat / 2 ^ 16 % 2 ^ 16) ≤ s.dtime ∧ ¬ s.pair.heard + 1000 * ((s.win! rPAIRCTL).toNat / 2 ^ 16 % 2 ^ 16) ≤ 65534999 := by decide +kernel
theorem test_meets_pair_copy_end : let s : State := ({ doms := [(7, { en := true })], pair := { holding := [7] } } : State)
    let u := ((s.setWin rPAIRST 8).setWin rPAIRCTL (word (2 ^ 11))).setWin (rCDCTL 7) 3
    (u.win! rPAIRST).getLsbD 3 = true ∧ (∀ n, n ∈ u.pair.holding → u.pairQuiet n = true) ∧ u.pairDoms = [7] ∧ u.pair.holding.map (fun n => (n, u.nextCycle n)) ≠ [] := by decide +kernel
theorem test_meets_pair_restart : let s : State := { pair := { holding := [7], restart := [(7, 5)] } }
    7 ∈ s.pair.holding ∧ (7, 5) ∈ s.pair.restart ∧ (5 : Word).toNat ≤ (5 : Word).toNat ∧ ¬ (5 : Word).toNat ≤ (4 : Word).toNat := by decide +kernel
theorem test_meets_no_pair_copy : (({} : State).win! rPAIRST).getLsbD 3 = false ∧ (0 : Word).getLsbD 10 = false ∧ (word (2 ^ 10)).getLsbD 12 = false ∧ (word (2 ^ 10 + 2 ^ 12)).getLsbD 12 = true := by decide +kernel
/-- The package with the link of die 0, module 0 in this state since time 0. -/
def linked (x : LinkSt) (st now : Nat) : State :=
  let m : LinkEnd := { die := 0, u := 0 }
  { (m.both.foldl (fun s e => s.setWin (e.reg 0x10) (word st)) ({} : State)) with links := m.both.map fun e => (e.key, x), dtime := now }
theorem test_meets_links_that_do_not_exist : ({ die := 7, u := 0 } : LinkEnd).ok = false ∧ ({ die := 0, u := 7 } : LinkEnd).ok = false := by decide
theorem test_meets_pause : let s := linked {} 0 0
    let m : LinkEnd := { die := 0, u := 0 }
    m.ok = true ∧ s.linkState m = 0 ∧ m.other ≠ none ∧ s.otherBusy m = false ∧ s.cutsOff m = false ∧ ¬ ∃ e : LinkEnd, e ∈ m.both ∧ s.endRefuses e = true := by decide +kernel
theorem test_meets_pause_of_module_4 : let m : LinkEnd := { die := 4, u := 4 }
    m.ok = true ∧ m.other = none ∧ (linked {} 0 0).linkState m = 0 ∧ (linked {} 0 0).otherBusy m = false := by decide +kernel
theorem test_meets_retrain : let m : LinkEnd := { die := 0, u := 0 }
    ∀ st, st < 5 → (linked {} st 0).linkState m = st := by decide +kernel
theorem test_meets_pause_done : let m : LinkEnd := { die := 0, u := 0 }
    (linked {} 1 2000).linkState m = 1 ∧ 2000 ≤ ((linked {} 1 2000).linkSt m).since + 2000 ∧ ((linked {} 1 2000).linkSt m).since + 2000 ≤ 2000 ∧ ((linked {} 1 0).linkSt m).since + 2000 < 2001 := by decide +kernel
theorem test_meets_training_end : let m : LinkEnd := { die := 0, u := 0 }
    let s := linked { wid := 3 } 3 20000
    s.linkState m = 3 ∧ (∀ e : LinkEnd, e ∈ m.both → (s.linkSt e).wid = (s.linkSt m).wid) ∧ s.dtime ≤ (s.linkSt m).since + 20000 ∧ ¬ (linked { wid := 3 } 3 20001).dtime ≤ (s.linkSt m).since + 20000 := by decide +kernel
theorem test_meets_link_alert : let m : LinkEnd := { die := 4, u := 4 }
    let thr := ((({} : State).setWin (m.reg 8) (word (255 * 2 ^ 8))).win! (m.reg 8)).toNat / 2 ^ 8 % 2 ^ 8
    thr = 255 ∧ 255 ≤ ({ count := 254 } : LinkSt).count + 1 ∧ ({ count := 253 } : LinkSt).count + 1 < 255 ∧ m.ok = true ∧ ({ die := 3, u := 0 } : LinkEnd).ok = true := by decide +kernel
theorem test_meets_port : let s : State := (({} : State).setWin (rENPST 3) 2).setWin (rENPCTL 3) 3
    (s.win! (rENPST 3)).toNat % 4 = 2 ∧ (8 ≤ (8 : BitVec 4).toNat) ∧ (4 ≤ (4 : BitVec 4).toNat ∧ (s.win! (rENPCTL 3)).getLsbD 1 = true) ∧ ¬ (8 ≤ (7 : BitVec 4).toNat) ∧ ¬ (4 ≤ (3 : BitVec 4).toNat)
    ∧ (1 : Word).toNat % 4 = 1 ∧ s.pulls = [] ∧ s.flights = [] := by decide +kernel
theorem test_meets_envelope : (3 : BitVec 64).toNat % 4 = 3 ∧ (2 : BitVec 64).toNat % 4 ≠ 3 ∧ ({ envReq := some 2 } : State).envReq = some 2 ∧ (({ envReq := some 2 } : State).dom 0).en = false := by decide +kernel

/-- Tables of tenant 0 whose entry for the page at 0x10000 has these bytes; walk 1 for that page has come. -/
def walking (started : Bool) (e : Memory) : State :=
  ({ mem := [(0x100000, 1), (0x100002, 17), (0x110000, 1), (0x110002, 18), (0x120000, 1), (0x120002, 19), (0x130000, 5), (0x130002, 20)] ++ e
     walks := [(1, { die := 0, part := Option.none, tenant := 0, va := 0x1FFFF, log2 := 12, write := true, reqs := [], started := started })] } : State).setWin (rXROOT 0) 0x100000
theorem test_meets_walk_of_a_leaf : (walking false [(0x140008, 3), (0x14000A, 2)]).walkTables 0 0x1FFFF = .leaf 0x140008 16 0x20000 0x20003 := by decide +kernel
theorem test_meets_walk_of_a_tiered_page : (walking false [(0x140008, 2), (0x14000C, 7)]).walkTables 0 0x1FFFF = .tiered 0x140008 7 := by decide +kernel
theorem test_meets_walk_of_a_remote_page : (walking true [(0x140008, 6), (0x14000A, 2)]).walkTables 0 0x10000 = .remote 0x140008 16 0x20000 := by decide +kernel
theorem test_meets_walk_of_no_page : (walking true []).walkTables 0 0x10000 = .bad 1 := by decide +kernel
theorem test_meets_walk_poisoned : ({ walking true [] with poison := [0x140008 / 64] } : State).walkTables 0 0x10000 = .poisoned := by decide +kernel
theorem test_meets_walk_turn : let s := walking false []
    let mine := s.walks.filter fun x => x.2.die == 0
    (mine.find? fun x => !x.2.started).map (·.1) = some 1 ∧ (mine.filter (·.2.started)).length < 64 ∧ (s.walk? 1).isSome = true ∧ s.walk? 2 = none
    ∧ ¬ ((walking true []).walks.find? fun x => !x.2.started).map (·.1) = some 1 := by decide +kernel
/-- Granules 4 and 5 are to move; granule 4 is resident when r says so. -/
def moving (up r : Bool) : State :=
  (({ moves := [{ gran := 5, up := true, demand := false }, { gran := 4, up := up, demand := false }], mem := if r then [(64, 1)] else [] } : State).setWin rFFCNT 1)
theorem test_meets_moves : (moving true false).moveTurn 4 true = true ∧ (moving false true).moveTurn 4 false = true ∧ (moving true true).moveTurn 4 false = false ∧ (moving true true).moveTurn 0 true = false
    ∧ tRes ((moving true false).tierEnt 4) = false ∧ tRes ((moving true true).tierEnt 4) = true ∧ tPin ((moving false true).tierEnt 4) = false
    ∧ (moving true false).overQuota 0 1 = false ∧ (moving true false).upRoom 4 = .here ∧ ({ moving true false with tierDown := true } : State).tierDown = true := by decide +kernel
theorem test_meets_move_that_waits : let s := (moving true false).setWin rFFCNT 0
    s.victim 4 = Option.none ∧ s.upRoom 4 = .never ∧ s.moves.any (fun m => m.gran == 4 && s.blocked m) = true ∧ s.moveTurn 4 true = false := by decide +kernel
theorem test_meets_move_with_a_victim : let s := ((moving true false).setWin rFFCNT 0).setWin rNGRAN 8
    let u : State := ({ s with mem := (tables.writeLE 0x140008 8 0x20023).writeLE 80 8 0x201 } : State).setWin (rXROOT 0) 0x100000
    u.victim 4 = some 5 ∧ u.upRoom 4 = .after 5 ∧ ((u.setWin (rTQUOTA 0) (word (1 + 2 ^ 32))).ownOldest 0) = some 5
    ∧ (u.setWin (rTQUOTA 0) (word (1 + 2 ^ 32))).overQuota 0 1 = true ∧ (u.setWin (rTQUOTA 0) (word (1 + 2 ^ 32))).upRoom 4 = .after 5 := by decide +kernel
theorem test_meets_down_move_that_has_begun : let s : State := { moves := [{ gran := 4, up := false, demand := false, leaf := some (0x140008, 0x20023) }] }
    s.moveTurn 4 false = true ∧ (s.moves.find? fun m => m.gran == 4 && !m.up).bind (·.leaf) = some (0x140008, 0x20023) ∧ s.stashHolds (0x20023 % 2 ^ 52 / 65536) = false
    ∧ ({ s with cores := [(0, { maps := [mapped] })] } : State).stashHolds (0x200003 % 2 ^ 52 / 65536) = false ∧ ({ s with stashes := [{ tenant := 0, core := 0, stash := [], deque := [], maps := [{ mapped with frames := [0x20] }] }] } : State).stashHolds 2 = true := by decide +kernel
theorem test_meets_leaf : (({ mem := (tables.writeLE 0x140008 8 0x20023).writeLE 80 8 0x201 } : State).setWin (rXROOT 0) 0x100000).leafFor 5 = some (0x140008, 0x10000)
    ∧ (({ mem := tables.writeLE 0x140008 8 (2 + 4 * 2 ^ 32) } : State).setWin (rXROOT 0) 0x100000).leafOf 0 (fun y => y % 16 == 2 && y / 2 ^ 32 % 2 ^ 26 == 4) = some (0x140008, 0x10000) := by decide +kernel
theorem test_meets_demand : let s : State := { moves := [{ gran := 7, up := true, demand := true }, { gran := 6, up := false, demand := true }] }
    (s.moves.any fun m => m.gran == 7 && m.up && m.demand) = true ∧ (s.moves.any fun m => m.gran == 6 && m.up && m.demand) = false ∧ (s.moves.any fun m => m.gran == 6 && !m.up) = true := by decide +kernel
theorem test_meets_invalidations : (({} : State).win! rXINVST).getLsbD 0 = false ∧ ((({} : State).setWin rXINVST 1).win! rXINVST).getLsbD 0 = true ∧ (({} : State).win! (rGINVST 3)).getLsbD 0 = false
    ∧ ((({} : State).setWin (rGINVST 3) 1).win! (rGINVST 3)).getLsbD 0 = true := by decide +kernel
theorem test_meets_page_here : inLocal 0 = true ∧ inLocal (2 ^ 30 - 1) = true ∧ inLocal (2 ^ 52 - 4096) = false := by decide +kernel
theorem test_meets_pull : let s : State := { (({} : State).setWin rFFCNT 1) with pulls := [(3, { tenant := 0, va := 0x10000, leaf := 0x140008, size := 16, srcPa := 0, sent := 0, demand := true })], dtime := 2000000 }
    (s.pulls.find? (·.1 == 3)).isSome = true ∧ s.freeRun 16 = some 0 ∧ s.roomFor 0 1 (2 ^ 26) true = .here ∧ ({ s with win := [] } : State).freeRun 16 = Option.none
    ∧ ({ s with win := [] } : State).roomFor 0 1 (2 ^ 26) false = .never ∧ 0 + 2000000 ≤ s.dtime ∧ ¬ 0 + 2000000 ≤ 1999999 ∧ s.pulls.find? (·.1 == 4) = Option.none
    ∧ (s.pulls.filter fun x => !x.2.demand).length < 32 := by decide +kernel
theorem test_meets_pull_without_a_route : ({} : State).routeTo 255 = Option.none ∧ (((({} : State).setWin (rENRT 255) 4).setWin (rENPST 0) 2).routeTo 255).isSome = true
    ∧ (bit (({} : State).win! rPAIRCTL) 10 = true ∧ fld (({} : State).win! rPAIRCTL) 2 8 = 0 ↔ False) := by decide +kernel
theorem test_meets_background_pull : let s : State := (({ mem := [(0, 6), (2, 2)] } : State).setWin (rMIGCTL 0) 0x100)
    (s.win! (rMIGCTL 0)).getLsbD 8 = true ∧ s.pulls = [] ∧ ((s.entriesOf 0).find? fun x => x.2.2.2 % 16 == 6) = some (0, 4, 0, 0x20006) := by decide +kernel
theorem test_meets_background_pull_ended : let s := (({} : State).setWin (rMIGCTL 255) 0x100)
    (s.win! (rMIGCTL 255)).getLsbD 8 = true ∧ ((s.entriesOf 255).any fun x => x.2.2.2 % 16 == 6) = false := by decide +kernel

theorem test_meets_queue_written : let s := world.setWin (rLQ 0 0x10) 0
    s.queueFits 0 0x10000 1 = true ∧ s.queueFits 0 0x11000 1 = true ∧ s.queueFits 0 0x10000 6 = false ∧ s.queueUsed 0 0 0x10000 = false ∧ s.queueUsed 0 0 0x11000 = false
    ∧ s.lqErr 0 ≠ 0 ∧ (word (1 + 2 ^ 16)).getLsbD 16 = true ∧ (s.win! (rLQ 0 0x10)).getLsbD 16 = false := by decide +kernel
theorem test_meets_queue_polled : let s := world
    let old := s.win! (rLQ 0 0x10)
    old.getLsbD 16 = true ∧ old.getLsbD 17 = false ∧ (s.vaRead 0 0x10000 8 + 2 ^ 64 - s.vaRead 0 0x10008 8) % 2 ^ 64 = 1 ∧ 1 ≤ 2 ^ s.lqLog2 0 ∧ s.runsIn 0 = some 0 ∧ (s.setWin (rPSTAT 0) 0x100).runsIn 0 = none
    ∧ s.lqFunc 0 = 0 ∧ s.lqFunc 1023 = 0 ∧ (s.win! (rLQ 1023 0x10)).getLsbD 16 = false := by decide +kernel
theorem test_meets_queue_here : world.away 0 [(world.lqBase 0, 16)] = Option.none ∧ world.slotFirst 0 = false ∧ (slotWorld {} 0).slotFirst 0 = true
    ∧ world.away 0 (world.packetParts 0 (world.lqEntry 0 0)) = Option.none := by decide +kernel
theorem test_meets_queue_away : ({ world with mem := worldMem.writeLE 0x140008 8 0x2 } : State).away 0 [(0x10000, 16)] = some 0x10000 := by decide +kernel
theorem test_meets_queue_overrun : let s : State := { world with mem := (0x20000, 3) :: worldMem.tail }
    (s.vaRead 0 0x10000 8 + 2 ^ 64 - s.vaRead 0 0x10008 8) % 2 ^ 64 = 3 ∧ 2 ^ s.lqLog2 0 < 3 := by decide +kernel

/-- A task of launch 1. -/
def queued1 : Queued := { launch := 1, index := none, trec := { entry := 0, args := [] } }
/-- Tenant 0 runs in partition 0 and has all slots of core 0; its cores are in this state. -/
def slots0 (l : List (Nat × Core)) : State :=
  [(rPCFG 0, word (2 ^ 8 + 2 ^ 63)), (rPSTAT 0, 0), (rSLOTMAP 0 0, word (15 * 2 ^ 32))].foldl (fun s e => s.setWin e.1 e.2) ({ cores := l, launches := [{ launch1 with ring := [queued1] }], clk := 256 } : State)
theorem test_meets_task_from_the_deque : let s := slots0 [(0, { deque := [queued1] })]
    s.freeFor 3 = some (0, 0) ∧ s.freeFor 4 = none ∧ s.detTask 3 0 = none ∧ (s.coreOf (coreKey 3)).deque = [] ++ [queued1] := by decide +kernel
theorem test_meets_task_from_a_ring : let s := slots0 []
    s.freeFor 0 = some (0, 0) ∧ s.detTask 0 0 = none ∧ (s.coreOf 0).deque = []
    ∧ (s.launches.find? fun l => l.tenant == 0 && l.part == 0 && !l.packet.det && !l.ring.isEmpty).map (·.ring) = some [queued1] := by decide +kernel
theorem test_meets_deterministic_task : let s : State := { slots0 [] with launches := [{ launch1 with packet := { launch1.packet with flags := 1 }, graph := { launch1.graph with ntask := 1 } }] }
    (s.detTask 0 0).isSome = true := by decide +kernel
theorem test_meets_steal : let s : State := { slots0 [(0, { stealAt := 256 }), (7, { deque := [queued1] })] with launches := [] }
    s.freeFor 0 = some (0, 0) ∧ s.launches.find? (fun l => l.tenant == 0 && l.part == 0 && !l.packet.det && !l.ring.isEmpty) = none ∧ (s.coreOf 0).steal = none ∧ (s.coreOf 0).stealAt ≤ s.clk
    ∧ ¬ s.clk < 256 ∧ (s.coreOf 7).deque = [queued1] ∧ (∀ k, k ∈ coreCids 7 → (s.ctxOf k).sched.stealOff = false) ∧ ((coreCids 0).find? fun k => (s.freeFor k).isSome) = some 0
    ∧ (∀ k, k ∈ coreCids 7 → s.freeFor k = none) := by decide +kernel
theorem test_meets_load_average : let s : State := { (slots0 []).setWin rLAVG 65535 with dtime := 65535000 }
    let y := s.gathSt 0
    ((s.win! rLAVG).toNat % 2 ^ 16 ≠ 0 ∧ y.lavgAt + 1000 * ((s.win! rLAVG).toNat % 2 ^ 16) ≤ s.dtime) ∧ s.partOf 0 = some 0 ∧ s.pbase 0 ≤ hpOf 0 ∧ hpOf 0 < s.pbase 0 + s.plen 0 ∧ s.queuedIn 0 < s.queuedIn 0 + 3
    ∧ s.partOf 63 = none := by decide +kernel
theorem test_meets_launch_complete : let s := slots0 []
    s.launch? 2 = none ∧ (s.launch? 1).isSome = true ∧ s.isComplete { launch1 with ended := [0] } = true ∧ s.isComplete launch1 = false := by decide +kernel

/-- Partition 0 with this request, in this state. -/
def requested (r : Nat) (x : PartSt) : State := { (slots0 []).setWin (rPREQ 0) (word r) with parts := [(0, x)], launches := [] }
theorem test_meets_request_waits : (requested (2 ^ 8) {}).reqSt 0 = .waits ∧ (requested (2 ^ 63 + 2 ^ 8) {}).reqSt 0 = .waits := by decide +kernel
theorem test_meets_request_stops : (requested (2 ^ 63 + 2 ^ 8) { held := true }).reqSt 0 = .stops := by decide +kernel
theorem test_meets_request_ready : (requested (2 ^ 63 + 2 ^ 8) { held := true, stopped := true }).reqSt 0 = .ready ∧ ((requested (2 ^ 63 + 2 ^ 9) { held := true, stopped := true }).win! (rPREQ 0)).getLsbD 9 = true
    ∧ (requested (2 ^ 63 + 2 ^ 9) { held := true, stopped := true }).reqSt 0 = .ready := by decide +kernel
theorem test_meets_resize_done : (requested (2 ^ 63 + 2 ^ 9 + 2 ^ 8) { held := true, stopped := true, resized := true }).reqSt 0 = .ready := by decide +kernel
theorem test_meets_skip : let s := (requested 0 { swIn := some 1, swOut := some 0, restoring := true, skipped := [1], recIn := [4] }).setWin (rTSLICE 2) (word (2 ^ 40))
    s.restored 0 = true ∧ ({ s.setWin rFFCNT 1 with moves := [{ gran := 4, up := true, demand := false }] } : State).restored 0 = false
    ∧ ((s.candidates 0 0).find? fun y => !([1] : List Byte).contains y && some y != some 0) = some 2
    ∧ (((s.setWin (rTSLICE 2) 0).candidates 0 0).find? fun y => !([1] : List Byte).contains y && some y != some 0) = Option.none := by decide +kernel
theorem test_meets_resize : (requested 0 {}).resizeOk 0 0 64 = true ∧ (requested 0 {}).resizeOk 0 0 65 = false ∧ (requested 0 {}).resizeOk 1 0 1 = false := by decide +kernel
theorem test_meets_slice : let s : State := { (((requested 0 {}).setWin (rTSLICE 0) 7).setWin (rTSLICE 255) (word (2 ^ 40))) with dtime := 7 }
    s.running 0 = some 0 ∧ (s.win! (rTSLICE 0)).toNat % 2 ^ 32 = 7 ∧ s.pending 0 = false ∧ (s.part 0).swIn = none ∧ (s.part 0).runAt + 7 ≤ s.dtime ∧ s.candidates 0 0 = [255] ∧ s.running 63 = none ∧ s.pvalid 63 = false := by decide +kernel
theorem test_meets_switch_that_cannot_finish : let s := ((requested 0 { swIn := some 1, swOut := some 0 }).setWin (rTSTAT 1) (word (2 ^ 62))).setWin (rTSLICE 2) (word (2 ^ 40))
    (s.part 0).swIn = some 1 ∧ (s.win! (rTSTAT 1)).getLsbD 62 = true ∧ ((s.win! (rTSTAT 0)).getLsbD 62 = false)
    ∧ (s.candidates 0 0).find? (fun y => !([1] : List Byte).contains y && some y != (some 0 : Option Byte)) = some 2 := by decide +kernel
/-- A fault record. -/
def suspended (k : Nat) : State := { ({} : State).setWin (rKFPEND (k / 64)) (word (2 ^ (k % 64))) with ctxs := [(k, { sched := { susp := some { code := 1, fval := 0, fpc := 4, repi := 63, detail := 0, akind := 0, flags := 0, ftime := 0 } } })] }
theorem test_meets_record : let s := suspended 4095
    (s.win! (rKFPEND (4095 / 64))).getLsbD (4095 % 64) = true ∧ (s.ctxOf 4095).sched.susp.isSome = true ∧ isKernel 4095 = false ∧ isKernel 32 = true ∧ ((suspended 4095).win! (rKFPEND 0)).getLsbD 0 = false
    ∧ s.launchOf 4095 = none ∧ ((({} : State).setWin (rKFPEND 0) 1).ctxOf 0).sched.susp = none := by decide +kernel
theorem test_meets_function_reset : (128 : BitVec 8) ≠ 0 ∧ (128 : BitVec 8).toNat ≤ 128 ∧ (∀ q, q < 16 → ({} : State).lqFunc q ≠ 128) ∧ ({} : State).launches = [] := by decide +kernel

/-- FIPS 180-4's own example: the digest of "abc". -/
theorem test_sha256_of_abc : sha256 [0x61, 0x62, 0x63] = 0xBA7816BF8F01CFEA414140DE5DAE2223B00361A396177A9CB410FF61F20015AD := by decide +kernel
/-- A folio's header and section table: six empty sections but for the colophon, of 64 bytes (R93, R94). -/
def sect (typ foff fsize : Nat) : List Byte := bytesOf 8 typ ++ bytesOf 8 foff ++ bytesOf 8 fsize ++ bytesOf 16 0
def folioHead : List Byte := bytesOf 4 0x494C4F46 ++ bytesOf 2 1 ++ bytesOf 2 6 ++ bytesOf 8 64 ++ bytesOf 48 0 ++ sect 0 0 0 ++ sect 1 0 0 ++ sect 2 0 0 ++ sect 3 0 0 ++ sect 4 0 0 ++ sect 5 304 64
/-- The folio with this ISA version, service count and digest. -/
def folio (isa nserv : Nat) (digest : List Byte) : List Byte := folioHead ++ bytesOf 4 0x4F4C4F43 ++ bytesOf 1 isa ++ bytesOf 3 0x0300 ++ bytesOf 8 nserv ++ digest ++ bytesOf 16 0 ++ bytesOf (4 * nserv) 0
theorem test_meets_folio : headerOk (folio 1 0 (bytesOf 32 0)) = true ∧ tableOk (folio 1 0 (bytesOf 32 0)) = true ∧ colophonOk (folio 1 0 (bytesOf 32 0)) = true := by decide +kernel
theorem test_meets_folio_digest : shaBytes (coveredBytes (folio 1 0 (bytesOf 32 0))) = bytesOf 32 105885830302314535607164454087786979952066533910230217003249406835588560283914 := by decide +kernel
theorem test_meets_folio_refused : headerOk [] = false ∧ tableOk (bytesOf 304 0) = false ∧ colophonOk (folio 1 0xFFFF (bytesOf 32 0)) = false ∧ shaBytes (coveredBytes (folio 1 0 (bytesOf 32 0))) ≠ bytesOf 32 0
    ∧ natAt (sectionBytes (folio 2 0 (bytesOf 32 0)) 5) 4 1 = 2 ∧ natAt (sectionBytes (folio 1 0 (bytesOf 32 0)) 5) 8 2 = 0 ∧ namesService (({} : State).capTable 0) 0 0 = false := by decide +kernel
theorem test_meets_folio_relocation : relocateAll (folio 1 0 (bytesOf 32 0)) 0x10000 1 none (bytesOf 16 0) { text := [], pool := [], data := [] } = none
    ∧ (relocateAll (folio 1 0 (bytesOf 32 0)) 0x10000 0 none [] { text := [], pool := [], data := [] }).isSome = true := by decide +kernel
theorem test_meets_folio_base : (({} : State).pickBase 0 0 0 []).1.isSome = true := by
  have h0 : ∀ d, ({ draw := d } : State).baseFree 0 0 0 [] (0 * 65536) = true := by
    intro d
    simp [State.baseFree]
  have hs : ({} : State).fresh.2 = { draw := 1 } := rfl
  simp only [State.pickBase]
  split
  · rfl
  · rw [show (2 : Nat) ^ 19 = 524287 + 1 from rfl, findNat, hs, h0]
    rfl
theorem test_meets_folio_without_memory : ({} : State).mapSection 0 0 0x10000 4 (bytesOf 4 0) true 5 = none ∧ (({} : State).mapSection 0 0 0x10000 0 [] true 5).isSome = true := by decide +kernel
theorem test_meets_image_unmap : let s : State := { world with launches := [launch1] }
    (s.images.find? (·.id == 1)).isSome = true ∧ (∃ l, l ∈ s.launches ∧ l.image = 1) ∧ (∀ l, l ∈ world.launches → l.image ≠ 1) ∧ ∀ im, im ∈ s.images → im.id ≠ 2 := by decide +kernel

theorem test_meets_short_flash : ([] : List Byte).length < 64 ∧ 64 ≤ (bytesOf 64 0).length ∧ State.reset.imageError (bytesOf 64 0) = 2 := by decide +kernel
/-- A firmware image's header with no code, and its length. -/
def firmware : List Byte := bytesOf 4 0x4D524946 ++ bytesOf 4 1 ++ bytesOf 12 0 ++ bytesOf 4 16224 ++ bytesOf 40 0 ++ List.replicate 16224 0
/-- Whether its signature is valid is not the model's to say (log entry 7): where it is, the image is accepted. -/
theorem test_meets_image (h : Config.signatureValid (sha256 (firmware.take 64)) ((firmware.drop 64).take 16224) = true) : State.reset.imageError firmware = 0 := by
  have hl : firmware.length = 64 + 16224 := by simp only [firmware, List.length_append, List.length_replicate]; rfl
  have h0 : natAt firmware 12 4 = 0 ∧ natAt firmware 16 4 = 0 ∧ natAt firmware 0 4 = 0x4D524946 ∧ natAt firmware 4 4 = 1 ∧ natAt firmware 20 4 = 16224 ∧ natAt firmware 24 40 = 0 ∧ natAt firmware 8 4 = 0
      ∧ State.reset.svnMin = 0 := by decide +kernel
  obtain ⟨a, b, c, d, e, f, g, i⟩ := h0
  simp [State.imageError, a, b, c, d, e, f, g, i, hl, h]
theorem test_meets_stage : ∀ n, n < 6 → ((({} : State).setWin rBOOTST (word n)).win! rBOOTST).toNat % 16 = n := by decide +kernel
theorem test_meets_image_sent : ((({} : State).setWin rBOOTST 5).setWin (rENPST 3) 2).enUp 3 = true ∧ ({} : State).enUp 3 = false := by decide +kernel

/-- The world with an extent of tenant 0 over its 64 KiB at 0x10000, with these rights, and virtual function 128 bound to it. -/
def shared (rights : Byte) : State :=
  { ((world.setWin (rCTBASE 0) 0x190000).setWin (rCTLEN 0) 1) with
    mem := worldMem ++ [(0x190000, 2), (0x190001, rights), (0x190004, 16), (0x19000A, 1)], vfs := [(128, { tenant := some 0, vwin := 0x12000 })] }
theorem test_meets_host_access : let s := shared 3
    (SMap.read {} s.vfs 128 : VFun).tenant = some 0 ∧ ((s.hostRegion 0 0x12FF8 8 false).map (·.base)) = some 0x12000 ∧ ((s.hostRegion 0 0x12FF8 8 true).map (·.kind)) = some kOWNED
    ∧ s.walkTables 0 0x12FF8 = .leaf 0x140008 16 0x20000 0x20003 ∧ (SMap.read {} s.vfs 127 : VFun).tenant = none := by decide +kernel
theorem test_meets_host_access_refused : (shared 0).hostRegion 0 0x12FF8 8 false = none ∧ (shared 1).hostRegion 0 0x12FF8 8 true = none ∧ (shared 3).hostRegion 0 0x13000 8 false = none := by decide +kernel
theorem test_meets_host_access_of_the_image : ((({} : State).setWin rBOOTST 3).win! rBOOTST).toNat % 16 = 3 ∧ (0xFFFFF8 : BitVec 36).toNat + 8 ≤ 0x1000000 ∧ ¬ (0x1000000 : BitVec 36).toNat + 8 ≤ 0x1000000 := by decide +kernel
theorem test_meets_hart_access : let s : State := { harts := [(15, { run := true, resv := some 1 })] }
    (SMap.read {} s.harts 15 : Hart).run = true ∧ (SMap.read {} s.harts 15 : Hart).resv = some (8 / 8) ∧ inMap 8 8 = true ∧ inDevice 8 = false ∧ inMap 0x20000000000 8 = true ∧ inDevice 0x20000000000 = true
    ∧ s.isPoisoned 8 8 = false ∧ ({ s with poison := [0] } : State).isPoisoned 8 8 = true ∧ inMap (2 ^ 39) 8 = false := by decide +kernel
theorem test_meets_hart_modes : windowFor .m 0x20000000000 = true ∧ windowFor .s 0x20000000000 = false ∧ windowFor .s 0x20008000000 = true ∧ windowFor .u 0x20008000000 = false
    ∧ windowFor .s 0x20009000000 = true ∧ (({} : State).windowBad 0x20000000000 8 = false) := by decide +kernel
theorem test_meets_hart_access_to_a_region : (world.regionAt 0x22000).map (fun x => (x.1.kind, x.2)) = some (kOWNED, 0) ∧ (world.regionAt 0x20000).map (fun x => x.1.kind) = some kQUEUE
    ∧ world.regionAt 0x24000 = Option.none := by decide +kernel
theorem test_meets_register_write : (regInfo (rTSLICE 255)).any (fun e => e.w1c == 0 && !e.wo && e.act == .plain) = true ∧ (regInfo (ioReg 0x2FFFF8)) = none
    ∧ (regInfo (({ die := 0, u := 0 } : LinkEnd).reg 0x18)).any (fun e => e.w1c == 0xF) = true ∧ (regInfo (rXINVST - 8)).any (fun e => e.wo && e.w1c == 0) = true ∧ regHome (rTSLICE 255) = rTSLICE 255 := by decide +kernel

/-! ### The step -/

/-- Reset, with ADDI s5, s6, −3 as the word that context 0 fetches next. -/
def first : State := State.reset.withFetchWord 32 0x20A6FFFD
theorem test_meets_step : let u : State := { first with agenda := [], cur := 0 }
    first.agenda = [.issue 0] ∧ first.stuck! = false ∧ u.runnable 0 = true ∧ u.me.sched.wait = .none ∧ u.isAttached 0 = false ∧ u.me.regs.rep = none ∧ u.ia.toNat = 0
    ∧ isKernel 0 = false ∧ u.tlbLookup (coreKey 0) (u.tenantOf 0) 0 false = some 0 ∧ u.isPoisoned 0 4 = false
    ∧ (match u.judge 0 0 4 .fetch with
      | .ok r => r.kind
      | _ => kVERSIONED) = kOWNED := by decide +kernel
theorem test_meets_issue : ({ first with agenda := [] } : State).wins 0 = true ∧ ({ first with agenda := [], cur := 0 } : State).codeLine 0 0 = Option.none
    ∧ (({ first with agenda := [] } : State).markIssue 0).wins 0 = false := by decide +kernel
/-- That context attached to a running stream that has delivered the word. -/
def following : State :=
  { first with ctxs := [(0, { first.ctxOf 0 with sched := { (first.ctxOf 0).sched with spine := .attached, drift := [{ pos := 0, addr := 0, word := 0x20A6FFFD }] } })] }
theorem test_meets_step_of_an_attached_context : let u : State := { following with cur := 0 }
    u.isAttached 0 = true ∧ u.me.sched.drift = { pos := 0, addr := 0, word := 0x20A6FFFD } :: [] ∧ u.ia = 0 ∧ ({ following with agenda := [] } : State).wins 0 = true ∧ u.runnable 0 = true := by decide +kernel
theorem test_meets_step_of_an_event : let s : State := { agenda := [.event .xinvDone] }
    s.agenda = .event .xinvDone :: [] ∧ s.stuck! = false ∧ encode .xinvDone = 0 := by decide +kernel
theorem test_meets_part_to_be_reset : ({ dead := true } : State).stuck! = true ∧ ({ dead := true } : State).agenda.head? ≠ some (.event .powerOnReset) := by decide +kernel
/-- The step runs the word: s5 = −3, and the PC has moved on. -/
theorem test_first_step : (match first.takeTurn (.issue 0) with
    | .next t => (t.ctxOf 0).regs.sget 5
    | _ => 0) = word (2 ^ 64 - 3) := by decide +kernel
theorem test_meets_canonical_memory : Memory.wf State.reset.mem = true ∧ Memory.wf [(1, 2), (3, 4)] = true ∧ Memory.wf [(1, 0)] = false ∧ Memory.wf [(3, 4), (1, 2)] = false := by decide +kernel
theorem test_meets_memory_write : ∀ j, j < 8 → State.reset.stashAt (0xFFFFFFFFF8 + j) = none := by decide +kernel

/-! ### Decoding: words of the spec's tables of example encodings (R45 to R74), and words written out from the formats -/

theorem test_decode_integer : decode 0x20A6FFFD = .instr (.addi 5 6 0xFFFD) ∧ decode 0x04642811 = .instr (.subw 3 4 5) ∧ decode 0x0CC74009 = .instr (.extrs 6 7 8) ∧ decode 0x30848007 = .instr (.slliw 4 4 7) := by decide +kernel
theorem test_decode_float : decode 0x154B6107 = .instr (.fmac 10 11 12 1 0) ∧ decode 0x14431414 = .instr (.fcvtf 2 3 2 4 0) := by decide +kernel
theorem test_decode_control_flow : decode 0x40603FFE = .instr (.bne 3 0 0x1FFE) ∧ decode 0x4BFFFFC0 = .instr (.jal 0x3FFFFC0) ∧ decode 0xF83C0000 = .instr (.rep 3 6 0) := by decide +kernel
theorem test_decode_gangs : decode 0x50376000 = .instr (.donate 1 23) ∧ decode 0x50548000 = .instr (.takew 2 20) ∧ decode 0x5120403F = .instr (.join 9 63) := by decide +kernel
theorem test_decode_system : decode 0xFC810030 = .instr (.ctlr 4 0x30) ∧ decode 0xFCA20020 = .instr (.ctlw 5 0x20) ∧ decode 0xFC050006 = .instr (.brk 6) ∧ decode 0xFC040000 = .instr .tret := by decide +kernel
theorem test_decode_memory : decode 0x60625FFE = .instr (.lw 3 2 0x1FFE) ∧ decode 0x65094003 = .instr (.sw 8 9 3) ∧ decode 0x6089FA00 = .instr (.ldAcq 4 9 4) ∧ decode 0x6489F980 = .instr (.sdRel 4 9 3) ∧ decode 0x6049E400 = .instr (.pref 2 9) := by decide +kernel
theorem test_decode_versions : decode 0x68A6384A = .instr (.ldvAge 5 6 7 2 2) ∧ decode 0x69095108 = .instr (.stv 8 9 10 2) ∧ decode 0x68095200 = .instr (.sealv 9 10) ∧ decode 0x68095300 = .instr (.reclv 9 10) := by decide +kernel
theorem test_decode_stash_and_atomics : decode 0x6CA63800 = .instr (.map 5 6 7) ∧ decode 0x6CA60100 = .instr (.unmap 5 6) ∧ decode 0x6C060203 = .instr (.sflush 6 3) ∧ decode 0x70A64716 = .instr (.amoadd 5 6 8 1 1 3) := by decide +kernel
theorem test_decode_messages : decode 0xB0A61000 = .instr (.send 5 6 2) ∧ decode 0xB0A61111 = .instr (.senda 5 6 2 17) ∧ decode 0xB0A01200 = .instr (.recv 5 2) ∧ decode 0xB0A01300 = .instr (.recvp 5 2)
    ∧ decode 0xB0A61400 = .instr (.recvf 5 6 2) ∧ decode 0xB0A01500 = .instr (.reply 5 2) := by decide +kernel
theorem test_decode_handlers : decode 0xB4070011 = .instr (.hset 7 17) ∧ decode 0xB4000111 = .instr (.hclr 17) ∧ decode 0xB4000211 = .instr (.hend 17) := by decide +kernel
theorem test_decode_vectors : decode 0x81008000 = .instr (.vadd 8 0 16 0 0 0) ∧ decode 0x84853223 = .instr (.vfma 4 5 6 2 0 1 0) ∧ decode 0x8502185C = .instr (.vfdot2 8 2 3 0 0 1)
    ∧ decode 0x88611142 = .instr (.vclt 3 1 2 1 1 0) ∧ decode 0x81270016 = .instr (.vredadd 9 7 0 0) := by decide +kernel
theorem test_decode_vector_moves : decode 0x90A60804 = .instr (.vcvtnh 5 6 1 0 0) ∧ decode 0x94863805 = .instr (.vlds 4 6 7 0 0 0) ∧ decode 0x98630003 = .instr (.vexp2 3 3 0 0) ∧ decode 0x9CA20006 = .instr (.pcnt 5 2) := by decide +kernel
theorem test_decode_engines : decode 0xA029000C = .instr (.mxq 10 1 0 12) ∧ decode 0xA0108003 = .instr (.mxq 4 0 1 3) ∧ decode 0xA5120007 = .instr (.cpq 2 4 2 0 7) ∧ decode 0xA9B38005 = .instr (.trq 12 3 1 5) := by decide +kernel
/-- The first word as the host's table gives it: its bytes little-endian. -/
theorem test_table_word : decodeTableWord 32 0x20A6FFFD = some (.addi 5 6 0xFFFD) ∧ decodeTableWord 32 0x18000000 = none := by decide +kernel
theorem test_decode_refuses : decode 0x18000000 = .rejected .unassigned ∧ decode 0xFC048000 = .rejected .fixedBits ∧ decode 0x6089FB00 = .rejected .operandLimit := by decide +kernel

/-! ### Ill-formed terms, one for each limit (R52, R53, R60, R63, R67, R69, R76, R218, R220 to R222) -/

theorem test_illFormed_scope : (Instr.fenceFull 6).wellFormed = false ∧ (Instr.ldAcq 1 2 5).wellFormed = true ∧ (Instr.ldAcq 1 2 6).wellFormed = false := by decide
theorem test_illFormed_rounding : (Instr.fadd 1 2 3 5 0).wellFormed = false ∧ (Instr.fadd 1 2 3 4 0).wellFormed = true := by decide
theorem test_illFormed_precision : (Instr.feq 1 2 3 3).wellFormed = false ∧ (Instr.fcvtf 1 2 4 0 0).wellFormed = false := by decide
theorem test_illFormed_triple : (Instr.donate 1 0).wellFormed = false ∧ (Instr.donate 1 30).wellFormed = false ∧ (Instr.donate 1 29).wellFormed = true := by decide
theorem test_illFormed_ordered : (Instr.amoadd 1 2 31 1 0 0).wellFormed = false ∧ (Instr.amoadd 1 2 31 0 0 0).wellFormed = true := by decide
theorem test_illFormed_bf16 : (Instr.vfadd 1 2 3 0 0 0 1).wellFormed = false ∧ (Instr.vfadd 1 2 3 0 1 0 1).wellFormed = true := by decide
theorem test_illFormed_lane : (Instr.vext 1 2 8 3).wellFormed = false ∧ (Instr.vext 1 2 7 3).wellFormed = true := by decide
theorem test_illFormed_indexed : (Instr.vldx 1 2 3 0 1 0).wellFormed = false ∧ (Instr.vstx 1 2 3 0 2).wellFormed = false := by decide
theorem test_illFormed_blocks : (Instr.vqblk 30 0 1).wellFormed = false ∧ (Instr.vqblk 0 29 1).wellFormed = false ∧ (Instr.vqmx 0 31 0).wellFormed = false ∧ (Instr.vqmx 0 0 3).wellFormed = false := by decide
theorem test_illFormed_prefetch_and_channel : (Instr.pref 4 0).wellFormed = false ∧ (Instr.cpq 0 0 0 0 0).wellFormed = false ∧ (Instr.cpq 3 0 0 0 0).wellFormed = false := by decide

/-! ### The spec's worked examples -/

/-- The example of R33: a version stamped in cycle 2 is later than one stamped in cycle 0xFFFFFFFE. -/
theorem test_serial_later : serialLater 2 0xFFFFFFFE = true ∧ serialLater 0xFFFFFFFE 2 = false := by decide
/-- The table of worked conversions (R104, R105). -/
theorem test_conversions : roundFP fp16 0 (fp32.val 0x3F9D70A4) = (0x3CEC, fInexact) ∧ roundFP bf16 0 (fp32.val 0x3F9D70A4) = (0x3F9D, fInexact) ∧ roundFP e4m3 0 (fp32.val 0x3F9D70A4) = (0x3A, fInexact)
    ∧ roundFP fp16 0 (fp32.val 0x33800000) = (1, fNone) ∧ roundFP fp16 0 (fp32.val 0x33000000) = (0, fInexact ||| fUnderflow)
    ∧ roundFP e5m2 0 (fp32.val 0x43FA0000) = (0x60, fInexact) ∧ toIntRange 0 (-(2 ^ 31)) (2 ^ 31 - 1) (fp32.val 0x4F000000) = (0x7FFFFFFF, fInvalid) := by decide +kernel
theorem test_conversions_to_e4m3 : ∀ mode : Mode, roundFP e4m3 mode (fp32.val 0x43FA0000) = (0x7E, fOverflow ||| fInexact) ∧ roundFP e4m3 mode (fp32.val 0x7F800000) = (0x7E, fOverflow ||| fInexact) := by decide +kernel
/-- The example of R228: VEXP2.S of 200.0 and of −3.0 in RNE, VRCP.S of 3.0 in RUP and in RTZ. -/
theorem test_special_functions : sfuElem 3 0 0x43480000 = (0x7F800000, fOverflow ||| fInexact) ∧ sfuElem 3 0 0xC0400000 = (0x3E000000, fNone)
    ∧ (sfuElem 0 3 0x40400000).1 = 0x3EAAAAAB ∧ (sfuElem 0 1 0x40400000).1 = 0x3EAAAAAA := by decide +kernel
/-- The example of R262: the weights of two draws with BETA = 0.5 and PMIN = 0.25. -/
theorem test_draw_weights : drawWeight 0x3F000000 0x40000 0x100000 = 0x3F000000 ∧ drawWeight 0x3F000000 0x40000 0x80000 = 0x3F3504F3 := by decide +kernel
/-- The example of R290: the home of 0x0012345678880 is slice 45, in channel 21; the next line's is slice 44. -/
theorem test_home_slice : homeSlice 0x001234567880 = 45 ∧ channelOf 45 = 21 ∧ homeSlice 0x0012345678C0 = 44 := by decide
/-- The example of R189: the header of a refused SENDA. -/
theorem test_refusal_header : header 2 1 17 0x0D7 0x0A1 0 false 0x42 = 0x00428000A10D744A := by decide
/-- Context 0 with lane 0 of v7 = 2^24, lanes 2 and 3 = 1.0 and predicate 2 as given. -/
def reducing (p : PReg) : State := one { regs := (({} : Regs).vset 7 (ofElems 32 fun k => if k = 0 then 0x4B800000 else if k = 2 ∨ k = 3 then 0x3F800000 else 0)).pset 2 p }
/-- Element 0 of vector register d and the flags after instruction i. -/
def element0 (i : Instr) (s : State) (d : Reg) : Option (Nat × BitVec 5) :=
  match exec i s with
  | .next t => some (elem (t.v! d) 32 0, t.me.ctl.fflags)
  | _ => none
/-- The example of R214: VFREDADD.S v9, v7, p2. -/
theorem test_float_reduction : element0 (.vfredadd 9 7 2 0 0) (reducing 0xFFFF) 9 = some (0x4B800001, fNone) ∧ element0 (.vfredadd 9 7 2 0 0) (reducing 0xFFF7) 9 = some (0x4B800000, fInexact) := by decide +kernel
/-- The example of R119: the MXFP8 block of 12.0, −0.3, +Inf and 29 zeros. -/
theorem test_mx_block : (match exec (.vqmx 12 4 0) (one { regs := ({} : Regs).vset 4 (ofElems 32 fun k => if k = 0 then 0x41400000 else if k = 1 then 0xBE99999A else if k = 2 then 0x7F800000 else 0) }) with
    | .next t => some ((List.range 4).map (elem (t.v! 12) 8), elem (t.v! 12) 8 32, t.me.ctl.fflags, t.me.ctl.mxovf)
    | _ => none) = some ([0x7C, 0xD2, 0x7E, 0], 0x7A, fOverflow ||| fInexact, 1) := by decide +kernel
/-- The group record of the example of R122, in the stash from offset 0. -/
def groupRecord : List Nat := [0x0000000100000001, 0x000000000000787A, 0x2785278527852785, 0x2785278527852785, 0x2785278527852785, 0x2785278527852785,
  0x2FBA2FBA2FBA2FBA, 0x2FBA2FBA2FBA2FBA, 0x2FBA2FBA2FBA2FBA, 0x2FBA2FBA2FBA2FBA]
theorem test_coded_group : (match (headed 1 (rec8 0x1115 0 0 0 0 0 0 80) 0) with
    | s => match ({ s with cores := [(0, { s.coreOf 0 with stash := (groupRecord.zipIdx).foldl (fun m e => SMap.writeLE m (8 * e.2) 8 e.1) [] })] } : State).cbfGroup (rec8 0x1115 0 0 0 0 0 0 80) 1 0 with
      | .ok (bm, sc, qs, j, _) => some (bm, sc, qs.take 4, qs.drop 60, j)
      | .error _ => none) = some (0x0000000100000001, 0x787A, [1664, 0xE00, 240, 2], [1664, 0xE00, 240, 2], 10) := by decide +kernel
/-- The table of R128: divisors of zero, and the signed quotient that overflows. -/
theorem test_division_by_zero : after (.div 3 1 2) (one { regs := regs [(1, 7)] }) 3 = some (word (2 ^ 63 - 1)) ∧ after (.div 3 1 2) (one { regs := regs [(1, BitVec.allOnes 64)] }) 3 = some (word (2 ^ 63))
    ∧ after (.rem 3 1 2) (one { regs := regs [(1, 7)] }) 3 = some 0 ∧ after (.divu 3 1 2) (one { regs := regs [(1, 7)] }) 3 = some (BitVec.allOnes 64) := by decide +kernel
theorem test_division_overflow : after (.div 3 1 2) (one { regs := regs [(1, word (2 ^ 63)), (2, BitVec.allOnes 64)] }) 3 = some (word (2 ^ 63 - 1))
    ∧ after (.rem 3 1 2) (one { regs := regs [(1, word (2 ^ 63)), (2, BitVec.allOnes 64)] }) 3 = some 0 := by decide +kernel
/-- The example of R114: at BASE = −2 the products 13 and −13 of blocks with scale codes 0x7F and 0x7C contribute 6 and −7. -/
theorem test_block_pairs : pairTerm (-2) 0x7F 0x7C 13 = 6 ∧ pairTerm (-2) 0x7F 0x7C (-13) = -7 ∧ pairTerm (-2) 0xFF 0x7C 13 = 0 := by decide
/-- Arithmetic wraps, and a source may be the destination (R126). -/
theorem test_add_wraps : after (.add 1 1 2) (one { regs := regs [(1, BitVec.allOnes 64), (2, 2)] }) 1 = some 1 ∧ after (.addi 0 1 1) (one { regs := regs [(1, 1)] }) 0 = some 0 := by decide +kernel
theorem test_subw_sign_extends : after (.subw 3 1 2) (one { regs := regs [(1, 0), (2, 1)] }) 3 = some (BitVec.allOnes 64) ∧ after (.subw 3 1 2) (one { regs := regs [(1, word (2 ^ 31)), (2, 1)] }) 3 = some 0x7FFFFFFF := by decide +kernel
theorem test_bits : after (.clz 3 1) (one {}) 3 = some 64 ∧ after (.bswap 3 1) (one { regs := regs [(1, 1)] }) 3 = some (word (2 ^ 56)) ∧ after (.popc 3 1) (one { regs := regs [(1, BitVec.allOnes 64)] }) 3 = some 64 := by decide +kernel
theorem test_shift_amount : after (.sll 3 1 2) (one { regs := regs [(1, 1), (2, 64)] }) 3 = some 1 ∧ after (.sra 3 1 2) (one { regs := regs [(1, word (2 ^ 63)), (2, 63)] }) 3 = some (BitVec.allOnes 64) := by decide +kernel
/-- The example of R319 and R328: PBASE 16 and PLEN 2; PCIDs of the contexts 0x815 and 0x851. -/
theorem test_pcid : let s := ({} : State).setWin (rPCFG 0) (word (16 + 2 * 2 ^ 8 + 2 ^ 63))
    s.pcidOf 0x815 = 0x015 ∧ s.pcidOf 0x851 = 0x051 := by decide +kernel
end Sys2Proof.Tests
end

section
/-! SUPPORT. The values that the scalar integer words write, as the plain arithmetic of R125 to R129. -/

namespace Sys2Proof.Machine

/-! ### R125: sums, logic, minima and maxima -/

theorem add_eq_word (x y : Word) : x + y = word (x.toNat + y.toNat) := word_eq _ _ (BitVec.toNat_add x y)

theorem sub_eq_wordI (x y : Word) : x - y = wordI (x.toInt - y.toInt) := wordI_eq _ _ (BitVec.toInt_sub)

theorem and_eq_word (x y : Word) : x &&& y = word (x.toNat &&& y.toNat) := word_eq' _ _ (BitVec.toNat_and x y)

theorem or_eq_word (x y : Word) : x ||| y = word (x.toNat ||| y.toNat) := word_eq' _ _ (BitVec.toNat_or x y)

theorem xor_eq_word (x y : Word) : x ^^^ y = word (x.toNat ^^^ y.toNat) := word_eq' _ _ (BitVec.toNat_xor x y)

/-- NOT is an exclusive or with minus one, the word of ones. -/
theorem not_eq_xor_neg_one (x : Word) : ~~~x = x ^^^ -1 := by
  rw [show (-1 : Word) = BitVec.allOnes 64 from rfl, BitVec.xor_allOnes]

theorem toNat_lo32 (x : Word) : (lo32 x).toNat = x.toNat % 2 ^ 32 := BitVec.toNat_setWidth 32 x

theorem wform_lo32_add (x y : Word) : wform (lo32 (x + y)) = wordI (sintN (x.toNat + y.toNat) 32) :=
  wform_eqN _ _ (by rw [toNat_lo32, BitVec.toNat_add]; omega)

theorem wform_lo32_sub (x y : Word) : wform (lo32 (x - y)) = wordI (sintN (x.toNat + 2 ^ 64 - y.toNat) 32) :=
  wform_eqN _ _ (by rw [toNat_lo32, BitVec.toNat_sub]; omega)

theorem wform_lo32_mul (x y : Word) : wform (lo32 x * lo32 y) = wordI (sintN (x.toNat * y.toNat) 32) :=
  wform_eqN _ _ (by rw [BitVec.toNat_mul, toNat_lo32, toNat_lo32, ← Nat.mul_mod])

theorem wordI_toInt (x : Word) : wordI x.toInt = x := (wordI_eq' x _ rfl).symm

theorem word_toNat (x : Word) : word x.toNat = x := (word_eq' x _ rfl).symm

theorem min_eq_wordI (x y : Word) : (if x.toInt ≤ y.toInt then x else y) = wordI (min x.toInt y.toInt) := by
  rw [Int.min_def]; split <;> exact (wordI_toInt _).symm

theorem max_eq_wordI (x y : Word) : (if x.toInt ≤ y.toInt then y else x) = wordI (max x.toInt y.toInt) := by
  rw [Int.max_def]; split <;> exact (wordI_toInt _).symm

theorem min_eq_word (x y : Word) : (if x.toNat ≤ y.toNat then x else y) = word (min x.toNat y.toNat) := by
  rw [Nat.min_def]; split <;> exact (word_toNat _).symm

theorem max_eq_word (x y : Word) : (if x.toNat ≤ y.toNat then y else x) = word (max x.toNat y.toNat) := by
  rw [Nat.max_def]; split <;> exact (word_toNat _).symm

theorem cnt64_lt (y : Word) : cnt64 y < 64 := Nat.mod_lt _ (by decide)

/-! ### R126: compares -/

theorem flag_decide (p : Prop) [Decidable p] : flag (decide p) = if p then 1 else 0 := by
  by_cases h : p <;> simp [flag, h]

theorem flag_beq (x y : Word) : flag (x == y) = if x.toNat = y.toNat then 1 else 0 := by
  rw [bne_nat, flag_decide]

theorem flag_bne (x y : Word) : flag (x != y) = if x.toNat = y.toNat then 0 else 1 := by
  rw [bne, bne_nat, ← decide_not, flag_decide, ite_not]

theorem flag_not_lt_int (x y : Word) : flag (decide (y.toInt ≤ x.toInt)) = if x.toInt < y.toInt then 0 else 1 := by
  simp only [← Int.not_lt, flag_decide, ite_not]

theorem flag_not_lt_nat (x y : Word) : flag (decide (y.toNat ≤ x.toNat)) = if x.toNat < y.toNat then 0 else 1 := by
  simp only [← Nat.not_lt, flag_decide, ite_not]

/-- A word is zero when its number is. -/
theorem eq_zero_iff_toNat (x : Word) : x = 0 ↔ x.toNat = 0 := BitVec.toNat_inj.symm

theorem sset_select_zero (r : Regs) (d : Reg) (x y : Word) :
    r.sset d (if y = 0 then x else r.sget d) = if y.toNat = 0 then r.sset d x else r := by
  simp only [eq_zero_iff_toNat]; split
  · rfl
  · exact sset_self r d

theorem sset_select_nonzero (r : Regs) (d : Reg) (x y : Word) :
    r.sset d (if y = 0 then r.sget d else x) = if y.toNat = 0 then r else r.sset d x := by
  simp only [eq_zero_iff_toNat]; split
  · exact sset_self r d
  · rfl

/-! ### The words -/

/-- A word that writes a scalar register and completes, by the registers it leaves. -/
theorem sets_regs_of_done {i : Instr} {s : State} {d : Reg} {x : Word} {r : Regs} (h : exec i s = s.done d x)
    (e : s.me.regs.sset d x = r) : Sets i s r := e ▸ sets_of_done h rfl

theorem integerGroupResults : Sys2Proof.Claims.IntegerGroupResults := fun s _ a b =>
  let x := s.s! a
  let y := s.s! b
  have hn := cnt64_lt y
  ⟨sets_of_done rfl (add_eq_word x y), sets_of_done rfl (sub_eq_wordI x y), sets_of_done rfl (and_eq_word x y),
    sets_of_done rfl (or_eq_word x y), sets_of_done rfl (xor_eq_word x y),
    sets_of_done rfl (congrArg (x &&& ·) (not_eq_xor_neg_one y)), sets_of_done rfl (congrArg (x ||| ·) (not_eq_xor_neg_one y)),
    sets_of_done rfl (not_eq_xor_neg_one (x ^^^ y)),
    sets_of_done rfl (sll_eq x _), sets_of_done rfl (srl_eq x _), sets_of_done rfl (sra_eq x _),
    sets_of_done rfl (rotL x _ hn), sets_of_done rfl (rotR x _ hn),
    sets_of_done rfl (wform_lo32_add x y), sets_of_done rfl (wform_lo32_sub x y),
    sets_of_done rfl (sllw_eq x _), sets_of_done rfl (srlw_eq x _), sets_of_done rfl (sraw_eq x _),
    sets_of_done rfl (min_eq_wordI x y), sets_of_done rfl (max_eq_wordI x y),
    sets_of_done rfl (min_eq_word x y), sets_of_done rfl (max_eq_word x y),
    sets_of_done rfl (satS_eq _), sets_of_done rfl (satS_eq _)⟩

theorem compareAndSelectResults : Sys2Proof.Claims.CompareAndSelectResults := fun s d a b =>
  let x := s.s! a
  let y := s.s! b
  ⟨sets_of_done rfl (flag_beq x y), sets_of_done rfl (flag_bne x y), sets_of_done rfl (flag_decide _),
    sets_of_done rfl (flag_decide _), sets_of_done rfl (flag_not_lt_int x y), sets_of_done rfl (flag_not_lt_nat x y),
    sets_regs_of_done rfl (sset_select_zero _ d x y), sets_regs_of_done rfl (sset_select_nonzero _ d x y)⟩

/-- Settles O1: each word ends in State.done, and what it writes is the arithmetic of its row. -/
theorem integerAndCompareResults : Obligations.IntegerAndCompareResults := ⟨integerGroupResults, compareAndSelectResults⟩

end Sys2Proof.Machine
end

section
/-! SUPPORT. Bit fields, products, quotients and the immediate groups (R127 to R129, R61). -/

namespace Sys2Proof.Machine

open Sys2Proof.Claims

/-! ### R127: counts and fields -/

/-- The leading zeros end at the highest one bit. -/
theorem clz64_spec (x : Word) : if x = 0 then clz64 x = 64
    else clz64 x < 64 ∧ x.getLsbD (63 - clz64 x) ∧ ∀ i, 63 - clz64 x < i → x.getLsbD i = false := by
  unfold clz64
  split
  · rfl
  · next h =>
    have hx : x.toNat ≠ 0 := fun e => h ((eq_zero_iff_toNat x).2 e)
    have htop : x.toNat.log2 < 64 := (Nat.log2_lt hx).2 x.isLt
    rw [show 63 - (63 - x.toNat.log2) = x.toNat.log2 by omega]
    refine ⟨by omega, Nat.testBit_log2 hx, fun i hi => Nat.testBit_lt_two_pow ?_⟩
    exact Nat.lt_of_lt_of_le Nat.lt_log2_self (Nat.pow_le_pow_right (by decide) hi)

/-- The trailing zeros end at the lowest one bit. -/
theorem ctz64_spec (x : Word) : if x = 0 then ctz64 x = 64
    else ctz64 x < 64 ∧ x.getLsbD (ctz64 x) ∧ ∀ i, i < ctz64 x → x.getLsbD i = false := by
  unfold ctz64
  rcases findNat_spec (fun i => bit x i) 0 64 with ⟨i, -, hi, hfind, hone, hlow⟩ | ⟨hfind, hnone⟩
  · rw [if_neg (fun h => by simp [h, bit] at hone), hfind]
    exact ⟨by simpa using hi, hone, fun j hj => hlow j (Nat.zero_le j) hj⟩
  · rw [if_pos (BitVec.eq_of_getLsbD_eq fun i hi => by simpa [bit] using hnone i (Nat.zero_le i) (by omega)), hfind]
    rfl

theorem popc_word (x : Word) : word (popc x) = word ((List.range 64).countP fun i => x.getLsbD i) := congrArg word (popc_eq x 64)

theorem brev64_bit (x : Word) (i : Nat) (h : i < 64) : (brev64 x).getLsbD i = x.getLsbD (63 - i) := by
  rw [brev64, BitVec.getLsbD_reverse, BitVec.getMsbD]
  simp [h]

/-- A field ends with its register. -/
theorem fieldWidth_eq_min (pos wid : Nat) : (if 64 < pos + wid then 64 - pos else wid) = min wid (64 - pos) := by
  split <;> omega

/-- The field that s(b) names (R127). -/
theorem bitField_eq (y : Word) : bitField y = (y.toNat % 64, min (y.toNat / 2 ^ 8 % 64 + 1) (64 - y.toNat % 64)) := by
  have hpos : fld y 0 6 = y.toNat % 64 := by unfold fld; omega
  have hwid : fld y 8 6 = y.toNat / 2 ^ 8 % 64 := rfl
  show (fld y 0 6, if 64 < fld y 0 6 + (fld y 8 6 + 1) then 64 - fld y 0 6 else fld y 8 6 + 1) = _
  rw [fieldWidth_eq_min, hpos, hwid]

theorem extr_eq (x y : Word) :
    extr x y = word (x.toNat / 2 ^ (y.toNat % 64) % 2 ^ min (y.toNat / 2 ^ 8 % 64 + 1) (64 - y.toNat % 64)) := by
  rw [extr, bitField_eq]; rfl

theorem sintN_mod (n w : Nat) : sintN (n % 2 ^ w) w = sintN n w := by simp only [sintN, Nat.mod_mod]

theorem extrs_eq (x y : Word) :
    extrs x y = wordI (sintN (x.toNat / 2 ^ (y.toNat % 64)) (min (y.toNat / 2 ^ 8 % 64 + 1) (64 - y.toNat % 64))) := by
  rw [extrs, bitField_eq, fld, sintN_mod]

theorem insr_bit (o x y : Word) (i : Nat) (h : i < 64) : (insr o x y).getLsbD i =
    if y.toNat % 64 ≤ i ∧ i < y.toNat % 64 + min (y.toNat / 2 ^ 8 % 64 + 1) (64 - y.toNat % 64) then x.getLsbD (i - y.toNat % 64)
    else o.getLsbD i := by
  rw [insr, bitField_eq, putFld_bit _ _ _ _ _ h]; rfl

theorem bitGroupResults : BitGroupResults := fun s _ a b =>
  let x := s.s! a
  let y := s.s! b
  ⟨⟨_, sets_of_done rfl rfl, clz64_spec x⟩, ⟨_, sets_of_done rfl rfl, ctz64_spec x⟩, sets_of_done rfl (popc_word x),
    ⟨_, sets_of_done rfl rfl, brev64_bit x⟩, ⟨_, sets_of_done rfl rfl, bswap_bit x⟩,
    sets_of_done rfl (extr_eq x y), sets_of_done rfl (extrs_eq x y), ⟨_, sets_of_done rfl rfl, insr_bit _ x y⟩⟩

/-! ### R128: products, quotients and remainders -/

theorem mul_eq_word (x y : Word) : x * y = word (x.toNat * y.toNat) := word_eq _ _ (BitVec.toNat_mul x y)

theorem divS_eq_quotS (n : Nat) (a b : Int) : divS n a b = quotS n a b := by
  simp only [divS, quotS, ← Int.not_lt, ite_not]

theorem remS_eq_modS (n : Nat) (a b : Int) : remS n a b = modS n a b := by
  unfold remS modS
  rw [Int.tmod_def]
  split
  · next h => rw [if_pos (Or.inl h)]
  · next h => simp only [h, false_or]

/-- A word that holds a signed number of 32 bits. -/
theorem wform_ofInt (z : Int) (lo : -2 ^ 31 ≤ z) (hi : z < 2 ^ 31) : wform (BitVec.ofInt 32 z) = wordI z := by
  rw [wform_eq, BitVec.toInt_ofInt, Int.bmod_eq_of_le (by omega) (by omega)]

theorem wform_ofNat (n : Nat) : wform (BitVec.ofNat 32 n) = wordI (sintN n 32) := wform_eqN _ _ (BitVec.toNat_ofNat n 32)

/-- Without the overflow of the lowest number by minus one, a quotient of signed 32-bit numbers has 32 bits. -/
theorem tdiv_range {a b : Int} (lo : -2 ^ 31 ≤ a) (hi : a < 2 ^ 31) (h0 : b ≠ 0) (h : ¬ (a = -2 ^ 31 ∧ b = -1)) :
    -2 ^ 31 ≤ a.tdiv b ∧ a.tdiv b < 2 ^ 31 := by
  have habs : (a.tdiv b).natAbs = a.natAbs / b.natAbs := Int.natAbs_tdiv a b
  have hle : a.natAbs / b.natAbs ≤ a.natAbs := Nat.div_le_self _ _
  by_cases h1 : b = 1
  · rw [h1, Int.tdiv_one]; exact ⟨lo, hi⟩
  · by_cases h2 : b = -1
    · omega
    · have : a.natAbs / b.natAbs ≤ a.natAbs / 2 := Nat.div_le_div_left (by omega) (by decide)
      omega

theorem quotS_range {a : Int} (b : Int) (lo : -2 ^ 31 ≤ a) (hi : a < 2 ^ 31) : -2 ^ 31 ≤ quotS 32 a b ∧ quotS 32 a b < 2 ^ 31 := by
  unfold quotS
  split
  · split <;> decide
  · next h0 =>
    split
    · decide
    · next h => exact tdiv_range lo hi h0 h

theorem modS_range {a : Int} (b : Int) (lo : -2 ^ 31 ≤ a) (hi : a < 2 ^ 31) : -2 ^ 31 ≤ modS 32 a b ∧ modS 32 a b < 2 ^ 31 := by
  unfold modS
  split
  · decide
  · rw [← Int.tmod_def]
    have habs : (a.tmod b).natAbs = a.natAbs % b.natAbs := Int.natAbs_tmod a b
    have hle : a.natAbs % b.natAbs ≤ a.natAbs := Nat.mod_le _ _
    have hsign : a ≤ 0 → a.tmod b ≤ 0 := fun h => by
      have := Int.tmod_nonneg b (Int.neg_nonneg.2 h)
      rwa [Int.neg_tmod, Int.neg_nonneg] at this
    omega

theorem lo32_range (x : Word) : -2 ^ 31 ≤ (lo32 x).toInt ∧ (lo32 x).toInt < 2 ^ 31 := ⟨(lo32 x).le_toInt, (lo32 x).toInt_lt⟩

theorem divw_eq (x y : Word) : wform (BitVec.ofInt 32 (divS 32 (lo32 x).toInt (lo32 y).toInt)) =
    wordI (quotS 32 (sintN x.toNat 32) (sintN y.toNat 32)) := by
  obtain ⟨lo, hi⟩ := quotS_range (lo32 y).toInt (lo32_range x).1 (lo32_range x).2
  rw [divS_eq_quotS, wform_ofInt _ lo hi, sintN_32, sintN_32]

theorem remw_eq (x y : Word) : wform (BitVec.ofInt 32 (remS 32 (lo32 x).toInt (lo32 y).toInt)) =
    wordI (modS 32 (sintN x.toNat 32) (sintN y.toNat 32)) := by
  obtain ⟨lo, hi⟩ := modS_range (lo32 y).toInt (lo32_range x).1 (lo32_range x).2
  rw [remS_eq_modS, wform_ofInt _ lo hi, sintN_32, sintN_32]

theorem divuw_eq (x y : Word) : wform (BitVec.ofNat 32 (divU 32 (lo32 x).toNat (lo32 y).toNat)) =
    wordI (sintN (if y.toNat % 2 ^ 32 = 0 then 2 ^ 32 - 1 else x.toNat % 2 ^ 32 / (y.toNat % 2 ^ 32)) 32) := by
  rw [wform_ofNat, toNat_lo32, toNat_lo32, divU]

theorem remuw_eq (x y : Word) : wform (BitVec.ofNat 32 (remU (lo32 x).toNat (lo32 y).toNat)) =
    wordI (sintN (if y.toNat % 2 ^ 32 = 0 then 0 else x.toNat % 2 ^ 32 % (y.toNat % 2 ^ 32)) 32) := by
  rw [wform_ofNat, toNat_lo32, toNat_lo32, remU]

theorem multiplyDivideResults : MultiplyDivideResults := fun s _ a b =>
  let x := s.s! a
  let y := s.s! b
  ⟨sets_of_done rfl (mul_eq_word x y), sets_of_done rfl rfl, sets_of_done rfl rfl, sets_of_done rfl rfl,
    sets_of_done rfl (wform_lo32_mul x y),
    sets_of_done rfl (congrArg wordI (divS_eq_quotS _ _ _)), sets_of_done rfl (congrArg wordI (remS_eq_modS _ _ _)),
    sets_of_done rfl rfl, sets_of_done rfl rfl,
    sets_of_done rfl (divw_eq x y), sets_of_done rfl (remw_eq x y),
    sets_of_done rfl (divuw_eq x y), sets_of_done rfl (remuw_eq x y)⟩

/-! ### R129, R61: immediates -/

theorem toInt_sx {n : Nat} (i : BitVec n) (h : n ≤ 64) : (sx i).toInt = i.toInt := BitVec.toInt_signExtend_of_le h

theorem sx_eq_wordI {n : Nat} (i : BitVec n) (h : n ≤ 64) : sx i = wordI i.toInt := wordI_eq' _ _ (toInt_sx i h)

theorem toNat_zx {n : Nat} (i : BitVec n) (h : n ≤ 64) : (zx i).toNat = i.toNat := BitVec.toNat_setWidth_of_le h

theorem add_sx {n : Nat} (x : Word) (i : BitVec n) (h : n ≤ 64) : x + sx i = wordI (x.toInt + i.toInt) :=
  wordI_eq _ _ (by rw [BitVec.toInt_add, toInt_sx i h])

theorem or_zx {n : Nat} (x : Word) (i : BitVec n) (h : n ≤ 64) : x ||| zx i = word (x.toNat ||| i.toNat) := by
  rw [or_eq_word, toNat_zx i h]

theorem xor_zx {n : Nat} (x : Word) (i : BitVec n) (h : n ≤ 64) : x ^^^ zx i = word (x.toNat ^^^ i.toNat) := by
  rw [xor_eq_word, toNat_zx i h]

theorem toInt_upper (i : BitVec 21) : (upper i).toInt = i.toInt * 2 ^ 16 := by
  rw [upper, toInt_sx _ (by decide), Int.mul_comm]; exact BitVec.toInt_append_zero

theorem ia_eq_here (s : State) : s.ia = here s := by
  unfold State.ia here; cases s.me.regs.rep <;> rfl

theorem add_upper (x : Word) (i : BitVec 21) : x + upper i = wordI (x.toInt + i.toInt * 2 ^ 16) :=
  wordI_eq _ _ (by rw [BitVec.toInt_add, toInt_upper])

theorem immediateGroupResults : ImmediateGroupResults := fun s _ a i n m j u =>
  let x := s.s! a
  ⟨sets_of_done rfl (add_sx x i (by decide)), sets_of_done rfl (congrArg (x &&& ·) (sx_eq_wordI i (by decide))),
    sets_of_done rfl (or_zx x i (by decide)), sets_of_done rfl (xor_zx x i (by decide)),
    sets_of_done rfl (sll_eq x _), sets_of_done rfl (srl_eq x _), sets_of_done rfl (sra_eq x _), sets_of_done rfl (rotR x _ n.isLt),
    sets_of_done rfl (sllw_eq x _), sets_of_done rfl (srlw_eq x _), sets_of_done rfl (sraw_eq x _),
    sets_of_done rfl ((flag_decide _).trans (by rw [toInt_sx j (by decide)])),
    sets_of_done rfl ((flag_decide _).trans (by rw [sx_eq_wordI j (by decide)])),
    sets_of_done rfl (wordI_eq' _ _ (toInt_upper u)),
    sets_of_done rfl ((congrArg (· + upper u) (ia_eq_here s)).trans (add_upper _ u))⟩

/-- Settles O2: each word ends in State.done, and what it writes is the value its rule names. -/
theorem bitsProductsAndImmediates : Obligations.BitsProductsAndImmediates :=
  ⟨bitGroupResults, multiplyDivideResults, immediateGroupResults⟩

end Sys2Proof.Machine
end

section
/-! SUPPORT. Scalar floating point (R131 to R134): operands and modes, the order of codes, and what the words write. -/

namespace Sys2Proof.Machine

open Sys2Proof.Claims

/-! ### Operands, modes and flags (R53, R131) -/

theorem rmode_eq_modeOf (s : State) (r : BitVec 3) : s.rmode r = modeOf s r := by
  unfold State.rmode modeOf
  rw [show r.truncate 2 = BitVec.ofNat 2 r.toNat from (BitVec.ofNat_toNat 2 r).symm]
  simp only [show r = 4 ↔ r.toNat = 4 from BitVec.toNat_inj.symm]

theorem precFmt_cases (p : Nat) : precFmt p = fp32 ∨ precFmt p = fp64 ∨ precFmt p = fp16 ∨ precFmt p = bf16 := by
  unfold precFmt
  split
  · exact .inl rfl
  · split
    · exact .inr (.inl rfl)
    · split
      · exact .inr (.inr (.inl rfl))
      · exact .inr (.inr (.inr rfl))

/-- The scalar formats have infinities (R60, R101). -/
theorem precFmt_e4m3 (p : Nat) : (precFmt p).e4m3 = false := by
  rcases precFmt_cases p with h | h | h | h <;> rw [h] <;> rfl

theorem precFmt_width_pos (p : Nat) : 0 < (precFmt p).w := by
  rcases precFmt_cases p with h | h | h | h <;> rw [h] <;> decide

theorem operand_lt (s : State) (f : Fmt) (i : Reg) : operand s f i < 2 ^ f.w := Nat.mod_lt _ (Nat.two_pow_pos _)

theorem snanFlag_pair (f : Fmt) (a b : Nat) : snanFlag f [a, b] = if f.isSNaN a ∨ f.isSNaN b then fInvalid else fNone := by
  simp [snanFlag, flagIf, fNone]

theorem flag_eq_word {b : Bool} {p : Prop} [Decidable p] (h : b = true ↔ p) : flag b = word (if p then 1 else 0) := by
  unfold flag
  by_cases hp : p
  · rw [if_pos hp, h.2 hp]; rfl
  · rw [if_neg hp, Bool.eq_false_iff.2 (mt h.1 hp)]; rfl

/-! ### The order of codes (R133) -/

theorem below_iff_key (f : Fmt) (a b : Nat) : below f a b = true ↔ f.key a < f.key b := by
  unfold below Fmt.key
  cases f.neg a <;> cases f.neg b <;> simp only [if_true, if_false, Bool.false_eq_true, decide_eq_true_iff, true_iff, false_iff] <;> omega

/-- Both codes are zeros, of either sign. -/
def bothZero (f : Fmt) (a b : Nat) : Prop := f.mag a = 0 ∧ f.mag b = 0

/-- Zeros apart, the order of values is the order of codes. -/
theorem num_lt_iff (f : Fmt) (a b : Nat) : f.num a < f.num b ↔ ¬ bothZero f a b ∧ below f a b = true := by
  rw [below_iff_key]
  unfold Fmt.num Fmt.key bothZero
  cases f.neg a <;> cases f.neg b <;> simp only [if_true, if_false, Bool.false_eq_true] <;> omega

theorem num_le_iff (f : Fmt) (a b : Nat) : f.num a ≤ f.num b ↔ bothZero f a b ∨ ¬ below f b a = true := by
  rw [← Int.not_lt, num_lt_iff, Classical.not_and_iff_not_or_not, Classical.not_not, bothZero, bothZero, and_comm]

/-- A code is its sign and its magnitude. -/
theorem enc_neg_mag {f : Fmt} {c : Nat} (hw : 0 < f.w) (h : c < 2 ^ f.w) : f.enc (f.neg c) (f.mag c) = c := by
  have hdiv : c / 2 ^ (f.w - 1) < 2 := by
    rw [Nat.div_lt_iff_lt_mul (Nat.two_pow_pos _), Nat.mul_comm, ← Nat.pow_succ, show (f.w - 1).succ = f.w by omega]
    exact h
  have hneg : b2n (f.neg c) = c / 2 ^ (f.w - 1) := by
    unfold Fmt.neg b2n
    generalize c / 2 ^ (f.w - 1) = q at hdiv
    obtain rfl | rfl : q = 0 ∨ q = 1 := by omega
    · rfl
    · rfl
  rw [Fmt.enc, hneg, Fmt.mag, Nat.mul_comm]
  exact Nat.div_add_mod c _

/-- Codes of one value that is not zero have one sign and one magnitude. -/
theorem neg_mag_eq_of_num {f : Fmt} {a b : Nat} (hz : ¬ bothZero f a b) (h : f.num a = f.num b) :
    f.neg a = f.neg b ∧ f.mag a = f.mag b := by
  unfold Fmt.num at h
  unfold bothZero at hz
  cases ha : f.neg a <;> cases hb : f.neg b <;> simp [ha, hb] at h ⊢ <;> omega

theorem num_eq_iff {f : Fmt} {a b : Nat} (hw : 0 < f.w) (ha : a < 2 ^ f.w) (hb : b < 2 ^ f.w) :
    f.num a = f.num b ↔ bothZero f a b ∨ a = b := by
  constructor
  · intro h
    by_cases hz : bothZero f a b
    · exact .inl hz
    · obtain ⟨hneg, hmag⟩ := neg_mag_eq_of_num hz h
      exact .inr (by rw [← enc_neg_mag hw ha, ← enc_neg_mag hw hb, hneg, hmag])
  · rintro (⟨ha0, hb0⟩ | rfl)
    · simp [Fmt.num, ha0, hb0]
    · rfl

/-! ### Minima, maxima, compares and classes (R133) -/

theorem fpMin_eq_minMax (f : Fmt) (a b : Nat) : fpMinMax f false a b = minMax f (!below f b a) a b := by
  have hord : decide (f.key a ≤ f.key b) = !below f b a := by
    rw [Bool.eq_iff_iff, Bool.not_eq_true', ← Bool.not_eq_true, below_iff_key]; simp
  simp only [fpMinMax, minMax, snanFlag_pair, Bool.and_eq_true, hord, Bool.bne_false]

theorem fpMax_eq_minMax (f : Fmt) (a b : Nat) : fpMinMax f true a b = minMax f (below f b a) a b := by
  have hord : (decide (f.key a ≤ f.key b) != true) = below f b a := by
    rw [Bool.eq_iff_iff, below_iff_key]; simp
  simp only [fpMinMax, minMax, snanFlag_pair, Bool.and_eq_true, hord]

/-- A compare of codes: false with a NaN, else as its operation says of the values. -/
theorem fpCompare_iff (f : Fmt) (op a b : Nat) : (fpCompare f op a b).1 = true ↔ ¬ (f.isNaN a ∨ f.isNaN b) ∧
    (if op = 0 then f.num a = f.num b else if op = 1 then f.num a < f.num b else f.num a ≤ f.num b) := by
  unfold fpCompare
  simp only [Bool.and_eq_true, Bool.not_eq_true', Bool.or_eq_false_iff, not_or, Bool.not_eq_true]
  split
  · simp
  · split <;> simp

/-- The order compares raise invalid for any NaN. -/
theorem fpCompare_order_flags (f : Fmt) {op : Nat} (h : op ≠ 0) (a b : Nat) :
    (fpCompare f op a b).2 = if f.isNaN a ∨ f.isNaN b then fInvalid else fNone := by
  simp [fpCompare, h, flagIf, fNone]

theorem fpKind_snan {f : Fmt} {a : Nat} (h : f.isSNaN a = true) : fpKind f a = 9 := by simp [fpKind, h]

theorem fpKind_qnan {f : Fmt} {a : Nat} (h : f.isNaN a = true ∧ ¬ f.isSNaN a = true) : fpKind f a = 8 := by simp [fpKind, h]

theorem fpKind_number {f : Fmt} {a : Nat} (hf : f.e4m3 = false) (h : ¬ f.isNaN a = true) : fpKind f a =
    (if f.neg a then 4 else 0) + (if f.mag a = 0 then 0 else if f.mag a < 2 ^ f.m then 1 else if f.mag a = f.infCode then 3 else 2) := by
  have hs : f.isSNaN a = false := by simp [Fmt.isSNaN, h]
  simp only [fpKind, hs, h, hf, Bool.false_eq_true, if_false, Bool.not_false, Bool.true_and, beq_iff_eq]
  split
  · rfl
  · split
    · rfl
    · split <;> rfl

/-! ### The words -/

/-- A word that ends with a rounded result. -/
theorem float_of_fpDone {i : Instr} {s : State} {d : Reg} {r q : Rounded} (h : exec i s = s.fpDone d r) (e : r = q) : Float i s d q :=
  e ▸ setsF_of_done h rfl rfl

theorem fcvtf_value (s : State) (a : Reg) (r : BitVec 3) (c p : Nat) :
    (if c = p then fpCopy (precFmt c) (s.fp (precFmt c) a) else fpConvert (precFmt c) (precFmt p) (s.rmode r) (s.fp (precFmt c) a)) =
      if c ≠ p then fpConvert (precFmt c) (precFmt p) (modeOf s r) (operand s (precFmt c) a)
      else if (precFmt c).isSNaN (operand s (precFmt c) a) then ((precFmt c).nan, fInvalid) else (operand s (precFmt c) a, fNone) := by
  rw [ite_not, rmode_eq_modeOf]; rfl

theorem floatRoundingResults : FloatRoundingResults := fun s d a b r p c =>
  let f := precFmt p.toNat
  let x := operand s f a
  let y := operand s f b
  let z := operand s f d
  have hm := rmode_eq_modeOf s r
  ⟨float_of_fpDone rfl (congrArg (fpAdd f · x y) hm), float_of_fpDone rfl (congrArg (fpSub f · x y) hm),
    float_of_fpDone rfl (congrArg (fpMul f · x y) hm), float_of_fpDone rfl (congrArg (fpDiv f · x y) hm),
    float_of_fpDone rfl (congrArg (fpSqrt f · x) hm),
    float_of_fpDone rfl (congrArg (fpFma f · false x y z) hm), float_of_fpDone rfl (congrArg (fpFma f · true x y z) hm),
    float_of_fpDone rfl (congrArg (roundFP f · _) hm), float_of_fpDone rfl (congrArg (roundFP f · _) hm),
    float_of_fpDone rfl (fcvtf_value s a r c.toNat p.toNat),
    setsF_of_done rfl (congrArg (fun m => wordI (toIntRange m (-2 ^ 63) (2 ^ 63 - 1) (f.val x)).1) hm)
      (congrArg (fun m => (toIntRange m (-2 ^ 63) (2 ^ 63 - 1) (f.val x)).2) hm),
    setsF_of_done rfl (congrArg (fun m => wordI (toIntRange m 0 (2 ^ 64 - 1) (f.val x)).1) hm)
      (congrArg (fun m => (toIntRange m 0 (2 ^ 64 - 1) (f.val x)).2) hm)⟩

theorem floatNonRoundingResults : FloatNonRoundingResults := fun s _ a b p =>
  let f := precFmt p.toNat
  let x := operand s f a
  let y := operand s f b
  have heq := num_eq_iff (precFmt_width_pos p.toNat) (operand_lt s f a) (operand_lt s f b)
  ⟨sets_of_done rfl rfl, sets_of_done rfl rfl, sets_of_done rfl rfl,
    float_of_fpDone rfl (fpMin_eq_minMax f x y), float_of_fpDone rfl (fpMax_eq_minMax f x y),
    setsF_of_done rfl (flag_eq_word ((fpCompare_iff f 0 x y).trans (and_congr_right' heq))) (snanFlag_pair f x y),
    setsF_of_done rfl (flag_eq_word ((fpCompare_iff f 1 x y).trans (and_congr_right' (num_lt_iff f x y))))
      (fpCompare_order_flags f (op := 1) (by decide) x y),
    setsF_of_done rfl (flag_eq_word ((fpCompare_iff f 2 x y).trans (and_congr_right' (num_le_iff f x y))))
      (fpCompare_order_flags f (op := 2) (by decide) x y),
    fpKind f x, sets_of_done rfl rfl, fpKind_snan, fpKind_qnan, fpKind_number (precFmt_e4m3 p.toNat)⟩

/-- Settles O3: the rounding words end in State.fpDone with the operation their rule names; the compares, minima and maxima follow
from the order of codes. -/
theorem floatResults : Obligations.FloatResults := ⟨floatRoundingResults, floatNonRoundingResults⟩

end Sys2Proof.Machine
end

section
/-! SUPPORT. Branches and jumps (R42, R135), and the return from a trap, IDLE and HALT (R149, R150, R153). -/

namespace Sys2Proof.Machine

open Sys2Proof.Claims

/-! ### R42, R135: targets, jumps and branches -/

theorem targetOk_iff (t : Word) : targetOk t = true ↔ goodTarget t := by
  have hlt := t.isLt
  simp only [targetOk, goodTarget, fld, Bool.and_eq_true, beq_iff_eq]
  omega

theorem target_eq {n : Nat} (pc : Word) (off : BitVec n) (h : n ≤ 64) : target pc off = wordI (pc.toInt + off.toInt * 4) := by
  calc target pc off = wordI pc.toInt + wordI off.toInt * wordI 4 := by rw [target, sx_eq_wordI off h, wordI_toInt]; rfl
    _ = wordI (pc.toInt + off.toInt * 4) := by unfold wordI; rw [BitVec.ofInt_add, BitVec.ofInt_mul]

/-- A word that goes to t where R42 admits it, after writing r, and else traps MISALIGN. -/
theorem jumps_of_goto {i : Instr} {s u : State} {r : Regs} {t t' : Word}
    (h : exec i s = if targetOk t then .next (u.goto t) else s.trap cMISALIGN t) (hu : OnlyRegs s u r) (ht : t = t') : Jumps i s r t' := by
  subst ht
  refine ⟨fun hg => ⟨u.goto t, ?_, OnlyCtx.goto hu t⟩, fun hb => ?_⟩
  · rw [h, if_pos ((targetOk_iff t).2 hg)]
  · exact h.trans (if_neg (mt (targetOk_iff t).1 hb))

/-- Nothing is written yet. -/
theorem OnlyRegs.start (s : State) : OnlyRegs s s s.me.regs := OnlyCtx.start s

theorem branches_of_branch {n : Nat} {i : Instr} {s : State} {taken : Bool} {off : BitVec n} {p : Prop} (h : exec i s = s.branch taken off)
    (hn : n ≤ 64) (hp : taken = true ↔ p) : Branches i s p off := by
  constructor
  · intro hnot
    exact sets_of_advance (h.trans (if_neg (mt hp.1 hnot)))
  · intro hyes
    exact jumps_of_goto (h.trans (if_pos (hp.2 hyes))) (OnlyRegs.start s) (by rw [target_eq _ _ hn, ia_eq_here])

theorem beq_iff_toNat (x y : Word) : (x == y) = true ↔ x.toNat = y.toNat := by rw [bne_nat, decide_eq_true_iff]

theorem bne_iff_toNat (x y : Word) : (x != y) = true ↔ x.toNat ≠ y.toNat := by
  rw [bne_iff_ne, ne_eq, ne_eq, BitVec.toNat_inj]

/-- Settles O8: each branch ends in State.branch on its condition, and each jump in one test of its target. -/
theorem branchesAndJumps : Obligations.BranchesAndJumps := fun s d a b o h j i =>
  let x := s.s! a
  let y := s.s! b
  have h13 : 13 ≤ 64 := by decide
  have h18 : 18 ≤ 64 := by decide
  have hlink (r : Reg) : OnlyRegs s (s.setS r (s.ia + 4)) (s.me.regs.sset r (here s + 4)) :=
    ia_eq_here s ▸ (OnlyCtx.start s).setS r (s.ia + 4)
  ⟨branches_of_branch rfl h13 (beq_iff_toNat x y), branches_of_branch rfl h13 (bne_iff_toNat x y),
    branches_of_branch rfl h13 decide_eq_true_iff, branches_of_branch rfl h13 decide_eq_true_iff,
    branches_of_branch rfl h13 decide_eq_true_iff, branches_of_branch rfl h13 decide_eq_true_iff,
    branches_of_branch rfl h18 (beq_iff_toNat x 0), branches_of_branch rfl h18 (bne_iff_toNat x 0),
    branches_of_branch rfl h18 decide_eq_true_iff, branches_of_branch rfl h18 decide_eq_true_iff,
    branches_of_branch rfl h18 decide_eq_true_iff, branches_of_branch rfl h18 decide_eq_true_iff,
    jumps_of_goto rfl (hlink 31) (by rw [target_eq _ _ (by decide), ia_eq_here]),
    jumps_of_goto rfl (hlink d) (add_sx x i (by decide))⟩

/-! ### R149, R150, R153: TRET, IDLE and HALT -/

/-- Replacing a field by zeros clears its bits. -/
theorem putFld_zero_bit (x : Word) (lo n i : Nat) (h : i < 64) :
    (putFld x lo n 0).getLsbD i = (x.getLsbD i && !(decide (lo ≤ i) && decide (i < lo + n))) := by
  rw [putFld_bit x lo n 0 i h, Nat.zero_testBit]
  by_cases hlo : lo ≤ i <;> by_cases hhi : i < lo + n <;> simp [hlo, hhi]

/-- TCAUSE after TRET: INH and REPI are cleared (R153). -/
theorem tretCause_bit (c : Word) (i : Nat) (h : i < 64) : (putFld (putFld c 8 1 0) 16 6 0).getLsbD i =
    (c.getLsbD i && !(decide (i = 8) || (decide (16 ≤ i) && decide (i < 22)))) := by
  have h8 : (decide (8 ≤ i) && decide (i < 8 + 1)) = decide (i = 8) := by
    rw [Bool.eq_iff_iff]; simp only [Bool.and_eq_true, decide_eq_true_iff]; omega
  rw [putFld_zero_bit _ _ _ _ h, putFld_zero_bit _ _ _ _ h, h8, Bool.not_or, Bool.and_assoc]

theorem isRepWord_iff (w : Word32) : isRepWord w = true ↔ w.toNat / 2 ^ 26 = 0x3E := by
  have hw := w.isLt
  simp only [isRepWord, fld, beq_iff_eq]
  omega

/-- The word at TPC leaves RI to be reloaded (R144): it is REP, or away. -/
theorem peeked_isRep_iff (o : Option Word32) : o.all isRepWord = true ↔ ∀ w, o = some w → w.toNat / 2 ^ 26 = 0x3E := by
  simp only [Option.all_eq_true, isRepWord_iff]

theorem exec_tret_of_inh {s : State} (h : bit s.me.ctl.tcause 8 = true) :
    exec .tret s = .next (s.trapReturn ((s.peekWord s.cur s.me.ctl.tpc).all isRepWord)) :=
  (if_pos h).trans (by cases s.peekWord s.cur s.me.ctl.tpc <;> rfl)

/-- TRET with INH = 1 changes the issuing context alone. -/
theorem trapReturn_only (s : State) (isRep : Bool) : OnlyCtx s (s.trapReturn isRep) s.cur { s.me with
    regs := { s.me.regs with pc := s.me.ctl.tpc, rep := none, ri := if isRep then BitVec.ofNat 6 (fld s.me.ctl.tcause 16 6) else 0 }
    ctl := { s.me.ctl with tcause := putFld (putFld s.me.ctl.tcause 8 1 0) 16 6 0 } } := OnlyCtx.of_setCtx _ _ _

theorem trapReturn_ri {isRep : Bool} {p : Prop} (h : isRep = true ↔ p) (c : Word) :
    (p → (if isRep then BitVec.ofNat 6 (fld c 16 6) else 0).toNat = c.toNat / 2 ^ 16 % 2 ^ 6)
    ∧ (¬ p → (if isRep then BitVec.ofNat 6 (fld c 16 6) else 0) = 0) := by
  constructor
  · intro hp
    rw [if_pos (h.2 hp), BitVec.toNat_ofNat, fld, Nat.mod_mod]
  · intro hp
    rw [if_neg (mt h.1 hp)]

theorem isKernel_iff (cid : Nat) : isKernel cid = true ↔ cid % 64 / 4 = 8 := beq_iff_eq

/-- Settles O11: TRET on INH, IDLE on the inbox, and HALT of a kernel core. -/
theorem trapReturnIdleAndHalt : Obligations.TrapReturnIdleAndHalt := by
  intro s
  refine ⟨fun hinh => ?_, fun hinh => ?_, fun hin => ?_, fun hin => ?_, fun hk => ?_⟩
  · exact if_neg (Bool.eq_false_iff.1 hinh)
  · have hri := trapReturn_ri (peeked_isRep_iff (s.peekWord s.cur s.me.ctl.tpc)) s.me.ctl.tcause
    exact ⟨_, _, tretCause_bit s.me.ctl.tcause, hri.1, hri.2, _, exec_tret_of_inh hinh, trapReturn_only s _⟩
  · have hsome : (!s.me.inbox.isEmpty) = true := by simpa using hin
    exact sets_of_advance (if_pos hsome)
  · have hnone : ¬ (!s.me.inbox.isEmpty) = true := by simpa using hin
    exact ⟨_, if_neg hnone, (OnlyCtx.start s).setWait _⟩
  · exact ⟨_, if_pos ((isKernel_iff s.cur).2 hk), (OnlyCtx.start s).setSched _⟩

end Sys2Proof.Machine
end

section
/-! SUPPORT. The control registers (R18 to R21, R146, R147): what CTLR reads and what CTLW leaves. -/

namespace Sys2Proof.Machine

open Sys2Proof.Claims

/-! ### CTLR (R146) -/

theorem zx_eq_word {n : Nat} (i : BitVec n) (h : n ≤ 64 := by decide) : zx i = word i.toNat := word_eq' _ _ (toNat_zx i h)

theorem b2n_eq_ite (b : Bool) : b2n b = if b then 1 else 0 := rfl

/-- A read of any register but MXOVF writes sd and completes. -/
theorem setsS_of_ctlRead {s : State} {n : BitVec 12} {v x : Word} (d : Reg) (h : s.ctlRead s.cur n = some v) (e : v = x)
    (hn : n ≠ 0x065 := by decide) : SetsS (.ctlr d n) s d x := by
  refine sets_of_done ?_ e
  show execCtlr d n s = s.done d v
  simp only [execCtlr, h, if_neg hn]

/-- A read of MXOVF clears it. -/
theorem mxovf_read (s : State) (d : Reg) : Completes (.ctlr d 0x065) s fun t => OnlyCtx s t s.cur { s.me with
    regs := (s.me.regs.sset d (word s.me.ctl.mxovf.toNat)).advance
    ctl := { s.me.ctl with mxovf := 0 } } := by
  rw [← zx_eq_word]
  exact ⟨_, rfl, (((OnlyCtx.start s).setCtl { s.me.ctl with mxovf := 0 }).setS d _).advance⟩

theorem traps_of_ctlRead_none {s : State} {n : BitVec 12} (d : Reg) (h : s.ctlRead s.cur n = none) : Traps (.ctlr d n) s 1 (word n.toNat) := by
  rw [← zx_eq_word n]
  show execCtlr d n s = _
  simp only [execCtlr, h]
  rfl

/-- The addresses of the register table (R18). -/
def ctlAddrs : List Nat := [0x000, 0x001, 0x002, 0x010, 0x011, 0x012, 0x013, 0x020, 0x021, 0x030, 0x031, 0x032, 0x040, 0x041, 0x050, 0x060,
  0x061, 0x062, 0x063, 0x064, 0x065, 0x070, 0x071, 0x080, 0x081, 0x090, 0x0A0, 0x0B0]

theorem ctlRead_none (s : State) (cid : Nat) {n : BitVec 12} (h : n.toNat ∉ ctlAddrs) : s.ctlRead cid n = none := by
  unfold State.ctlRead
  split
  case h_29 => rfl
  all_goals next heq => exact absurd (heq ▸ by decide) h

theorem capsWord_eq (cid : Nat) (x : Word) (h : x.toNat = 1 + 32 * 2 ^ 8 + (if cid % 64 / 4 = 8 then 2 else 4) * 2 ^ 16
    + (if cid % 64 / 4 = 8 then 1 else 0) * 2 ^ 19 + 8 * 2 ^ 20 + 180 * 2 ^ 24 + 16 * 2 ^ 32 + 64 * 2 ^ 40 + 64 * 2 ^ 48) :
    capsWord cid = x := by
  rw [capsWord, b2n_eq_ite]
  simp only [isKernel_iff]
  exact (word_eq' x _ h).symm

theorem htab_eq (c : Core) : c.htab = word (c.htSlot.toNat + if c.htEn then 4 else 0) := by
  rw [Core.htab]; cases c.htEn <;> rfl

theorem controlRegisterReads : ControlRegisterReads := by
  intro s d n c kernel core
  refine ⟨fun x hx => setsS_of_ctlRead d rfl (capsWord_eq s.cur x hx), setsS_of_ctlRead d rfl rfl, setsS_of_ctlRead d rfl rfl,
    setsS_of_ctlRead d rfl rfl, setsS_of_ctlRead d rfl rfl, setsS_of_ctlRead d rfl rfl, setsS_of_ctlRead d rfl rfl,
    setsS_of_ctlRead d rfl (zx_eq_word _), setsS_of_ctlRead d rfl (zx_eq_word _), setsS_of_ctlRead d rfl rfl, setsS_of_ctlRead d rfl rfl,
    setsS_of_ctlRead d rfl (zx_eq_word _), setsS_of_ctlRead d rfl (zx_eq_word _), setsS_of_ctlRead d rfl (zx_eq_word _),
    setsS_of_ctlRead d rfl (htab_eq core), setsS_of_ctlRead d rfl (zx_eq_word _), setsS_of_ctlRead d rfl (zx_eq_word _),
    setsS_of_ctlRead d rfl (zx_eq_word _), setsS_of_ctlRead d rfl (zx_eq_word _), setsS_of_ctlRead d rfl (zx_eq_word _), ?_,
    setsS_of_ctlRead d rfl rfl, setsS_of_ctlRead d rfl rfl, setsS_of_ctlRead (n := 0x070) d rfl rfl,
    setsS_of_ctlRead (n := 0x071) d rfl rfl, setsS_of_ctlRead d rfl (zx_eq_word _), setsS_of_ctlRead d rfl rfl, setsS_of_ctlRead d rfl rfl,
    setsS_of_ctlRead d rfl rfl, setsS_of_ctlRead d rfl rfl, fun hn => traps_of_ctlRead_none d (ctlRead_none s s.cur hn)⟩
  rintro k (rfl | rfl)
  · exact mxovf_read s d
  · exact mxovf_read s d

/-! ### CTLW (R147) -/

/-- A write of a control register of the issuing context. -/
theorem setsCtl_of_ctlWrite {s : State} {a : Reg} {n : BitVec 12} {c c' : Ctl}
    (h : s.ctlWrite s.cur n (s.s! a) = some (s.setCtl s.cur c)) (e : c = c') : SetsCtl (.ctlw a n) s c' := by
  subst e
  refine ⟨(s.setCtl s.cur c).advance, ?_, ((OnlyCtx.start s).setCtl c).advance⟩
  show execCtlw a n s = _
  simp only [execCtlw, h]

theorem traps_of_ctlWrite_none {s : State} {a : Reg} {n : BitVec 12} (h : s.ctlWrite s.cur n (s.s! a) = none) :
    Traps (.ctlw a n) s 1 (word n.toNat) := by
  rw [← zx_eq_word n]
  show execCtlw a n s = _
  simp only [execCtlw, h]
  rfl

/-- The addresses that can be written (R18). -/
def ctlWritable : List Nat := [0x010, 0x011, 0x012, 0x013, 0x020, 0x021, 0x032, 0x040, 0x041, 0x050, 0x060, 0x061, 0x062, 0x063, 0x064, 0x065,
  0x081, 0x090, 0x0B0]

theorem ctlWrite_none (s : State) (cid : Nat) (v : Word) {n : BitVec 12} (h : n.toNat ∉ ctlWritable) : s.ctlWrite cid n v = none := by
  unfold State.ctlWrite
  split
  case h_20 => rfl
  all_goals next heq => exact absurd (heq ▸ by decide) h

/-- A register that holds the low k bits of what is written. -/
theorem truncate_eq_ofNat_low (x : Word) (k : Nat) : x.truncate k = BitVec.ofNat k (x.toNat % 2 ^ k) := by
  apply BitVec.eq_of_toNat_eq
  simp only [BitVec.truncate, BitVec.toNat_setWidth, BitVec.toNat_ofNat, Nat.mod_mod]

/-- A register whose bits 1 and 0 read zero. -/
theorem and_not_three (x : Word) : x &&& ~~~(3 : Word) = word (x.toNat / 4 * 4) := by
  refine BitVec.eq_of_getLsbD_eq fun i hi => ?_
  have h3 : (3 : Word).getLsbD i = decide (i < 2) := Nat.testBit_two_pow_sub_one 2 i
  rw [BitVec.getLsbD_and, BitVec.getLsbD_not, h3, word, BitVec.getLsbD_ofNat, show x.toNat / 4 * 4 = x.toNat / 2 ^ 2 * 2 ^ 2 from rfl,
    Nat.testBit_mul_two_pow, Nat.testBit_div_two_pow]
  by_cases h : i < 2
  · have h2 : ¬ 2 ≤ i := by omega
    simp only [h, h2, decide_true, decide_false, Bool.not_true, Bool.and_false, Bool.false_and]
  · simp [h, hi, show 2 ≤ i by omega, Nat.sub_add_cancel, BitVec.getLsbD]

theorem tcauseMask_bit : ∀ j, j < 64 → (0x3F01FF : Word).getLsbD j = (decide (j < 9) || (decide (16 ≤ j) && decide (j < 22))) := by decide

/-- A context that is neither attached nor exhausted takes the class at once, not below FLOOR (R21). -/
theorem writeClass_eq (s : State) (v : BitVec 2) (h : s.me.sched.spine ≠ .attached) (hx : s.me.sched.exhausted = false) :
    s.writeClass s.cur v = s.setCtl s.cur { s.me.ctl with prioCls := if v.toNat < s.me.ctl.prioFlr.toNat then s.me.ctl.prioFlr else v } := by
  have hl : (s.ctxOf s.cur).sched.lowered = false := by rw [Sched.lowered, show (s.ctxOf s.cur).sched.exhausted = false from hx]; rfl
  unfold State.writeClass
  simp only [hl, Bool.false_eq_true, if_false]
  exact if_pos (.inr h)

theorem class_max (x : Word) (f : BitVec 2) :
    (if (x.truncate 2).toNat < f.toNat then f else x.truncate 2) = BitVec.ofNat 2 (max (x.toNat % 2 ^ 2) f.toNat) := by
  have hlow : (x.truncate 2).toNat = x.toNat % 2 ^ 2 := BitVec.toNat_setWidth 2 x
  have hf := f.isLt
  apply BitVec.eq_of_toNat_eq
  rw [BitVec.toNat_ofNat]
  split <;> omega

/-- BMASK written without clearing a bit: no channel withdraws the context (R200). -/
theorem writeBmask_eq (s : State) (cid : Nat) (v : Word32)
    (h : ∀ j, j < 32 → (s.ctxOf cid).ctl.bmask.getLsbD j = true → v.getLsbD j = true) :
    s.writeBmask cid v = s.setCtl cid { (s.ctxOf cid).ctl with bmask := v } := by
  have hgone : ((List.range 32).filter fun i => bit (s.ctxOf cid).ctl.bmask i && !bit v i) = [] := by
    simpa [bit] using h
  rw [State.writeBmask, hgone]
  rfl

/-- A register of the core is written, and the word completes. -/
theorem advance_setCore_only (s : State) (k : Nat) (c : Core) :
    OnlyCtx (s.setCore k c) (s.setCore k c).advance s.cur { s.me with regs := s.me.regs.advance } :=
  (OnlyCtx.start (s.setCore k c)).advance

theorem coreOf_advance_setCore (s : State) (k : Nat) (c : Core) : (s.setCore k c).advance.coreOf k = c := State.coreOf_setCore_same s k c

/-- HTAB written (R196, R197): a SLOT that stays keeps the handlers. -/
theorem htab_write (s : State) (a : Reg) : Completes (.ctlw a 0x050) s fun t =>
    OnlyCtx (s.setCore (coreKey s.cur) (t.coreOf (coreKey s.cur))) t s.cur { s.me with regs := s.me.regs.advance }
    ∧ ∃ h, t.coreOf (coreKey s.cur) = { s.coreOf (coreKey s.cur) with
          htSlot := BitVec.ofNat 2 ((s.s! a).toNat % 2 ^ 2), htEn := (s.s! a).getLsbD 2, handlers := h }
        ∧ ((s.s! a).toNat % 2 ^ 2 = (s.coreOf (coreKey s.cur)).htSlot.toNat → h = (s.coreOf (coreKey s.cur)).handlers) := by
  refine ⟨_, rfl, ?_⟩
  simp only [State.writeHtab, coreOf_advance_setCore, truncate_eq_ofNat_low]
  refine ⟨advance_setCore_only s _ _, _, rfl, fun hsame => ?_⟩
  have hslot : (BitVec.ofNat 2 ((s.s! a).toNat % 2 ^ 2)).toNat = (s.coreOf (coreKey s.cur)).htSlot.toNat := by
    rw [BitVec.toNat_ofNat, Nat.mod_mod, hsame]
  rw [hslot, bne_self_eq_false]
  rfl

/-- MXIDLE written: the count of idleness restarts (R252). -/
theorem mxidle_write (s : State) (a : Reg) : Completes (.ctlw a 0x0B0) s fun t =>
    OnlyCtx (s.setCore (coreKey s.cur) { s.coreOf (coreKey s.cur) with mxidle := s.s! a, mxSince := s.clk, mxGated := false }) t s.cur
      { s.me with regs := s.me.regs.advance } :=
  ⟨_, rfl, advance_setCore_only s _ _⟩

theorem prio_write (s : State) (a : Reg) (h : s.me.sched.spine ≠ .attached) (hx : s.me.sched.exhausted = false) :
    SetsCtl (.ctlw a 0x081) s { s.me.ctl with prioCls := BitVec.ofNat 2 (max ((s.s! a).toNat % 2 ^ 2) s.me.ctl.prioFlr.toNat) } :=
  setsCtl_of_ctlWrite (congrArg some (writeClass_eq s _ h hx)) (by rw [class_max])

theorem bmask_write (s : State) (a : Reg) (h : ∀ j, j < 32 → s.me.ctl.bmask.getLsbD j = true → (s.s! a).getLsbD j = true) :
    SetsCtl (.ctlw a 0x040) s { s.me.ctl with bmask := BitVec.ofNat 32 ((s.s! a).toNat % 2 ^ 32) } := by
  have hlow : lo32 (s.s! a) = BitVec.ofNat 32 ((s.s! a).toNat % 2 ^ 32) := truncate_eq_ofNat_low _ 32
  refine setsCtl_of_ctlWrite (congrArg some (writeBmask_eq s s.cur (lo32 (s.s! a)) fun j hj hb => ?_)) (by rw [← hlow]; rfl)
  rw [lo32, BitVec.truncate, BitVec.getLsbD_setWidth, h j hj hb, decide_eq_true hj]
  rfl

theorem controlRegisterWrites : ControlRegisterWrites := by
  intro s a n c x core low
  have hlow := truncate_eq_ofNat_low x
  refine ⟨setsCtl_of_ctlWrite rfl (congrArg ({ c with tvec := · }) (and_not_three x)),
    ⟨x &&& 0x3F01FF, fun j hj => ?_, setsCtl_of_ctlWrite rfl rfl⟩,
    setsCtl_of_ctlWrite rfl (congrArg ({ c with tpc := · }) (and_not_three x)), setsCtl_of_ctlWrite rfl rfl,
    setsCtl_of_ctlWrite rfl (congrArg ({ c with frm := · }) (hlow 2)), setsCtl_of_ctlWrite rfl (congrArg ({ c with fflags := · }) (hlow 5)),
    setsCtl_of_ctlWrite rfl (congrArg ({ c with vdeadl := · }) (hlow 32)), bmask_write s a,
    setsCtl_of_ctlWrite rfl (congrArg ({ c with tree := · }) (hlow 28)), setsCtl_of_ctlWrite rfl (congrArg ({ c with fmta := · }) (hlow 7)),
    setsCtl_of_ctlWrite rfl (congrArg ({ c with fmtb := · }) (hlow 7)), setsCtl_of_ctlWrite rfl (congrArg ({ c with scla := · }) (hlow 18)),
    setsCtl_of_ctlWrite rfl (congrArg ({ c with sclb := · }) (hlow 18)),
    setsCtl_of_ctlWrite rfl (congrArg ({ c with accbase := · }) (hlow 10)),
    setsCtl_of_ctlWrite rfl (congrArg ({ c with mxovf := · }) (hlow 32)), setsCtl_of_ctlWrite rfl rfl,
    ?_, ?_, ?_, fun hn => traps_of_ctlWrite_none (ctlWrite_none s s.cur _ hn)⟩
  · rw [BitVec.getLsbD_and, tcauseMask_bit j hj]
  · rintro k (rfl | rfl) hs hx
    · exact prio_write s a hs hx
    · exact prio_write s a hs hx
  · rintro k (rfl | rfl)
    · exact htab_write s a
    · exact htab_write s a
  · rintro k (rfl | rfl)
    · exact mxidle_write s a
    · exact mxidle_write s a

/-- Settles O12: CTLR and CTLW by State.ctlRead and State.ctlWrite, address by address. -/
theorem controlRegisters : Obligations.ControlRegisters := ⟨controlRegisterReads, controlRegisterWrites⟩

end Sys2Proof.Machine
end

section
/-! SUPPORT. Streams (R22 to R27, R136 to R138, R143) and the rejoin queue (R140, R141). -/

namespace Sys2Proof.Machine

open Sys2Proof.Claims

/-! ### One context and one gathering change -/

/-- A gathering written beside the one context that changed. -/
theorem OnlyCtx.setGath {s t : State} {cid : Nat} {c : Ctx} (h : OnlyCtx s t cid c) (g : Nat) (x : Gath) :
    OnlyCtx (s.setGath g x) (t.setGath g x) cid c := ⟨congrArg (·.setGath g x) h.1, h.2⟩

theorem OnlyCtx.gathSt {s t : State} {cid : Nat} {c : Ctx} (h : OnlyCtx s t cid c) (g : Nat) : t.gathSt g = s.gathSt g :=
  (congrArg (·.gathSt g) h.1 :)

theorem OnlyCtx.setStream {s t : State} {cid : Nat} {c : Ctx} (h : OnlyCtx s t cid c) (g k : Nat) (x : Stream) :
    OnlyCtx (s.setStream g k x) (t.setStream g k x) cid c := by
  rw [State.setStream, State.setStream, h.gathSt]; exact h.setGath g _

theorem stream_setStream_same (s : State) (g k : Nat) (x : Stream) : (s.setStream g k x).stream g k = x := by
  rw [State.stream, State.setStream, State.gathSt_setGath_same, SMap.read_write_same]

/-! ### Who is attached (R24) -/

theorem isOn_iff (s : State) (c : Nat) : s.isAttached (mkCid (gathOf s.cur) c (slotNo s.cur)) = true ↔ isOn s c := beq_iff_eq

theorem attached_isEmpty_iff (s : State) :
    (s.attached (gathOf s.cur) (slotNo s.cur)).isEmpty = true ↔ ∀ c, c < 8 → ¬ isOn s c := by
  simp only [State.attached, List.isEmpty_iff, List.filter_eq_nil_iff, List.forall_mem_map, List.mem_range, isOn_iff]

theorem coreNo_mkCid {g c k : Nat} (hc : c < 8) (hk : k < 4) : coreNo (mkCid g c k) = c := by unfold coreNo mkCid; omega

theorem slotNo_lt (cid : Nat) : slotNo cid < 4 := Nat.mod_lt _ (by decide)

theorem isKernel_eq_false {cid : Nat} (h : cid % 64 / 4 ≠ 8) : ¬ isKernel cid = true := mt (isKernel_iff cid).1 h

/-! ### ATTACH, JOIN and DETACH (R136, R137) -/

/-- A context whose stream is not at its join point stays JOINING. -/
theorem tryAttach_of_elsewhere {s : State} {cid : Nat}
    (h : ∀ w, (s.ctxOf cid).sched.wait = .join w → (s.stream (gathOf cid) (slotNo cid)).atJoin ≠ some w.point) : s.tryAttach cid = s := by
  unfold State.tryAttach
  dsimp only
  split
  · next w hw => exact if_neg fun hc => h w hw hc.2.1
  · rfl

theorem joinStream_nobody {s : State} (d : Reg) (t : BitVec 13) (start : Bool) (hs : s.me.sched.spine = .priv)
    (h : ∀ c, c < 8 → ¬ isOn s c) : s.joinStream d t start =
      if start then
        let u := (s.setS d 0).advance.setStream (gathOf s.cur) (slotNo s.cur)
          { running := true, nextPc := s.me.regs.pc + 4, cls := s.me.ctl.prioCls }
        .next (u.setSched s.cur { u.me.sched with spine := .attached, drift := [], accepted := none })
      else s.done d 2 := by
  unfold State.joinStream
  simp only [hs, (attached_isEmpty_iff s).2 h, if_true]
  rfl

/-- A PRIVATE context whose stream goes on elsewhere waits at its join point. -/
theorem joinStream_elsewhere {s : State} (d : Reg) (t : BitVec 13) (start : Bool) (hs : s.me.sched.spine = .priv)
    (h : ∃ c, c < 8 ∧ isOn s c) (hj : (myStream s).atJoin ≠ some s.me.regs.pc) : s.joinStream d t start =
      .next (s.setSched s.cur { s.me.sched with
        spine := .joining, since := s.dtime, wait := .join { point := s.me.regs.pc, sd := d, stopAt := s.clk + (t.toNat + 1) * 64 } }) := by
  have hne : ¬ (s.attached (gathOf s.cur) (slotNo s.cur)).isEmpty = true := by
    rw [attached_isEmpty_iff]
    obtain ⟨c, hc, hon⟩ := h
    exact fun hall => hall c hc hon
  unfold State.joinStream
  simp only [hs, hne, Bool.false_eq_true, if_false]
  refine congrArg Host.Outcome.next (tryAttach_of_elsewhere fun w hw => ?_)
  obtain rfl := Wait.join.inj ((congrArg (·.sched.wait) (State.ctxOf_setCtx_same s s.cur _)).symm.trans hw)
  exact hj

/-- What was noted for the position a context has accepted, noted once. -/
theorem posStatus_of_mem {s : State} {p x : Nat} (ha : s.me.sched.accepted = some p) (hm : (p, x) ∈ (myStream s).status)
    (hu : ∀ y, (p, y) ∈ (myStream s).status → y = x) : s.posStatus s.cur = some x := by
  have hfind : ((myStream s).status.find? (·.1 == p)).map (·.2) = some x := by
    cases hf : (myStream s).status.find? (·.1 == p) with
    | none => exact absurd (List.find?_eq_none.1 hf _ hm) (by simp)
    | some e =>
      obtain ⟨q, y⟩ := e
      obtain rfl : q = p := by simpa using List.find?_some hf
      exact congrArg some (hu y (List.mem_of_find?_eq_some hf))
  unfold State.posStatus
  rw [show (s.ctxOf s.cur).sched.accepted = some p from ha]
  exact hfind

theorem joinStream_attached {s : State} {p x : Nat} (d : Reg) (t : BitVec 13) (start : Bool) (hs : s.me.sched.spine = .attached)
    (ha : s.me.sched.accepted = some p) (hm : (p, x) ∈ (myStream s).status) (hu : ∀ y, (p, y) ∈ (myStream s).status → y = x) :
    s.joinStream d t start = s.done d (word x) := by
  unfold State.joinStream
  simp only [hs, posStatus_of_mem ha hm hu]

/-- The stream an ATTACH starts (R137), and its first context. -/
theorem attach_starts {s : State} (d : Reg) (t : BitVec 13) (hk : ¬ isKernel s.cur = true) (hs : s.me.sched.spine = .priv)
    (h : ∀ c, c < 8 → ¬ isOn s c) : Completes (.attach d t) s fun u =>
      OnlyCtx (s.setStream (gathOf s.cur) (slotNo s.cur) { running := true, nextPc := s.me.regs.pc + 4, cls := s.me.ctl.prioCls }) u s.cur
        { s.me with
          regs := (s.me.regs.sset d 0).advance
          sched := { s.me.sched with spine := .attached, drift := [], accepted := none } } := by
  have hreg := (((OnlyCtx.start s).setS d 0).advance).setStream (gathOf s.cur) (slotNo s.cur)
    { running := true, nextPc := s.me.regs.pc + 4, cls := s.me.ctl.prioCls }
  have hme := congrArg Ctx.sched hreg.me
  refine ⟨_, (if_neg hk).trans (joinStream_nobody d t true hs h), ?_⟩
  rw [hme]
  exact hreg.setSched _

theorem attachJoinDetach : AttachJoinDetach := by
  intro s d t hcore waits
  have hk := isKernel_eq_false hcore
  refine ⟨fun hs hnone => ⟨?_, ?_⟩, fun hs hsome hj => ⟨?_, ?_⟩, ?_, fun hs => ?_⟩
  · obtain ⟨u, hu, honly⟩ := attach_starts d t hk hs hnone
    have hcur : u.cur = s.cur := honly.cur
    have hme : u.me = _ := honly.me
    refine ⟨u, hu, by rw [hme], by rw [hme], by rw [hme], by rw [hme], ?_, fun k hne => ?_, ?_⟩
    · rw [myStream, hcur, honly.gathSt]
      exact stream_setStream_same s _ _ _
    · exact (honly.2 k).trans (if_neg hne)
    · exact (congrArg (fun v : State => { v with gaths := s.gaths }) honly.1 :)
  · exact sets_of_done ((if_neg hk).trans (joinStream_nobody d t false hs hnone)) rfl
  · exact ⟨_, (if_neg hk).trans (joinStream_elsewhere d t true hs hsome hj), (OnlyCtx.start s).setSched _⟩
  · exact ⟨_, (if_neg hk).trans (joinStream_elsewhere d t false hs hsome hj), (OnlyCtx.start s).setSched _⟩
  · rintro i (rfl | rfl) hs p x ha hm hu
    · exact sets_of_done ((if_neg hk).trans (joinStream_attached d t true hs ha hm hu)) rfl
    · exact sets_of_done ((if_neg hk).trans (joinStream_attached d t false hs ha hm hu)) rfl
  · have hpriv : (s.advance.ctxOf s.cur).sched.spine = .priv := by
      rw [State.advance, State.setRegs, State.ctxOf_setCtx_same]; exact hs
    have hstay : s.advance.detach s.cur = s.advance := by unfold State.detach; rw [hpriv]
    exact sets_of_advance ((if_neg hk).trans (congrArg _ hstay))

/-! ### The rejoin queue (R140, R141) -/

/-- The entry a DONATE of s(a), s(a + 1), s(a + 2) makes (R140). -/
def donated (s : State) (a : Reg) : Rejoin where
  start := lo32 (s.s! a)
  stop := lo32 (s.s! (a + 1))
  tag := lo32 (s.s! (a + 2))
  donor := BitVec.ofNat 12 s.cur
  launch := s.launchOf s.cur

/-- The entries a TAKEW with its tag in s(a + 2) may take (R141). -/
def takes (s : State) (a : Reg) : Rejoin → Bool := fun e => e.tag == lo32 (s.s! (a + 2)) && e.launch == s.launchOf s.cur

theorem takes_iff (s : State) (a : Reg) (e : Rejoin) :
    takes s a e = true ↔ e.tag.toNat = (s.s! (a + 2)).toNat % 2 ^ 32 ∧ e.launch = s.me.sched.task.map (·.launch) := by
  rw [takes, Bool.and_eq_true, beq_iff_eq, beq_iff_eq, ← BitVec.toNat_inj, toNat_lo32]
  rfl

theorem takew_none {s : State} {a : Reg} (d : Reg) (hk : ¬ isKernel s.cur = true)
    (h : (s.gathSt (gathOf s.cur)).rejoin.find? (takes s a) = none) : exec (.takew d a) s = s.done d 1 := by
  refine (if_neg hk).trans ?_
  unfold takes at h
  simp only [h]

theorem takew_some {s : State} {a : Reg} {e : Rejoin} (d : Reg) (hk : ¬ isKernel s.cur = true)
    (h : (s.gathSt (gathOf s.cur)).rejoin.find? (takes s a) = some e) : exec (.takew d a) s =
      (((s.setRejoin (gathOf s.cur) (dropFirst (takes s a) (s.gathSt (gathOf s.cur)).rejoin)).setS a (zx e.start)).setS (a + 1) (zx e.stop)).done d 0 := by
  refine (if_neg hk).trans ?_
  unfold takes at h ⊢
  simp only [h]

theorem dropFirst_append_cons {α : Type} {p : α → Bool} {e : α} (r : List α) (he : p e = true) :
    ∀ l : List α, (∀ x ∈ l, ¬ p x = true) → dropFirst p (l ++ e :: r) = l ++ r
  | [], _ => if_pos he
  | x :: l, h => by
    rw [List.cons_append, dropFirst, if_neg (h x List.mem_cons_self),
      dropFirst_append_cons r he l fun y hy => h y (List.mem_cons_of_mem x hy)]
    rfl

/-- The rejoin queue is replaced, registers are written, and the word completes. -/
theorem requeues_of_done {i : Instr} {s u : State} {d : Reg} {x : Word} {r : Regs} {q : List Rejoin} (h : exec i s = u.done d x)
    (hu : OnlyCtx (s.setRejoin (gathOf s.cur) q) u s.cur { s.me with regs := r }) : Requeues i s (r.sset d x) q :=
  ⟨_, h, (OnlyCtx.setS (s := s.setRejoin (gathOf s.cur) q) hu d x).advance⟩

/-- TAKEW takes the oldest entry it may, and writes its range. -/
theorem takew_requeues {s : State} {a : Reg} {e : Rejoin} {l r : List Rejoin} (d : Reg) (hk : ¬ isKernel s.cur = true)
    (hq : (s.gathSt (gathOf s.cur)).rejoin = l ++ e :: r) (hl : ∀ x ∈ l, ¬ takes s a x = true) (he : takes s a e = true) :
    Requeues (.takew d a) s (((s.me.regs.sset a (word e.start.toNat)).sset (a + 1) (word e.stop.toNat)).sset d 0) (l ++ r) := by
  have hfind : (s.gathSt (gathOf s.cur)).rejoin.find? (takes s a) = some e :=
    List.find?_eq_some_iff_append.2 ⟨he, l, r, hq, fun x hx => by simpa using hl x hx⟩
  have hexec := takew_some d hk hfind
  rw [hq, dropFirst_append_cons r he l hl, zx_eq_word e.start, zx_eq_word e.stop] at hexec
  have hstart := OnlyCtx.start (s.setRejoin (gathOf s.cur) (l ++ r))
  exact requeues_of_done hexec ((hstart.setS a _).setS (a + 1) _)

theorem donateAndTake : DonateAndTake := by
  intro s d a hcore q start stop tag graph mine
  have hk := isKernel_eq_false hcore
  have hlo (r : Reg) : (lo32 (s.s! r)).toNat = (s.s! r).toNat % 2 ^ 32 := toNat_lo32 _
  have hempty (h : start < stop) : ¬ (lo32 (s.s! (a + 1))).toNat ≤ (lo32 (s.s! a)).toNat := by
    rw [hlo, hlo]; exact Nat.not_le.2 h
  refine ⟨fun hle => ?_, fun hlt hfull => ?_, fun hlt hroom => ?_, fun hnone => ?_, fun l e r hq hl he => ?_⟩
  · have hle' : (lo32 (s.s! (a + 1))).toNat ≤ (lo32 (s.s! a)).toNat := by rw [hlo, hlo]; exact hle
    exact sets_of_done ((if_neg hk).trans (if_pos hle')) rfl
  · exact sets_of_done ((if_neg hk).trans ((if_neg (hempty hlt)).trans (if_pos hfull))) rfl
  · have hexec : exec (.donate d a) s = (s.setRejoin (gathOf s.cur) (q ++ [donated s a])).done d 0 :=
      (if_neg hk).trans ((if_neg (hempty hlt)).trans (if_neg (Nat.not_le.2 hroom)))
    exact ⟨donated s a, hlo a, hlo (a + 1), hlo (a + 2), BitVec.toNat_ofNat _ _, rfl, requeues_of_done hexec (OnlyCtx.start _)⟩
  · exact sets_of_done (takew_none d hk (List.find?_eq_none.2 fun e he => mt (takes_iff s a e).1 (hnone e he))) rfl
  · exact takew_requeues d hk hq (fun x hx => mt (takes_iff s a x).1 (hl x hx)) ((takes_iff s a e).2 he)

/-! ### GANG (R143) -/

/-- The mask of the cores below n that meet p. -/
def coreMask (p : Nat → Bool) (n : Nat) : Nat := ((List.range n).filter p).foldl (fun m c => m + 2 ^ c) 0

theorem coreMask_succ (p : Nat → Bool) (n : Nat) : coreMask p (n + 1) = coreMask p n + if p n then 2 ^ n else 0 := by
  rw [coreMask, List.range_succ, List.filter_append, List.foldl_append]
  by_cases h : p n <;> simp [h, coreMask]

theorem coreMask_lt (p : Nat → Bool) (n : Nat) : coreMask p n < 2 ^ n := by
  induction n with
  | zero => exact Nat.one_pos
  | succ n ih => rw [coreMask_succ, Nat.pow_succ]; split <;> omega

theorem coreMask_testBit (p : Nat → Bool) {n c : Nat} (h : c < n) : (coreMask p n).testBit c = p c := by
  induction n with
  | zero => omega
  | succ n ih =>
    have hm : coreMask p (n + 1) = 2 ^ n * b2n (p n) + coreMask p n := by
      rw [coreMask_succ, Nat.add_comm]; cases p n <;> simp [b2n]
    rw [hm, Nat.testBit_two_pow_mul_add _ (coreMask_lt p n)]
    by_cases hc : c < n
    · rw [if_pos hc, ih hc]
    · obtain rfl : c = n := by omega
      rw [if_neg hc, Nat.sub_self]; cases p c <;> rfl

/-- Core c has an attached context in slot k (R24). -/
def onCore (s : State) (g k c : Nat) : Bool := s.isAttached (mkCid g c k)

theorem attached_eq_map (s : State) (g k : Nat) : s.attached g k = ((List.range 8).filter (onCore s g k)).map fun c => mkCid g c k :=
  List.filter_map

theorem foldl_coreNo_mkCid (g : Nat) {k : Nat} (hk : k < 4) (l : List Nat) (m : Nat) (h : ∀ c ∈ l, c < 8) :
    l.foldl (fun n c => n + 2 ^ coreNo (mkCid g c k)) m = l.foldl (fun n c => n + 2 ^ c) m := by
  induction l generalizing m with
  | nil => rfl
  | cons c l ih =>
    rw [List.foldl_cons, List.foldl_cons, coreNo_mkCid (h c List.mem_cons_self) hk]
    exact ih _ fun x hx => h x (List.mem_cons_of_mem c hx)

theorem attached_mask (s : State) (g : Nat) {k : Nat} (hk : k < 4) :
    (s.attached g k).foldl (fun n cid => n + 2 ^ coreNo cid) 0 = coreMask (onCore s g k) 8 := by
  rw [attached_eq_map, List.foldl_map, coreMask]
  exact foldl_coreNo_mkCid g hk _ 0 fun c hc => List.mem_range.1 (List.mem_filter.1 hc).1

/-- The number of the leader's core, 15 with nobody attached (R143). -/
def leaderCore (s : State) (g k : Nat) : Nat := ((s.leader g k).map coreNo).getD 15

theorem leader_eq (s : State) (g k : Nat) : s.leader g k = ((List.range 8).find? (onCore s g k)).map fun c => mkCid g c k := by
  rw [State.leader, attached_eq_map, List.head?_map, List.head?_filter]

theorem leaderCore_lt (s : State) (g k : Nat) : leaderCore s g k < 16 := by
  unfold leaderCore
  cases s.leader g k with
  | none => decide
  | some cid => show coreNo cid < 16; unfold coreNo; omega

theorem leaderCore_of_first {s : State} {g k c : Nat} (hk : k < 4) (hc : c < 8) (hon : onCore s g k c = true)
    (hlow : ∀ b, b < c → ¬ onCore s g k b = true) : leaderCore s g k = c := by
  have hfirst : (List.range 8).find? (onCore s g k) = some c :=
    List.find?_range_eq_some.2 ⟨hon, List.mem_range.2 hc, fun b hb => by simpa using hlow b hb⟩
  rw [leaderCore, leader_eq, hfirst]
  exact coreNo_mkCid hc hk

theorem leaderCore_of_nobody {s : State} {g k : Nat} (h : ∀ c, c < 8 → ¬ onCore s g k c = true) : leaderCore s g k = 15 := by
  have hnone : (List.range 8).find? (onCore s g k) = none := List.find?_range_eq_none.2 fun c hc => by simpa using h c hc
  rw [leaderCore, leader_eq, hnone]
  rfl

/-- The fields of what GANG reads (R143). -/
theorem gangValue_eq (s : State) (g : Nat) {k : Nat} (hk : k < 4) : s.gangValue g k =
    coreMask (onCore s g k) 8 + (s.stream g k).strag.toNat * 2 ^ 8 + leaderCore s g k * 2 ^ 16 + k * 2 ^ 22 := by
  rw [← attached_mask s g hk]; rfl

/-- The word of a PRIVATE context's GANG, taken apart: mask m, stragglers t, leader l, STATE 1, stream k. -/
theorem gangWord_fields {m t l k : Nat} (hm : m < 2 ^ 8) (ht : t < 2 ^ 8) (hl : l < 16) (hk : k < 4) :
    let n := m + t * 2 ^ 8 + l * 2 ^ 16 + k * 2 ^ 22 + 2 ^ 20
    n < 2 ^ 24 ∧ (∀ c, c < 8 → n.testBit c = m.testBit c) ∧ n / 2 ^ 8 % 2 ^ 8 = t ∧ n / 2 ^ 16 % 2 ^ 4 = l ∧ n / 2 ^ 20 % 2 ^ 2 = 1
      ∧ n / 2 ^ 22 = k := by
  refine ⟨by omega, fun c hc => ?_, by omega, by omega, by omega, by omega⟩
  rw [show m + t * 2 ^ 8 + l * 2 ^ 16 + k * 2 ^ 22 + 2 ^ 20 = 2 ^ 8 * (t + l * 2 ^ 8 + k * 2 ^ 14 + 2 ^ 12) + m by omega,
    Nat.testBit_two_pow_mul_add _ hm, if_pos hc]

theorem gangReadsTheStream : GangReadsTheStream := by
  intro s d hcore
  have hk := isKernel_eq_false hcore
  refine ⟨fun hs => ?_, fun hs p x ha hm hu => ?_⟩
  · have hslot := slotNo_lt s.cur
    have hpriv : ¬ s.isAttached s.cur = true := fun h => by
      rw [show s.me.sched.spine = .attached from beq_iff_eq.1 h] at hs; cases hs
    have hon (c : Nat) : onCore s (gathOf s.cur) (slotNo s.cur) c = true ↔ isOn s c := isOn_iff s c
    obtain ⟨hlt, hbit, hstrag, hlead, hstate, hno⟩ := gangWord_fields (coreMask_lt (onCore s (gathOf s.cur) (slotNo s.cur)) 8)
      (myStream s).strag.isLt (leaderCore_lt s (gathOf s.cur) (slotNo s.cur)) hslot
    refine ⟨_, sets_of_done ((if_neg hk).trans (if_neg hpriv)) (congrArg (fun n => word (n + 2 ^ 20)) (gangValue_eq s _ hslot)),
      hlt, fun c hc => ?_, hstrag, fun c hc hc' hfirst => hlead.trans ?_, fun hnone => hlead.trans ?_, hstate, hno⟩
    · exact (Bool.eq_iff_iff.1 ((hbit c hc).trans (coreMask_testBit _ hc))).trans (hon c)
    · exact leaderCore_of_first hslot hc ((hon c).2 hc') fun b hb => mt (hon b).1 (hfirst b hb)
    · exact leaderCore_of_nobody fun c hc => mt (hon c).1 (hnone c hc)
  · have hatt : s.isAttached s.cur = true := beq_iff_eq.2 hs
    refine sets_of_done ((if_neg hk).trans (if_pos hatt)) ?_
    rw [posStatus_of_mem ha hm hu]
    rfl

/-- Settles O13: the streams by State.joinStream and who is attached, the rejoin queue by its entries, GANG by its fields. -/
theorem streamsAndDonation : Obligations.StreamsAndDonation := ⟨attachJoinDetach, donateAndTake, gangReadsTheStream⟩

end Sys2Proof.Machine
end

section
/-! SUPPORT. Vector words by the elements they leave (R14, R15) and the flags they raise (R212), and their formats (R69). -/

namespace Sys2Proof.Machine

open Sys2Proof.Claims

/-! ### What a vector word leaves, element by element (R14, R15) -/

@[simp] theorem elem_mod (v : VReg) (w k : Nat) : elem v w k % 2 ^ w = elem v w k := Nat.mod_eq_of_lt (elem_lt v w k)

theorem elems_of_vdone {i : Instr} {s : State} {d : Reg} {r : VReg} {w : Nat} {f : Nat → Nat} (h : exec i s = s.vdone d r)
    (e : ∀ k, k < 512 / w → elem r w k = f k) : Elems i s d w f := ⟨r, setsV_of_vdone h, e⟩

theorem elemsF_of_vdone {i : Instr} {s : State} {d : Reg} {r : VReg} {w : Nat} {f : Nat → Nat} {fl fl' : BitVec 5}
    (h : exec i s = (s.addFlags fl).vdone d r) (ef : fl = fl') (e : ∀ k, k < 512 / w → elem r w k = f k) : ElemsF i s d w f fl' :=
  ef ▸ ⟨r, setsF_of_vdone h, e⟩

/-- A word that merges elements of its width into vd. -/
theorem elems_of_merge {i : Instr} {s : State} {d : Reg} {p : BitVec 3} {e : BitVec 2} {z : BitVec 1} {f : Nat → Nat}
    (h : exec i s = s.vdone d (merge (ewidth e) (s.p! p) (z == 1) (s.v! d) f)) (hlt : ∀ k, f k < 2 ^ ewidth e) :
    Elems i s d (ewidth e) (merged s d p (ewidth e) z f) :=
  elems_of_vdone h fun k hk => by rw [elem_merge _ _ z _ f k (ewidth_cases e) hk, Nat.mod_eq_of_lt (hlt k)]; rfl

theorem elems_of_ofElems {i : Instr} {s : State} {d : Reg} {e : BitVec 2} {g f : Nat → Nat}
    (h : exec i s = s.vdone d (ofElems (ewidth e) g)) (he : ∀ k, g k % 2 ^ ewidth e = f k) : Elems i s d (ewidth e) f :=
  elems_of_vdone h fun k hk => (elem_ofElems _ g k (width_ok (ewidth_cases e)) hk).trans (he k)

/-! ### R212: the flags of the active elements -/

theorem foldNat_eq_foldl {σ : Type} (f : σ → Nat → σ) (x : σ) (n : Nat) : foldNat f x 0 n = (List.range n).foldl f x := by
  induction n with
  | zero => rfl
  | succ n ih => rw [foldNat_succ, ih, Nat.zero_add, List.range_succ, List.foldl_append]; rfl

theorem activeFlags_eq_flagsOf (s : State) (p : BitVec 3) (w : Nat) (f : Nat → BitVec 5) : activeFlags (s.p! p) w f = flagsOf s p w f := by
  rw [activeFlags, foldNat_eq_foldl, flagsOf, List.foldl_filter]
  rfl

/-- A word that rounds each active element, with the flags of those. -/
theorem elemsF_of_vfp {i : Instr} {s : State} {d : Reg} {w : Nat} {p : BitVec 3} {z : BitVec 1} {r : Nat → Rounded}
    (h : exec i s = s.vfp d w (s.p! p) (z == 1) (s.v! d) r) (hw : w = 8 ∨ w = 16 ∨ w = 32 ∨ w = 64 := by decide) :
    ElemsF i s d w (merged s d p w z fun k => (r k).1 % 2 ^ w) (flagsOf s p w fun k => (r k).2) :=
  elemsF_of_vdone h (activeFlags_eq_flagsOf s p w _) fun k hk => elem_merge w _ z _ _ k hw hk

/-! ### The formats of a vector word (R69) -/

theorem vfmt_eq (e f : BitVec 1) : vfmt e f = vecFmt e f := by
  obtain rfl | rfl := BitVec.eq_zero_or_eq_one f <;> rfl

theorem vecFmt_width (e f : BitVec 1) : (vecFmt e f).w = 16 ∨ (vecFmt e f).w = 32 := by
  unfold vecFmt
  split
  · exact .inr rfl
  · split <;> exact .inl rfl

theorem width_of_16_or_32 {w : Nat} (h : w = 16 ∨ w = 32) : w = 8 ∨ w = 16 ∨ w = 32 ∨ w = 64 := .inr (h.imp_right .inl)

end Sys2Proof.Machine
end

section
/-! SUPPORT. The reductions (R214): the model's lists of nodes and the statement's tree. -/

namespace Sys2Proof.Machine

open Sys2Proof.Claims

/-! ### The pairwise tree (R214) -/

/-- The levels of R214 reach the root of the whole register. -/
theorem ecount_eq_two_pow_levels {w : Nat} (h : w = 8 ∨ w = 16 ∨ w = 32 ∨ w = 64) : ecount w = 2 ^ levels w ∧ levels w ≤ 6 := by
  rcases h with rfl | rfl | rfl | rfl <;> decide

/-- A node of the tree is its two children merged: their combination, the one present, or absent. -/
theorem tree_succ {α : Type} (f : α → α → α) (n : Nat) (node : Nat → Option α) :
    tree f (n + 1) node = tree f n fun i => (node (2 * i)).merge f (node (2 * i + 1)) := by
  rw [tree]
  congr 1
  funext i
  cases node (2 * i) <;> cases node (2 * i + 1) <;> rfl

theorem pairUp_cons_cons {α : Type} (f : α → α → α) (x y : Option α) (l : List (Option α)) :
    pairUp f (x :: y :: l) = x.merge f y :: pairUp f l := by
  cases x <;> cases y <;> rfl

theorem pairUp_map_range {α : Type} (f : α → α → α) (m : Nat) (node : Nat → Option α) :
    pairUp f ((List.range (2 * m)).map node) = (List.range m).map fun i => (node (2 * i)).merge f (node (2 * i + 1)) := by
  induction m generalizing node with
  | zero => rfl
  | succ m ih =>
    rw [show 2 * (m + 1) = 2 * m + 1 + 1 by omega, List.range_succ_eq_map, List.range_succ_eq_map, List.range_succ_eq_map]
    simp only [List.map_cons, List.map_map, pairUp_cons_cons, ih]
    rfl

/-- Levels above the root leave it as it is. -/
theorem pairTree_singleton {α : Type} (f : α → α → α) (n : Nat) (x : Option α) : pairTree f n [x] = x := by
  induction n with
  | zero => rfl
  | succ n ih => exact ih

/-- The tree over the first 2^n nodes, in a list and by their numbers. -/
theorem pairTree_map_range {α : Type} (f : α → α → α) (extra n : Nat) (node : Nat → Option α) :
    pairTree f (n + extra) ((List.range (2 ^ n)).map node) = tree f n node := by
  induction n generalizing node with
  | zero => exact (congrArg (pairTree f · [node 0]) (Nat.zero_add extra)).trans (pairTree_singleton f extra (node 0))
  | succ n ih =>
    rw [Nat.succ_add, pairTree, Nat.pow_succ', pairUp_map_range, ih, tree_succ]

/-- The reduction tree of the model over the elements of width w. -/
theorem pairTree_elements {α : Type} (f : α → α → α) {w : Nat} (hw : w = 8 ∨ w = 16 ∨ w = 32 ∨ w = 64) (node : Nat → Option α) :
    pairTree f 6 ((List.range (ecount w)).map node) = tree f (levels w) node := by
  obtain ⟨hcount, hle⟩ := ecount_eq_two_pow_levels hw
  rw [hcount, ← pairTree_map_range f (6 - levels w), Nat.add_sub_cancel' hle]

theorem nodes_eq_map_leaf (s : State) (a : Reg) (p : BitVec 3) (w : Nat) :
    nodes (s.v! a) w (s.p! p) = (List.range (ecount w)).map (leaf s a p w) := rfl

theorem optionMerge_mem {α : Type} {P : α → Prop} {f : α → α → α} (hf : ∀ x y, P x → P y → P (f x y)) {l r : Option α}
    (hl : ∀ x ∈ l, P x) (hr : ∀ x ∈ r, P x) : ∀ x ∈ l.merge f r, P x := by
  cases l with
  | none => cases r <;> exact hr
  | some x =>
    cases r with
    | none => exact hl
    | some y => exact fun _ h => Option.some.inj h ▸ hf x y (hl x rfl) (hr y rfl)

/-- What holds of every element present and of every combination holds of the tree's value. -/
theorem tree_mem {α : Type} {P : α → Prop} {f : α → α → α} (hf : ∀ x y, P x → P y → P (f x y)) (n : Nat) (node : Nat → Option α)
    (h : ∀ k, ∀ x ∈ node k, P x) : ∀ x ∈ tree f n node, P x := by
  induction n generalizing node with
  | zero => exact h 0
  | succ n ih =>
    rw [tree_succ]
    exact ih _ fun k => optionMerge_mem hf (h (2 * k)) (h (2 * k + 1))

theorem leaf_lt (s : State) (a : Reg) (p : BitVec 3) (w k : Nat) : ∀ x ∈ leaf s a p w k, x < 2 ^ w := by
  intro x hx
  obtain ⟨-, rfl⟩ : _ ∧ elem (s.v! a) w k = x := by simpa [leaf] using hx
  exact elem_lt _ _ _

theorem tree_leaf_getD_lt {s : State} {a : Reg} {p : BitVec 3} {w : Nat} {f : Nat → Nat → Nat}
    (hf : ∀ x y, x < 2 ^ w → y < 2 ^ w → f x y < 2 ^ w) (n : Nat) : (tree f n (leaf s a p w)).getD 0 < 2 ^ w := by
  have h := tree_mem hf n _ (leaf_lt s a p w)
  cases htree : tree f n (leaf s a p w) with
  | none => exact Nat.two_pow_pos w
  | some x => exact h x htree

/-! ### The words -/

/-- An integer reduction, whose combination g is f and stays among the numbers of its width. -/
theorem reduces_of_vred {i : Instr} {s : State} {d a : Reg} {p : BitVec 3} {e : BitVec 2} {g : Nat → Nat → Nat → Nat} {f : Nat → Nat → Nat}
    (h : exec i s = s.vred d a p e g) (hg : g (ewidth e) = f)
    (hf : ∀ x y, x < 2 ^ ewidth e → y < 2 ^ ewidth e → f x y < 2 ^ ewidth e) : Reduces i s d a p (ewidth e) f := by
  have hw := ewidth_cases e
  refine elems_of_vdone h fun k _ => ?_
  rw [elem_reduceTo _ _ _ hw, hg, nodes_eq_map_leaf, pairTree_elements f hw, Nat.mod_eq_of_lt (tree_leaf_getD_lt hf _)]

/-- The value and the flags of an FP reduction, zero and none with every element absent (R214). -/
def fpReduced (s : State) (a : Reg) (p : BitVec 3) (fm : Fmt) (op : Nat → Nat → Rounded) : Rounded :=
  (tree (fun x y => withFlags (op x.1 y.1) (x.2 ||| y.2)) (levels fm.w) fun k => (leaf s a p fm.w k).map fun c => (c, fNone)).getD (0, fNone)

theorem pairTree_fp_nodes (s : State) (a : Reg) (p : BitVec 3) {fm : Fmt} (hw : fm.w = 8 ∨ fm.w = 16 ∨ fm.w = 32 ∨ fm.w = 64)
    (op : Nat → Nat → Rounded) :
    (pairTree (fun (x y : Rounded) => withFlags (op x.1 y.1) (x.2 ||| y.2)) 6
      ((nodes (s.v! a) fm.w (s.p! p)).map fun o => o.map fun c => ((c, fNone) : Rounded))).getD (0, fNone) = fpReduced s a p fm op := by
  rw [nodes_eq_map_leaf, List.map_map, pairTree_elements _ hw]
  rfl

theorem elemsF_of_vfred {i : Instr} {s : State} {d a : Reg} {p : BitVec 3} {g f : BitVec 1} {op : Fmt → Mode → Nat → Nat → Rounded}
    (h : exec i s = s.vfred d a p g f op) : ElemsF i s d (vecFmt g f).w
      (fun k => if k = 0 then (fpReduced s a p (vecFmt g f) (op (vecFmt g f) s.me.ctl.frm)).1 % 2 ^ (vecFmt g f).w else 0)
      (fpReduced s a p (vecFmt g f) (op (vecFmt g f) s.me.ctl.frm)).2 := by
  have hw := width_of_16_or_32 (vecFmt_width g f)
  simp only [State.vfred, vfmt_eq, pairTree_fp_nodes s a p hw] at h
  exact elemsF_of_vdone h rfl fun k _ => elem_reduceTo _ _ _ hw

theorem minU_eq_min : minU = fun x y => min x y := funext fun _ => funext fun _ => Nat.min_def.symm

theorem maxU_eq_max : maxU = fun x y => max x y := funext fun _ => funext fun _ => Nat.max_def.symm

theorem minS_lt (w : Nat) {x y n : Nat} (hx : x < n) (hy : y < n) : minS w x y < n := by
  unfold minS; split <;> assumption

theorem maxS_lt (w : Nat) {x y n : Nat} (hx : x < n) (hy : y < n) : maxS w x y < n := by
  unfold maxS; split <;> assumption

/-- Settles O5: the model's list of nodes folds to the tree of the statement, whose combinations stay in their width. -/
theorem reductionsAreThePairwiseTree : Obligations.ReductionsAreThePairwiseTree := fun _ _ _ _ _ _ _ =>
  ⟨reduces_of_vred (g := fun w x y => (x + y) % 2 ^ w) rfl rfl fun _ _ _ _ => Nat.mod_lt _ (Nat.two_pow_pos _),
    reduces_of_vred (g := minS) rfl rfl fun _ _ => minS_lt _,
    reduces_of_vred (g := maxS) rfl rfl fun _ _ => maxS_lt _,
    reduces_of_vred (g := fun _ => minU) rfl minU_eq_min fun _ _ hx _ => Nat.lt_of_le_of_lt (Nat.min_le_left _ _) hx,
    reduces_of_vred (g := fun _ => maxU) rfl maxU_eq_max fun _ _ hx hy => Nat.max_lt.2 ⟨hx, hy⟩,
    elemsF_of_vfred (op := fpAdd) rfl, elemsF_of_vfred (op := fun fm _ => fpMinMax fm true) rfl,
    elemsF_of_vfred (op := fun fm _ => fpMinMax fm false) rfl⟩

end Sys2Proof.Machine
end

section
/-! SUPPORT. Predicates (R217), permutes (R218) and conversions (R219, R71). -/

namespace Sys2Proof.Machine

open Sys2Proof.Claims

/-! ### R217: predicates -/

theorem setsP_of_pdone_eq {i : Instr} {s : State} {d : BitVec 3} {x y : PReg} (h : exec i s = s.pdone d x) (e : x = y) : SetsP i s d y :=
  e ▸ setsP_of_pdone h

theorem not_eq_xor_ones (x : PReg) : ~~~x = x ^^^ 0xFFFF := BitVec.xor_allOnes.symm

/-- The lowest set bit of a predicate is the one it shares with its negative. -/
theorem and_neg_bit (x : PReg) {i : Nat} (h : i < 16) :
    (x &&& (0 - x)).getLsbD i = true ↔ x.getLsbD i = true ∧ ∀ j, j < i → x.getLsbD j = false := by
  rw [show 0 - x = -x from BitVec.zero_sub x, BitVec.getLsbD_and, BitVec.getLsbD_neg]
  cases x.getLsbD i <;> simp [h]

theorem predicateResults : PredicateResults := fun s _ a b r =>
  ⟨setsP_of_pdone rfl, setsP_of_pdone rfl, setsP_of_pdone rfl,
    setsP_of_pdone_eq rfl (congrArg (s.p! a &&& ·) (not_eq_xor_ones (s.p! b))), setsP_of_pdone_eq rfl (not_eq_xor_ones (s.p! a)),
    ⟨_, setsP_of_pdone rfl, fun _ h => and_neg_bit (s.p! a) h⟩,
    sets_of_done rfl (congrArg word (popc_eq (s.p! a) 16)),
    setsP_of_pdone_eq rfl (BitVec.ofNat_toNat 16 (s.s! r)).symm, sets_of_done rfl (zx_eq_word (s.p! a))⟩

/-! ### R218: permutes -/

theorem ite_elem_lt (c : Prop) [Decidable c] (x y : VReg) (w j k : Nat) : (if c then elem x w j else elem y w k) < 2 ^ w := by
  split <;> exact elem_lt _ _ _

theorem ite_elem_zero_lt (c : Prop) [Decidable c] (x : VReg) (w k : Nat) : (if c then elem x w k else 0) < 2 ^ w := by
  split
  · exact elem_lt _ _ _
  · exact Nat.two_pow_pos w

theorem vcompr_elems (s : State) (d a : Reg) (p : BitVec 3) (e : BitVec 2) : Elems (.vcompr d a p e) s d (ewidth e) fun k =>
    ((((List.range (ecount (ewidth e))).filter (active (s.p! p) (ewidth e))).map (elem (s.v! a) (ewidth e)))[k]?).getD 0 := by
  refine elems_of_ofElems rfl fun k => ?_
  rw [List.getElem?_map]
  cases ((List.range (ecount (ewidth e))).filter (active (s.p! p) (ewidth e)))[k]? with
  | none => exact Nat.zero_mod _
  | some j => exact elem_mod _ _ j

theorem vexpnd_elems (s : State) (d a : Reg) (p : BitVec 3) (e : BitVec 2) (z : BitVec 1) : Elems (.vexpnd d a p e z) s d (ewidth e)
    (merged s d p (ewidth e) z fun k => elem (s.v! a) (ewidth e) ((List.range k).countP (active (s.p! p) (ewidth e)))) := by
  simp only [List.countP_eq_length_filter]
  exact elems_of_merge rfl fun _ => elem_lt _ _ _

theorem vins_elems (s : State) (d a b : Reg) (e : BitVec 2) : Elems (.vins d a b e) s d (ewidth e) fun k =>
    if k = (s.s! b).toNat then (s.s! a).toNat % 2 ^ ewidth e else elem (s.v! d) (ewidth e) k := by
  refine elems_of_ofElems rfl fun k => ?_
  rw [apply_ite (· % 2 ^ ewidth e), elem_mod]

theorem permuteResults : PermuteResults := fun s d a b p e z _ =>
  ⟨elems_of_merge rfl fun _ => elem_lt _ _ _,
    elems_of_merge rfl fun _ => ite_elem_zero_lt _ _ _ _, elems_of_merge rfl fun _ => ite_elem_zero_lt _ _ _ _,
    elems_of_merge rfl fun _ => ite_elem_lt _ _ _ _ _ _, elems_of_merge rfl fun _ => ite_elem_lt _ _ _ _ _ _,
    elems_of_merge rfl fun _ => ite_elem_lt _ _ _ _ _ _, elems_of_merge rfl fun _ => ite_elem_lt _ _ _ _ _ _,
    vcompr_elems s d a p e, vexpnd_elems s d a p e z, vins_elems s d a b e, sets_of_done rfl rfl⟩

/-! ### R219, R71: conversions -/

theorem natCast_two_pow (n : Nat) : ((2 ^ n : Nat) : Int) = 2 ^ n := Int.natCast_pow 2 n

theorem vcvtfi_elems (s : State) (d a : Reg) (p : BitVec 3) (g z : BitVec 1) :
    let f := vecFmt g 0
    let toI := fun k => toIntRange s.me.ctl.frm (-2 ^ (f.w - 1)) (2 ^ (f.w - 1) - 1) (f.val (elem (s.v! a) f.w k))
    ElemsF (.vcvtfi d a p g z) s d f.w (merged s d p f.w z fun k => ofInt f.w (toI k).1) (flagsOf s p f.w fun k => (toI k).2) := by
  intro f toI
  have hexec : exec (.vcvtfi d a p g z) s = s.vfp d f.w (s.p! p) (z == 1) (s.v! d) fun k => (ofInt f.w (toI k).1, (toI k).2) := by
    show execVcvtfi d a p g z s = _
    simp only [execVcvtfi, vfmt_eq, natCast_two_pow] <;> rfl
  simpa only [ofInt_mod] using elemsF_of_vfp hexec (width_of_16_or_32 (vecFmt_width g 0))

theorem vcvtif_elems (s : State) (d a : Reg) (p : BitVec 3) (g z : BitVec 1) :
    let f := vecFmt g 0
    let toF := fun k => roundFP f s.me.ctl.frm (intVal (sintN (elem (s.v! a) f.w k) f.w))
    ElemsF (.vcvtif d a p g z) s d f.w (merged s d p f.w z fun k => (toF k).1 % 2 ^ f.w) (flagsOf s p f.w fun k => (toF k).2) :=
  elemsF_of_vfp (by rw [← vfmt_eq]; rfl) (width_of_16_or_32 (vecFmt_width g 0))

/-- An element number lies in part q of 16 elements where its quotient by 16 is q. -/
theorem div_16_eq_iff (k q : Nat) : k / 16 = q ↔ 16 * q ≤ k ∧ k < 16 * q + 16 := by omega

theorem active_32 (p : PReg) (k : Nat) : active p 32 k = p.getLsbD k := by
  rw [active_eq, if_neg (by decide), Nat.mul_div_cancel_left k (by decide)]

theorem elemsF_of_vnarrow {i : Instr} {s : State} {d a : Reg} {dst : Fmt} {q : Nat} {p : BitVec 3} {z : BitVec 1}
    (h : exec i s = s.vnarrow d a dst q p z) (hw : dst.w = 8 ∨ dst.w = 16 ∨ dst.w = 32 ∨ dst.w = 64 := by decide) :
    let r := fun k => fpConvert fp32 dst s.me.ctl.frm (elem (s.v! a) 32 k)
    ElemsF i s d dst.w (fun k =>
      if 16 * q ≤ k ∧ k < 16 * q + 16 then
        (if (s.p! p).getLsbD (k - 16 * q) then (r (k - 16 * q)).1 % 2 ^ dst.w else if z = 1 then 0 else elem (s.v! d) dst.w k)
      else elem (s.v! d) dst.w k) (flagsOf s p 32 fun k => (r k).2) := by
  intro r
  refine elemsF_of_vdone h (activeFlags_eq_flagsOf s p 32 _) fun k hk => ?_
  rw [elem_ofElems _ _ _ (width_ok hw) hk]
  simp only [active_32, div_16_eq_iff, apply_ite (· % 2 ^ dst.w), elem_mod, Nat.zero_mod]
  refine ite_congr rfl (fun hpart => ?_) fun _ => rfl
  rw [show k % 16 = k - 16 * q by omega]

theorem vectorConversionResults : VectorConversionResults := fun s d a p g z _ _ =>
  ⟨vcvtfi_elems s d a p g z, vcvtif_elems s d a p g z,
    elemsF_of_vfp rfl, elemsF_of_vfp rfl, elemsF_of_vfp rfl, elemsF_of_vfp rfl,
    elemsF_of_vnarrow rfl, elemsF_of_vnarrow rfl, elemsF_of_vnarrow rfl, elemsF_of_vnarrow rfl⟩

/-- Settles O7: each permute and conversion builds vd from elements of its width; the flags are those of the active ones. -/
theorem predicatesPermutesConversions : Obligations.PredicatesPermutesConversions :=
  ⟨predicateResults, permuteResults, vectorConversionResults⟩

end Sys2Proof.Machine
end
